-- ==== Sys2Proof/Word.lean ====
section
/-! DEFINITION. The word types of the model: bytes and the two register widths of R9, and byte strings. -/

namespace Sys2Proof

/-- One byte. -/
abbrev Byte := BitVec 8

/-- A 32-bit register or command dword. -/
abbrev W32 := BitVec 32

/-- A 64-bit register, general register or context slot. -/
abbrev W64 := BitVec 64

/-- A byte string, lowest offset first. -/
abbrev Bytes := List Byte

end Sys2Proof
end

