-- ==== Sys2Proof/Machine/Inputs.lean ====
section
/-! DEFINITION. What the outside world hands the part together with a command: submission queue entries, frames,
media outcomes, samples. Plain data; the commands of Syntax.lean carry these as operands. -/

namespace Sys2Proof.Machine

/-- A submission queue entry (CDW0 to CDW15) with the fields this part honours (R175, R181, R190, R194). -/
structure Sqe where
  opc   : Byte
  fuse  : Byte := 0
  cid   : BitVec 16
  nsid  : W32 := 0
  cdw2  : W32 := 0
  cdw3  : W32 := 0
  mptr  : W64 := 0
  prp1  : W64 := 0
  prp2  : W64 := 0
  cdw10 : W32 := 0
  cdw11 : W32 := 0
  cdw12 : W32 := 0
  cdw13 : W32 := 0
  cdw14 : W32 := 0
  cdw15 : W32 := 0
  deriving DecidableEq, Repr

/-- The data the host memory holds for a fetched I/O command: the blocks of a Write or the ranges of a
Dataset Management, as the PRPs name them. -/
structure Fetched where
  sqe  : Sqe
  data : Bytes := []
  deriving DecidableEq, Repr

/-- A frame on a sub-port, as its reception ends: the octets received, destination MAC to FCS (fewer when the link cut it short), whether
it began with an SMD-C, whether the loss of the link cut it, and the RS codewords corrected and uncorrectable meanwhile (R142, R161). -/
structure Frame where
  bytes     : Bytes
  smdC      : Bool := false
  cutByLink : Bool := false
  fecCorr   : Nat := 0
  fecUncorr : Nat := 0
  deriving DecidableEq, Repr

/-- The MSI-X register write that opens the way of a vector (R171). -/
inductive MsixOpen where
  | vectorMask (vec : Nat)
  | functionMask (fn : Nat)
  | enable (fn : Nat)
  deriving DecidableEq, Repr

/-- Direction of a buffer grant (R26). -/
inductive Dir where
  | read | write | both
  deriving DecidableEq, Repr

/-- What one attempt of R314 gave for one codeword: the attempt's decode and its corrected bits, the next attempt
being made while it fails; `level` is the retry level of step 2. -/
inductive DecodeStep where
  | hard0 (bits : Nat)
  | retry (level bits : Nat) (tries : Nat)
  | soft3 (bits tries : Nat)
  | soft5 (bits tries : Nat)
  | fail  (tries : Nat)
  deriving DecidableEq, Repr

/-- How the stack reports a 64 B read (R350). -/
inductive Severity where
  | clean | single | multi | uncorrectable
  deriving DecidableEq, Repr

/-- A domain agent's answer (R486). -/
inductive Answer where
  | accept | delay | refuse
  deriving DecidableEq, Repr

/-- What a core debug access reaches (Debug): a register of the core, an SRAM bank, a stack, the key-page store, a cipher lane. -/
inductive DbgTarget where
  | coreReg (n : Nat)
  | bank (b : Nat)
  | stack (k : Nat)
  | keyStore
  | cipherLane (q : Nat)
  deriving DecidableEq, Repr

/-- A core debug access: what it reaches, from which byte on, how many bytes, and the bytes of a write. -/
structure DbgAcc where
  target : DbgTarget
  addr   : Nat := 0
  len    : Nat := 0
  write  : Option Bytes := none
  deriving DecidableEq, Repr

/-- The sources that can wake the part (R492). -/
inductive WakeSrc where
  | doorbell | heldWork | perst | ethMgmt | ethFilter | trig | rtc
  deriving DecidableEq, Repr

/-- What a discovered volume returned: ID bytes 0-7, whether a parameter page copy had a valid CRC and its CRC,
and whether training and the pattern check passed at the channel's rate (R306, R308). -/
structure DieFound where
  die     : Nat
  id      : W64
  ppOk    : Bool := true
  ppCrc   : BitVec 16 := 0
  trained : Bool := true
  deriving DecidableEq, Repr

/-- A die profile (R312), a qualified die table entry or a customer profile. -/
structure Profile where
  idBytes : W64
  idMask  : W64
  ppCrc   : BitVec 16 := 0
  cmpCrc  : Bool := false
  suspend : Bool := false
  toggle  : Bool := false
  volume  : Bool := false
  lpddr4  : Bool := false
  planes  : Nat := 1
  blocks  : Nat := 0
  pages   : Nat := 0
  pagesSlc : Nat := 0
  rate    : Nat := 0
  levels  : Nat := 0
  cycles  : Nat := 0
  cyclesSlc : Nat := 0
  timing  : List Nat := []
  tMp     : Nat := 0
  times   : List Nat := []
  entries : List Nat := []
  deriving DecidableEq, Repr

/-- What one start of the part meets that its own state does not hold: dies found per channel, banks that fail the
march test, stacks whose training fails, whether the images of a slot verify (R363, R348, R505), and the qualified die table in the body of the
firmware image of each slot (R307). -/
structure StartFacts where
  dies       : List (Nat × DieFound) := []
  badBanks   : List Nat := []
  badStacks  : List (Nat × Nat) := []
  /-- Stacks with a channel whose timing could not be adjusted at a Brumation exit and was retrained (R355). -/
  retrained  : List Nat := []
  slot0Ok    : Bool := true
  slot1Ok    : Bool := true
  bundle0Ok  : Bool := true
  bundle1Ok  : Bool := true
  /-- A record between the checkpoint and the last power-on record failed its CRC, or the checkpoint is unreadable. -/
  journalBad : Bool := false
  /-- The span table is unreadable (R289). -/
  spanBad    : Bool := false
  /-- HU_VIN exceeds HU_VBUS and no reverse current is sensed (R267). -/
  gateOk     : Bool := true
  challenge  : BitVec 128 := 0
  tables     : List (List Profile) := []
  deriving DecidableEq, Repr

/-- What a restart meets on flash that the part's own state does not hold: data units whose spare record and codeword cannot be read (R288), by
key, and suspect NAND blocks whose repeated erase fails (R256). -/
structure RestartFacts where
  bad       : List Nat := []
  eraseBad  : List Nat := []
  deriving DecidableEq, Repr

end Sys2Proof.Machine
end

