-- ==== Sys2Proof/Syntax.lean ====
section
/-! DEFINITION. The commands of the block: one constructor per row of spec/opcode_table.json, in the table's order,
with the operands the rule of the row names (a register offset and a value, a lane and a tag, a thread, a frame).
A host NVMe admin command carries the issuing function, its submission queue entry and the data it transfers; an I/O
command names the lane and the tag that hold it; a Urette row names the thread that issues, 8 × engine + thread;
a control store row names the channel whose sequencer executes the word. -/

namespace Sys2Proof
open Machine

inductive Instr where
  /-- REGISTER_WRITE (R9): A naturally aligned host write of full width to a register that has no row of its own takes effect in its home domain. -/
  | registerWrite (fn off width : Nat) (val race : W64)
  /-- NARROW_WRITE_DISCARD (R10): A BAR0 write narrower than its register is discarded, completes normally and sets event source 896. -/
  | narrowWriteDiscard (fn off width : Nat) (val : W64)
  /-- BUFFER_GRANT_ISSUE (R26): A bank owner issues a buffer grant to another master for an address range and direction. -/
  | bufferGrantIssue (bank master lo hi : Nat) (dir : Dir)
  /-- BUFFER_GRANT_RETIRE (R26): A bank owner retires a buffer grant. -/
  | bufferGrantRetire (bank idx : Nat)
  /-- DATAGRAM_ARRIVAL (R78): An admitted datagram's header reaches the stream engine cluster and is dispatched at once or waits for a free thread. -/
  | datagramArrival (port : Nat)
  /-- DATAGRAM_DISPATCH (R37): A freed thread takes the earliest waiting datagram and starts the stream's program at word 0. -/
  | datagramDispatch
  /-- DISPATCH_WAIT_EXPIRY (R78): A datagram that finds no free thread within DISPATCH_WAIT is dropped with hardware drop 94h and its cells are freed. -/
  | dispatchWaitExpiry (idx : Nat)
  /-- NOP (R47): The thread issues NOP, which does nothing for one slot. -/
  | uNop (t : Nat) (bad : Bool)
  /-- ADD (R47): The thread adds two registers modulo 2^64. -/
  | uAdd (t : Nat)
  /-- SUB (R47): The thread subtracts two registers modulo 2^64. -/
  | uSub (t : Nat)
  /-- AND (R47): The thread forms the bitwise AND of two registers. -/
  | uAnd (t : Nat)
  /-- OR (R47): The thread forms the bitwise OR of two registers. -/
  | uOr (t : Nat)
  /-- XOR (R47): The thread forms the bitwise XOR of two registers. -/
  | uXor (t : Nat)
  /-- SHL (R47): The thread shifts a register left by another register modulo 64. -/
  | uShl (t : Nat)
  /-- SHR (R47): The thread shifts a register right with zero fill. -/
  | uShr (t : Nat)
  /-- SAR (R47): The thread shifts a register right with sign fill. -/
  | uSar (t : Nat)
  /-- MUL (R47): The thread multiplies two registers and keeps the low 64 bits. -/
  | uMul (t : Nat)
  /-- MULHU (R47): The thread multiplies two registers unsigned and keeps the high 64 bits. -/
  | uMulhu (t : Nat)
  /-- MINU (R47): The thread takes the unsigned smaller of two registers. -/
  | uMinu (t : Nat)
  /-- MAXU (R47): The thread takes the unsigned larger of two registers. -/
  | uMaxu (t : Nat)
  /-- ADDI (R47): The thread adds a sign-extended immediate to a register. -/
  | uAddi (t : Nat)
  /-- ANDI (R47): The thread ANDs a register with a zero-extended immediate. -/
  | uAndi (t : Nat)
  /-- ORI (R47): The thread ORs a register with a zero-extended immediate. -/
  | uOri (t : Nat)
  /-- XORI (R47): The thread XORs a register with a zero-extended immediate. -/
  | uXori (t : Nat)
  /-- SHLI (R47): The thread shifts a register left by an immediate. -/
  | uShli (t : Nat)
  /-- SHRI (R47): The thread shifts a register right logically by an immediate. -/
  | uShri (t : Nat)
  /-- SARI (R47): The thread shifts a register right arithmetically by an immediate. -/
  | uSari (t : Nat)
  /-- MULI (R47): The thread multiplies a register by a sign-extended immediate. -/
  | uMuli (t : Nat)
  /-- LI (R47): The thread loads a sign-extended immediate into a register. -/
  | uLi (t : Nat)
  /-- LIH (R47): The thread loads an immediate into the high 32 bits keeping the low 32 bits of a register. -/
  | uLih (t : Nat)
  /-- CMP (R46): The thread sets a register to 1 if a condition holds between two registers. -/
  | uCmp (t : Nat)
  /-- CMPI (R46): The thread sets a register to 1 if a condition holds between a register and an immediate. -/
  | uCmpi (t : Nat)
  /-- SEL (R47): The thread selects one of two registers by a selector register. -/
  | uSel (t : Nat)
  /-- BFX (R47): The thread extracts a bit field from a register. -/
  | uBfx (t : Nat)
  /-- XB (R47): The thread extracts 1 to 8 bytes of the header window, faulting 85h on overrun. -/
  | uXb (t : Nat)
  /-- XBIT (R47): The thread extracts a field of 1 to 32 bits of the header window. -/
  | uXbit (t : Nat)
  /-- HCRC (R47): The thread computes CRC-32C over a range of the header window. -/
  | uHcrc (t : Nat)
  /-- CLD (R42): The thread loads a context slot into a register. -/
  | uCld (t : Nat)
  /-- CST (R43): The thread stores a register into a context slot, effective at issue. -/
  | uCst (t : Nat)
  /-- CADD (R42): The thread adds to a context slot indivisibly and returns the old value. -/
  | uCadd (t : Nat)
  /-- CMAX (R42): The thread replaces a context slot by the later of it and a register, unsigned or in serial order. -/
  | uCmax (t : Nat)
  /-- CCAS (R42): The thread compares a context slot and swaps it on equality. -/
  | uCcas (t : Nat)
  /-- SEQ (R73): The thread submits a datagram sequence to the stream's tracker, which classifies and marks it. -/
  | uSeq (t : Nat)
  /-- BR (R49): The thread branches forward unconditionally. -/
  | uBr (t : Nat)
  /-- BC (R49): The thread branches forward if a condition holds between two registers. -/
  | uBc (t : Nat)
  /-- BCI (R49): The thread branches forward if a condition holds between a register and an immediate. -/
  | uBci (t : Nat)
  /-- REPEAT (R50): The thread runs the following body n times, faulting 87h if n exceeds 16. -/
  | uRepeat (t : Nat)
  /-- TRIGGER (R122): The thread checks span ownership, records the span handle and queues a commit or discard entry. -/
  | uTrigger (t : Nat)
  /-- COUNT (R44): The thread queues a user-counter increment entry. -/
  | uCount (t : Nat)
  /-- STAMP (R44): The thread queues an arrival-time stamp entry. -/
  | uStamp (t : Nat)
  /-- EVENT (R44): The thread queues an entry that sets event source 640 + imm. -/
  | uEvent (t : Nat)
  /-- PLACE (R77): The thread places payload bytes, reserving staging cells in the placement hold, and is accepted. -/
  | uPlace (t : Nat)
  /-- DROP (R47): The thread drops its datagram with a program reason, freeing its cells. -/
  | uDrop (t : Nat)
  /-- DIVERT (R100): The thread reserves a divert queue entry for the whole datagram, or ends in 93h when the queue is full. -/
  | uDivert (t : Nat)
  /-- BUDGET_EXHAUSTED (R51): An instruction that would carry the slot count past the budget limit ends the thread in fault 80h. -/
  | budgetExhausted (t : Nat)
  /-- SIDE_EFFECT_RELEASE (R44): After a thread's outcome is accepted its side-effect entries are released in program order and the thread frees. -/
  | sideEffectRelease (t : Nat)
  /-- STREAM_PROGRAM_LOAD (R56): STREAM PROGRAM LOAD checks a signed program image, places it first-fit and switches the stream to it. -/
  | streamProgramLoad (fn : Nat) (c : Sqe) (img : Bytes)
  /-- OLD_PROGRAM_RELEASE (R58): The old program's granules are freed when its last thread ends. -/
  | oldProgramRelease (gran : Nat)
  /-- ENG_FAULT_REARM (R60): Writing 1 to UEN.ENGn_FAULT.VALID re-arms the engine's fault latch. -/
  | engFaultRearm (eng : Nat)
  /-- STREAM_START (R64): Writing RUN = 1 on an Idle stream runs the start checks and makes it Running or records the refusal. -/
  | streamStart (s : Nat)
  /-- STREAM_STOP (R65): Writing RUN = 0 on a Running stream moves it to Stopping and fixes the top of its Filling span. -/
  | streamStop (s : Nat)
  /-- STREAM_STOPPED (R65): When threads, placements, seals and divert entries of a Stopping stream are done it becomes Idle and sets STOPPED. -/
  | streamStopped (s : Nat)
  /-- DETACH (R68): Writing DETACH on an Idle stream removes its program and frees its granules. -/
  | detach (s : Nat)
  /-- FORCE_SEAL (R84): Writing CAP.Sn_SEAL.FORCE seals every open extent of the stream. -/
  | forceSeal (s : Nat)
  /-- IDLE_SEAL_EXPIRY (R84): An open extent that received no placement for IDLE_SEAL µs is sealed. -/
  | idleSealExpiry (s ext : Nat)
  /-- SEQHIGH_WRITE (R74): A host write of CAP.Sn_SEQHIGH empties the tracker or sets high and clears marks outside the new record. -/
  | seqhighWrite (s : Nat) (v : W64)
  /-- EXTENT_OPEN (R80): An extent opens in HBM when pool or ring space is free and is filled with the fill pattern. -/
  | extentOpen (s ext : Nat)
  /-- PLACEMENT_APPLY (R83): The placement engine applies an accepted placement to its open extent, advancing the cursor or discarding bytes below it. -/
  | placementApply (s : Nat)
  /-- EXTENT_LAND (R244): A sealed extent's programs and gap entry complete and its map entry is updated, making it landed and visible. -/
  | extentLand (nsid ext : Nat) (poison : List Nat)
  /-- DIVERT_ENTRY_WRITE (R100): A reserved divert entry is written to host memory, header last, and TAIL advances. -/
  | divertEntryWrite (s q n : Nat)
  /-- DIV_HEAD_WRITE (R101): A write of a divert queue HEAD is clamped to TAIL and frees entry space. -/
  | divHeadWrite (s q : Nat) (v : W32)
  /-- DIV_EN_WRITE (R98): A write of DIV_EN bit q is stored only while the queue has a valid base and size. -/
  | divEnWrite (s q : Nat) (on : Bool)
  /-- DIV_QUEUE_CONFIG (R98): A write of DIVq_BASE or DIVq_CFG resets TAIL, HEAD and the reservation count and may clear DIV_EN. -/
  | divQueueConfig (s q : Nat) (isBase : Bool) (v : W64)
  /-- BUS_MASTER_DISABLE (R102): Bus Master Enable cleared on the physical function clears every DIV_EN bit and skips reserved entries. -/
  | busMasterDisable (value : Bool)
  /-- TRIG_EDGE (R121): A debounced TRIG[p] edge latches its time and commits current and back spans of enabled Running streams. -/
  | trigEdge (pin : Nat)
  /-- CAPTURE_COMMIT (R123): CAPTURE COMMIT decides a named span for commit and completes at the commit instant. -/
  | captureCommit (lane tag : Nat)
  /-- CAPTURE_DISCARD (R124): CAPTURE DISCARD decides a named span for discard and completes when the descriptor accepts. -/
  | captureDiscard (lane tag : Nat)
  /-- SPAN_COMMIT_INSTANT (R127): Once all extents are stored or programmed, the range is swapped into the map after the commit record and the span becomes Committed. -/
  | spanCommitInstant (k : Nat)
  /-- SPAN_DISCARDED (R129): After the discard record, the span's ring space or pool blocks are freed and it becomes Discarded. -/
  | spanDiscarded (k : Nat)
  /-- SPAN_TIMEOUT (R126): A span Pending for its TIMEOUT ms is discarded. -/
  | spanTimeout (k : Nat)
  /-- POOL_STORE (R111): A sealed extent of a flash-pool span is programmed into the SLC pool and counts in POOL_USED. -/
  | poolStore (s ext : Nat)
  /-- SPAN_FREE (R117): Writing FREE = 1 returns a Committed or Discarded span to Free. -/
  | spanFree (k : Nat)
  /-- POOL_CONFIG (R115): A write of CAP.SPAN_POOL sets or clears the flash pool, taking or returning its blocks. -/
  | poolConfig (v : W64)
  /-- PROVISIONAL_READ (R132): PROVISIONAL READ returns provisional content of sealed span extents and committed content otherwise. -/
  | provisionalRead (lane tag : Nat) (poison : List Nat)
  /-- LINK_UP (R143): A sub-port's PCS gains alignment with no local fault and its link comes up. -/
  | linkUp (port sub : Nat)
  /-- LINK_DOWN (R143): A sub-port's link goes down; a frame in progress counts in FCS_ERR. -/
  | linkDown (port sub : Nat) (cut : Option Frame)
  /-- ETH_FRAME_RECEIVE (R161): A received frame is checked in accounting order and counted once, and if admitted is staged for the cluster. -/
  | ethFrameReceive (port sub : Nat) (f : Frame)
  /-- STRANGER_REARM (R157): Writing 1 to ETHp.STRANGER.VALID re-arms the stranger latch. -/
  | strangerRearm (port : Nat)
  /-- ARP_REPLY (R160): Management firmware answers a handed-over ARP or ND request with one reply, protected if TX_PROTECT. -/
  | arpReply (port sub : Nat)
  /-- MGMT_TOKEN_REFILL (R160): The per-sub-port token bucket gains a token every 244.140625 µs. -/
  | mgmtTokenRefill (port sub : Nat)
  /-- XOFF_REPEAT (R159): While free space stays low the sub-port repeats XOFF every half QUANTA. -/
  | xoffRepeat (port sub : Nat)
  /-- FEC_SER_WINDOW (R142): Each second the FEC symbol error count sets or clears STATUS.HI_SER per sub-port. -/
  | fecSerWindow (port sub errors corr uncorr : Nat)
  /-- SA_IN_USE_WRITE (R151): A write of an SA's IN_USE takes effect only for a MACsec page of the physical function and copies the SAK. -/
  | saInUseWrite (port : Nat) (tx : Bool) (idx : Nat) (on : Bool)
  /-- SQ_TAIL_DOORBELL (R186): A submission queue tail doorbell write makes new entries fetchable on its lane. -/
  | sqTailDoorbell (fn qid tail : Nat)
  /-- LANE_FETCH (R187): A Running lane with free tags and unfetched entries takes its round-robin turn and issues one fetch read. -/
  | laneFetch
  /-- FETCH_COMPLETE (R186): A fetch read returns its entries into their reserved tags. -/
  | fetchComplete (lane : Nat) (es : List Fetched)
  /-- COMMAND_START (R202): A fetched command starts once every earlier overlapping command of its lane has written or taken the shared blocks. -/
  | commandStart (lane tag : Nat)
  /-- CC_ENABLE (R172): Writing CC.EN = 1 checks CC and enables the controller or sets CSTS.CFS. -/
  | ccEnable (fn : Nat) (cc : W32)
  /-- CONTROLLER_READY (R173): CSTS.RDY becomes 1 within CAP.TO of enable even while maps rebuild. -/
  | controllerReady (fn : Nat)
  /-- CONTROLLER_RESET (R223): CC.EN written from 1 to 0 stops the function's queues and posts no further completions. -/
  | controllerReset (fn : Nat)
  /-- FUNCTION_LEVEL_RESET (R167): An FLR resets one function's controller, deletes its I/O queues and unbinds its lanes. -/
  | functionLevelReset (fn : Nat)
  /-- PCIE_CONVENTIONAL_RESET (R541): PERST_N low, hot reset or link down resets every function's controller without resetting the part. -/
  | pcieConventionalReset
  /-- PERST_RELEASE (R541): PERST_N rising lets the link train, and in Brumation is a wake. -/
  | perstRelease
  /-- VF_ENABLE (R168): Setting VF Enable and NumVFs brings virtual function controllers into existence. -/
  | vfEnable (on : Bool) (numVfs : Nat)
  /-- LANE_OWNER_WRITE (R184): A write of LANE.Ln_CFG.OWNER on an Unbound lane assigns it, ignored beyond 64 lanes per VF. -/
  | laneOwnerWrite (lane owner : Nat)
  /-- DELETE_IO_SQ (R188): Delete I/O Submission Queue stops fetching, aborts unstarted commands and unbinds the lane. -/
  | deleteIoSq (fn : Nat) (c : Sqe)
  /-- CREATE_IO_SQ (R183): Create I/O Submission Queue binds the queue to the q-th owned lane, optionally with a key page. -/
  | createIoSq (fn : Nat) (c : Sqe)
  /-- DELETE_IO_CQ (R175): Delete I/O Completion Queue removes a completion queue. -/
  | deleteIoCq (fn : Nat) (c : Sqe)
  /-- CREATE_IO_CQ (R170): Create I/O Completion Queue creates a completion queue with a vector of its function. -/
  | createIoCq (fn : Nat) (c : Sqe)
  /-- GET_LOG_PAGE (R200): Get Log Page returns a standard or vendor log page. -/
  | getLogPage (fn : Nat) (c : Sqe)
  /-- IDENTIFY (R174): Identify returns controller, namespace or controller-list data. -/
  | identify (fn : Nat) (c : Sqe)
  /-- ABORT (R213): Abort catches a fetched, unstarted command of the named queue or reports that nothing was caught. -/
  | abort (fn : Nat) (c : Sqe) (others : Nat)
  /-- SET_FEATURES (R177): Set Features sets an honoured feature other than Power Management, APST and Timestamp. -/
  | setFeatures (fn : Nat) (c : Sqe) (d : Bytes)
  /-- SET_FEATURES_POWER_MGMT (R478): Set Features Power Management from the physical function requests a device state entry. -/
  | setFeaturesPowerMgmt (fn : Nat) (c : Sqe)
  /-- SET_FEATURES_APST (R478): Set Features Autonomous Power State Transition sets APSTE and its table. -/
  | setFeaturesApst (fn : Nat) (c : Sqe) (d : Bytes)
  /-- SET_FEATURES_TIMESTAMP (R463): Set Features Timestamp from the physical function sets the calendar time base. -/
  | setFeaturesTimestamp (fn : Nat) (c : Sqe) (d : Bytes)
  /-- GET_FEATURES (R177): Get Features returns the value of an honoured feature. -/
  | getFeatures (fn : Nat) (c : Sqe)
  /-- ASYNC_EVENT_REQUEST (R175): Asynchronous Event Request stays outstanding until a notice completes it. -/
  | asyncEventRequest (fn : Nat) (c : Sqe)
  /-- NAMESPACE_CREATE (R178): Namespace Management create makes a general or capture namespace at the lowest free NSID. -/
  | namespaceCreate (fn : Nat) (c : Sqe) (d : Bytes)
  /-- NAMESPACE_DELETE (R180): Namespace Management delete removes a namespace unless a stream or span still uses it. -/
  | namespaceDelete (fn : Nat) (c : Sqe)
  /-- NAMESPACE_ATTACHMENT (R168): Namespace Attachment attaches or detaches a namespace to one controller. -/
  | namespaceAttachment (fn : Nat) (c : Sqe) (d : Bytes)
  /-- FORMAT_NVM (R405): Format NVM discards a namespace's data and with SES 010b erases its default key page. -/
  | formatNvm (fn : Nat) (c : Sqe)
  /-- FIRMWARE_IMAGE_DOWNLOAD (R503): Firmware Image Download stages part of an image in the persistence die. -/
  | firmwareImageDownload (fn : Nat) (c : Sqe) (d : Bytes)
  /-- FIRMWARE_COMMIT (R508): Firmware Commit checks an image, writes it into a slot and records or performs its activation. -/
  | firmwareCommit (fn : Nat) (c : Sqe) (sigOk : Bool) (table : List Profile)
  /-- SLOT_WRITE_SECTOR (R509): A slot write erases, programs and verifies one sector and records its progress. -/
  | slotWriteSector (eraseOk progOk sigOk : Bool)
  /-- MOLT (R227): After all fetched commands complete, the new firmware activates and fetching resumes, or the 500 ms wait fails. -/
  | molt (inTime : Bool)
  /-- MAP_HINT_EXPORT (R195): MAP HINT EXPORT writes location and generation records for a range of extents. -/
  | mapHintExport (fn : Nat) (c : Sqe)
  /-- LANE_RESUME (R222): LANE RESUME returns a Frozen lane to Running once all its tags are free. -/
  | laneResume (fn : Nat) (c : Sqe)
  /-- MICROCODE_LOAD (R331): MICROCODE LOAD checks, keeps and loads customer microcode, locks the regions and claims quarantined dies. -/
  | microcodeLoad (fn : Nat) (c : Sqe) (d : Bytes) (keepOk : Bool)
  /-- KEY_PAGE_INSTALL (R414): KEY PAGE INSTALL checks a key record and loads, or erases, a key page. -/
  | keyPageInstall (fn : Nat) (c : Sqe) (d : Bytes)
  /-- EVENT_RECORD_READ (R197): EVENT RECORD READ copies whole recorder records from a given recorder sequence. -/
  | eventRecordRead (fn : Nat) (c : Sqe)
  /-- DEBUG_GRANT (R520): DEBUG GRANT checks a challenge response and adds the requested debug scope. -/
  | debugGrant (fn : Nat) (c : Sqe) (newChal : BitVec 128)
  /-- FLUSH (R208): Flush completes when covered writes completed before its fetch are durable. -/
  | flush (lane tag : Nat)
  /-- WRITE (R273): Write is admitted to the protected window or held, and its data enters the write buffer. -/
  | write (lane tag : Nat)
  /-- HELD_WRITE_ADMIT (R273): The oldest held write is admitted once the window has room. -/
  | heldWriteAdmit
  /-- WRITE_COMPLETE (R209): A write completes once its data is inside the protected window, in the write buffer, landed or verified as its mode requires. -/
  | writeComplete (lane tag : Nat)
  /-- READ (R90): Read returns each block's current content, with capture status in dword 0. -/
  | read (lane tag : Nat) (poison : List Nat)
  /-- WRITE_ZEROES (R182): Write Zeroes unmaps blocks of a general namespace via a deallocation record. -/
  | writeZeroes (lane tag : Nat)
  /-- DATASET_MANAGEMENT (R182): Dataset Management deallocates blocks, or whole extents in a capture namespace. -/
  | datasetManagement (lane tag : Nat)
  /-- LOCATED_READ (R248): LOCATED READ reads at the hinted location and falls back to a lookup when the hint is stale. -/
  | locatedRead (lane tag : Nat) (poison : List Nat)
  /-- GAP_MAP_READ (R192): GAP MAP READ writes the gap record of each landed extent of a range. -/
  | gapMapRead (lane tag : Nat)
  /-- CAPTURE_WRITE_IDLE_EXPIRY (R246): A capture extent untouched by Writes for 1 ms is scheduled to land. -/
  | captureWriteIdleExpiry (nsid ext : Nat)
  /-- GC_START (R249): A group whose free group blocks fall to GC_START picks a victim and begins copying. -/
  | gcStart (g : Nat)
  /-- GC_COPY_VERIFIED (R252): A verified relocation copy switches the live map only if it still points at the copied unit. -/
  | gcCopyVerified (g : Nat) (lost : List Nat)
  /-- GC_ERASE_DONE (R251): The victim's erase completes, the move record is written and the group block returns to the free list. -/
  | gcEraseDone (g : Nat)
  /-- WL_START (R258): A group whose erase-count spread exceeds WL_LIMIT picks a young source and moves its data. -/
  | wlStart (g : Nat)
  /-- UNIT_PROGRAM_VERIFIED (R245): A verified general data unit updates its map entry and releases its ledger charge. -/
  | unitProgramVerified (g : Nat) (poison : Bool)
  /-- PROGRAM_FAIL (R254): A failed program closes the group block, re-programs and relocates data and retires the NAND block. -/
  | programFail (g die block page : Nat) (lost : List Nat)
  /-- ERASE_FAIL (R256): A failed erase retires the NAND block and erases the group block again without it. -/
  | eraseFail (g die block : Nat)
  /-- CHECKPOINT_START (R282): A checkpoint starts on group-block openings, 300 s, a half-full journal or a shutdown notification. -/
  | checkpointStart
  /-- CHECKPOINT_COMPLETE (R282): The checkpoint's units are written and its checkpoint record enters the journal. -/
  | checkpointComplete
  /-- POWER_FAIL_DETECT (R278): HU_VIN below PF_MV for 200 ns starts the dump of every charged unit on bank power. -/
  | powerFailDetect
  /-- DUMP_END (R279): The dump's last unit is verified, the dump record written, the ledger cleared and the part reset. -/
  | dumpEnd (vcut : Bool)
  /-- CHARGE_TARGET_REACHED (R268): The bank reaching V_T stops charging. -/
  | chargeTargetReached (vbank : Nat)
  /-- CHARGE_RESUME (R268): The bank falling 1 % below V_T resumes charging. -/
  | chargeResume (vbank : Nat)
  /-- HU_FAULT (R268): The bank exceeding VMAX by 5 % or falling while charging puts the hold-up state in Fault and stops charging. -/
  | huFault (vbank : Nat)
  /-- MEASURE (R269): Writing HU_CTRL.MEASURE starts a capacitance measurement. -/
  | measure
  /-- MEASURE_DUE (R269): Twenty-four hours after the last measurement a discharge measurement falls due. -/
  | measureDue
  /-- MEASURE_POSTPONE (R270): A measurement whose window condition is unmet for 10 s is postponed by 1 h. -/
  | measurePostpone
  /-- MEASUREMENT_DONE (R269): A measurement ends with a new C_m or a failure that zeroes the window limit. -/
  | measurementDone (time : Option Nat) (vbank : Nat) (gate : Bool)
  /-- MEASURE_RETRY_EXPIRY (R269): One hour after a failed measurement, the measurement is repeated. -/
  | measureRetryExpiry
  /-- WINDOW_RECOMPUTE (R271): Every 1 ms the protected window limit is recomputed from the bank voltage. -/
  | windowRecompute (vbank : Nat) (gate : Bool)
  /-- REGROW_REQUEST (R286): Writing FTL.REGROW.START makes the next restart a regrowth. -/
  | regrowRequest
  /-- MAP_REBUILD (R285): A normal restart loads the checkpoint, replays the journal, scans new group blocks and restores spans. -/
  | mapRebuild (facts : RestartFacts)
  /-- REGROWTH (R288): Regrowth rebuilds every map from the spare records of all pages. -/
  | regrowth (facts : RestartFacts)
  /-- BUS_PHASE (R302): A granted bus phase runs to its end and the next ready phase is chosen. -/
  | busPhase (ch : Nat)
  /-- ERASE_RESUME (R304): After the reads queued at suspension run, the erase resumes. -/
  | eraseResume (ch die : Nat)
  /-- NAND_READ_DONE (R314): A page read completes with hard decoding and, on failure, steps through read-retry and soft decoding. -/
  | nandReadDone (ch die : Nat) (cws : List DecodeStep) (lost : List Nat)
  /-- NAND_PROGRAM_DONE (R318): A program completes, passing or failing, and may set SLOW_PROG. -/
  | nandProgramDone (ch die : Nat) (ok slow : Bool)
  /-- NAND_ERASE_DONE (R318): An erase completes, passing or failing, and may set WEAK_ERASE. -/
  | nandEraseDone (ch die : Nat) (ok slow : Bool)
  /-- NAND_OP_TIMEOUT (R319): An operation exceeding its CHc.OPWDG limit is ended with status 03h and the die volume reset. -/
  | nandOpTimeout (ch die : Nat) (ready : Bool)
  /-- DIE_FORGET (R310): Writing CHc.DIEk.FORGET lets the rebuild proceed without a quarantined or failed die. -/
  | dieForget (ch die : Nat)
  /-- CCS_FAULT (R323): A double-bit error in a control store word halts the engine and starts a store rewrite. -/
  | ccsFault (ch : Nat)
  /-- CCS_REWRITE_DONE (R323): Management firmware finishes rewriting the store and the engine resumes its queue. -/
  | ccsRewriteDone (ch : Nat)
  /-- KEPT_DISCARD (R332): Writing CCS.KEPT.DISCARD erases the kept microcode image at the next start. -/
  | keptDiscard
  /-- NEXT (R324): A control store word with SEQ NEXT proceeds to the next word. -/
  | wNext (ch : Nat)
  /-- JUMP (R324): A control store word with SEQ JUMP goes to TGT. -/
  | wJump (ch : Nat)
  /-- CALL (R326): A control store word with SEQ CALL pushes a return and goes to TGT, ending with 03h if the stack overflows. -/
  | wCall (ch : Nat)
  /-- RET (R326): A control store word with SEQ RET returns from a call. -/
  | wRet (ch : Nat)
  /-- BRT (R324): A control store word with SEQ BRT goes to TGT if COND is true. -/
  | wBrt (ch : Nat)
  /-- BRF (R324): A control store word with SEQ BRF goes to TGT if COND is false. -/
  | wBrf (ch : Nat)
  /-- WAIT (R324): A control store word with SEQ WAIT waits until COND is true. -/
  | wWait (ch : Nat)
  /-- LOOP (R324): A control store word with SEQ LOOP decrements LC and goes to TGT while LC is nonzero. -/
  | wLoop (ch : Nat)
  /-- DONE (R327): A control store word with SEQ DONE ends the operation with status STAT. -/
  | wDone (ch : Nat)
  /-- HBM_REQUEST (R342): A 64 B request reaches an HBM pseudo-channel and is served in order per address. -/
  | hbmRequest (stack addr len : Nat) (wr : Option Bytes) (sev : Severity)
  /-- HBM_REFRESH (R345): A pseudo-channel's refresh interval expires and a per-bank refresh falls due. -/
  | hbmRefresh (stack pc : Nat)
  /-- HBM_TIMING_CHECK (R349): Every 100 ms a channel's timing is checked and retrained on failure. -/
  | hbmTimingCheck (stack channel : Nat) (ok retrainOk : Bool)
  /-- HBM_TEMP_HOT (R345): A stack reporting above 85 °C doubles its refresh rate. -/
  | hbmTempHot (stack temp : Nat)
  /-- HBM_TEMP_OK (R345): A stack reporting below 80 °C returns to the normal refresh rate when REF_2X is 0. -/
  | hbmTempOk (stack temp : Nat)
  /-- HBM_ERRADDR_REARM (R351): Writing 1 to HBMs.ERRADDR.VALID re-arms the address latch. -/
  | hbmErraddrRearm (stack : Nat)
  /-- BANK_WAKE (R361): A bank leaving Retention becomes Active after 12 µs and held accesses proceed. -/
  | bankWake (bank : Nat)
  /-- SEB_WIPE_DONE (R362): The SEB wipe completes, sets event source 504 and flags any word not reading zero. -/
  | sebWipeDone (badWord : Option Nat)
  /-- MARCH_START (R364): Writing MARCH_CTRL.START checks and starts a destructive or preserving bank test. -/
  | marchStart (preserve : Bool) (banks : Nat)
  /-- MARCH_ABORT (R366): Writing MARCH_CTRL.ABORT ends the running test after restoring the word under test. -/
  | marchAbort (fails : List (Nat × Nat))
  /-- MARCH_DONE (R367): A march test ends and sets event sources 502 and, on failure, 503. -/
  | marchDone (fails : List (Nat × Nat))
  /-- DMA_START (R384): START on an Idle DMA channel clears its errors and fetches the descriptor at CHn_DESC. -/
  | dmaStart (n : Nat)
  /-- DMA_PAUSE (R382): PAUSE moves a Running channel to Pausing. -/
  | dmaPause (n : Nat)
  /-- DMA_RESUME (R381): RESUME continues a Paused channel or reruns the failed burst of a Halted one. -/
  | dmaResume (n : Nat)
  /-- DMA_TAILDROP (R383): TAILDROP finishes the held burst, discards later bursts and ends the descriptor. -/
  | dmaTaildrop (n : Nat)
  /-- DMA_DESCRIPTOR_FETCH (R374): A fetched descriptor is validated and its transfer begins, or the channel halts with 1h. -/
  | dmaDescriptorFetch (n : Nat) (desc : Option Bytes)
  /-- DMA_BURST (R376): A burst's source elements return and are written to the destination from the holding register. -/
  | dmaBurst (n reads : Nat) (host : Option Bytes) (srcOk dstOk : Bool) (sev dsev : List Severity)
  /-- DMA_DESCRIPTOR_COMPLETE (R377): The read-back or barrier acceptance completes the descriptor, writes back status and follows NEXT. -/
  | dmaDescriptorComplete (n : Nat) (readOk writeOk : Bool) (sev : Severity)
  /-- CIPHER_LOCK (R392): Writing CPH.CTRL.LOCK fixes DUMMY and SHUFFLE until reset. -/
  | cipherLock
  /-- RNG_HEALTH_FAIL (R393): The random source failing its health test sets RNG_FAIL and disables hardening randomisation. -/
  | rngHealthFail
  /-- RNG_HEALTH_PASS (R393): The random source passing its health test again clears RNG_FAIL. -/
  | rngHealthPass
  /-- KEY_PAGE_OWNER_WRITE (R410): The physical function's write of a key page OWNER takes effect only while the page is Empty. -/
  | keyPageOwnerWrite (fn page owner : Nat)
  /-- TAMPER_ALARM (R516): A tamper source alarm zeroes keys, wipes SEB, ends debug grants and is recorded. -/
  | tamperAlarm (src : Nat)
  /-- PST_LINE_WRITE (R428): A persistence-die line write is verified, retried and remapped if needed. -/
  | pstLineWrite (line : Nat) (data : Bytes) (retries : Nat) (ok : Bool)
  /-- OPTION_COMMIT (R436): Writing CFL.OPT_CTRL.COMMIT checks the staged option copy and starts writing the unused copy. -/
  | optionCommit
  /-- OPTION_COMMIT_DONE (R436): The option copy's erase, program and verify end and the result is set. -/
  | optionCommitDone (ok : Bool)
  /-- CFL_READ (R442): A code flash read is served from the buffers or array and may suspend an erase. -/
  | cflRead (core sector offset : Nat) (nonSeq : Bool)
  /-- CFL_ERASE_RESUME (R442): A suspended code flash erase resumes after 2 µs without reads. -/
  | cflEraseResume
  /-- CFL_PROGRAM_DONE (R441): A code flash line program completes or fails verification. -/
  | cflProgramDone (ok : Bool)
  /-- CFL_ERASE_DONE (R441): A code flash sector erase completes, fails, or is slow, with the consequences of R446. -/
  | cflEraseDone (ok : Bool) (micros : Nat)
  /-- EVENT_RAISE (R453): A write of EVT.RAISEw sets host software event sources. -/
  | eventRaise (w : Nat) (v : W32)
  /-- EVENT_TAKEN_BY_CORE (R452): Management firmware takes a core-routed source, writes a type 0002h record and clears the flag. -/
  | eventTakenByCore (src : Nat) (again : Bool)
  /-- RTC_STOP (R464): The AON clock monitor finding the crystal stopped over 100 µs sets Synch and RTC_STOP. -/
  | rtcStop
  /-- GROUP_WATCHDOG_EXPIRY (R469): A group watchdog expiring restarts the group or resets the part with cause 5. -/
  | groupWatchdogExpiry (domain : Nat) (served : Bool)
  /-- DIE_WATCHDOG_SERVICE (R470): A management core services the controller-die watchdog. -/
  | dieWatchdogService (core : Nat)
  /-- DIE_WATCHDOG_EXPIRY (R470): 100 ms without service from every core resets the part with cause 3. -/
  | dieWatchdogExpiry (served pkg : Bool)
  /-- PACKAGE_WATCHDOG_SERVICE (R470): Management firmware's service reaches the package watchdog in AON. -/
  | packageWatchdogService
  /-- PACKAGE_WATCHDOG_EXPIRY (R470): 2 s without service resets the whole package with cause 4. -/
  | packageWatchdogExpiry (served die : Bool)
  /-- APST_TRANSITION (R478): Idleness for the entry's ITPT requests an autonomous transition to its non-operational state. -/
  | apstTransition
  /-- AGENT_ANSWER (R486): A delaying domain agent answers Accept or Refuse when its condition changes. -/
  | agentAnswer (domain : Nat)
  /-- DELAY_CAP_EXPIRY (R487): When DELAY_CAP passes every agent still in Delay refuses and the entry is abandoned. -/
  | delayCapExpiry
  /-- POWER_STATE_REACHED (R489): The sequencing after all accepts completes and the device state is reached. -/
  | powerStateReached
  /-- PCIE_LINK_L2 (R491): The link reaching L2 starts Brumation entry while BRUM_WAIT, or switches off the PCIe domain alone. -/
  | pcieLinkL2
  /-- BRUMATION_RETRY (R491): A refused Brumation entry is tried again every 100 ms while the link stays in L2. -/
  | brumationRetry
  /-- WAKE (R492): A wake source ends Basking or Brumation, starting the exit. -/
  | wake (src : WakeSrc)
  /-- BASKING_EXIT_DONE (R479): The Basking exit completes and the prior operational state returns. -/
  | baskingExitDone
  /-- BRUMATION_EXIT (R498): The Brumation exit completes domain power-up, restores, discovery and span restoration. -/
  | brumationExit (facts : StartFacts)
  /-- DOMAIN_FAULT (R498): A domain not reaching On within 5 ms of power-on resets the part with cause 7. -/
  | domainFault (domain : Nat)
  /-- THERMAL_LIMIT_ON (R481): A junction sensor above 110 °C applies PS2 limits. -/
  | thermalLimitOn
  /-- THERMAL_LIMIT_OFF (R481): All sensors below 100 °C lift the thermal limits. -/
  | thermalLimitOff
  /-- PART_START (R501): A start runs the boot sequence from option and calibration reads through slot choice, training and discovery. -/
  | partStart (facts : StartFacts)
  /-- LIFECYCLE_TRANSITION (R513): Writing SEC.LC_CTRL with CONFIRM starts a permitted lifecycle transition or records why not. -/
  | lifecycleTransition (confirm target : Nat)
  /-- LIFECYCLE_TRANSITION_DONE (R514): The transition's fuse programming, option rewrite and erases complete and the part resets with cause 7. -/
  | lifecycleTransitionDone
  /-- DEBUG_REVOKE (R521): Writing DBG.CTRL.REVOKE ends every debug grant. -/
  | debugRevoke
  /-- OBS_ENABLE (R523): A write of DBG.OBS_CTRL.EN = 1 drives the observation pins if the matrix opens them. -/
  | obsEnable (v : W32)
  /-- CORE_HALT (R522): A core debug halt request halts a management core under an open or granted scope. -/
  | coreHalt (core : Nat) (acc : List DbgAcc)
  /-- TAP_EXTEST (R517): Loading EXTEST drives boundary cells and holds the part in reset. -/
  | tapExtest
  /-- TAP_CLAMP (R517): Loading CLAMP holds outputs and the part in reset. -/
  | tapClamp
  /-- TAP_HIGHZ (R517): Loading HIGHZ floats outputs and holds the part in reset. -/
  | tapHighz
  /-- TAP_IDCODE (R549): Loading IDCODE selects the identification register. -/
  | tapIdcode
  /-- TAP_BYPASS (R549): Loading BYPASS, or an unopened private code, selects the bypass register. -/
  | tapBypass (code : Nat)
  /-- TAP_SAMPLE_PRELOAD (R549): Loading SAMPLE/PRELOAD samples and preloads the boundary register. -/
  | tapSamplePreload (cells : List Bool)
  /-- TAP_TEST_LOGIC_RESET (R517): Passing through Test-Logic-Reset releases a TAP-held reset and the part starts. -/
  | tapTestLogicReset
  /-- POWER_ON (R539): Supplies rise in group order and AON first receives power. -/
  | powerOn (vddq : List Bool)
  /-- RESET_BALL_ASSERT (R540): RESET_N low stops all operations, dumps charged units and holds the part in reset. -/
  | resetBallAssert
  /-- RESET_BALL_RELEASE (R540): RESET_N high, once any dump has ended, starts the boot sequence 10 µs later. -/
  | resetBallRelease
  /-- SUPPLIES_OFF (R542): The supplies leave their operating range and fall, the part enters Off and AON loses its content. -/
  | suppliesOff
  /-- CORE_DEBUG_RESUME (R522): A core debug request resumes or steps a halted management core, or closes the core debug session, so that ATTACHED can fall and the watchdogs count again. -/
  | coreDebugResume (core : Nat) (close : Bool)
  /-- FACTORY_TEST_INSTRUCTION (R512): A factory test instruction of the test access port starts the Blank to Manufacture or Manufacture to Provisioned lifecycle transition. -/
  | factoryTestInstruction (target : Nat)
  /-- MSIX_UNMASK (R171): Clearing a vector mask or the Function Mask of MSI-X with the Pending Bit set sends the pending message. -/
  | msixUnmask (what : MsixOpen)
  /-- INTERRUPT_COALESCING_TIME (R177): The aggregation time of Interrupt Coalescing expires and the held interrupt of a completion queue is sent. -/
  | interruptCoalescingTime (fn cqid : Nat)
  /-- REMOTE_FAULT (R142): The reconciliation sublayer of a sub-port starts or stops receiving remote fault, changing ETHp.STATUS.REMOTE_FAULT. -/
  | remoteFault (port sub : Nat) (on : Bool)
  deriving DecidableEq, Repr

end Sys2Proof
end

