-- ==== Sys2Proof/Decode.lean ====
section
/-! DEFINITION. The command a word of the table's bits spells. Every row of spec/opcode_table.json gives no bits
(its "fields" are empty), so no word spells a command. -/

namespace Sys2Proof

/-- The command that an instruction word of `nbits` bits spells by the table's bits: none, since no row gives bits. -/
def decodeTableWord (_nbits _w : Nat) : Option Instr := none

end Sys2Proof
end

