-- ==== Sys2Proof/Config.lean ====
section
/-! DEFINITION. What an implementation fixes and the free values the spec leaves open: opaque constants, of which nothing can be
proved but that they are functions. -/

namespace Sys2Proof.Config

/-- Which of two placements that write the same byte leaves its byte in the extent (R82: "is not defined"): the byte of the earlier
one where it answers true. The argument is the model's count of free values drawn. -/
opaque keepsOld : Nat → Bool

/-- A free byte, by the model's count of free values drawn. -/
opaque freeByte : Nat → Byte

/-- A free number, by the model's count of free values drawn. -/
opaque freeNat : Nat → Nat

/-- The bytes of the factory calibration row that manufacture writes, by offset (R437): the part's die identifier, salt, trims and seeds. -/
opaque calibration : Nat → Byte

/-- The 32 bytes of the device debug key, fused at manufacture and read by no path (R519). -/
opaque debugKey : Nat → Byte

/-- Where the host window of a stack lies inside the HBM reserved to the part (R370 says only that it lies there). -/
opaque hostWindow : Nat → Nat

/-- Byte i of the parity of a codeword, by its data and spare record (R297 names a systematic quasi-cyclic LDPC code and gives no matrix). -/
opaque ldpcParity : List (BitVec 8) → Nat → BitVec 8

/-- Byte i of the pseudo-random sequence of a die, a NAND block and a page row (R298 gives its seed, no generator). -/
opaque scramble : Nat → Nat → Nat → Nat → BitVec 8

/-- The words of the vendor region of the control stores, as a patch bundle holds them (R322), by bundle version and word address. -/
opaque vendorWord : Nat → Nat → BitVec 192

/-- The body bias trim of a domain in the calibration row (R437 gives the trims' place and no code for them). -/
opaque biasTrim : Nat → Nat

/-- The read assist trim of the calibration row (R499: "as trimmed"). -/
opaque readAssist : Bool

end Sys2Proof.Config
end

