-- ==== Sys2Proof/Machine/Table.lean ====
section
/-! DEFINITION. Sparse tables, the one shape of every array of the state: registers by offset, streams by number,
bytes by address. A table lists (key, value) pairs with strictly rising keys and lists no entry equal to what an
unlisted key reads as, so equal contents are equal data. -/

namespace Sys2Proof.Machine

/-- A sparse table: (key, value) pairs. -/
abbrev Tbl (α : Type) := List (Nat × α)

/-- What the table holds under key `k`; `d` where nothing is listed. -/
def Tbl.get {α : Type} (d : α) : Tbl α → Nat → α
  | [], _ => d
  | (i, v) :: t, k => if i = k then v else Tbl.get d t k

/-- The table without an entry for `k`. -/
def Tbl.drop {α : Type} : Tbl α → Nat → Tbl α
  | [], _ => []
  | (i, v) :: t, k => if i = k then Tbl.drop t k else (i, v) :: Tbl.drop t k

/-- The table with `v` listed under `k`. -/
def Tbl.put {α : Type} : Tbl α → Nat → α → Tbl α
  | [], k, v => [(k, v)]
  | (i, w) :: t, k, v =>
    if i = k then (k, v) :: t else if k < i then (k, v) :: (i, w) :: t else (i, w) :: Tbl.put t k v

/-- A write of `v` under `k`, keeping the canonical form: the value an unlisted key reads as is not listed. -/
def Tbl.set {α : Type} [DecidableEq α] (d : α) (t : Tbl α) (k : Nat) (v : α) : Tbl α :=
  if v = d then t.drop k else t.put k v

/-- The entry under `k`, when one is listed. -/
def Tbl.find {α : Type} : Tbl α → Nat → Option α
  | [], _ => none
  | (i, v) :: t, k => if i = k then some v else Tbl.find t k

/-- Keys strictly rising, all above `lo`, and no entry equal to `d`. -/
def Tbl.wfFrom {α : Type} [DecidableEq α] (d : α) : Option Nat → Tbl α → Bool
  | _, [] => true
  | lo, (i, v) :: t => (match lo with | none => true | some l => decide (l < i)) && decide (v ≠ d) && Tbl.wfFrom d (some i) t

/-- The canonical form of a table whose unlisted keys read as `d`. -/
def Tbl.wf {α : Type} [DecidableEq α] (d : α) (t : Tbl α) : Bool := Tbl.wfFrom d none t

/-- Sparse bytes by address. -/
abbrev Mem := Tbl Byte

/-- The `n` bytes from address `a` on, where an unlisted address reads as `d a`. -/
def Mem.readD (d : Nat → Byte) (m : Mem) (a : Nat) : Nat → Bytes
  | 0 => []
  | n + 1 => (m.find a).getD (d a) :: Mem.readD d m (a + 1) n

/-- The `n` bytes from `a` on, unlisted addresses reading as zero. -/
def Mem.read (m : Mem) (a n : Nat) : Bytes := Mem.readD (fun _ => 0) m a n

/-- The bytes `bs` written from address `a` on, unlisted addresses reading as zero. -/
def Mem.write (m : Mem) (a : Nat) : Bytes → Mem
  | [] => m
  | b :: bs => Mem.write (m.set 0 a b) (a + 1) bs

/-- The bytes `bs` listed from address `a` on, whatever they are (for contents whose unlisted bytes read as a
pattern). -/
def Mem.putAll (m : Mem) (a : Nat) : Bytes → Mem
  | [] => m
  | b :: bs => Mem.putAll (m.put a b) (a + 1) bs

/-- Bytes `lo` to `hi - 1` removed. -/
def Mem.clear (m : Mem) (lo hi : Nat) : Mem := m.filter (fun c => c.1 < lo || hi ≤ c.1)

/-- The little-endian number a byte string spells (R8). -/
def leNat : Bytes → Nat
  | [] => 0
  | b :: bs => b.toNat + 256 * leNat bs

/-- The big-endian number a byte string spells (cryptographic strings, R8). -/
def beNat (bs : Bytes) : Nat := bs.foldl (fun n b => n * 256 + b.toNat) 0

/-- `n` as `len` bytes, byte 0 holding bits [7:0] (R8). -/
def leBytes : Nat → Nat → Bytes
  | 0, _ => []
  | len + 1, n => BitVec.ofNat 8 n :: leBytes len (n / 256)

/-- `n` as `len` bytes, most significant first. -/
def beBytes (len n : Nat) : Bytes := (leBytes len n).reverse

/-- The little-endian field of `len` bytes at offset `off` of a byte string; bytes past its end read zero. -/
def Bytes.le (bs : Bytes) (off len : Nat) : Nat := leNat ((bs.drop off).take len)

/-- Bits [lo + len - 1 : lo] of a number. -/
def bits (n lo len : Nat) : Nat := n / 2 ^ lo % 2 ^ len

/-- Bit `i` of a number. -/
def bit (n i : Nat) : Bool := n / 2 ^ i % 2 == 1

/-- ⌈a / b⌉. -/
def ceilDiv (a b : Nat) : Nat := (a + b - 1) / b

end Sys2Proof.Machine
end

