-- ==== Sys2Proof/Machine/RegMap.lean ====
section
/-! DEFINITION. The BAR0 register map (R13): where each register of the spec lies and where its fields lie in it, by
the manual's own names (UNIT_REGISTER for the register's offset, UNIT_REGISTER_FIELD for a field), the registers'
nonzero reset values, and their access codes (RW, W1C, W1S bits; every other bit ignores writes). -/

namespace Sys2Proof.Machine

/-- A register field: the offset of the register (or of its 64-bit word that holds the field's lowest bit), the
field's lowest bit in it, and the field's length in bits. -/
structure Field where
  off : Nat
  lo  : Nat
  len : Nat
  deriving DecidableEq, Repr

/-! Register offsets. -/
namespace R

/-- ID.PART — offset 0x0010_0000 (R1). -/
def ID_PART : Nat := 0x100000
/-- ID.CAPS0 — offset 0x0010_0010 (R1). -/
def ID_CAPS0 : Nat := 0x100010
/-- UEN.STORE — offset 0x0080_0000 (R59). -/
def UEN_STORE : Nat := 0x800000
/-- UEN.ENGn_STAT — offset 0x0080_0100 + 4 × n (R59). -/
def UEN_ENG_STAT (n : Nat) : Nat := 0x800100 + 0x4 * n
/-- UEN.ENGn_SLOTS — offset 0x0080_0180 + 8 × n (R59). -/
def UEN_ENG_SLOTS (n : Nat) : Nat := 0x800180 + 0x8 * n
/-- UEN.ENGn_FAULT — offset 0x0080_0200 + 8 × n (R59). -/
def UEN_ENG_FAULT (n : Nat) : Nat := 0x800200 + 0x8 * n
/-- CAP.Sn_CTRL — offset 0x000 (R61). -/
def CAP_S_CTRL (s : Nat) : Nat := 0x400000 + 0x1000 * s
/-- CAP.Sn_STATUS — offset 0x004 (R61). -/
def CAP_S_STATUS (s : Nat) : Nat := 0x400004 + 0x1000 * s
/-- CAP.Sn_NS — offset 0x008 (R61). -/
def CAP_S_NS (s : Nat) : Nat := 0x400008 + 0x1000 * s
/-- CAP.Sn_HORIZON — offset 0x00C (R61). -/
def CAP_S_HORIZON (s : Nat) : Nat := 0x40000c + 0x1000 * s
/-- CAP.Sn_WIN — offset 0x010 (R61). -/
def CAP_S_WIN (s : Nat) : Nat := 0x400010 + 0x1000 * s
/-- CAP.Sn_CURSOR — offset 0x018 (R61). -/
def CAP_S_CURSOR (s : Nat) : Nat := 0x400018 + 0x1000 * s
/-- CAP.Sn_SEAL — offset 0x01C (R61). -/
def CAP_S_SEAL (s : Nat) : Nat := 0x40001c + 0x1000 * s
/-- CAP.Sn_SEQCFG — offset 0x020 (R61). -/
def CAP_S_SEQCFG (s : Nat) : Nat := 0x400020 + 0x1000 * s
/-- CAP.Sn_SEQHIGH — offset 0x028 (R61). -/
def CAP_S_SEQHIGH (s : Nat) : Nat := 0x400028 + 0x1000 * s
/-- CAP.Sn_FILL — offset 0x030 (R61). -/
def CAP_S_FILL (s : Nat) : Nat := 0x400030 + 0x1000 * s
/-- CAP.Sn_PROG_ID — offset 0x038 (R61). -/
def CAP_S_PROG_ID (s : Nat) : Nat := 0x400038 + 0x1000 * s
/-- CAP.Sn_PROG_INFO — offset 0x040 (R61). -/
def CAP_S_PROG_INFO (s : Nat) : Nat := 0x400040 + 0x1000 * s
/-- CAP.Sn_PROG_VER — offset 0x044 (R61). -/
def CAP_S_PROG_VER (s : Nat) : Nat := 0x400044 + 0x1000 * s
/-- CAP.Sn_EVCAUSE — offset 0x048 (R61). -/
def CAP_S_EVCAUSE (s : Nat) : Nat := 0x400048 + 0x1000 * s
/-- CAP.Sn_LANDED — offset 0x04C (R61). -/
def CAP_S_LANDED (s : Nat) : Nat := 0x40004c + 0x1000 * s
/-- CAP.Sn_CTXk — offset 0x080 + 8 × k (R61). -/
def CAP_S_CTX (s k : Nat) : Nat := 0x400080 + 0x1000 * s + 0x8 * k
/-- CAP.Sn_UCNTk — offset 0x100 + 8 × k (R61). -/
def CAP_S_UCNT (s k : Nat) : Nat := 0x400100 + 0x1000 * s + 0x8 * k
/-- CAP.FLTi — offset 0x0044_0000 + 0x40 × i (R69). -/
def CAP_FLT (i : Nat) : Nat := 0x440000 + 0x40 * i
/-- CAP.Sn counter RX_DGRAMS (R93). -/
def CAP_S_RX_DGRAMS (s : Nat) : Nat := 0x400200 + 0x1000 * s
/-- CAP.Sn counter RX_BYTES (R93). -/
def CAP_S_RX_BYTES (s : Nat) : Nat := 0x400208 + 0x1000 * s
/-- CAP.Sn counter IDLE_DROP (R93). -/
def CAP_S_IDLE_DROP (s : Nat) : Nat := 0x400210 + 0x1000 * s
/-- CAP.Sn counter PLACED (R93). -/
def CAP_S_PLACED (s : Nat) : Nat := 0x400218 + 0x1000 * s
/-- CAP.Sn counter PLACED_BYTES (R93). -/
def CAP_S_PLACED_BYTES (s : Nat) : Nat := 0x400220 + 0x1000 * s
/-- CAP.Sn counter DISC_BYTES (R93). -/
def CAP_S_DISC_BYTES (s : Nat) : Nat := 0x400228 + 0x1000 * s
/-- CAP.Sn counter PROG_DROP (R93). -/
def CAP_S_PROG_DROP (s : Nat) : Nat := 0x400230 + 0x1000 * s
/-- CAP.Sn counter DIVERTED (R93). -/
def CAP_S_DIVERTED (s : Nat) : Nat := 0x400238 + 0x1000 * s
/-- CAP.Sn counter FAULTS (R93). -/
def CAP_S_FAULTS (s : Nat) : Nat := 0x400240 + 0x1000 * s
/-- CAP.Sn counter DUP (R93). -/
def CAP_S_DUP (s : Nat) : Nat := 0x400248 + 0x1000 * s
/-- CAP.Sn counter BEHIND (R93). -/
def CAP_S_BEHIND (s : Nat) : Nat := 0x400250 + 0x1000 * s
/-- CAP.Sn counter NOSTAGE (R93). -/
def CAP_S_NOSTAGE (s : Nat) : Nat := 0x400258 + 0x1000 * s
/-- CAP.Sn counter DIVFULL (R93). -/
def CAP_S_DIVFULL (s : Nat) : Nat := 0x400260 + 0x1000 * s
/-- CAP.Sn counter NOTHREAD (R93). -/
def CAP_S_NOTHREAD (s : Nat) : Nat := 0x400268 + 0x1000 * s
/-- CAP.Sn counter SEQ_UNCHECKED (R93). -/
def CAP_S_SEQ_UNCHECKED (s : Nat) : Nat := 0x400270 + 0x1000 * s
/-- CAP.Sn counter EXT_SEALED (R93). -/
def CAP_S_EXT_SEALED (s : Nat) : Nat := 0x400278 + 0x1000 * s
/-- CAP.Sn counter EXT_LANDED (R93). -/
def CAP_S_EXT_LANDED (s : Nat) : Nat := 0x400280 + 0x1000 * s
/-- CAP.Sn counter BLK_MISSING (R93). -/
def CAP_S_BLK_MISSING (s : Nat) : Nat := 0x400288 + 0x1000 * s
/-- CAP.Sn counter BLK_PARTIAL (R93). -/
def CAP_S_BLK_PARTIAL (s : Nat) : Nat := 0x400290 + 0x1000 * s
/-- CAP.Sn_DIVq_BASE — offset 0x300 + 0x20 × q in the stream context (R97). -/
def CAP_S_DIV_BASE (s q : Nat) : Nat := 0x400300 + 0x1000 * s + 0x20 * q
/-- CAP.Sn_DIVq_CFG — offset 0x308 + 0x20 × q in the stream context (R97). -/
def CAP_S_DIV_CFG (s q : Nat) : Nat := 0x400308 + 0x1000 * s + 0x20 * q
/-- CAP.Sn_DIVq_TAIL — offset 0x30C + 0x20 × q in the stream context (R97). -/
def CAP_S_DIV_TAIL (s q : Nat) : Nat := 0x40030c + 0x1000 * s + 0x20 * q
/-- CAP.Sn_DIVq_HEAD — offset 0x310 + 0x20 × q in the stream context (R97). -/
def CAP_S_DIV_HEAD (s q : Nat) : Nat := 0x400310 + 0x1000 * s + 0x20 * q
/-- CAP.Sn_SPANCFG — offset 0x050 in the stream context (R113). -/
def CAP_S_SPANCFG (s : Nat) : Nat := 0x400050 + 0x1000 * s
/-- CAP.Sn_RING — offset 0x058 in the stream context (R113). -/
def CAP_S_RING (s : Nat) : Nat := 0x400058 + 0x1000 * s
/-- CAP.Sn_SPANCUR — offset 0x05C in the stream context (R113). -/
def CAP_S_SPANCUR (s : Nat) : Nat := 0x40005c + 0x1000 * s
/-- CAP.SPAN_POOL — offset 0x004C_0000 (R114). -/
def CAP_SPAN_POOL : Nat := 0x4c0000
/-- CAP.SPAN_FREE — offset 0x004C_0008 (R115). -/
def CAP_SPAN_FREE : Nat := 0x4c0008
/-- CAP.TRIG_CFG — offset 0x004C_0010 (R115). -/
def CAP_TRIG_CFG : Nat := 0x4c0010
/-- CAP.TRIGp_TIME — offset 0x004C_0020 + 8 × p (R115). -/
def CAP_TRIG_TIME (p : Nat) : Nat := 0x4c0020 + 0x8 * p
/-- span counter COMMITTED (R115). -/
def CAP_COMMITTED : Nat := 0x4c0040
/-- span counter DISC_TRIG (R115). -/
def CAP_DISC_TRIG : Nat := 0x4c0048
/-- span counter DISC_TIMEOUT (R115). -/
def CAP_DISC_TIMEOUT : Nat := 0x4c0050
/-- span counter DISC_SPACE (R115). -/
def CAP_DISC_SPACE : Nat := 0x4c0058
/-- span counter TRIG_LATE (R115). -/
def CAP_TRIG_LATE : Nat := 0x4c0060
/-- span counter TRIG_NOSPAN (R115). -/
def CAP_TRIG_NOSPAN : Nat := 0x4c0068
/-- span counter TRIG_STALE (R115). -/
def CAP_TRIG_STALE : Nat := 0x4c0070
/-- span counter SPAN_NODESC (R115). -/
def CAP_SPAN_NODESC : Nat := 0x4c0078
/-- CAP.SPk — offset 0x0048_0000 + 0x40 × k (R115). -/
def CAP_SP (k : Nat) : Nat := 0x480000 + 0x40 * k
/-- ETHp.CTRL — offset 0x0000 (R153). -/
def ETH_CTRL (p : Nat) : Nat := 0xc00000 + 0x10000 * p
/-- ETHp.STATUS — offset 0x0004 (R154). -/
def ETH_STATUS (p : Nat) : Nat := 0xc00004 + 0x10000 * p
/-- ETHp.EVCAUSE — offset 0x0008 (R154). -/
def ETH_EVCAUSE (p : Nat) : Nat := 0xc00008 + 0x10000 * p
/-- ETHp.PAUSE — offset 0x0010 (R155). -/
def ETH_PAUSE (p : Nat) : Nat := 0xc00010 + 0x10000 * p
/-- ETHp.SPj_MAC — offset 0x0100 + 0x40 × j (R155). -/
def ETH_SP_MAC (p j : Nat) : Nat := 0xc00100 + 0x10000 * p + 0x40 * j
/-- ETHp.SPj_CFG — offset 0x0108 + 0x40 × j (R155). -/
def ETH_SP_CFG (p j : Nat) : Nat := 0xc00108 + 0x10000 * p + 0x40 * j
/-- ETHp.SPj_IP4 — offset 0x0110 + 0x40 × j (R155). -/
def ETH_SP_IP4 (p j : Nat) : Nat := 0xc00110 + 0x10000 * p + 0x40 * j
/-- ETHp.SPj_IP6A and ETHp.SPj_IP6B — offsets 0x0120 and 0x0130 + 0x40 × j (R155). -/
def ETH_SP_IP6A (p j : Nat) : Nat := 0xc00120 + 0x10000 * p + 0x40 * j
/-- ETHp.SPj_IP6B — offset 0x0130 + 0x40 × j (R155). -/
def ETH_SP_IP6B (p j : Nat) : Nat := 0xc00130 + 0x10000 * p + 0x40 * j
/-- ETHp.RXSCi — offset 0x4000 + 0x10 × i (R155). -/
def ETH_RXSC (p i : Nat) : Nat := 0xc04000 + 0x10000 * p + 0x10 * i
/-- ETHp.RXSAi_n — offset 0x8000 + 0x100 × i + 0x40 × n (R155). -/
def ETH_RXSA (p i n : Nat) : Nat := 0xc08000 + 0x10000 * p + 0x100 * i + 0x40 * n
/-- ETHp.TXSAj — offset 0xC000 + 0x40 × j (R155). -/
def ETH_TXSA (p j : Nat) : Nat := 0xc0c000 + 0x10000 * p + 0x40 * j
/-- ETHp.STRANGER — offset 0x2000 (R157). -/
def ETH_STRANGER (p : Nat) : Nat := 0xc02000 + 0x10000 * p
/-- ETHp counter RX_FRAMES of sub-port j (R160). -/
def ETH_N_RX_FRAMES (p j : Nat) : Nat := 0xc01000 + 0x10000 * p + 0x100 * j
/-- ETHp counter RX_OCTETS of sub-port j (R160). -/
def ETH_N_RX_OCTETS (p j : Nat) : Nat := 0xc01008 + 0x10000 * p + 0x100 * j
/-- ETHp counter FCS_ERR of sub-port j (R160). -/
def ETH_N_FCS_ERR (p j : Nat) : Nat := 0xc01010 + 0x10000 * p + 0x100 * j
/-- ETHp counter OVERSIZE of sub-port j (R160). -/
def ETH_N_OVERSIZE (p j : Nat) : Nat := 0xc01018 + 0x10000 * p + 0x100 * j
/-- ETHp counter DA_MISS of sub-port j (R160). -/
def ETH_N_DA_MISS (p j : Nat) : Nat := 0xc01020 + 0x10000 * p + 0x100 * j
/-- ETHp counter MAC_CTRL of sub-port j (R160). -/
def ETH_N_MAC_CTRL (p j : Nat) : Nat := 0xc01028 + 0x10000 * p + 0x100 * j
/-- ETHp counter MACSEC_UNTAG of sub-port j (R160). -/
def ETH_N_MACSEC_UNTAG (p j : Nat) : Nat := 0xc01030 + 0x10000 * p + 0x100 * j
/-- ETHp counter MACSEC_NOSA of sub-port j (R160). -/
def ETH_N_MACSEC_NOSA (p j : Nat) : Nat := 0xc01038 + 0x10000 * p + 0x100 * j
/-- ETHp counter MACSEC_BAD of sub-port j (R160). -/
def ETH_N_MACSEC_BAD (p j : Nat) : Nat := 0xc01040 + 0x10000 * p + 0x100 * j
/-- ETHp counter MACSEC_LATE of sub-port j (R160). -/
def ETH_N_MACSEC_LATE (p j : Nat) : Nat := 0xc01048 + 0x10000 * p + 0x100 * j
/-- ETHp counter VLAN_MISS of sub-port j (R160). -/
def ETH_N_VLAN_MISS (p j : Nat) : Nat := 0xc01050 + 0x10000 * p + 0x100 * j
/-- ETHp counter TO_MGMT of sub-port j (R160). -/
def ETH_N_TO_MGMT (p j : Nat) : Nat := 0xc01058 + 0x10000 * p + 0x100 * j
/-- ETHp counter MGMT_DROP of sub-port j (R160). -/
def ETH_N_MGMT_DROP (p j : Nat) : Nat := 0xc01060 + 0x10000 * p + 0x100 * j
/-- ETHp counter NOT_UDP of sub-port j (R160). -/
def ETH_N_NOT_UDP (p j : Nat) : Nat := 0xc01068 + 0x10000 * p + 0x100 * j
/-- ETHp counter IP_ERR of sub-port j (R160). -/
def ETH_N_IP_ERR (p j : Nat) : Nat := 0xc01070 + 0x10000 * p + 0x100 * j
/-- ETHp counter DIP_MISS of sub-port j (R160). -/
def ETH_N_DIP_MISS (p j : Nat) : Nat := 0xc01078 + 0x10000 * p + 0x100 * j
/-- ETHp counter UDP_CSUM of sub-port j (R160). -/
def ETH_N_UDP_CSUM (p j : Nat) : Nat := 0xc01080 + 0x10000 * p + 0x100 * j
/-- ETHp counter STRANGER of sub-port j (R160). -/
def ETH_N_STRANGER (p j : Nat) : Nat := 0xc01088 + 0x10000 * p + 0x100 * j
/-- ETHp counter NO_BUF of sub-port j (R160). -/
def ETH_N_NO_BUF (p j : Nat) : Nat := 0xc01090 + 0x10000 * p + 0x100 * j
/-- ETHp counter ADMITTED of sub-port j (R160). -/
def ETH_N_ADMITTED (p j : Nat) : Nat := 0xc01098 + 0x10000 * p + 0x100 * j
/-- ETHp counter FEC_CORR of sub-port j (R160). -/
def ETH_N_FEC_CORR (p j : Nat) : Nat := 0xc010a0 + 0x10000 * p + 0x100 * j
/-- ETHp counter FEC_UNCORR of sub-port j (R160). -/
def ETH_N_FEC_UNCORR (p j : Nat) : Nat := 0xc010a8 + 0x10000 * p + 0x100 * j
/-- ETHp counter TX_FRAMES of sub-port j (R160). -/
def ETH_N_TX_FRAMES (p j : Nat) : Nat := 0xc010b0 + 0x10000 * p + 0x100 * j
/-- LANE.Ln_CFG — offset 0x000 in the lane block (R188). -/
def LANE_CFG (n : Nat) : Nat := 0x200000 + 0x100 * n
/-- LANE.Ln_STATUS — offset 0x004 in the lane block (R188). -/
def LANE_STATUS (n : Nat) : Nat := 0x200004 + 0x100 * n
/-- LANE.Ln_TAGS — offset 0x008 in the lane block (R188). -/
def LANE_TAGS (n : Nat) : Nat := 0x200008 + 0x100 * n
/-- LANE.Ln_FREEZE — offset 0x010 in the lane block (R188). -/
def LANE_FREEZE (n : Nat) : Nat := 0x200010 + 0x100 * n
/-- LANE.Ln_FETCHED — offset 0x018 in the lane block (R188). -/
def LANE_FETCHED (n : Nat) : Nat := 0x200018 + 0x100 * n
/-- FTL.CFG — offset 0x0120_0000 (R264). -/
def FTL_CFG : Nat := 0x1200000
/-- FTL.GC — offset 0x0120_0004 (R264). -/
def FTL_GC : Nat := 0x1200004
/-- FTL.STATUS — offset 0x0120_0008 (R265). -/
def FTL_STATUS : Nat := 0x1200008
/-- FTL.SPARE — offset 0x0120_0010 (R265). -/
def FTL_SPARE : Nat := 0x1200010
/-- FTL.ERASE — offset 0x0120_0018 (R265). -/
def FTL_ERASE : Nat := 0x1200018
/-- FTL.WSEQ — offset 0x0120_0020 (R265). -/
def FTL_WSEQ : Nat := 0x1200020
/-- FTL.EVCAUSE — offset 0x0120_0040 (R265). -/
def FTL_EVCAUSE : Nat := 0x1200040
/-- FTL.Gg_STAT — offset 0x0120_0100 + 0x10 × g (R265). -/
def FTL_G_STAT (g : Nat) : Nat := 0x1200100 + 0x10 * g
/-- PWR.HU_CFG — offset 0x0184_0000 (R291). -/
def PWR_HU_CFG : Nat := 0x1840000
/-- PWR.HU_VLIM — offset 0x0184_0004 (R291). -/
def PWR_HU_VLIM : Nat := 0x1840004
/-- PWR.HU_CTRL — offset 0x0184_0008 (R291). -/
def PWR_HU_CTRL : Nat := 0x1840008
/-- PWR.HU_STATUS — offset 0x0184_000C (R291). -/
def PWR_HU_STATUS : Nat := 0x184000c
/-- PWR.HU_PF — offset 0x0184_0014 (R291). -/
def PWR_HU_PF : Nat := 0x1840014
/-- PWR.HU_CAP — offset 0x0184_0010 (R291). -/
def PWR_HU_CAP : Nat := 0x1840010
/-- PWR.HU_WIN — offset 0x0184_0018 (R291). -/
def PWR_HU_WIN : Nat := 0x1840018
/-- PWR.HU_HELD — offset 0x0184_0020 (R291). -/
def PWR_HU_HELD : Nat := 0x1840020
/-- PWR.HU_EVCAUSE — offset 0x0184_0040 (R291). -/
def PWR_HU_EVCAUSE : Nat := 0x1840040
/-- FTL.REGROW — offset 0x0120_0048 (R292). -/
def FTL_REGROW : Nat := 0x1200048
/-- CHc.CFG — offset 0x0000 (R332). -/
def CH_CFG (c : Nat) : Nat := 0x1000000 + 0x4000 * c
/-- CHc.STATUS — offset 0x0004 (R332). -/
def CH_STATUS (c : Nat) : Nat := 0x1000004 + 0x4000 * c
/-- CHc.EVCAUSE — offset 0x0008 (R332). -/
def CH_EVCAUSE (c : Nat) : Nat := 0x1000008 + 0x4000 * c
/-- CHc.OPWDG — offset 0x0010 (R333). -/
def CH_OPWDG (c : Nat) : Nat := 0x1000010 + 0x4000 * c
/-- CHc.RECLAIM — offset 0x0014 (R333). -/
def CH_RECLAIM (c : Nat) : Nat := 0x1000014 + 0x4000 * c
/-- CHc.LASTCODE — offset 0x0018 (R334). -/
def CH_LASTCODE (c : Nat) : Nat := 0x1000018 + 0x4000 * c
/-- CHc.DIEk — offset 0x0100 + 0x10 × k (R334). -/
def CH_DIE (c k : Nat) : Nat := 0x1000100 + 0x4000 * c + 0x10 * k
/-- CHc counter READS (R334). -/
def CH_N_READS (c : Nat) : Nat := 0x1000800 + 0x4000 * c
/-- CHc counter PROGRAMS (R334). -/
def CH_N_PROGRAMS (c : Nat) : Nat := 0x1000808 + 0x4000 * c
/-- CHc counter ERASES (R334). -/
def CH_N_ERASES (c : Nat) : Nat := 0x1000810 + 0x4000 * c
/-- CHc counter CW_DECODED (R334). -/
def CH_N_CW_DECODED (c : Nat) : Nat := 0x1000818 + 0x4000 * c
/-- CHc counter CW_CORRECTED (R334). -/
def CH_N_CW_CORRECTED (c : Nat) : Nat := 0x1000820 + 0x4000 * c
/-- CHc counter BITS_CORRECTED (R334). -/
def CH_N_BITS_CORRECTED (c : Nat) : Nat := 0x1000828 + 0x4000 * c
/-- CHc counter RETRIES (R334). -/
def CH_N_RETRIES (c : Nat) : Nat := 0x1000830 + 0x4000 * c
/-- CHc counter SOFT (R334). -/
def CH_N_SOFT (c : Nat) : Nat := 0x1000838 + 0x4000 * c
/-- CHc counter UNCORR (R334). -/
def CH_N_UNCORR (c : Nat) : Nat := 0x1000840 + 0x4000 * c
/-- CHc counter PROG_FAIL (R334). -/
def CH_N_PROG_FAIL (c : Nat) : Nat := 0x1000848 + 0x4000 * c
/-- CHc counter ERASE_FAIL (R334). -/
def CH_N_ERASE_FAIL (c : Nat) : Nat := 0x1000850 + 0x4000 * c
/-- CHc counter TIMEOUTS (R334). -/
def CH_N_TIMEOUTS (c : Nat) : Nat := 0x1000858 + 0x4000 * c
/-- CHc counter SUSPENDS (R334). -/
def CH_N_SUSPENDS (c : Nat) : Nat := 0x1000860 + 0x4000 * c
/-- CHc counter BUS_BYTES (R334). -/
def CH_N_BUS_BYTES (c : Nat) : Nat := 0x1000868 + 0x4000 * c
/-- CCS.SEL — offset 0x0110_0000 (R334). -/
def CCS_SEL : Nat := 0x1100000
/-- CCS.LOCK — offset 0x0110_0008 (R334). -/
def CCS_LOCK : Nat := 0x1100008
/-- CCS.KEPT — offset 0x0110_0010 (R334). -/
def CCS_KEPT : Nat := 0x1100010
/-- HBMs.CFG — offset 0x0000 (R355). -/
def HBM_CFG (s : Nat) : Nat := 0x1300000 + 0x20000 * s
/-- HBMs.STATUS — offset 0x0004 (R355). -/
def HBM_STATUS (s : Nat) : Nat := 0x1300004 + 0x20000 * s
/-- HBMs.EVCAUSE — offset 0x0008 (R355). -/
def HBM_EVCAUSE (s : Nat) : Nat := 0x1300008 + 0x20000 * s
/-- HBMs.ERRADDR — offset 0x0010 (R356). -/
def HBM_ERRADDR (s : Nat) : Nat := 0x1300010 + 0x20000 * s
/-- HBMs counter ACTIVATES (R356). -/
def HBM_N_ACTIVATES (s : Nat) : Nat := 0x1300100 + 0x20000 * s
/-- HBMs counter READS (R356). -/
def HBM_N_READS (s : Nat) : Nat := 0x1300108 + 0x20000 * s
/-- HBMs counter WRITES (R356). -/
def HBM_N_WRITES (s : Nat) : Nat := 0x1300110 + 0x20000 * s
/-- HBMs counter RMW (R356). -/
def HBM_N_RMW (s : Nat) : Nat := 0x1300118 + 0x20000 * s
/-- HBMs counter ROW_HITS (R356). -/
def HBM_N_ROW_HITS (s : Nat) : Nat := 0x1300120 + 0x20000 * s
/-- HBMs counter REFRESHES (R356). -/
def HBM_N_REFRESHES (s : Nat) : Nat := 0x1300128 + 0x20000 * s
/-- HBMs counter SEV_SINGLE (R356). -/
def HBM_N_SEV_SINGLE (s : Nat) : Nat := 0x1300130 + 0x20000 * s
/-- HBMs counter SEV_MULTI (R356). -/
def HBM_N_SEV_MULTI (s : Nat) : Nat := 0x1300138 + 0x20000 * s
/-- HBMs counter UNCORR (R356). -/
def HBM_N_UNCORR (s : Nat) : Nat := 0x1300140 + 0x20000 * s
/-- HBMs counter RETRAINS (R356). -/
def HBM_N_RETRAINS (s : Nat) : Nat := 0x1300148 + 0x20000 * s
/-- SRB.Bb_CFG — offset 0x0138_0000 + 0x40 × b (R367). -/
def SRB_B_CFG (b : Nat) : Nat := 0x1380000 + 0x40 * b
/-- SRB.Bb_STATUS — offset 0x0138_0004 + 0x40 × b (R367). -/
def SRB_B_STATUS (b : Nat) : Nat := 0x1380004 + 0x40 * b
/-- SRB.Bb_ECC — offset 0x0138_0008 + 0x40 × b (R367). -/
def SRB_B_ECC (b : Nat) : Nat := 0x1380008 + 0x40 * b
/-- SRB.MARCH_CTRL — offset 0x0138_1000 (R367). -/
def SRB_MARCH_CTRL : Nat := 0x1381000
/-- SRB.MARCH_STATUS — offset 0x0138_1004 (R367). -/
def SRB_MARCH_STATUS : Nat := 0x1381004
/-- SRB.MARCH_FAILS — offset 0x0138_1008 (R367). -/
def SRB_MARCH_FAILS : Nat := 0x1381008
/-- CHn_CTRL — offset 0x00 (R388). -/
def DMA_CTRL (n : Nat) : Nat := 0x1400000 + 0x100 * n
/-- CHn_DESC — offset 0x08 (R388). -/
def DMA_DESC (n : Nat) : Nat := 0x1400008 + 0x100 * n
/-- CHn_STATUS — offset 0x10 (R388). -/
def DMA_STATUS (n : Nat) : Nat := 0x1400010 + 0x100 * n
/-- CHn_POS — offset 0x18 (R388). -/
def DMA_POS (n : Nat) : Nat := 0x1400018 + 0x100 * n
/-- CHn_ERRADDR — offset 0x20 (R388). -/
def DMA_ERRADDR (n : Nat) : Nat := 0x1400020 + 0x100 * n
/-- CHn_EVCAUSE — offset 0x28 (R388). -/
def DMA_EVCAUSE (n : Nat) : Nat := 0x1400028 + 0x100 * n
/-- CHn_COUNT — offset 0x30 (R388). -/
def DMA_COUNT (n : Nat) : Nat := 0x1400030 + 0x100 * n
/-- DMA.HWINs — offset 0x0140_8000 + 4 × s (R388). -/
def DMA_HWIN (s : Nat) : Nat := 0x1408000 + 0x4 * s
/-- CPH.CTRL — offset 0x0150_0000 (R556). -/
def CPH_CTRL : Nat := 0x1500000
/-- CPH.STATUS — offset 0x0150_0004 (R556). -/
def CPH_STATUS : Nat := 0x1500004
/-- CPH.SALT — offset 0x0150_0008 (R556). -/
def CPH_SALT : Nat := 0x1500008
/-- CPH.POISON — offset 0x0150_0010 (R556). -/
def CPH_POISON : Nat := 0x1500010
/-- CPH.EVCAUSE — offset 0x0150_0040 (R556). -/
def CPH_EVCAUSE : Nat := 0x1500040
/-- CPH.Lq_CNT ENC_BYTES (R420). -/
def CPH_L_ENC_BYTES (q : Nat) : Nat := 0x1500100 + 0x20 * q
/-- CPH.Lq_CNT DEC_BYTES (R420). -/
def CPH_L_DEC_BYTES (q : Nat) : Nat := 0x1500108 + 0x20 * q
/-- CPH.Lq_CNT TAG_FAIL (R420). -/
def CPH_L_TAG_FAIL (q : Nat) : Nat := 0x1500110 + 0x20 * q
/-- CPH.KPk_STATE — offset 0x0150_8000 + 0x80 × k (R420). -/
def CPH_KP_STATE (k : Nat) : Nat := 0x1508000 + 0x80 * k
/-- CPH.KPk_KEYID — offset 0x0150_8008 + 0x80 × k (R420). -/
def CPH_KP_KEYID (k : Nat) : Nat := 0x1508008 + 0x80 * k
/-- CPH.KPk_INVOC — offset 0x0150_8010 + 0x80 × k (R420). -/
def CPH_KP_INVOC (k : Nat) : Nat := 0x1508010 + 0x80 * k
/-- PST.CFG — offset 0x0160_0000 (R446). -/
def PST_CFG : Nat := 0x1600000
/-- PST.STATUS — offset 0x0160_0004 (R446). -/
def PST_STATUS : Nat := 0x1600004
/-- PST.EVCAUSE — offset 0x0160_0008 (R446). -/
def PST_EVCAUSE : Nat := 0x1600008
/-- PST counter WRITES (R446). -/
def PST_WRITES : Nat := 0x1600100
/-- PST counter RETRIES (R446). -/
def PST_RETRIES : Nat := 0x1600108
/-- PST counter REMAPPED (R446). -/
def PST_REMAPPED : Nat := 0x1600110
/-- CFL.STATUS — offset 0x0168_0000 (R446). -/
def CFL_STATUS : Nat := 0x1680000
/-- CFL.OPT_CTRL — offset 0x0168_0004 (R446). -/
def CFL_OPT_CTRL : Nat := 0x1680004
/-- CFL.WIN_SEL — offset 0x0168_0008 (R446). -/
def CFL_WIN_SEL : Nat := 0x1680008
/-- CFL.ERASE_MAX — offset 0x0168_0010 (R446). -/
def CFL_ERASE_MAX : Nat := 0x1680010
/-- CFL.EVCAUSE — offset 0x0168_0040 (R446). -/
def CFL_EVCAUSE : Nat := 0x1680040
/-- EVT.STATUSw — offset 0x0170_0000 + 4 × w (R454). -/
def EVT_STATUS (w : Nat) : Nat := 0x1700000 + 0x4 * w
/-- EVT.ENABLEw — offset 0x0170_0080 + 4 × w (R454). -/
def EVT_ENABLE (w : Nat) : Nat := 0x1700080 + 0x4 * w
/-- EVT.RAISEw — offset 0x0170_0100 + 4 × (w − 28) (R454). -/
def EVT_RAISE (w : Nat) : Nat := 0x1700100 + 0x4 * w
/-- EVT.SUMMARY — offset 0x0170_0110 (R454). -/
def EVT_SUMMARY : Nat := 0x1700110
/-- EVT.FTC — offset 0x0170_0118 (R454). -/
def EVT_FTC : Nat := 0x1700118
/-- EVT.REC_SEQ — offset 0x0170_0120 (R454). -/
def EVT_REC_SEQ : Nat := 0x1700120
/-- EVT.REC_STAT — offset 0x0170_0128 (R454). -/
def EVT_REC_STAT : Nat := 0x1700128
/-- EVT.ROUTEi — offset 0x0170_1000 + 4 × i (R454). -/
def EVT_ROUTE (i : Nat) : Nat := 0x1701000 + 0x4 * i
/-- TMR.CAL — offset 0x0178_0000 (R473). -/
def TMR_CAL : Nat := 0x1780000
/-- TMR.RTC — offset 0x0178_0008 (R473). -/
def TMR_RTC : Nat := 0x1780008
/-- TMR.BRIDGE — offset 0x0178_0010 (R473). -/
def TMR_BRIDGE : Nat := 0x1780010
/-- TMR.EVCAUSE — offset 0x0178_0040 (R473). -/
def TMR_EVCAUSE : Nat := 0x1780040
/-- TMR.GWDG — offset 0x0178_0048 (R474). -/
def TMR_GWDG : Nat := 0x1780048
/-- TMR.WDG — offset 0x0178_0050 (R474). -/
def TMR_WDG : Nat := 0x1780050
/-- PWR.STATE — offset 0x0180_0000 (R499). -/
def PWR_STATE : Nat := 0x1800000
/-- PWR.ENTRY — offset 0x0180_0004 (R499). -/
def PWR_ENTRY : Nat := 0x1800004
/-- PWR.REFUSE — offset 0x0180_0008 (R499). -/
def PWR_REFUSE : Nat := 0x1800008
/-- PWR.DOMSTATE0 — offset 0x0180_0010 (R499). -/
def PWR_DOMSTATE0 : Nat := 0x1800010
/-- PWR.DOMSTATE1 — offset 0x0180_0018 (R499). -/
def PWR_DOMSTATE1 : Nat := 0x1800018
/-- PWR.WAKE_EN — offset 0x0180_0020 (R499). -/
def PWR_WAKE_EN : Nat := 0x1800020
/-- PWR.WAKE_RTC — offset 0x0180_0028 (R499). -/
def PWR_WAKE_RTC : Nat := 0x1800028
/-- PWR.LAST_WAKE — offset 0x0180_0030 (R499). -/
def PWR_LAST_WAKE : Nat := 0x1800030
/-- PWR.SLEEP_FRAMES — offset 0x0180_0038 (R499). -/
def PWR_SLEEP_FRAMES : Nat := 0x1800038
/-- PWR.EVCAUSE — offset 0x0180_0040 (R499). -/
def PWR_EVCAUSE : Nat := 0x1800040
/-- SEC.LC — offset 0x0190_0000 (R526). -/
def SEC_LC : Nat := 0x1900000
/-- SEC.LC_CTRL — offset 0x0190_0004 (R526). -/
def SEC_LC_CTRL : Nat := 0x1900004
/-- SEC.STATUS — offset 0x0190_0008 (R526). -/
def SEC_STATUS : Nat := 0x1900008
/-- SEC.FWVER — offset 0x0190_0010 (R526). -/
def SEC_FWVER : Nat := 0x1900010
/-- SEC.BOOT_OVR — offset 0x0190_0018 (R526). -/
def SEC_BOOT_OVR : Nat := 0x1900018
/-- SEC.TAMPER — offset 0x0190_0020 (R526). -/
def SEC_TAMPER : Nat := 0x1900020
/-- SEC.EVCAUSE — offset 0x0190_0040 (R526). -/
def SEC_EVCAUSE : Nat := 0x1900040
/-- DBG.CHAL — offset 0x0190_1000 (R527). -/
def DBG_CHAL : Nat := 0x1901000
/-- DBG.STATUS — offset 0x0190_1010 (R527). -/
def DBG_STATUS : Nat := 0x1901010
/-- DBG.CTRL — offset 0x0190_1014 (R527). -/
def DBG_CTRL : Nat := 0x1901014
/-- DBG.OBS_CTRL — offset 0x0190_1018 (R527). -/
def DBG_OBS_CTRL : Nat := 0x1901018

end R

/-! Register fields. -/
namespace F

def ID_PART_PART_CODE : Field := ⟨R.ID_PART, 16, 16⟩
def ID_PART_STEPPING : Field := ⟨R.ID_PART, 8, 8⟩
def ID_CAPS0_FLASH_CH : Field := ⟨R.ID_CAPS0, 17, 7⟩
def ID_CAPS0_ETH_PORTS : Field := ⟨R.ID_CAPS0, 13, 4⟩
def ID_CAPS0_HBM_STACKS : Field := ⟨R.ID_CAPS0, 10, 3⟩
def ID_CAPS0_CPH_AT_REST : Field := ⟨R.ID_CAPS0, 9, 1⟩
def ID_CAPS0_MACSEC : Field := ⟨R.ID_CAPS0, 8, 1⟩
def ID_CAPS0_CAPS_VERSION : Field := ⟨R.ID_CAPS0, 0, 4⟩
def UEN_STORE_FREE_GRAN : Field := ⟨R.UEN_STORE, 16, 11⟩
def UEN_STORE_LARGEST_RUN : Field := ⟨R.UEN_STORE, 0, 11⟩
def UEN_ENG_STAT_BUSY (n : Nat) : Field := ⟨R.UEN_ENG_STAT n, 0, 8⟩
def UEN_ENG_SLOTS_SLOTS (n : Nat) : Field := ⟨R.UEN_ENG_SLOTS n, 0, 64⟩
def UEN_ENG_FAULT_VALID (n : Nat) : Field := ⟨R.UEN_ENG_FAULT n, 63, 1⟩
def UEN_ENG_FAULT_CODE (n : Nat) : Field := ⟨R.UEN_ENG_FAULT n, 48, 8⟩
def UEN_ENG_FAULT_STREAM (n : Nat) : Field := ⟨R.UEN_ENG_FAULT n, 40, 6⟩
def UEN_ENG_FAULT_THREAD (n : Nat) : Field := ⟨R.UEN_ENG_FAULT n, 37, 3⟩
def UEN_ENG_FAULT_PC (n : Nat) : Field := ⟨R.UEN_ENG_FAULT n, 16, 12⟩
def UEN_ENG_FAULT_SLOTS_USED (n : Nat) : Field := ⟨R.UEN_ENG_FAULT n, 0, 9⟩
def CAP_S_CTRL_RUN (s : Nat) : Field := ⟨R.CAP_S_CTRL s, 31, 1⟩
def CAP_S_CTRL_DETACH (s : Nat) : Field := ⟨R.CAP_S_CTRL s, 30, 1⟩
def CAP_S_CTRL_PROV (s : Nat) : Field := ⟨R.CAP_S_CTRL s, 28, 2⟩
def CAP_S_CTRL_PAUSE_EN (s : Nat) : Field := ⟨R.CAP_S_CTRL s, 27, 1⟩
def CAP_S_CTRL_DIV_EN (s : Nat) : Field := ⟨R.CAP_S_CTRL s, 23, 4⟩
def CAP_S_CTRL_BUDGET (s : Nat) : Field := ⟨R.CAP_S_CTRL s, 12, 8⟩
def CAP_S_CTRL_DISPATCH_WAIT (s : Nat) : Field := ⟨R.CAP_S_CTRL s, 0, 8⟩
def CAP_S_STATUS_STATE (s : Nat) : Field := ⟨R.CAP_S_STATUS s, 30, 2⟩
def CAP_S_STATUS_PROG_LOADED (s : Nat) : Field := ⟨R.CAP_S_STATUS s, 29, 1⟩
def CAP_S_STATUS_REFUSE_CODE (s : Nat) : Field := ⟨R.CAP_S_STATUS s, 24, 4⟩
def CAP_S_STATUS_OPEN_EXT (s : Nat) : Field := ⟨R.CAP_S_STATUS s, 0, 13⟩
def CAP_S_NS_NSID (s : Nat) : Field := ⟨R.CAP_S_NS s, 0, 32⟩
def CAP_S_HORIZON_HORIZON (s : Nat) : Field := ⟨R.CAP_S_HORIZON s, 0, 13⟩
def CAP_S_WIN_WIN_EXT (s : Nat) : Field := ⟨R.CAP_S_WIN s, 32, 32⟩
def CAP_S_WIN_WIN_BASE (s : Nat) : Field := ⟨R.CAP_S_WIN s, 0, 32⟩
def CAP_S_CURSOR_CURSOR (s : Nat) : Field := ⟨R.CAP_S_CURSOR s, 0, 32⟩
def CAP_S_SEAL_FORCE (s : Nat) : Field := ⟨R.CAP_S_SEAL s, 31, 1⟩
def CAP_S_SEAL_IDLE_SEAL (s : Nat) : Field := ⟨R.CAP_S_SEAL s, 0, 20⟩
def CAP_S_SEQCFG_WIN_LOG2 (s : Nat) : Field := ⟨R.CAP_S_SEQCFG s, 8, 5⟩
def CAP_S_SEQCFG_SEQ_WIDTH (s : Nat) : Field := ⟨R.CAP_S_SEQCFG s, 0, 2⟩
def CAP_S_SEQHIGH_VALID (s : Nat) : Field := ⟨R.CAP_S_SEQHIGH s, 63, 1⟩
def CAP_S_SEQHIGH_HIGH (s : Nat) : Field := ⟨R.CAP_S_SEQHIGH s, 0, 48⟩
def CAP_S_FILL_FILL (s : Nat) : Field := ⟨R.CAP_S_FILL s, 0, 64⟩
def CAP_S_PROG_ID_PROG_ID (s : Nat) : Field := ⟨R.CAP_S_PROG_ID s, 0, 64⟩
def CAP_S_PROG_INFO_WORDS (s : Nat) : Field := ⟨R.CAP_S_PROG_INFO s, 16, 13⟩
def CAP_S_PROG_INFO_FIRST_GRAN (s : Nat) : Field := ⟨R.CAP_S_PROG_INFO s, 0, 10⟩
def CAP_S_PROG_VER_PROG_VER (s : Nat) : Field := ⟨R.CAP_S_PROG_VER s, 0, 32⟩
def CAP_S_EVCAUSE_DIVERT (s : Nat) : Field := ⟨R.CAP_S_EVCAUSE s, 6, 1⟩
def CAP_S_EVCAUSE_BEHIND (s : Nat) : Field := ⟨R.CAP_S_EVCAUSE s, 5, 1⟩
def CAP_S_EVCAUSE_NOTHREAD (s : Nat) : Field := ⟨R.CAP_S_EVCAUSE s, 4, 1⟩
def CAP_S_EVCAUSE_NOSTAGE (s : Nat) : Field := ⟨R.CAP_S_EVCAUSE s, 3, 1⟩
def CAP_S_EVCAUSE_STOPPED (s : Nat) : Field := ⟨R.CAP_S_EVCAUSE s, 2, 1⟩
def CAP_S_EVCAUSE_REFUSED (s : Nat) : Field := ⟨R.CAP_S_EVCAUSE s, 1, 1⟩
def CAP_S_EVCAUSE_FAULT (s : Nat) : Field := ⟨R.CAP_S_EVCAUSE s, 0, 1⟩
def CAP_S_LANDED_LANDED (s : Nat) : Field := ⟨R.CAP_S_LANDED s, 0, 32⟩
def CAP_S_CTX_C (s k : Nat) : Field := ⟨R.CAP_S_CTX s k, 0, 64⟩
def CAP_S_UCNT_UCNT (s k : Nat) : Field := ⟨R.CAP_S_UCNT s k, 0, 64⟩
def CAP_FLT_VALID (i : Nat) : Field := ⟨R.CAP_FLT i + 56, 63, 1⟩
def CAP_FLT_MACSEC_REQ (i : Nat) : Field := ⟨R.CAP_FLT i + 56, 62, 1⟩
def CAP_FLT_IPV6 (i : Nat) : Field := ⟨R.CAP_FLT i + 56, 61, 1⟩
def CAP_FLT_ANY_SRC_PORT (i : Nat) : Field := ⟨R.CAP_FLT i + 56, 60, 1⟩
def CAP_FLT_PORT_MASK (i : Nat) : Field := ⟨R.CAP_FLT i + 56, 48, 8⟩
def CAP_FLT_STREAM (i : Nat) : Field := ⟨R.CAP_FLT i + 56, 36, 6⟩
def CAP_FLT_SCI (i : Nat) : Field := ⟨R.CAP_FLT i + 48, 0, 64⟩
def CAP_FLT_UDP_SRC (i : Nat) : Field := ⟨R.CAP_FLT i + 40, 48, 16⟩
def CAP_FLT_UDP_DST (i : Nat) : Field := ⟨R.CAP_FLT i + 40, 32, 16⟩
def CAP_FLT_SRC_MAC (i : Nat) : Field := ⟨R.CAP_FLT i + 32, 32, 48⟩
def CAP_FLT_SRC_IP (i : Nat) : Field := ⟨R.CAP_FLT i + 16, 32, 128⟩
def CAP_FLT_DST_IP (i : Nat) : Field := ⟨R.CAP_FLT i, 32, 128⟩
def CAP_FLT_HITS (i : Nat) : Field := ⟨R.CAP_FLT i, 0, 32⟩
def CAP_S_DIV_BASE_ADDR (s q : Nat) : Field := ⟨R.CAP_S_DIV_BASE s q, 12, 52⟩
def CAP_S_DIV_CFG_SLOT (s q : Nat) : Field := ⟨R.CAP_S_DIV_CFG s q, 8, 2⟩
def CAP_S_DIV_CFG_ENTRIES_LOG2 (s q : Nat) : Field := ⟨R.CAP_S_DIV_CFG s q, 0, 5⟩
def CAP_S_DIV_TAIL_TAIL (s q : Nat) : Field := ⟨R.CAP_S_DIV_TAIL s q, 0, 32⟩
def CAP_S_DIV_HEAD_HEAD (s q : Nat) : Field := ⟨R.CAP_S_DIV_HEAD s q, 0, 32⟩
def CAP_S_SPANCFG_AUTO_FREE (s : Nat) : Field := ⟨R.CAP_S_SPANCFG s, 63, 1⟩
def CAP_S_SPANCFG_POLICY (s : Nat) : Field := ⟨R.CAP_S_SPANCFG s, 62, 1⟩
def CAP_S_SPANCFG_TRIG_EN (s : Nat) : Field := ⟨R.CAP_S_SPANCFG s, 56, 4⟩
def CAP_S_SPANCFG_TRIG_BACK (s : Nat) : Field := ⟨R.CAP_S_SPANCFG s, 52, 4⟩
def CAP_S_SPANCFG_SPAN_EXT (s : Nat) : Field := ⟨R.CAP_S_SPANCFG s, 24, 24⟩
def CAP_S_SPANCFG_TIMEOUT (s : Nat) : Field := ⟨R.CAP_S_SPANCFG s, 0, 24⟩
def CAP_S_RING_RING_EXT (s : Nat) : Field := ⟨R.CAP_S_RING s, 0, 17⟩
def CAP_S_SPANCUR_HANDLE (s : Nat) : Field := ⟨R.CAP_S_SPANCUR s, 0, 32⟩
def CAP_SPAN_POOL_POOL_EN : Field := ⟨R.CAP_SPAN_POOL, 63, 1⟩
def CAP_SPAN_POOL_WL : Field := ⟨R.CAP_SPAN_POOL, 62, 1⟩
def CAP_SPAN_POOL_POOL_EXT : Field := ⟨R.CAP_SPAN_POOL, 32, 28⟩
def CAP_SPAN_POOL_POOL_USED : Field := ⟨R.CAP_SPAN_POOL, 0, 28⟩
def CAP_SPAN_FREE_FREE_DESC : Field := ⟨R.CAP_SPAN_FREE, 0, 13⟩
def CAP_TRIG_CFG_PIN0_EN : Field := ⟨R.CAP_TRIG_CFG, 7, 1⟩
def CAP_TRIG_CFG_PIN1_EN : Field := ⟨R.CAP_TRIG_CFG, 15, 1⟩
def CAP_TRIG_CFG_PIN2_EN : Field := ⟨R.CAP_TRIG_CFG, 23, 1⟩
def CAP_TRIG_CFG_PIN3_EN : Field := ⟨R.CAP_TRIG_CFG, 31, 1⟩
def CAP_TRIG_CFG_PIN0_POL : Field := ⟨R.CAP_TRIG_CFG, 6, 1⟩
def CAP_TRIG_CFG_PIN1_POL : Field := ⟨R.CAP_TRIG_CFG, 14, 1⟩
def CAP_TRIG_CFG_PIN2_POL : Field := ⟨R.CAP_TRIG_CFG, 22, 1⟩
def CAP_TRIG_CFG_PIN3_POL : Field := ⟨R.CAP_TRIG_CFG, 30, 1⟩
def CAP_TRIG_CFG_PIN0_DEBOUNCE : Field := ⟨R.CAP_TRIG_CFG, 0, 6⟩
def CAP_TRIG_CFG_PIN1_DEBOUNCE : Field := ⟨R.CAP_TRIG_CFG, 8, 6⟩
def CAP_TRIG_CFG_PIN2_DEBOUNCE : Field := ⟨R.CAP_TRIG_CFG, 16, 6⟩
def CAP_TRIG_CFG_PIN3_DEBOUNCE : Field := ⟨R.CAP_TRIG_CFG, 24, 6⟩
def CAP_TRIG_TIME_TIME (p : Nat) : Field := ⟨R.CAP_TRIG_TIME p, 0, 64⟩
def CAP_SP_STATE (k : Nat) : Field := ⟨R.CAP_SP k + 56, 60, 4⟩
def CAP_SP_RECOVERED (k : Nat) : Field := ⟨R.CAP_SP k + 56, 59, 1⟩
def CAP_SP_MEDIUM (k : Nat) : Field := ⟨R.CAP_SP k + 56, 58, 1⟩
def CAP_SP_DECIDED_BY (k : Nat) : Field := ⟨R.CAP_SP k + 56, 55, 3⟩
def CAP_SP_FREE (k : Nat) : Field := ⟨R.CAP_SP k + 56, 54, 1⟩
def CAP_SP_STREAM (k : Nat) : Field := ⟨R.CAP_SP k + 56, 36, 6⟩
def CAP_SP_PIN (k : Nat) : Field := ⟨R.CAP_SP k + 56, 32, 2⟩
def CAP_SP_GEN (k : Nat) : Field := ⟨R.CAP_SP k + 56, 12, 20⟩
def CAP_SP_DECIDE_TIME (k : Nat) : Field := ⟨R.CAP_SP k + 48, 0, 64⟩
def CAP_SP_FIRST_EXT (k : Nat) : Field := ⟨R.CAP_SP k + 40, 32, 32⟩
def CAP_SP_EXT_COUNT (k : Nat) : Field := ⟨R.CAP_SP k + 40, 0, 32⟩
def CAP_SP_NSID (k : Nat) : Field := ⟨R.CAP_SP k + 32, 32, 32⟩
def CAP_SP_OPEN_TIME (k : Nat) : Field := ⟨R.CAP_SP k + 24, 0, 64⟩
def CAP_SP_PEND_TIME (k : Nat) : Field := ⟨R.CAP_SP k + 16, 0, 64⟩
def CAP_SP_EXT_STORED (k : Nat) : Field := ⟨R.CAP_SP k + 8, 32, 32⟩
def CAP_SP_BLK_MISSING (k : Nat) : Field := ⟨R.CAP_SP k + 8, 0, 32⟩
def CAP_SP_BYTES (k : Nat) : Field := ⟨R.CAP_SP k, 0, 64⟩
def ETH_CTRL_MODE (p : Nat) : Field := ⟨R.ETH_CTRL p, 4, 2⟩
def ETH_CTRL_SP_EN (p : Nat) : Field := ⟨R.ETH_CTRL p, 0, 4⟩
def ETH_STATUS_HI_SER (p : Nat) : Field := ⟨R.ETH_STATUS p, 12, 4⟩
def ETH_STATUS_REMOTE_FAULT (p : Nat) : Field := ⟨R.ETH_STATUS p, 8, 4⟩
def ETH_STATUS_LOCAL_FAULT (p : Nat) : Field := ⟨R.ETH_STATUS p, 4, 4⟩
def ETH_STATUS_LINK_UP (p : Nat) : Field := ⟨R.ETH_STATUS p, 0, 4⟩
def ETH_EVCAUSE_MGMT_OVF (p : Nat) : Field := ⟨R.ETH_EVCAUSE p, 7, 1⟩
def ETH_EVCAUSE_PAUSE (p : Nat) : Field := ⟨R.ETH_EVCAUSE p, 6, 1⟩
def ETH_EVCAUSE_PN (p : Nat) : Field := ⟨R.ETH_EVCAUSE p, 5, 1⟩
def ETH_EVCAUSE_MACSEC (p : Nat) : Field := ⟨R.ETH_EVCAUSE p, 4, 1⟩
def ETH_EVCAUSE_STRANGER (p : Nat) : Field := ⟨R.ETH_EVCAUSE p, 3, 1⟩
def ETH_EVCAUSE_NO_BUF (p : Nat) : Field := ⟨R.ETH_EVCAUSE p, 2, 1⟩
def ETH_EVCAUSE_HI_SER (p : Nat) : Field := ⟨R.ETH_EVCAUSE p, 1, 1⟩
def ETH_EVCAUSE_LINK (p : Nat) : Field := ⟨R.ETH_EVCAUSE p, 0, 1⟩
def ETH_PAUSE_MODE (p : Nat) : Field := ⟨R.ETH_PAUSE p, 30, 2⟩
def ETH_PAUSE_PFC_PRIO (p : Nat) : Field := ⟨R.ETH_PAUSE p, 27, 3⟩
def ETH_PAUSE_XOFF_FREE (p : Nat) : Field := ⟨R.ETH_PAUSE p, 16, 10⟩
def ETH_PAUSE_QUANTA (p : Nat) : Field := ⟨R.ETH_PAUSE p, 0, 16⟩
def ETH_SP_MAC_MAC (p j : Nat) : Field := ⟨R.ETH_SP_MAC p j, 0, 48⟩
def ETH_SP_CFG_MACSEC_ONLY (p j : Nat) : Field := ⟨R.ETH_SP_CFG p j, 31, 1⟩
def ETH_SP_CFG_TX_PROTECT (p j : Nat) : Field := ⟨R.ETH_SP_CFG p j, 30, 1⟩
def ETH_SP_CFG_ARP_EN (p j : Nat) : Field := ⟨R.ETH_SP_CFG p j, 29, 1⟩
def ETH_SP_CFG_ND_EN (p j : Nat) : Field := ⟨R.ETH_SP_CFG p j, 28, 1⟩
def ETH_SP_CFG_GARP (p j : Nat) : Field := ⟨R.ETH_SP_CFG p j, 27, 1⟩
def ETH_SP_CFG_CSUM_CHK (p j : Nat) : Field := ⟨R.ETH_SP_CFG p j, 26, 1⟩
def ETH_SP_CFG_ZERO6_OK (p j : Nat) : Field := ⟨R.ETH_SP_CFG p j, 25, 1⟩
def ETH_SP_CFG_VLAN_EN (p j : Nat) : Field := ⟨R.ETH_SP_CFG p j, 24, 1⟩
def ETH_SP_CFG_VLAN_ID (p j : Nat) : Field := ⟨R.ETH_SP_CFG p j, 12, 12⟩
def ETH_SP_CFG_MAX_FRAME (p j : Nat) : Field := ⟨R.ETH_SP_CFG p j, 0, 12⟩
def ETH_SP_IP4_IP4B (p j : Nat) : Field := ⟨R.ETH_SP_IP4 p j, 32, 32⟩
def ETH_SP_IP4_IP4A (p j : Nat) : Field := ⟨R.ETH_SP_IP4 p j, 0, 32⟩
def ETH_SP_IP6A_IP6 (p j : Nat) : Field := ⟨R.ETH_SP_IP6A p j, 0, 128⟩
def ETH_SP_IP6B_IP6 (p j : Nat) : Field := ⟨R.ETH_SP_IP6B p j, 0, 128⟩
def ETH_RXSC_VALID (p i : Nat) : Field := ⟨R.ETH_RXSC p i + 8, 63, 1⟩
def ETH_RXSC_REPLAY_PROTECT (p i : Nat) : Field := ⟨R.ETH_RXSC p i + 8, 62, 1⟩
def ETH_RXSC_SUBPORT (p i : Nat) : Field := ⟨R.ETH_RXSC p i + 8, 60, 2⟩
def ETH_RXSC_REPLAY_WINDOW (p i : Nat) : Field := ⟨R.ETH_RXSC p i + 8, 0, 32⟩
def ETH_RXSC_SCI (p i : Nat) : Field := ⟨R.ETH_RXSC p i, 0, 64⟩
def ETH_RXSA_IN_USE (p i n : Nat) : Field := ⟨R.ETH_RXSA p i n + 56, 63, 1⟩
def ETH_RXSA_XPN (p i n : Nat) : Field := ⟨R.ETH_RXSA p i n + 56, 62, 1⟩
def ETH_RXSA_KEY_PAGE (p i n : Nat) : Field := ⟨R.ETH_RXSA p i n + 56, 32, 8⟩
def ETH_RXSA_SSCI (p i n : Nat) : Field := ⟨R.ETH_RXSA p i n + 56, 0, 32⟩
def ETH_RXSA_SALT (p i n : Nat) : Field := ⟨R.ETH_RXSA p i n + 40, 32, 96⟩
def ETH_RXSA_NEXT_PN (p i n : Nat) : Field := ⟨R.ETH_RXSA p i n + 32, 0, 64⟩
def ETH_RXSA_OK_FRAMES (p i n : Nat) : Field := ⟨R.ETH_RXSA p i n + 24, 0, 64⟩
def ETH_RXSA_BAD_FRAMES (p i n : Nat) : Field := ⟨R.ETH_RXSA p i n + 16, 0, 64⟩
def ETH_RXSA_LATE_FRAMES (p i n : Nat) : Field := ⟨R.ETH_RXSA p i n + 8, 0, 64⟩
def ETH_TXSA_IN_USE (p j : Nat) : Field := ⟨R.ETH_TXSA p j + 56, 63, 1⟩
def ETH_TXSA_XPN (p j : Nat) : Field := ⟨R.ETH_TXSA p j + 56, 62, 1⟩
def ETH_TXSA_AN (p j : Nat) : Field := ⟨R.ETH_TXSA p j + 56, 56, 2⟩
def ETH_TXSA_KEY_PAGE (p j : Nat) : Field := ⟨R.ETH_TXSA p j + 56, 32, 8⟩
def ETH_TXSA_SSCI (p j : Nat) : Field := ⟨R.ETH_TXSA p j + 56, 0, 32⟩
def ETH_TXSA_SALT (p j : Nat) : Field := ⟨R.ETH_TXSA p j + 40, 32, 96⟩
def ETH_TXSA_NEXT_PN (p j : Nat) : Field := ⟨R.ETH_TXSA p j + 32, 0, 64⟩
def ETH_TXSA_TX_SCI (p j : Nat) : Field := ⟨R.ETH_TXSA p j + 24, 0, 64⟩
def ETH_STRANGER_VALID (p : Nat) : Field := ⟨R.ETH_STRANGER p + 56, 63, 1⟩
def ETH_STRANGER_IPV6 (p : Nat) : Field := ⟨R.ETH_STRANGER p + 56, 62, 1⟩
def ETH_STRANGER_MACSEC (p : Nat) : Field := ⟨R.ETH_STRANGER p + 56, 61, 1⟩
def ETH_STRANGER_SUBPORT (p : Nat) : Field := ⟨R.ETH_STRANGER p + 56, 56, 2⟩
def ETH_STRANGER_SCI (p : Nat) : Field := ⟨R.ETH_STRANGER p + 48, 0, 64⟩
def ETH_STRANGER_UDP_SRC (p : Nat) : Field := ⟨R.ETH_STRANGER p + 40, 48, 16⟩
def ETH_STRANGER_UDP_DST (p : Nat) : Field := ⟨R.ETH_STRANGER p + 40, 32, 16⟩
def ETH_STRANGER_SRC_MAC (p : Nat) : Field := ⟨R.ETH_STRANGER p + 32, 32, 48⟩
def ETH_STRANGER_SRC_IP (p : Nat) : Field := ⟨R.ETH_STRANGER p + 16, 32, 128⟩
def ETH_STRANGER_DST_IP (p : Nat) : Field := ⟨R.ETH_STRANGER p, 32, 128⟩
def ETH_STRANGER_LATER (p : Nat) : Field := ⟨R.ETH_STRANGER p, 0, 32⟩
def LANE_CFG_OWNER (n : Nat) : Field := ⟨R.LANE_CFG n, 16, 5⟩
def LANE_STATUS_STATE (n : Nat) : Field := ⟨R.LANE_STATUS n, 30, 2⟩
def LANE_STATUS_CQID (n : Nat) : Field := ⟨R.LANE_STATUS n, 16, 7⟩
def LANE_STATUS_SQID (n : Nat) : Field := ⟨R.LANE_STATUS n, 0, 7⟩
def LANE_TAGS_EXEC (n : Nat) : Field := ⟨R.LANE_TAGS n, 32, 32⟩
def LANE_TAGS_WAIT (n : Nat) : Field := ⟨R.LANE_TAGS n, 0, 32⟩
def LANE_FREEZE_CID (n : Nat) : Field := ⟨R.LANE_FREEZE n, 48, 16⟩
def LANE_FREEZE_STATUS (n : Nat) : Field := ⟨R.LANE_FREEZE n, 32, 15⟩
def LANE_FREEZE_SQHD (n : Nat) : Field := ⟨R.LANE_FREEZE n, 16, 16⟩
def LANE_FREEZE_TAG (n : Nat) : Field := ⟨R.LANE_FREEZE n, 8, 5⟩
def LANE_FREEZE_ABORTED (n : Nat) : Field := ⟨R.LANE_FREEZE n, 0, 6⟩
def LANE_FETCHED_FETCHED (n : Nat) : Field := ⟨R.LANE_FETCHED n, 0, 64⟩
def FTL_CFG_WL_LIMIT : Field := ⟨R.FTL_CFG, 16, 12⟩
def FTL_CFG_WL_EN : Field := ⟨R.FTL_CFG, 15, 1⟩
def FTL_CFG_CAPTURE_SLC : Field := ⟨R.FTL_CFG, 14, 1⟩
def FTL_CFG_WL_SHARE : Field := ⟨R.FTL_CFG, 8, 6⟩
def FTL_CFG_RESERVE : Field := ⟨R.FTL_CFG, 0, 8⟩
def FTL_GC_GC_URGENT : Field := ⟨R.FTL_GC, 16, 8⟩
def FTL_GC_GC_START : Field := ⟨R.FTL_GC, 8, 8⟩
def FTL_GC_GC_STOP : Field := ⟨R.FTL_GC, 0, 8⟩
def FTL_STATUS_READ_ONLY : Field := ⟨R.FTL_STATUS, 31, 1⟩
def FTL_STATUS_SPARE_LOW : Field := ⟨R.FTL_STATUS, 30, 1⟩
def FTL_STATUS_REBUILDING : Field := ⟨R.FTL_STATUS, 29, 1⟩
def FTL_STATUS_GC_ACTIVE : Field := ⟨R.FTL_STATUS, 0, 16⟩
def FTL_SPARE_RESERVE_BLK : Field := ⟨R.FTL_SPARE, 32, 32⟩
def FTL_SPARE_SPARE_BLK : Field := ⟨R.FTL_SPARE, 0, 32⟩
def FTL_ERASE_MAX : Field := ⟨R.FTL_ERASE, 32, 32⟩
def FTL_ERASE_MIN : Field := ⟨R.FTL_ERASE, 0, 32⟩
def FTL_WSEQ_NEXT : Field := ⟨R.FTL_WSEQ, 0, 64⟩
def FTL_EVCAUSE_REGROWTH : Field := ⟨R.FTL_EVCAUSE, 10, 1⟩
def FTL_EVCAUSE_REBUILT : Field := ⟨R.FTL_EVCAUSE, 9, 1⟩
def FTL_EVCAUSE_LOST : Field := ⟨R.FTL_EVCAUSE, 8, 1⟩
def FTL_EVCAUSE_WRITABLE : Field := ⟨R.FTL_EVCAUSE, 7, 1⟩
def FTL_EVCAUSE_READ_ONLY : Field := ⟨R.FTL_EVCAUSE, 6, 1⟩
def FTL_EVCAUSE_SPARE_LOW : Field := ⟨R.FTL_EVCAUSE, 5, 1⟩
def FTL_EVCAUSE_RETIRED : Field := ⟨R.FTL_EVCAUSE, 4, 1⟩
def FTL_EVCAUSE_ERASE_FAIL : Field := ⟨R.FTL_EVCAUSE, 3, 1⟩
def FTL_EVCAUSE_PROG_FAIL : Field := ⟨R.FTL_EVCAUSE, 2, 1⟩
def FTL_EVCAUSE_WL_MOVE : Field := ⟨R.FTL_EVCAUSE, 1, 1⟩
def FTL_EVCAUSE_GC_URGENT : Field := ⟨R.FTL_EVCAUSE, 0, 1⟩
def FTL_G_STAT_FREE_GB (g : Nat) : Field := ⟨R.FTL_G_STAT g, 48, 16⟩
def FTL_G_STAT_TOTAL_GB (g : Nat) : Field := ⟨R.FTL_G_STAT g, 32, 16⟩
def FTL_G_STAT_DIES (g : Nat) : Field := ⟨R.FTL_G_STAT g, 24, 8⟩
def FTL_G_STAT_SPREAD (g : Nat) : Field := ⟨R.FTL_G_STAT g, 0, 24⟩
def PWR_HU_CFG_CEIL : Field := ⟨R.PWR_HU_CFG, 16, 16⟩
def PWR_HU_CFG_EFF : Field := ⟨R.PWR_HU_CFG, 8, 8⟩
def PWR_HU_CFG_ILIM : Field := ⟨R.PWR_HU_CFG, 0, 8⟩
def PWR_HU_VLIM_VMAX : Field := ⟨R.PWR_HU_VLIM, 16, 16⟩
def PWR_HU_VLIM_VCUT : Field := ⟨R.PWR_HU_VLIM, 0, 16⟩
def PWR_HU_CTRL_MEASURE : Field := ⟨R.PWR_HU_CTRL, 31, 1⟩
def PWR_HU_CTRL_CHARGE : Field := ⟨R.PWR_HU_CTRL, 30, 1⟩
def PWR_HU_STATUS_STATE : Field := ⟨R.PWR_HU_STATUS, 29, 3⟩
def PWR_HU_STATUS_GATE_ON : Field := ⟨R.PWR_HU_STATUS, 28, 1⟩
def PWR_HU_STATUS_MEAS_FAIL : Field := ⟨R.PWR_HU_STATUS, 27, 1⟩
def PWR_HU_STATUS_WRITE_THROUGH : Field := ⟨R.PWR_HU_STATUS, 26, 1⟩
def PWR_HU_STATUS_VBANK : Field := ⟨R.PWR_HU_STATUS, 0, 16⟩
def PWR_HU_PF_PF_MV : Field := ⟨R.PWR_HU_PF, 0, 16⟩
def PWR_HU_CAP_C_M : Field := ⟨R.PWR_HU_CAP, 0, 24⟩
def PWR_HU_WIN_LIMIT : Field := ⟨R.PWR_HU_WIN, 32, 32⟩
def PWR_HU_WIN_IN_USE : Field := ⟨R.PWR_HU_WIN, 0, 32⟩
def PWR_HU_HELD_HELD : Field := ⟨R.PWR_HU_HELD, 0, 12⟩
def PWR_HU_EVCAUSE_DUMP_INCOMPLETE : Field := ⟨R.PWR_HU_EVCAUSE, 7, 1⟩
def PWR_HU_EVCAUSE_FAULT : Field := ⟨R.PWR_HU_EVCAUSE, 6, 1⟩
def PWR_HU_EVCAUSE_OVERHANG : Field := ⟨R.PWR_HU_EVCAUSE, 5, 1⟩
def PWR_HU_EVCAUSE_MEAS_FAIL : Field := ⟨R.PWR_HU_EVCAUSE, 4, 1⟩
def PWR_HU_EVCAUSE_MEAS_DONE : Field := ⟨R.PWR_HU_EVCAUSE, 3, 1⟩
def PWR_HU_EVCAUSE_HOLD : Field := ⟨R.PWR_HU_EVCAUSE, 2, 1⟩
def PWR_HU_EVCAUSE_WIN_SHRINK : Field := ⟨R.PWR_HU_EVCAUSE, 1, 1⟩
def PWR_HU_EVCAUSE_CHARGED : Field := ⟨R.PWR_HU_EVCAUSE, 0, 1⟩
def FTL_REGROW_START : Field := ⟨R.FTL_REGROW, 31, 1⟩
def FTL_REGROW_PENDING : Field := ⟨R.FTL_REGROW, 30, 1⟩
def FTL_REGROW_PROGRESS : Field := ⟨R.FTL_REGROW, 0, 8⟩
def CH_CFG_RATE_MAX (c : Nat) : Field := ⟨R.CH_CFG c, 24, 4⟩
def CH_CFG_SUSP_MAX (c : Nat) : Field := ⟨R.CH_CFG c, 8, 8⟩
def CH_CFG_SUSP_MIN (c : Nat) : Field := ⟨R.CH_CFG c, 0, 8⟩
def CH_STATUS_RATE (c : Nat) : Field := ⟨R.CH_STATUS c, 28, 4⟩
def CH_STATUS_BUS (c : Nat) : Field := ⟨R.CH_STATUS c, 26, 2⟩
def CH_STATUS_DISCOVERED (c : Nat) : Field := ⟨R.CH_STATUS c, 25, 1⟩
def CH_STATUS_HALTED (c : Nat) : Field := ⟨R.CH_STATUS c, 24, 1⟩
def CH_STATUS_QUEUED (c : Nat) : Field := ⟨R.CH_STATUS c, 16, 7⟩
def CH_STATUS_IN_SERVICE (c : Nat) : Field := ⟨R.CH_STATUS c, 0, 16⟩
def CH_EVCAUSE_CCS_FAULT (c : Nat) : Field := ⟨R.CH_EVCAUSE c, 14, 1⟩
def CH_EVCAUSE_CLAIMED (c : Nat) : Field := ⟨R.CH_EVCAUSE c, 13, 1⟩
def CH_EVCAUSE_SLOW_PROG (c : Nat) : Field := ⟨R.CH_EVCAUSE c, 12, 1⟩
def CH_EVCAUSE_WEAK_ERASE (c : Nat) : Field := ⟨R.CH_EVCAUSE c, 11, 1⟩
def CH_EVCAUSE_RECLAIM (c : Nat) : Field := ⟨R.CH_EVCAUSE c, 10, 1⟩
def CH_EVCAUSE_QUARANTINE (c : Nat) : Field := ⟨R.CH_EVCAUSE c, 9, 1⟩
def CH_EVCAUSE_DISCOVERED (c : Nat) : Field := ⟨R.CH_EVCAUSE c, 8, 1⟩
def CH_EVCAUSE_DIE_FAILED (c : Nat) : Field := ⟨R.CH_EVCAUSE c, 5, 1⟩
def CH_EVCAUSE_TIMEOUT (c : Nat) : Field := ⟨R.CH_EVCAUSE c, 4, 1⟩
def CH_EVCAUSE_SOFT (c : Nat) : Field := ⟨R.CH_EVCAUSE c, 3, 1⟩
def CH_EVCAUSE_ERASE_FAIL (c : Nat) : Field := ⟨R.CH_EVCAUSE c, 2, 1⟩
def CH_EVCAUSE_PROG_FAIL (c : Nat) : Field := ⟨R.CH_EVCAUSE c, 1, 1⟩
def CH_EVCAUSE_UNCORR (c : Nat) : Field := ⟨R.CH_EVCAUSE c, 0, 1⟩
def CH_OPWDG_ERASE_MS (c : Nat) : Field := ⟨R.CH_OPWDG c, 24, 8⟩
def CH_OPWDG_PROG_MS (c : Nat) : Field := ⟨R.CH_OPWDG c, 16, 8⟩
def CH_OPWDG_READ_MS (c : Nat) : Field := ⟨R.CH_OPWDG c, 8, 8⟩
def CH_RECLAIM_BITS (c : Nat) : Field := ⟨R.CH_RECLAIM c, 16, 8⟩
def CH_RECLAIM_LEVEL (c : Nat) : Field := ⟨R.CH_RECLAIM c, 12, 4⟩
def CH_RECLAIM_SOFT_HINT (c : Nat) : Field := ⟨R.CH_RECLAIM c, 8, 1⟩
def CH_RECLAIM_PROG_WARN_PCT (c : Nat) : Field := ⟨R.CH_RECLAIM c, 0, 8⟩
def CH_LASTCODE_DIE (c : Nat) : Field := ⟨R.CH_LASTCODE c, 8, 4⟩
def CH_LASTCODE_CODE (c : Nat) : Field := ⟨R.CH_LASTCODE c, 0, 8⟩
def CH_DIE_STATE (c k : Nat) : Field := ⟨R.CH_DIE c k + 8, 61, 3⟩
def CH_DIE_CAUSE (c k : Nat) : Field := ⟨R.CH_DIE c k + 8, 56, 5⟩
def CH_DIE_CLAIMED (c k : Nat) : Field := ⟨R.CH_DIE c k + 8, 55, 1⟩
def CH_DIE_FORGET (c k : Nat) : Field := ⟨R.CH_DIE c k + 8, 54, 1⟩
def CH_DIE_PROFILE (c k : Nat) : Field := ⟨R.CH_DIE c k + 8, 40, 8⟩
def CH_DIE_HIST_SLC (c k : Nat) : Field := ⟨R.CH_DIE c k + 8, 36, 4⟩
def CH_DIE_HIST_NAT (c k : Nat) : Field := ⟨R.CH_DIE c k + 8, 32, 4⟩
def CH_DIE_PP_CRC (c k : Nat) : Field := ⟨R.CH_DIE c k + 8, 16, 16⟩
def CH_DIE_ID (c k : Nat) : Field := ⟨R.CH_DIE c k, 0, 64⟩
def CCS_SEL_CH : Field := ⟨R.CCS_SEL, 0, 6⟩
def CCS_LOCK_LOCKED : Field := ⟨R.CCS_LOCK, 0, 64⟩
def CCS_KEPT_DISCARD : Field := ⟨R.CCS_KEPT, 63, 1⟩
def CCS_KEPT_PENDING : Field := ⟨R.CCS_KEPT, 62, 1⟩
def CCS_KEPT_PRESENT : Field := ⟨R.CCS_KEPT, 61, 1⟩
def CCS_KEPT_LAST_CH : Field := ⟨R.CCS_KEPT, 48, 6⟩
def CCS_KEPT_FIRST_CH : Field := ⟨R.CCS_KEPT, 40, 6⟩
def CCS_KEPT_VERSION : Field := ⟨R.CCS_KEPT, 0, 32⟩
def HBM_CFG_REF_2X (s : Nat) : Field := ⟨R.HBM_CFG s, 31, 1⟩
def HBM_CFG_ORDER (s : Nat) : Field := ⟨R.HBM_CFG s, 24, 2⟩
def HBM_CFG_AGE_MAX (s : Nat) : Field := ⟨R.HBM_CFG s, 16, 8⟩
def HBM_CFG_WR_HI (s : Nat) : Field := ⟨R.HBM_CFG s, 8, 8⟩
def HBM_CFG_WR_LO (s : Nat) : Field := ⟨R.HBM_CFG s, 0, 8⟩
def HBM_STATUS_STATE (s : Nat) : Field := ⟨R.HBM_STATUS s, 30, 2⟩
def HBM_STATUS_ORDER_ACTIVE (s : Nat) : Field := ⟨R.HBM_STATUS s, 28, 2⟩
def HBM_STATUS_REF_FAST (s : Nat) : Field := ⟨R.HBM_STATUS s, 27, 1⟩
def HBM_STATUS_POISONED (s : Nat) : Field := ⟨R.HBM_STATUS s, 16, 9⟩
def HBM_STATUS_TEMP (s : Nat) : Field := ⟨R.HBM_STATUS s, 8, 8⟩
def HBM_EVCAUSE_SR_EXIT (s : Nat) : Field := ⟨R.HBM_EVCAUSE s, 7, 1⟩
def HBM_EVCAUSE_POISON_HALF (s : Nat) : Field := ⟨R.HBM_EVCAUSE s, 6, 1⟩
def HBM_EVCAUSE_FAILED (s : Nat) : Field := ⟨R.HBM_EVCAUSE s, 5, 1⟩
def HBM_EVCAUSE_RETRAIN (s : Nat) : Field := ⟨R.HBM_EVCAUSE s, 4, 1⟩
def HBM_EVCAUSE_TEMP_OK (s : Nat) : Field := ⟨R.HBM_EVCAUSE s, 3, 1⟩
def HBM_EVCAUSE_TEMP_HOT (s : Nat) : Field := ⟨R.HBM_EVCAUSE s, 2, 1⟩
def HBM_EVCAUSE_CORR (s : Nat) : Field := ⟨R.HBM_EVCAUSE s, 1, 1⟩
def HBM_EVCAUSE_UNCORR (s : Nat) : Field := ⟨R.HBM_EVCAUSE s, 0, 1⟩
def HBM_ERRADDR_VALID (s : Nat) : Field := ⟨R.HBM_ERRADDR s, 63, 1⟩
def HBM_ERRADDR_ADDR (s : Nat) : Field := ⟨R.HBM_ERRADDR s, 0, 36⟩
def SRB_B_CFG_ROT_MODE (b : Nat) : Field := ⟨R.SRB_B_CFG b, 0, 2⟩
def SRB_B_STATUS_PSTATE (b : Nat) : Field := ⟨R.SRB_B_STATUS b, 30, 2⟩
def SRB_B_STATUS_FAILED (b : Nat) : Field := ⟨R.SRB_B_STATUS b, 29, 1⟩
def SRB_B_STATUS_WIPING (b : Nat) : Field := ⟨R.SRB_B_STATUS b, 28, 1⟩
def SRB_B_STATUS_GRANTS (b : Nat) : Field := ⟨R.SRB_B_STATUS b, 0, 8⟩
def SRB_B_ECC_CORR (b : Nat) : Field := ⟨R.SRB_B_ECC b, 32, 32⟩
def SRB_B_ECC_UNCORR (b : Nat) : Field := ⟨R.SRB_B_ECC b, 0, 32⟩
def SRB_MARCH_CTRL_START : Field := ⟨R.SRB_MARCH_CTRL, 31, 1⟩
def SRB_MARCH_CTRL_ABORT : Field := ⟨R.SRB_MARCH_CTRL, 30, 1⟩
def SRB_MARCH_CTRL_PRESERVE : Field := ⟨R.SRB_MARCH_CTRL, 29, 1⟩
def SRB_MARCH_CTRL_BANKS : Field := ⟨R.SRB_MARCH_CTRL, 0, 11⟩
def SRB_MARCH_STATUS_STATE : Field := ⟨R.SRB_MARCH_STATUS, 30, 2⟩
def SRB_MARCH_STATUS_FAIL : Field := ⟨R.SRB_MARCH_STATUS, 29, 1⟩
def SRB_MARCH_STATUS_FAIL_BANK : Field := ⟨R.SRB_MARCH_STATUS, 20, 4⟩
def SRB_MARCH_STATUS_REFUSE : Field := ⟨R.SRB_MARCH_STATUS, 17, 3⟩
def SRB_MARCH_STATUS_FAIL_WORD : Field := ⟨R.SRB_MARCH_STATUS, 0, 17⟩
def SRB_MARCH_FAILS_COUNT : Field := ⟨R.SRB_MARCH_FAILS, 32, 32⟩
def DMA_CTRL_START (n : Nat) : Field := ⟨R.DMA_CTRL n, 31, 1⟩
def DMA_CTRL_PAUSE (n : Nat) : Field := ⟨R.DMA_CTRL n, 30, 1⟩
def DMA_CTRL_RESUME (n : Nat) : Field := ⟨R.DMA_CTRL n, 29, 1⟩
def DMA_CTRL_TAILDROP (n : Nat) : Field := ⟨R.DMA_CTRL n, 28, 1⟩
def DMA_CTRL_DESC_FUNC (n : Nat) : Field := ⟨R.DMA_CTRL n, 20, 5⟩
def DMA_CTRL_DESC_SPACE (n : Nat) : Field := ⟨R.DMA_CTRL n, 16, 4⟩
def DMA_CTRL_RETRY (n : Nat) : Field := ⟨R.DMA_CTRL n, 8, 4⟩
def DMA_CTRL_MAX_OUT (n : Nat) : Field := ⟨R.DMA_CTRL n, 0, 5⟩
def DMA_DESC_ADDR (n : Nat) : Field := ⟨R.DMA_DESC n, 0, 64⟩
def DMA_STATUS_STATE (n : Nat) : Field := ⟨R.DMA_STATUS n, 29, 3⟩
def DMA_STATUS_ERR (n : Nat) : Field := ⟨R.DMA_STATUS n, 20, 4⟩
def DMA_STATUS_ERR_SPACE (n : Nat) : Field := ⟨R.DMA_STATUS n, 16, 4⟩
def DMA_STATUS_RETRIES (n : Nat) : Field := ⟨R.DMA_STATUS n, 12, 4⟩
def DMA_POS_READ (n : Nat) : Field := ⟨R.DMA_POS n, 32, 32⟩
def DMA_POS_DONE (n : Nat) : Field := ⟨R.DMA_POS n, 0, 32⟩
def DMA_ERRADDR_ADDR (n : Nat) : Field := ⟨R.DMA_ERRADDR n, 0, 64⟩
def DMA_EVCAUSE_RETRY (n : Nat) : Field := ⟨R.DMA_EVCAUSE n, 5, 1⟩
def DMA_EVCAUSE_HALTED (n : Nat) : Field := ⟨R.DMA_EVCAUSE n, 4, 1⟩
def DMA_EVCAUSE_TAILDROP (n : Nat) : Field := ⟨R.DMA_EVCAUSE n, 3, 1⟩
def DMA_EVCAUSE_PAUSED (n : Nat) : Field := ⟨R.DMA_EVCAUSE n, 2, 1⟩
def DMA_EVCAUSE_CHAIN_END (n : Nat) : Field := ⟨R.DMA_EVCAUSE n, 1, 1⟩
def DMA_EVCAUSE_DESC_DONE (n : Nat) : Field := ⟨R.DMA_EVCAUSE n, 0, 1⟩
def DMA_COUNT_DESCS (n : Nat) : Field := ⟨R.DMA_COUNT n, 32, 32⟩
def DMA_COUNT_RETRIES (n : Nat) : Field := ⟨R.DMA_COUNT n, 0, 32⟩
def DMA_HWIN_SIZE (s : Nat) : Field := ⟨R.DMA_HWIN s, 0, 9⟩
def CPH_CTRL_LOCK : Field := ⟨R.CPH_CTRL, 2, 1⟩
def CPH_CTRL_SHUFFLE : Field := ⟨R.CPH_CTRL, 1, 1⟩
def CPH_CTRL_DUMMY : Field := ⟨R.CPH_CTRL, 0, 1⟩
def CPH_STATUS_ZEROIZED : Field := ⟨R.CPH_STATUS, 5, 1⟩
def CPH_STATUS_RNG_FAIL : Field := ⟨R.CPH_STATUS, 4, 1⟩
def CPH_STATUS_LANES : Field := ⟨R.CPH_STATUS, 0, 4⟩
def CPH_SALT_SALT : Field := ⟨R.CPH_SALT, 0, 24⟩
def CPH_POISON_FILL : Field := ⟨R.CPH_POISON, 0, 64⟩
def CPH_EVCAUSE_INSTALL : Field := ⟨R.CPH_EVCAUSE, 6, 1⟩
def CPH_EVCAUSE_RNG_FAIL : Field := ⟨R.CPH_EVCAUSE, 5, 1⟩
def CPH_EVCAUSE_KEY_MISSING : Field := ⟨R.CPH_EVCAUSE, 4, 1⟩
def CPH_EVCAUSE_ZEROIZED : Field := ⟨R.CPH_EVCAUSE, 3, 1⟩
def CPH_EVCAUSE_INTEGRITY : Field := ⟨R.CPH_EVCAUSE, 2, 1⟩
def CPH_EVCAUSE_NEAR : Field := ⟨R.CPH_EVCAUSE, 1, 1⟩
def CPH_EVCAUSE_EXHAUSTED : Field := ⟨R.CPH_EVCAUSE, 0, 1⟩
def CPH_KP_STATE_STATE (k : Nat) : Field := ⟨R.CPH_KP_STATE k, 62, 2⟩
def CPH_KP_STATE_KIND (k : Nat) : Field := ⟨R.CPH_KP_STATE k, 60, 2⟩
def CPH_KP_STATE_EXHAUSTED (k : Nat) : Field := ⟨R.CPH_KP_STATE k, 59, 1⟩
def CPH_KP_STATE_OWNER (k : Nat) : Field := ⟨R.CPH_KP_STATE k, 53, 5⟩
def CPH_KP_STATE_KCV (k : Nat) : Field := ⟨R.CPH_KP_STATE k, 24, 24⟩
def CPH_KP_STATE_NS_REFS (k : Nat) : Field := ⟨R.CPH_KP_STATE k, 16, 8⟩
def CPH_KP_STATE_SQ_REFS (k : Nat) : Field := ⟨R.CPH_KP_STATE k, 8, 8⟩
def CPH_KP_STATE_SA_REFS (k : Nat) : Field := ⟨R.CPH_KP_STATE k, 0, 8⟩
def CPH_KP_KEYID_KEYID (k : Nat) : Field := ⟨R.CPH_KP_KEYID k, 0, 64⟩
def CPH_KP_INVOC_COUNT (k : Nat) : Field := ⟨R.CPH_KP_INVOC k, 0, 49⟩
def PST_CFG_REMAP_AT : Field := ⟨R.PST_CFG, 0, 3⟩
def PST_STATUS_WORN : Field := ⟨R.PST_STATUS, 31, 1⟩
def PST_STATUS_LOW : Field := ⟨R.PST_STATUS, 30, 1⟩
def PST_STATUS_SPARE_LEFT : Field := ⟨R.PST_STATUS, 0, 19⟩
def PST_EVCAUSE_WORN : Field := ⟨R.PST_EVCAUSE, 2, 1⟩
def PST_EVCAUSE_LOW : Field := ⟨R.PST_EVCAUSE, 1, 1⟩
def PST_EVCAUSE_REMAP : Field := ⟨R.PST_EVCAUSE, 0, 1⟩
def CFL_STATUS_SLOT_BAD : Field := ⟨R.CFL_STATUS, 6, 2⟩
def CFL_STATUS_SUSPENDED : Field := ⟨R.CFL_STATUS, 5, 1⟩
def CFL_STATUS_BUSY : Field := ⟨R.CFL_STATUS, 4, 1⟩
def CFL_STATUS_CAL_BAD : Field := ⟨R.CFL_STATUS, 3, 1⟩
def CFL_STATUS_OPT_DEGRADED : Field := ⟨R.CFL_STATUS, 2, 1⟩
def CFL_STATUS_OPT_BAD : Field := ⟨R.CFL_STATUS, 1, 1⟩
def CFL_STATUS_OPT_COPY : Field := ⟨R.CFL_STATUS, 0, 1⟩
def CFL_OPT_CTRL_COMMIT : Field := ⟨R.CFL_OPT_CTRL, 31, 1⟩
def CFL_OPT_CTRL_RUNNING : Field := ⟨R.CFL_OPT_CTRL, 30, 1⟩
def CFL_OPT_CTRL_RESULT : Field := ⟨R.CFL_OPT_CTRL, 0, 4⟩
def CFL_WIN_SEL_SECTOR : Field := ⟨R.CFL_WIN_SEL, 0, 9⟩
def CFL_ERASE_MAX_SLOT1 : Field := ⟨R.CFL_ERASE_MAX, 32, 32⟩
def CFL_ERASE_MAX_SLOT0 : Field := ⟨R.CFL_ERASE_MAX, 0, 32⟩
def CFL_EVCAUSE_OPT_DONE : Field := ⟨R.CFL_EVCAUSE, 2, 1⟩
def CFL_EVCAUSE_SECTOR_BAD : Field := ⟨R.CFL_EVCAUSE, 1, 1⟩
def CFL_EVCAUSE_ERASE_SLOW : Field := ⟨R.CFL_EVCAUSE, 0, 1⟩
def EVT_STATUS_FLAG (w : Nat) : Field := ⟨R.EVT_STATUS w, 0, 32⟩
def EVT_ENABLE_EN (w : Nat) : Field := ⟨R.EVT_ENABLE w, 0, 32⟩
def EVT_RAISE_RAISE (w : Nat) : Field := ⟨R.EVT_RAISE w, 0, 32⟩
def EVT_SUMMARY_WORD : Field := ⟨R.EVT_SUMMARY, 0, 32⟩
def EVT_FTC_NS : Field := ⟨R.EVT_FTC, 0, 64⟩
def EVT_REC_SEQ_OLDEST : Field := ⟨R.EVT_REC_SEQ, 32, 32⟩
def EVT_REC_SEQ_NEWEST : Field := ⟨R.EVT_REC_SEQ, 0, 32⟩
def EVT_REC_STAT_FIXED : Field := ⟨R.EVT_REC_STAT, 0, 17⟩
def EVT_ROUTE_TARGET (i : Nat) : Field := ⟨R.EVT_ROUTE i, 15, 1⟩
def EVT_ROUTE_CORE (i : Nat) : Field := ⟨R.EVT_ROUTE i, 8, 2⟩
def EVT_ROUTE_VECTOR (i : Nat) : Field := ⟨R.EVT_ROUTE i, 0, 8⟩
def TMR_CAL_ORIGIN : Field := ⟨R.TMR_CAL, 49, 3⟩
def TMR_CAL_SYNCH : Field := ⟨R.TMR_CAL, 48, 1⟩
def TMR_CAL_MS : Field := ⟨R.TMR_CAL, 0, 48⟩
def TMR_RTC_COUNT : Field := ⟨R.TMR_RTC, 0, 64⟩
def TMR_BRIDGE_COUNT : Field := ⟨R.TMR_BRIDGE, 0, 16⟩
def TMR_EVCAUSE_WDG_RESET : Field := ⟨R.TMR_EVCAUSE, 5, 1⟩
def TMR_EVCAUSE_BRIDGED : Field := ⟨R.TMR_EVCAUSE, 4, 1⟩
def TMR_EVCAUSE_RTC_STOP : Field := ⟨R.TMR_EVCAUSE, 3, 1⟩
def TMR_EVCAUSE_TIME_SET : Field := ⟨R.TMR_EVCAUSE, 2, 1⟩
def TMR_EVCAUSE_GROUP_WDG : Field := ⟨R.TMR_EVCAUSE, 0, 1⟩
def TMR_GWDG_EXPIRED : Field := ⟨R.TMR_GWDG, 0, 53⟩
def TMR_WDG_PKG_EXP : Field := ⟨R.TMR_WDG, 48, 16⟩
def TMR_WDG_DIE_EXP : Field := ⟨R.TMR_WDG, 32, 16⟩
def TMR_WDG_LAST_CAUSE : Field := ⟨R.TMR_WDG, 24, 3⟩
def TMR_WDG_LAST_DOMAIN : Field := ⟨R.TMR_WDG, 0, 6⟩
def PWR_STATE_CUR : Field := ⟨R.PWR_STATE, 29, 3⟩
def PWR_STATE_TARGET : Field := ⟨R.PWR_STATE, 26, 3⟩
def PWR_STATE_PHASE : Field := ⟨R.PWR_STATE, 24, 2⟩
def PWR_STATE_BRUM_WAIT : Field := ⟨R.PWR_STATE, 23, 1⟩
def PWR_STATE_LIMITED : Field := ⟨R.PWR_STATE, 22, 1⟩
def PWR_ENTRY_DELAY_CAP : Field := ⟨R.PWR_ENTRY, 0, 8⟩
def PWR_REFUSE_DOMAIN : Field := ⟨R.PWR_REFUSE, 58, 6⟩
def PWR_REFUSE_REASON : Field := ⟨R.PWR_REFUSE, 52, 4⟩
def PWR_REFUSE_TARGET : Field := ⟨R.PWR_REFUSE, 49, 3⟩
def PWR_REFUSE_COUNT : Field := ⟨R.PWR_REFUSE, 0, 32⟩
def PWR_DOMSTATE0_DOM : Field := ⟨R.PWR_DOMSTATE0, 0, 64⟩
def PWR_DOMSTATE1_DOM : Field := ⟨R.PWR_DOMSTATE1, 0, 42⟩
def PWR_WAKE_EN_RTC : Field := ⟨R.PWR_WAKE_EN, 3, 1⟩
def PWR_WAKE_EN_TRIG : Field := ⟨R.PWR_WAKE_EN, 2, 1⟩
def PWR_WAKE_EN_ETH_FILTER : Field := ⟨R.PWR_WAKE_EN, 1, 1⟩
def PWR_WAKE_EN_ETH_MGMT : Field := ⟨R.PWR_WAKE_EN, 0, 1⟩
def PWR_WAKE_RTC_ALARM : Field := ⟨R.PWR_WAKE_RTC, 0, 64⟩
def PWR_LAST_WAKE_SOURCE : Field := ⟨R.PWR_LAST_WAKE, 28, 4⟩
def PWR_LAST_WAKE_FROM : Field := ⟨R.PWR_LAST_WAKE, 25, 3⟩
def PWR_LAST_WAKE_DURING_ENTRY : Field := ⟨R.PWR_LAST_WAKE, 24, 1⟩
def PWR_SLEEP_FRAMES_FRAMES : Field := ⟨R.PWR_SLEEP_FRAMES, 0, 64⟩
def PWR_EVCAUSE_THERMAL : Field := ⟨R.PWR_EVCAUSE, 7, 1⟩
def PWR_EVCAUSE_DOMAIN_FAULT : Field := ⟨R.PWR_EVCAUSE, 6, 1⟩
def PWR_EVCAUSE_L2 : Field := ⟨R.PWR_EVCAUSE, 5, 1⟩
def PWR_EVCAUSE_WAKE_IN_ENTRY : Field := ⟨R.PWR_EVCAUSE, 4, 1⟩
def PWR_EVCAUSE_WAKE : Field := ⟨R.PWR_EVCAUSE, 3, 1⟩
def PWR_EVCAUSE_REFUSED : Field := ⟨R.PWR_EVCAUSE, 2, 1⟩
def PWR_EVCAUSE_EXITED : Field := ⟨R.PWR_EVCAUSE, 1, 1⟩
def PWR_EVCAUSE_ENTERED : Field := ⟨R.PWR_EVCAUSE, 0, 1⟩
def SEC_LC_STATE : Field := ⟨R.SEC_LC, 0, 3⟩
def SEC_LC_CTRL_CONFIRM : Field := ⟨R.SEC_LC_CTRL, 16, 16⟩
def SEC_LC_CTRL_RESULT : Field := ⟨R.SEC_LC_CTRL, 12, 4⟩
def SEC_LC_CTRL_RUNNING : Field := ⟨R.SEC_LC_CTRL, 11, 1⟩
def SEC_LC_CTRL_TARGET : Field := ⟨R.SEC_LC_CTRL, 0, 3⟩
def SEC_STATUS_TAMPER : Field := ⟨R.SEC_STATUS, 31, 1⟩
def SEC_STATUS_RESTRICTED : Field := ⟨R.SEC_STATUS, 30, 1⟩
def SEC_STATUS_OVERRIDE : Field := ⟨R.SEC_STATUS, 29, 1⟩
def SEC_STATUS_FALLBACK : Field := ⟨R.SEC_STATUS, 28, 1⟩
def SEC_STATUS_UPDATING : Field := ⟨R.SEC_STATUS, 27, 1⟩
def SEC_STATUS_RUN_SLOT : Field := ⟨R.SEC_STATUS, 24, 1⟩
def SEC_STATUS_MIN_SVN : Field := ⟨R.SEC_STATUS, 0, 7⟩
def SEC_FWVER_BUNDLE_VER : Field := ⟨R.SEC_FWVER, 32, 32⟩
def SEC_FWVER_FW_VER : Field := ⟨R.SEC_FWVER, 0, 32⟩
def SEC_BOOT_OVR_EN : Field := ⟨R.SEC_BOOT_OVR, 31, 1⟩
def SEC_BOOT_OVR_SLOT : Field := ⟨R.SEC_BOOT_OVR, 0, 1⟩
def SEC_TAMPER_LIVE : Field := ⟨R.SEC_TAMPER, 0, 5⟩
def SEC_EVCAUSE_FALLBACK : Field := ⟨R.SEC_EVCAUSE, 10, 1⟩
def SEC_EVCAUSE_RESTRICTED : Field := ⟨R.SEC_EVCAUSE, 9, 1⟩
def SEC_EVCAUSE_LC_DONE : Field := ⟨R.SEC_EVCAUSE, 8, 1⟩
def SEC_EVCAUSE_GRANT_END : Field := ⟨R.SEC_EVCAUSE, 7, 1⟩
def SEC_EVCAUSE_GRANT_FAIL : Field := ⟨R.SEC_EVCAUSE, 6, 1⟩
def SEC_EVCAUSE_GRANTED : Field := ⟨R.SEC_EVCAUSE, 5, 1⟩
def SEC_EVCAUSE_ALARM : Field := ⟨R.SEC_EVCAUSE, 0, 5⟩
def DBG_CHAL_CHAL : Field := ⟨R.DBG_CHAL, 0, 128⟩
def DBG_STATUS_SCOPE : Field := ⟨R.DBG_STATUS, 28, 4⟩
def DBG_STATUS_ATTACHED : Field := ⟨R.DBG_STATUS, 27, 1⟩
def DBG_STATUS_HALTED : Field := ⟨R.DBG_STATUS, 23, 4⟩
def DBG_STATUS_OBS_ON : Field := ⟨R.DBG_STATUS, 22, 1⟩
def DBG_CTRL_REVOKE : Field := ⟨R.DBG_CTRL, 31, 1⟩
def DBG_OBS_CTRL_EN : Field := ⟨R.DBG_OBS_CTRL, 31, 1⟩
def DBG_OBS_CTRL_DIV : Field := ⟨R.DBG_OBS_CTRL, 29, 2⟩
def DBG_OBS_CTRL_UNIT : Field := ⟨R.DBG_OBS_CTRL, 16, 8⟩
def DBG_OBS_CTRL_INSTANCE : Field := ⟨R.DBG_OBS_CTRL, 8, 8⟩
def DBG_OBS_CTRL_VIEW : Field := ⟨R.DBG_OBS_CTRL, 0, 2⟩

end F

/-- One row of the access map: the registers at `base + i × stride1 + j × stride2`, whether they are 64 bits wide, and
their RW, W1C and W1S bits. -/
structure RegRow where
  base    : Nat
  stride1 : Nat := 0
  count1  : Nat := 1
  stride2 : Nat := 0
  count2  : Nat := 1
  wide    : Bool := false
  rw      : Nat := 0
  w1c     : Nat := 0
  w1s     : Nat := 0
  deriving DecidableEq, Repr

/-- Whether `off` is the offset of one of the row's registers: the row's two strides nest. -/
def RegRow.hits (r : RegRow) (off : Nat) : Bool :=
  if off < r.base then false
  else
    let d := off - r.base
    if r.stride1 = 0 then d == 0
    else
      let i := d / r.stride1
      let e := d % r.stride1
      if r.count1 ≤ i then false
      else if r.stride2 = 0 then e == 0
      else decide (e % r.stride2 = 0) && decide (e / r.stride2 < r.count2)

/-- Access rows of the registers at offsets 0x0 to 0x1fffff. -/
def regRows_id : List RegRow :=
  [
   { base := 0x100000 },
   { base := 0x100010 } ]

/-- Access rows of the registers at offsets 0x200000 to 0x3fffff. -/
def regRows_lane : List RegRow :=
  [
   { base := 0x200000, stride1 := 0x100, count1 := 96, rw := 0x1f0000 },
   { base := 0x200004, stride1 := 0x100, count1 := 96 },
   { base := 0x200008, stride1 := 0x100, count1 := 96, wide := true },
   { base := 0x200010, stride1 := 0x100, count1 := 96, wide := true },
   { base := 0x200018, stride1 := 0x100, count1 := 96, wide := true } ]

/-- Access rows of the registers at offsets 0x400000 to 0x7fffff. -/
def regRows_cap : List RegRow :=
  [
   { base := 0x400000, stride1 := 0x1000, count1 := 64, rw := 0xbf8ff0ff },
   { base := 0x400004, stride1 := 0x1000, count1 := 64 },
   { base := 0x400008, stride1 := 0x1000, count1 := 64, rw := 0xffffffff },
   { base := 0x40000c, stride1 := 0x1000, count1 := 64, rw := 0x1fff },
   { base := 0x400010, stride1 := 0x1000, count1 := 64, wide := true, rw := 0xffffffffffffffff },
   { base := 0x400018, stride1 := 0x1000, count1 := 64 },
   { base := 0x40001c, stride1 := 0x1000, count1 := 64, rw := 0xfffff },
   { base := 0x400020, stride1 := 0x1000, count1 := 64, rw := 0x1f03 },
   { base := 0x400028, stride1 := 0x1000, count1 := 64, wide := true, rw := 0x8000ffffffffffff },
   { base := 0x400030, stride1 := 0x1000, count1 := 64, wide := true, rw := 0xffffffffffffffff },
   { base := 0x400038, stride1 := 0x1000, count1 := 64, wide := true },
   { base := 0x400040, stride1 := 0x1000, count1 := 64 },
   { base := 0x400044, stride1 := 0x1000, count1 := 64 },
   { base := 0x400048, stride1 := 0x1000, count1 := 64, w1c := 0x7f },
   { base := 0x40004c, stride1 := 0x1000, count1 := 64 },
   { base := 0x400080, stride1 := 0x1000, count1 := 64, stride2 := 0x8, count2 := 16, wide := true, rw := 0xffffffffffffffff },
   { base := 0x400100, stride1 := 0x1000, count1 := 64, stride2 := 0x8, count2 := 16, wide := true },
   { base := 0x440000, stride1 := 0x40, count1 := 512, wide := true, rw := 0xffffffff00000000 },
   { base := 0x440008, stride1 := 0x40, count1 := 512, wide := true, rw := 0xffffffffffffffff },
   { base := 0x440010, stride1 := 0x40, count1 := 512, wide := true, rw := 0xffffffffffffffff },
   { base := 0x440018, stride1 := 0x40, count1 := 512, wide := true, rw := 0xffffffffffffffff },
   { base := 0x440020, stride1 := 0x40, count1 := 512, wide := true, rw := 0xffffffffffffffff },
   { base := 0x440028, stride1 := 0x40, count1 := 512, wide := true, rw := 0xffffffff0000ffff },
   { base := 0x440030, stride1 := 0x40, count1 := 512, wide := true, rw := 0xffffffffffffffff },
   { base := 0x440038, stride1 := 0x40, count1 := 512, wide := true, rw := 0xf0ff03f000000000 },
   { base := 0x400200, stride1 := 0x1000, count1 := 64, wide := true },
   { base := 0x400208, stride1 := 0x1000, count1 := 64, wide := true },
   { base := 0x400210, stride1 := 0x1000, count1 := 64, wide := true },
   { base := 0x400218, stride1 := 0x1000, count1 := 64, wide := true },
   { base := 0x400220, stride1 := 0x1000, count1 := 64, wide := true },
   { base := 0x400228, stride1 := 0x1000, count1 := 64, wide := true },
   { base := 0x400230, stride1 := 0x1000, count1 := 64, wide := true },
   { base := 0x400238, stride1 := 0x1000, count1 := 64, wide := true },
   { base := 0x400240, stride1 := 0x1000, count1 := 64, wide := true },
   { base := 0x400248, stride1 := 0x1000, count1 := 64, wide := true },
   { base := 0x400250, stride1 := 0x1000, count1 := 64, wide := true },
   { base := 0x400258, stride1 := 0x1000, count1 := 64, wide := true },
   { base := 0x400260, stride1 := 0x1000, count1 := 64, wide := true },
   { base := 0x400268, stride1 := 0x1000, count1 := 64, wide := true },
   { base := 0x400270, stride1 := 0x1000, count1 := 64, wide := true } ]

/-- Access rows of the registers at offsets 0x400000 to 0x7fffff. -/
def regRows_cap2 : List RegRow :=
  [
   { base := 0x400278, stride1 := 0x1000, count1 := 64, wide := true },
   { base := 0x400280, stride1 := 0x1000, count1 := 64, wide := true },
   { base := 0x400288, stride1 := 0x1000, count1 := 64, wide := true },
   { base := 0x400290, stride1 := 0x1000, count1 := 64, wide := true },
   { base := 0x400300, stride1 := 0x1000, count1 := 64, stride2 := 0x20, count2 := 4, wide := true, rw := 0xfffffffffffff000 },
   { base := 0x400308, stride1 := 0x1000, count1 := 64, stride2 := 0x20, count2 := 4, rw := 0x31f },
   { base := 0x40030c, stride1 := 0x1000, count1 := 64, stride2 := 0x20, count2 := 4 },
   { base := 0x400310, stride1 := 0x1000, count1 := 64, stride2 := 0x20, count2 := 4, rw := 0xffffffff },
   { base := 0x400050, stride1 := 0x1000, count1 := 64, wide := true, rw := 0xcff0ffffffffffff },
   { base := 0x400058, stride1 := 0x1000, count1 := 64, rw := 0x1ffff },
   { base := 0x40005c, stride1 := 0x1000, count1 := 64 },
   { base := 0x4c0000, wide := true, rw := 0xcfffffff00000000 },
   { base := 0x4c0008 },
   { base := 0x4c0010, rw := 0xffffffff },
   { base := 0x4c0020, stride1 := 0x8, count1 := 4, wide := true },
   { base := 0x4c0040, wide := true },
   { base := 0x4c0048, wide := true },
   { base := 0x4c0050, wide := true },
   { base := 0x4c0058, wide := true },
   { base := 0x4c0060, wide := true },
   { base := 0x4c0068, wide := true },
   { base := 0x4c0070, wide := true },
   { base := 0x4c0078, wide := true },
   { base := 0x480000, stride1 := 0x40, count1 := 4096, wide := true },
   { base := 0x480008, stride1 := 0x40, count1 := 4096, wide := true },
   { base := 0x480010, stride1 := 0x40, count1 := 4096, wide := true },
   { base := 0x480018, stride1 := 0x40, count1 := 4096, wide := true },
   { base := 0x480020, stride1 := 0x40, count1 := 4096, wide := true },
   { base := 0x480028, stride1 := 0x40, count1 := 4096, wide := true },
   { base := 0x480030, stride1 := 0x40, count1 := 4096, wide := true },
   { base := 0x480038, stride1 := 0x40, count1 := 4096, wide := true } ]

/-- Access rows of the registers at offsets 0x800000 to 0xbfffff. -/
def regRows_uen : List RegRow :=
  [
   { base := 0x800000 },
   { base := 0x800100, stride1 := 0x4, count1 := 16 },
   { base := 0x800180, stride1 := 0x8, count1 := 16, wide := true },
   { base := 0x800200, stride1 := 0x8, count1 := 16, wide := true, w1c := 0x8000000000000000 } ]

/-- Access rows of the registers at offsets 0xc00000 to 0xffffff. -/
def regRows_eth : List RegRow :=
  [
   { base := 0xc00000, stride1 := 0x10000, count1 := 8, rw := 0x3f },
   { base := 0xc00004, stride1 := 0x10000, count1 := 8 },
   { base := 0xc00008, stride1 := 0x10000, count1 := 8, w1c := 0xff },
   { base := 0xc00010, stride1 := 0x10000, count1 := 8, rw := 0xfbffffff },
   { base := 0xc00100, stride1 := 0x10000, count1 := 8, stride2 := 0x40, count2 := 4, wide := true, rw := 0xffffffffffff },
   { base := 0xc00108, stride1 := 0x10000, count1 := 8, stride2 := 0x40, count2 := 4, rw := 0xffffffff },
   { base := 0xc00110, stride1 := 0x10000, count1 := 8, stride2 := 0x40, count2 := 4, wide := true, rw := 0xffffffffffffffff },
   { base := 0xc00120, stride1 := 0x10000, count1 := 8, stride2 := 0x40, count2 := 4, wide := true, rw := 0xffffffffffffffff },
   { base := 0xc00128, stride1 := 0x10000, count1 := 8, stride2 := 0x40, count2 := 4, wide := true, rw := 0xffffffffffffffff },
   { base := 0xc00130, stride1 := 0x10000, count1 := 8, stride2 := 0x40, count2 := 4, wide := true, rw := 0xffffffffffffffff },
   { base := 0xc00138, stride1 := 0x10000, count1 := 8, stride2 := 0x40, count2 := 4, wide := true, rw := 0xffffffffffffffff },
   { base := 0xc04000, stride1 := 0x10000, count1 := 8, stride2 := 0x10, count2 := 64, wide := true, rw := 0xffffffffffffffff },
   { base := 0xc04008, stride1 := 0x10000, count1 := 8, stride2 := 0x10, count2 := 64, wide := true, rw := 0xf0000000ffffffff },
   { base := 0xc08000, stride1 := 0x10000, count1 := 8, stride2 := 0x40, count2 := 256, wide := true },
   { base := 0xc08008, stride1 := 0x10000, count1 := 8, stride2 := 0x40, count2 := 256, wide := true },
   { base := 0xc08010, stride1 := 0x10000, count1 := 8, stride2 := 0x40, count2 := 256, wide := true },
   { base := 0xc08018, stride1 := 0x10000, count1 := 8, stride2 := 0x40, count2 := 256, wide := true },
   { base := 0xc08020, stride1 := 0x10000, count1 := 8, stride2 := 0x40, count2 := 256, wide := true, rw := 0xffffffffffffffff },
   { base := 0xc08028, stride1 := 0x10000, count1 := 8, stride2 := 0x40, count2 := 256, wide := true, rw := 0xffffffff00000000 },
   { base := 0xc08030, stride1 := 0x10000, count1 := 8, stride2 := 0x40, count2 := 256, wide := true, rw := 0xffffffffffffffff },
   { base := 0xc08038, stride1 := 0x10000, count1 := 8, stride2 := 0x40, count2 := 256, wide := true, rw := 0xc00000ffffffffff },
   { base := 0xc0c000, stride1 := 0x10000, count1 := 8, stride2 := 0x40, count2 := 4, wide := true },
   { base := 0xc0c008, stride1 := 0x10000, count1 := 8, stride2 := 0x40, count2 := 4, wide := true },
   { base := 0xc0c010, stride1 := 0x10000, count1 := 8, stride2 := 0x40, count2 := 4, wide := true },
   { base := 0xc0c018, stride1 := 0x10000, count1 := 8, stride2 := 0x40, count2 := 4, wide := true, rw := 0xffffffffffffffff },
   { base := 0xc0c020, stride1 := 0x10000, count1 := 8, stride2 := 0x40, count2 := 4, wide := true, rw := 0xffffffffffffffff },
   { base := 0xc0c028, stride1 := 0x10000, count1 := 8, stride2 := 0x40, count2 := 4, wide := true, rw := 0xffffffff00000000 },
   { base := 0xc0c030, stride1 := 0x10000, count1 := 8, stride2 := 0x40, count2 := 4, wide := true, rw := 0xffffffffffffffff },
   { base := 0xc0c038, stride1 := 0x10000, count1 := 8, stride2 := 0x40, count2 := 4, wide := true, rw := 0xc30000ffffffffff },
   { base := 0xc02000, stride1 := 0x10000, count1 := 8, wide := true },
   { base := 0xc02008, stride1 := 0x10000, count1 := 8, wide := true },
   { base := 0xc02010, stride1 := 0x10000, count1 := 8, wide := true },
   { base := 0xc02018, stride1 := 0x10000, count1 := 8, wide := true },
   { base := 0xc02020, stride1 := 0x10000, count1 := 8, wide := true },
   { base := 0xc02028, stride1 := 0x10000, count1 := 8, wide := true },
   { base := 0xc02030, stride1 := 0x10000, count1 := 8, wide := true },
   { base := 0xc02038, stride1 := 0x10000, count1 := 8, wide := true, w1c := 0x8000000000000000 },
   { base := 0xc01000, stride1 := 0x10000, count1 := 8, stride2 := 0x100, count2 := 4, wide := true },
   { base := 0xc01008, stride1 := 0x10000, count1 := 8, stride2 := 0x100, count2 := 4, wide := true },
   { base := 0xc01010, stride1 := 0x10000, count1 := 8, stride2 := 0x100, count2 := 4, wide := true } ]

/-- Access rows of the registers at offsets 0xc00000 to 0xffffff. -/
def regRows_eth2 : List RegRow :=
  [
   { base := 0xc01018, stride1 := 0x10000, count1 := 8, stride2 := 0x100, count2 := 4, wide := true },
   { base := 0xc01020, stride1 := 0x10000, count1 := 8, stride2 := 0x100, count2 := 4, wide := true },
   { base := 0xc01028, stride1 := 0x10000, count1 := 8, stride2 := 0x100, count2 := 4, wide := true },
   { base := 0xc01030, stride1 := 0x10000, count1 := 8, stride2 := 0x100, count2 := 4, wide := true },
   { base := 0xc01038, stride1 := 0x10000, count1 := 8, stride2 := 0x100, count2 := 4, wide := true },
   { base := 0xc01040, stride1 := 0x10000, count1 := 8, stride2 := 0x100, count2 := 4, wide := true },
   { base := 0xc01048, stride1 := 0x10000, count1 := 8, stride2 := 0x100, count2 := 4, wide := true },
   { base := 0xc01050, stride1 := 0x10000, count1 := 8, stride2 := 0x100, count2 := 4, wide := true },
   { base := 0xc01058, stride1 := 0x10000, count1 := 8, stride2 := 0x100, count2 := 4, wide := true },
   { base := 0xc01060, stride1 := 0x10000, count1 := 8, stride2 := 0x100, count2 := 4, wide := true },
   { base := 0xc01068, stride1 := 0x10000, count1 := 8, stride2 := 0x100, count2 := 4, wide := true },
   { base := 0xc01070, stride1 := 0x10000, count1 := 8, stride2 := 0x100, count2 := 4, wide := true },
   { base := 0xc01078, stride1 := 0x10000, count1 := 8, stride2 := 0x100, count2 := 4, wide := true },
   { base := 0xc01080, stride1 := 0x10000, count1 := 8, stride2 := 0x100, count2 := 4, wide := true },
   { base := 0xc01088, stride1 := 0x10000, count1 := 8, stride2 := 0x100, count2 := 4, wide := true },
   { base := 0xc01090, stride1 := 0x10000, count1 := 8, stride2 := 0x100, count2 := 4, wide := true },
   { base := 0xc01098, stride1 := 0x10000, count1 := 8, stride2 := 0x100, count2 := 4, wide := true },
   { base := 0xc010a0, stride1 := 0x10000, count1 := 8, stride2 := 0x100, count2 := 4, wide := true },
   { base := 0xc010a8, stride1 := 0x10000, count1 := 8, stride2 := 0x100, count2 := 4, wide := true },
   { base := 0xc010b0, stride1 := 0x10000, count1 := 8, stride2 := 0x100, count2 := 4, wide := true } ]

/-- Access rows of the registers at offsets 0x1000000 to 0x11fffff. -/
def regRows_ch : List RegRow :=
  [
   { base := 0x1000000, stride1 := 0x4000, count1 := 64, rw := 0xf00ffff },
   { base := 0x1000004, stride1 := 0x4000, count1 := 64 },
   { base := 0x1000008, stride1 := 0x4000, count1 := 64, w1c := 0x7f3f },
   { base := 0x1000010, stride1 := 0x4000, count1 := 64, rw := 0xffffff00 },
   { base := 0x1000014, stride1 := 0x4000, count1 := 64, rw := 0xfff1ff },
   { base := 0x1000018, stride1 := 0x4000, count1 := 64 },
   { base := 0x1000100, stride1 := 0x4000, count1 := 64, stride2 := 0x10, count2 := 16, wide := true },
   { base := 0x1000108, stride1 := 0x4000, count1 := 64, stride2 := 0x10, count2 := 16, wide := true },
   { base := 0x1000800, stride1 := 0x4000, count1 := 64, wide := true },
   { base := 0x1000808, stride1 := 0x4000, count1 := 64, wide := true },
   { base := 0x1000810, stride1 := 0x4000, count1 := 64, wide := true },
   { base := 0x1000818, stride1 := 0x4000, count1 := 64, wide := true },
   { base := 0x1000820, stride1 := 0x4000, count1 := 64, wide := true },
   { base := 0x1000828, stride1 := 0x4000, count1 := 64, wide := true },
   { base := 0x1000830, stride1 := 0x4000, count1 := 64, wide := true },
   { base := 0x1000838, stride1 := 0x4000, count1 := 64, wide := true },
   { base := 0x1000840, stride1 := 0x4000, count1 := 64, wide := true },
   { base := 0x1000848, stride1 := 0x4000, count1 := 64, wide := true },
   { base := 0x1000850, stride1 := 0x4000, count1 := 64, wide := true },
   { base := 0x1000858, stride1 := 0x4000, count1 := 64, wide := true },
   { base := 0x1000860, stride1 := 0x4000, count1 := 64, wide := true },
   { base := 0x1000868, stride1 := 0x4000, count1 := 64, wide := true },
   { base := 0x1100000, rw := 0x3f },
   { base := 0x1100008, wide := true },
   { base := 0x1100010, wide := true } ]

/-- Access rows of the registers at offsets 0x1200000 to 0x12fffff. -/
def regRows_ftl : List RegRow :=
  [
   { base := 0x1200000, rw := 0xfffffff },
   { base := 0x1200004, rw := 0xffffff },
   { base := 0x1200008 },
   { base := 0x1200010, wide := true },
   { base := 0x1200018, wide := true },
   { base := 0x1200020, wide := true },
   { base := 0x1200040, w1c := 0x7ff },
   { base := 0x1200100, stride1 := 0x10, count1 := 16, wide := true },
   { base := 0x1200048 } ]

/-- Access rows of the registers at offsets 0x1300000 to 0x13fffff. -/
def regRows_hbm : List RegRow :=
  [
   { base := 0x1300000, stride1 := 0x20000, count1 := 4, rw := 0x83ffffff },
   { base := 0x1300004, stride1 := 0x20000, count1 := 4 },
   { base := 0x1300008, stride1 := 0x20000, count1 := 4, w1c := 0xff },
   { base := 0x1300010, stride1 := 0x20000, count1 := 4, wide := true, w1c := 0x8000000000000000 },
   { base := 0x1300100, stride1 := 0x20000, count1 := 4, wide := true },
   { base := 0x1300108, stride1 := 0x20000, count1 := 4, wide := true },
   { base := 0x1300110, stride1 := 0x20000, count1 := 4, wide := true },
   { base := 0x1300118, stride1 := 0x20000, count1 := 4, wide := true },
   { base := 0x1300120, stride1 := 0x20000, count1 := 4, wide := true },
   { base := 0x1300128, stride1 := 0x20000, count1 := 4, wide := true },
   { base := 0x1300130, stride1 := 0x20000, count1 := 4, wide := true },
   { base := 0x1300138, stride1 := 0x20000, count1 := 4, wide := true },
   { base := 0x1300140, stride1 := 0x20000, count1 := 4, wide := true },
   { base := 0x1300148, stride1 := 0x20000, count1 := 4, wide := true },
   { base := 0x1380000, stride1 := 0x40, count1 := 11, rw := 0x3 },
   { base := 0x1380004, stride1 := 0x40, count1 := 11 },
   { base := 0x1380008, stride1 := 0x40, count1 := 11, wide := true },
   { base := 0x1381000, rw := 0x200007ff },
   { base := 0x1381004 },
   { base := 0x1381008, wide := true } ]

/-- Access rows of the registers at offsets 0x1400000 to 0x14fffff. -/
def regRows_dma : List RegRow :=
  [
   { base := 0x1400000, stride1 := 0x100, count1 := 64, rw := 0x1ff0f1f },
   { base := 0x1400008, stride1 := 0x100, count1 := 64, wide := true, rw := 0xffffffffffffffff },
   { base := 0x1400010, stride1 := 0x100, count1 := 64 },
   { base := 0x1400018, stride1 := 0x100, count1 := 64, wide := true },
   { base := 0x1400020, stride1 := 0x100, count1 := 64, wide := true },
   { base := 0x1400028, stride1 := 0x100, count1 := 64, w1c := 0x3f },
   { base := 0x1400030, stride1 := 0x100, count1 := 64, wide := true },
   { base := 0x1408000, stride1 := 0x4, count1 := 4, rw := 0x1ff } ]

/-- Access rows of the registers at offsets 0x1500000 to 0x15fffff. -/
def regRows_cph : List RegRow :=
  [
   { base := 0x1500000, rw := 0x3, w1s := 0x4 },
   { base := 0x1500004 },
   { base := 0x1500008 },
   { base := 0x1500010, wide := true, rw := 0xffffffffffffffff },
   { base := 0x1500040, w1c := 0x7f },
   { base := 0x1500100, stride1 := 0x20, count1 := 4, wide := true },
   { base := 0x1500108, stride1 := 0x20, count1 := 4, wide := true },
   { base := 0x1500110, stride1 := 0x20, count1 := 4, wide := true },
   { base := 0x1508000, stride1 := 0x80, count1 := 256, wide := true, rw := 0x3e0000000000000 },
   { base := 0x1508008, stride1 := 0x80, count1 := 256, wide := true },
   { base := 0x1508010, stride1 := 0x80, count1 := 256, wide := true } ]

/-- Access rows of the registers at offsets 0x1600000 to 0x16fffff. -/
def regRows_pst : List RegRow :=
  [
   { base := 0x1600000, rw := 0x7 },
   { base := 0x1600004 },
   { base := 0x1600008, w1c := 0x7 },
   { base := 0x1600100, wide := true },
   { base := 0x1600108, wide := true },
   { base := 0x1600110, wide := true },
   { base := 0x1680000 },
   { base := 0x1680004 },
   { base := 0x1680008, rw := 0x1ff },
   { base := 0x1680010, wide := true },
   { base := 0x1680040, w1c := 0x7 } ]

/-- Access rows of the registers at offsets 0x1700000 to 0x17fffff. -/
def regRows_evt : List RegRow :=
  [
   { base := 0x1700000, stride1 := 0x4, count1 := 32, w1c := 0xffffffff },
   { base := 0x1700080, stride1 := 0x4, count1 := 32, rw := 0xffffffff },
   { base := 0x1700100, stride1 := 0x4, count1 := 4 },
   { base := 0x1700110 },
   { base := 0x1700118, wide := true },
   { base := 0x1700120, wide := true },
   { base := 0x1700128 },
   { base := 0x1701000, stride1 := 0x4, count1 := 1024, rw := 0x83ff },
   { base := 0x1780000, wide := true },
   { base := 0x1780008, wide := true },
   { base := 0x1780010 },
   { base := 0x1780040, w1c := 0x3d },
   { base := 0x1780048, wide := true, w1c := 0x1fffffffffffff },
   { base := 0x1780050, wide := true } ]

/-- Access rows of the registers at offsets 0x1800000 to 0x1ffffff. -/
def regRows_aon : List RegRow :=
  [
   { base := 0x1840000, rw := 0xffffffff },
   { base := 0x1840004, rw := 0xffffffff },
   { base := 0x1840008, rw := 0x40000000 },
   { base := 0x184000c },
   { base := 0x1840014, rw := 0xffff },
   { base := 0x1840010 },
   { base := 0x1840018, wide := true },
   { base := 0x1840020 },
   { base := 0x1840040, w1c := 0xff },
   { base := 0x1800000 },
   { base := 0x1800004, rw := 0xff },
   { base := 0x1800008, wide := true },
   { base := 0x1800010, wide := true },
   { base := 0x1800018, wide := true },
   { base := 0x1800020, rw := 0xf },
   { base := 0x1800028, wide := true, rw := 0xffffffffffffffff },
   { base := 0x1800030 },
   { base := 0x1800038, wide := true },
   { base := 0x1800040, w1c := 0xff },
   { base := 0x1900000 },
   { base := 0x1900004 },
   { base := 0x1900008 },
   { base := 0x1900010, wide := true },
   { base := 0x1900018, rw := 0x80000001 },
   { base := 0x1900020 },
   { base := 0x1900040, w1c := 0x7ff },
   { base := 0x1901000, wide := true },
   { base := 0x1901008, wide := true },
   { base := 0x1901010 },
   { base := 0x1901014 },
   { base := 0x1901018, rw := 0xe0ffff03 } ]

/-- The access rows that can cover `off`, by unit. -/
def regRowsAt (off : Nat) : List RegRow :=
  if off < 0x200000 then regRows_id else
  if off < 0x400000 then regRows_lane else
  if off < 0x800000 then regRows_cap ++ regRows_cap2 else
  if off < 0xc00000 then regRows_uen else
  if off < 0x1000000 then regRows_eth ++ regRows_eth2 else
  if off < 0x1200000 then regRows_ch else
  if off < 0x1300000 then regRows_ftl else
  if off < 0x1400000 then regRows_hbm else
  if off < 0x1500000 then regRows_dma else
  if off < 0x1600000 then regRows_cph else
  if off < 0x1700000 then regRows_pst else
  if off < 0x1800000 then regRows_evt else
  if off < 0x2000000 then regRows_aon else
  []

/-- The access row of the register at `off`; none where no register lies there (R11). -/
def regRow (off : Nat) : Option RegRow := (regRowsAt off).find? (fun r => r.hits off)

/-- The registers whose reset value the spec gives as a nonzero number. -/
def resetRows : List (RegRow × Nat) :=
  [({ base := 0x800000 }, 0x4000400),
   ({ base := 0x400000, stride1 := 0x1000, count1 := 64 }, 0xff020),
   ({ base := 0x40000c, stride1 := 0x1000, count1 := 64 }, 0x40),
   ({ base := 0x400020, stride1 := 0x1000, count1 := 64 }, 0x1002),
   ({ base := 0x4c0008 }, 0x1000),
   ({ base := 0xc00010, stride1 := 0x10000, count1 := 8 }, 0x100ffff),
   ({ base := 0xc00108, stride1 := 0x10000, count1 := 8, stride2 := 0x40, count2 := 4 }, 0x34000900),
   ({ base := 0x1200000 }, 0x1908208),
   ({ base := 0x1200004 }, 0x2060a),
   ({ base := 0x1840000 }, 0x1f405a28),
   ({ base := 0x1840004 }, 0x1194),
   ({ base := 0x1840008 }, 0x40000000),
   ({ base := 0x1840014 }, 0x2a30),
   ({ base := 0x1000000, stride1 := 0x4000, count1 := 64 }, 0x500080a),
   ({ base := 0x1000010, stride1 := 0x4000, count1 := 64 }, 0x280a0200),
   ({ base := 0x1000014, stride1 := 0x4000, count1 := 64 }, 0xa04132),
   ({ base := 0x1300000, stride1 := 0x20000, count1 := 4 }, 0x203010),
   ({ base := 0x1380000, stride1 := 0x40, count1 := 11 }, 0x2),
   ({ base := 0x1400000, stride1 := 0x100, count1 := 64 }, 0x20308),
   ({ base := 0x1500000 }, 0x3),
   ({ base := 0x1500010 }, 0x5a5a5a5a5a5a5a5a),
   ({ base := 0x1600000 }, 0x3),
   ({ base := 0x1800004 }, 0x19)]

/-- The reset value of the register at `off` (a 32-bit register in the low half). -/
def resetValue (off : Nat) : W64 :=
  match resetRows.find? (fun r => r.1.hits off) with
  | some r => BitVec.ofNat 64 r.2
  | none => 0

end Sys2Proof.Machine
end

