-- ==== Sys2Proof/Machine/Types.lean ====
section
/-! DEFINITION. The parts of the machine's state that lie behind its registers: threads, streams, extents, spans,
queues, lanes, maps, group blocks, dies, banks, channels, key pages, memories, events, time, power and security. -/

namespace Sys2Proof.Machine

/-! ## The stream engine cluster (The Urette Instruction Set) -/

/-- An admitted datagram: what R39's registers u1 to u6 say of it, its UDP payload, and the receive cells it holds in
its sub-port's area (R158); `dead` when its stream was not Running as the filter assigned it (R65, R66). -/
structure Dgram where
  stream  : Nat
  filt    : Nat
  port    : Nat
  sub     : Nat
  time    : W64
  macsec  : Bool
  ipv6    : Bool
  payload : Bytes
  cells   : Nat
  dead    : Bool := false
  deriving DecidableEq, Repr

/-- An entry of a thread's side-effect queue (R44): a TRIGGER with the handle it recorded at issue (`none`: no current
span) and whether it named the current span, a COUNT, a STAMP or an EVENT. -/
inductive SideEff where
  | trigger (handle : Option Nat) (commit current : Bool)
  | count (k : Nat) (amount : W64)
  | stamp
  | event (n : Nat)
  deriving DecidableEq, Repr

/-- A REPEAT under way (R50): its counter register, the body's first word and length, its count and the current pass. -/
structure Rep where
  d     : Nat
  first : Nat
  len   : Nat
  n     : Nat
  i     : Nat
  deriving DecidableEq, Repr

/-- A thread that holds a datagram (R37, R39). `base` is the word index of its program in the program store and `len`
its length; `accepted` is true once its outcome is accepted and its entries are being released (R44). -/
structure Thread where
  dgram    : Dgram
  regs     : Tbl W64 := []
  base     : Nat
  len      : Nat
  pc       : Nat := 0
  slots    : Nat := 0
  budget   : Nat
  rep      : Option Rep := none
  seqDone  : Bool := false
  queue    : List SideEff := []
  accepted : Bool := false
  /-- The placement of an accepted PLACE, by number, and the extents that have received bytes of it. -/
  placeId  : Option Nat := none
  recv     : List Nat := []
  deriving DecidableEq, Repr

/-- A run of granules that holds a program (R54); `stream` is none once the program was replaced and only its last
threads still run it (R58). -/
structure Prog where
  gran   : Nat
  grans  : Nat
  words  : Nat
  stream : Option Nat
  deriving DecidableEq, Repr

/-- The stream engine cluster: its threads (thread t of engine e under 8e + t), the program store, the words that carry
a double-bit error (R53), the programs, the header rings (datagrams on their way, by port), the datagrams that wait for
a thread in arrival order (R37, R78), the number of the next placement, and the header windows latched with the engine
faults (UEN.ENGn_HDR). -/
structure Urette where
  threads : Tbl (Option Thread) := []
  store   : Tbl W64 := []
  eccBad  : List Nat := []
  progs   : List Prog := []
  rings   : Tbl (List Dgram) := []
  waiting : List Dgram := []
  placeNo : Nat := 0
  hdrs    : Tbl Bytes := []
  deriving DecidableEq, Repr

/-! ## Capture streams and spans -/

/-- An extent held in HBM by a stream or a span: open, or sealed with its block states fixed (R81 to R87). `opened` is
false for an extent sealed under R85. `bytes` lists the bytes placements wrote; the others read the fill pattern. -/
structure Extent where
  opened     : Bool := true
  isSealed   : Bool := false
  counts     : Tbl Nat := []
  bytes      : Mem := []
  fill       : W64 := 0
  stamps     : Option (W64 × W64) := none
  /-- Sealed by completion, and sealed for another cause (R553). -/
  byComplete : Bool := false
  byOther    : Bool := false
  /-- Stored in the provisional flash pool, and where (R111). -/
  stored     : Option Nat := none
  /-- Landed: its map entry is updated (R91). -/
  landed     : Bool := false
  deriving DecidableEq, Repr

/-- An accepted placement that waits in the placement hold (R77, R79): its number, its window offset, the payload bytes
it places, the staging bank and the cells it holds, its arrival time, whether a STAMP of its run is released, and whether it waits for a span
descriptor (R113). -/
structure Placement where
  num    : Nat
  off    : Nat
  bytes  : Bytes
  bank   : Nat
  cells  : Nat
  time   : W64
  stamp  : Bool := false
  waited : Bool := false
  deriving DecidableEq, Repr

/-- A reserved divert entry (R100): its queue, its number, the datagram and the tag. -/
structure DivEntry where
  q     : Nat
  n     : Nat
  dgram : Dgram
  tag   : W32
  deriving DecidableEq, Repr

/-- What a stream holds behind its context registers: its extents by namespace extent index, the placements in the
hold in order of acceptance, the tracker's marks (R74), DROP counts per reason (R94), the divert queues' reservation
counts, entries reserved and entries written above TAIL (R98, R100), the top of the last span it opened since it was started (R105),
the ranges of decided spans LANDED has not passed (R135), and the extents of the HBM ring taken at its start (R110). -/
structure Stream where
  exts    : Tbl (Option Extent) := []
  hold    : List Placement := []
  marks   : List Nat := []
  drops   : Tbl Nat := []
  divRes  : Tbl Nat := []
  divPend : List DivEntry := []
  divDone : List (Nat × Nat) := []
  top     : Option Nat := none
  decided : List (Nat × Nat) := []
  ring    : Nat := 0
  deriving DecidableEq, Repr

/-- A command that waits for a span's commit instant (R123): its lane and tag and the outcome code it will carry. -/
structure SpanWait where
  lane : Nat
  tag  : Nat
  code : Nat
  deriving DecidableEq, Repr

/-- What a span holds behind its descriptor: its extents by namespace extent index, one above the highest extent that has an accepted
placement (R107), the number of the next placement when a decision cut it (R107, R108), the TIMEOUT it took (R126), its place in the order of accepted commits (R127), the waiting commands, and the origin sequence its commit assigned (R242). -/
structure SpanX where
  exts     : Tbl (Option Extent) := []
  high     : Nat := 0
  cutAt    : Option Nat := none
  timeout  : Nat := 0
  order    : Nat := 0
  waits    : List SpanWait := []
  origin   : Nat := 0
  deriving DecidableEq, Repr

/-- An extent sealed in a window its stream has left by a new WIN or NSID, and not landed: its stream, its namespace and its index. -/
structure Drain where
  stream : Nat
  nsid   : Nat
  idx    : Nat
  ext    : Extent
  deriving DecidableEq, Repr

/-- The capture unit behind its registers: streams, spans (one entry for each descriptor that is not Free), the number of commits
accepted, and the extents of earlier windows still to land, the one sealed first at the front. -/
structure Capture where
  streams : Tbl Stream := []
  spans   : Tbl (Option SpanX) := []
  orderNo : Nat := 0
  drains  : List Drain := []
  deriving DecidableEq, Repr

/-! ## Ethernet ports -/

/-- An ARP or neighbour-discovery request in the management bank that waits for its reply (R160). -/
structure MgmtReq where
  port   : Nat
  sub    : Nat
  ipv6   : Bool
  target : Nat
  mac    : Nat
  ip     : Nat
  deriving DecidableEq, Repr

/-- The ports behind their registers, sub-port j of port p under 4p + j: receive cells and placement-hold cells in use
(R76), the sub-ports whose last pause frame was an XOFF, with whether it was PFC and its priority (R159), the tokens of the hand-over bucket missing from its 4,096 (R160),
requests that wait for a reply, gratuitous announcements due, and for each SA in use the key page it names and its copy of the
SAK (R412, R418; SA n of RXSC i of port p under 512p + 4i + n, TXSA j under 512p + 256 + j). -/
structure Eth where
  recvUsed : Tbl Nat := []
  holdUsed : Tbl Nat := []
  xoff     : List (Nat × Bool × Nat) := []
  tokensUsed : Tbl Nat := []
  requests : List MgmtReq := []
  garpDue  : List (Nat × Nat) := []
  saKeys   : Tbl (Option (Nat × Bytes)) := []
  deriving DecidableEq, Repr

/-! ## The NVMe controllers and the lanes -/

/-- An I/O submission queue (R183, R185, R186): the host's tail, the first entry not fetched, its lane, its completion
queue, its key page, and the Delete that waits for its commands (R188). -/
structure Sq where
  base    : W64
  size    : Nat
  cqid    : Nat
  lane    : Nat
  tail    : Nat := 0
  next    : Nat := 0
  keyPage : Option Nat := none
  deleting : Option (BitVec 16) := none
  deriving DecidableEq, Repr

/-- A completion queue: where its next entry goes, the phase tag, its interrupt, and entries whose interrupt is held by
coalescing (R177). -/
structure Cq where
  base  : W64
  size  : Nat
  tail  : Nat := 0
  phase : Bool := true
  ien   : Bool := false
  iv    : Nat := 0
  held  : Nat := 0
  deriving DecidableEq, Repr

/-- An entry of the Error Information log (R221, R557). -/
structure ErrEntry where
  count  : Nat
  sqid   : Nat
  cid    : BitVec 16
  status : Nat
  ploc   : Nat
  lba    : Nat
  nsid   : Nat
  deriving DecidableEq, Repr

/-- A function's NVMe controller behind its registers: its queues, the tail of its admin submission queue and the first entry not fetched, the features it honours (value by FID; `apst` the
transition table), outstanding Asynchronous Event Requests and notices not yet reported, the Error Information log (newest
first) with its count, and its MSI-X controls. -/
structure Fn where
  sqs       : Tbl (Option Sq) := []
  cqs       : Tbl (Option Cq) := []
  admTail   : Nat := 0
  admNext   : Nat := 0
  features  : Tbl W32 := []
  apst      : Bytes := []
  aers      : List (BitVec 16) := []
  notices   : List Nat := []
  errLog    : List ErrEntry := []
  errCount  : Nat := 0
  msixEn    : Bool := false
  msixMask  : Bool := false
  deriving DecidableEq, Repr

/-- The stage of a lane's tag (R186, R218): reserved by a fetch read, fetched and not started, or started. -/
inductive TagStage where
  | reserved | waiting | started
  deriving DecidableEq, Repr

/-- A block as a read finds it: its bytes, the page and the key it was enciphered under, whether it is lost, whether its segment is
authenticated and its tag fails, its state coded as R88 (3: never landed). -/
structure Blk where
  bytes : Bytes
  page  : Option Nat := none
  key   : Bytes := []
  auth  : Bool := false
  lost  : Bool := false
  bad   : Bool := false
  state : Nat := 0
  /-- It is taken from HBM: the write buffer, an extent not yet on flash (R352). -/
  hbm   : Bool := false
  deriving DecidableEq, Repr

/-- What a read command's one lookup found (R131): its blocks, dword 0 of its completion, and the spans whose provisional content it reads
(R133). -/
structure Seen where
  blks  : List Blk
  dw0   : Nat
  spans : List Nat := []
  deriving DecidableEq, Repr

/-- A command in a lane's tag. `order` is its place in the lane's fetch order and `fetchedAt` the number of completions posted before
its fetch (R208); `taken` tells that it has written or taken its blocks (R202); `through` that it
runs write-through (R274), `deny` the status a Write fetched while its namespace took none completes with (R263, R404, R507); `seen` what a
read's lookup found. -/
structure Tag where
  stage     : TagStage := .reserved
  order     : Nat := 0
  cmd       : Fetched := { sqe := { opc := 0, cid := 0 } }
  fetchedAt : Nat := 0
  taken     : Bool := false
  through   : Bool := false
  deny      : Option (Nat × Nat) := none
  seen      : Option Seen := none
  deriving DecidableEq, Repr

/-- A lane (R183, R186): its tags, the fetch reads outstanding (the tags each reserved, oldest first), the next fetch order, counts
for log C0h, and the LANE RESUMEs that wait (R222), by the identifiers of their commands: those submitted before a Delete of the lane's
queue and those after it (R176). -/
structure Lane where
  tags     : Tbl (Option Tag) := []
  fetches  : List (List Nat) := []
  order    : Nat := 0
  freezes  : Nat := 0
  errAt    : Nat := 0
  resume   : List (BitVec 16) := []
  after    : List (BitVec 16) := []
  deriving DecidableEq, Repr

/-- A namespace (R178): capture or general, authenticated, its default key page, its size in blocks, the controller it
is attached to, whether it is Namespace Not Ready (R173, R225), and byte 3,074 of its create structure. -/
structure Ns where
  capture  : Bool
  auth     : Bool := false
  keyPage  : Option Nat := none
  keyByte  : Nat := 0
  blocks   : Nat
  attached : Option Nat := none
  notReady : Bool := false
  deriving DecidableEq, Repr

/-- A Format NVM that runs (R225): the function and identifier of its command, whether that still waits for its completion, the namespaces and
the SES field. -/
structure Formatting where
  fn    : Nat
  cid   : BitVec 16
  asked : Bool := true
  nss   : List Nat
  ses   : Nat
  deriving DecidableEq, Repr

/-- The host interface behind its registers: functions, lanes, namespaces, the lane of the last fetch turn (R187), the
number of VFs enabled (R168), the MSI-X vectors whose mask is clear and the Pending Bits (R171), the Critical Warning bits, a molt
under way (R227: the function and the identifier of its Commit), the formats that run, whether the link is up and PERST_N is low, the Bus Master
Enable bit of the physical function (R102), and the number of completion entries posted. -/
structure Nvme where
  fns       : Tbl Fn := []
  lanes     : Tbl Lane := []
  nss       : Tbl (Option Ns) := []
  lastLane  : Nat := 95
  numVfs    : Nat := 0
  vecOpen   : List Nat := []
  vecPend   : List Nat := []
  critical  : Nat := 0
  molting   : Option (Nat × BitVec 16) := none
  formats   : List Formatting := []
  linkUp    : Bool := true
  perstLow  : Bool := false
  busMaster : Bool := false
  posted    : Nat := 0
  deriving DecidableEq, Repr

/-! ## The translation layer -/

/-- A gap table entry: the record of R88 and R553 and the fill pattern (The maps). Block states are those of R88. -/
structure GapRec where
  stream  : Nat
  flags   : Nat
  states  : Tbl Nat
  first   : W64
  last    : W64
  fill    : W64
  deriving DecidableEq, Repr

/-- The use of a group block (R233). -/
inductive GbUse where
  | capture | general | relocation | pool | dump
  deriving DecidableEq, Repr

/-- The state of a group block: free, open, closed, or being erased. -/
inductive GbState where
  | free | open | closed | erasing
  deriving DecidableEq, Repr

/-- What the block table and the handle table say of a group block (The maps): its state, its use (R233), when it closed, by the journal position
of its close record (DESIGN CHOICE, log entry 89: no rule says which clock a close time counts), its general handle (R238). -/
structure Gb where
  state   : GbState := .free
  use     : GbUse := .general
  closed  : Nat := 0
  handle  : Option Nat := none
  deriving DecidableEq, Repr

/-- A group block as it lies on its dies (R230 to R232): its die set and the pages of a NAND block of it in native and in SLC mode, all fixed
at its erase; the mode it is programmed in; the data units programmed, pad units included; and the dies whose NAND block is erased since its
erase began. No dies: never erased by the part. -/
structure Media where
  dies     : List Nat := []
  pages    : Nat := 0
  pagesSlc : Nat := 0
  slc      : Bool := false
  units    : Nat := 0
  wiped    : List Nat := []
  deriving DecidableEq, Repr

/-- The content of a clutch (R232): a landed or stored extent as its 256 units carry it (R239): namespace, extent, kind, flags, key page,
origin and write sequence, span handle, and the data with its block states. `pool`: its units are of kind 03h, provisional when they were
programmed; a commit changes no unit (R242). -/
structure Clutch where
  nsid     : Nat
  ext      : Nat
  pool     : Bool := false
  copied   : Bool := false
  auth     : Bool := false
  keyPage  : Option Nat := none
  /-- The key its units were enciphered under; the segments whose tag fails (R406). -/
  key      : Bytes := []
  badSegs  : List Nat := []
  lostUnits : List Nat := []
  origin   : Nat
  wseq     : Nat
  handle   : Nat := 0
  bytes    : Mem
  fill     : W64
  states   : Tbl Nat
  deriving DecidableEq, Repr

/-- A data unit outside the clutches with its spare record (R239): kinds 01h and 04h to 07h. -/
structure FUnit where
  nsid    : Nat
  kind    : Nat
  copied  : Bool := false
  lost    : Bool := false
  keyPage : Option Nat := none
  key     : Bytes := []
  laddr   : Nat
  wseq    : Nat
  origin  : Nat
  data    : Bytes
  deriving DecidableEq, Repr

/-- A block, or a deallocation record of `dealloc` entries, in the write buffer (R243): its data, its origin sequence, whether it is
charged to the ledger, its key page, and the commands that wait until it is verified on flash (R274), by lane and tag. -/
structure WbEntry where
  nsid    : Nat
  lba     : Nat
  data    : Bytes
  origin  : Nat
  charged : Bool
  dealloc : Nat := 0
  waits   : List (Nat × Nat) := []
  keyPage : Option Nat := none
  /-- Its key was destroyed by a tamper alarm (R417). -/
  lost    : Bool := false
  deriving DecidableEq, Repr

/-- A capture extent that host Writes have opened in the capture pool (R246): its content and states, whether the ledger charges it
(R272), whether it holds cached data (R211), the completions posted when the first such Write had completed (R208; 0 for none), whether a
Flush, a FUA write or a full pool asks that it lands, the Writes that wait for the landing, and the blocks of the landed content copied that
could not be read (R255) or whose segment failed its tag (R402) and that no Write has written since. -/
structure CapWrite where
  nsid    : Nat
  ext     : Nat
  bytes   : Mem
  fill    : W64
  states  : Tbl Nat
  charged : Bool := false
  cached  : Bool := false
  doneAt  : Nat := 0
  lands   : Bool := false
  writers : List (Nat × Nat) := []
  /-- Its key was destroyed by a tamper alarm (R417). -/
  lost    : Bool := false
  lostUnits : List Nat := []
  badUnits  : List Nat := []
  deriving DecidableEq, Repr

/-- A ledger entry (R280), and how many of its blocks are still charged. -/
structure Ledger where
  nsid   : Nat
  count  : Nat
  slba   : Nat
  origin : Nat
  lane   : Nat
  tag    : Nat
  left   : Nat
  /-- Its slot of the ledger area (R427). -/
  slot   : Nat := 0
  deriving DecidableEq, Repr

/-- A journal record (R283). -/
inductive JRec where
  | checkpoint (g gb page wseq units : Nat)
  | opened (g gb : Nat) (use : GbUse) (slc : Bool) (dies : List Nat) (firstSeq : Nat)
  | closed (g gb pages : Nat)
  | eraseIntent (g victim reloc first last units : Nat)
  | moved (g victim : Nat)
  | retired (g die block cause : Nat)
  | reserve (first : Nat)
  | commit (handle nsid first exts : Nat) (pool : Bool) (origin : Nat)
  | discard (handle nsid : Nat)
  | namespaceOp (nsid op kind blocks : Nat)
  | dump (units : Nat) (vcut : Bool)
  | powerOn (count : Nat) (time : Nat)
  deriving DecidableEq, Repr

/-- Copies of one victim that lie in one relocation group block: the block, their first and last page, the units copied (R283, type 04h). -/
structure CopyRun where
  gb    : Nat
  first : Nat
  last  : Nat
  units : Nat
  deriving DecidableEq, Repr

/-- A collection under way in a group (R251): its victim, what is still to be copied, the copies made, the units of the item in hand that
could not be read (R255), whether its erase intent is written, the dies whose NAND block is not erased yet and those whose erase is not queued
yet; `wear` for a wear-levelling source (R258). -/
structure Gc where
  victim  : Nat
  todo    : List Nat
  copies  : List CopyRun := []
  bad     : List Nat := []
  erasing : Bool := false
  left    : List Nat := []
  unasked : List Nat := []
  wear    : Bool := false
  deriving DecidableEq, Repr

/-- An item of a failing or worn NAND block that found no room and is still to be moved (R254, R317): its group, the item, the use of the block
it goes to, and its units that could not be read. -/
structure Move where
  g    : Nat
  item : Nat
  use  : GbUse
  lost : List Nat
  deriving DecidableEq, Repr

/-- What a checkpoint saved (R282): the maps, the block table with its erase counts, the handle table, the next sequence at its start, and the
structure indexes of the kind 04h units that hold it. -/
structure Ckpt where
  capMap  : Tbl W64 := []
  genMap  : Tbl W32 := []
  gbs     : Tbl Gb := []
  handles : Tbl (Option Nat) := []
  erases  : Tbl Nat := []
  seq     : Nat
  pages   : List Nat := []
  deriving DecidableEq, Repr

/-- An entry of the span table (R284): handle, state (as CAP.SPk.STATE codes it), medium, stream, NSID, first extent, extents, whether
the top is fixed, the commit's origin sequence, and who decided. -/
structure SpanRow where
  handle : Nat
  state  : Nat
  medium : Nat
  stream : Nat
  nsid   : Nat
  first  : Nat
  exts   : Nat
  fixed  : Bool
  origin : Nat
  deriving DecidableEq, Repr

/-- The translation layer. Capture map entries (R234) lie under nsid × 2^32 + extent, general ones (R237) under nsid × 2^48 + LBA, group
blocks under g × 2^14 + b, clutches under (g × 2^14 + b) × 2^14 + slot, units under (g × 2^14 + b) × 2^32 + index, erase counts under
((g × 64 + die) × 2^14 + b). What lies on flash is `clutches`, `units` and `media`; the maps, the tables and what follows them lie in HBM and
MB and are lost with power. -/
structure Ftl where
  clutches  : Tbl (Option Clutch) := []
  units     : Tbl (Option FUnit) := []
  media     : Tbl Media := []
  retired   : List Nat := []
  suspect   : List Nat := []
  capMap    : Tbl W64 := []
  gens      : Tbl W32 := []
  gaps      : Tbl (Option GapRec) := []
  gbs       : Tbl Gb := []
  erases    : Tbl Nat := []
  handles   : Tbl (Option Nat) := []
  /-- Where the newest checkpoint and gap table units lie, by kind × 2^64 + structure index: the unit's key + 1. -/
  placed    : Tbl Nat := []
  /-- The group blocks the provisional flash pool has taken (R111, R115). -/
  poolSet   : List Nat := []
  wbuf      : List WbEntry := []
  capWrites : Tbl (Option CapWrite) := []
  ledger    : List Ledger := []
  held      : List (Nat × Nat) := []
  heldCount : Nat := 0
  nextSeq   : Nat := 1
  reserved  : Nat := 1
  journal   : List JRec := []
  spanTab   : Tbl (Option SpanRow) := []
  ckpt      : Option Ckpt := none
  /-- The next sequence when the checkpoint under way started (R283). -/
  ckptRun   : Option Nat := none
  /-- Group blocks opened since the last checkpoint, by group; when it started; and an NVMe shutdown notification since (R282). -/
  opens     : Tbl Nat := []
  ckptAt    : Nat := 0
  ckptAsked : Bool := false
  gcs       : Tbl (Option Gc) := []
  moves     : List Move := []
  /-- The groups that level wear until their spread has fallen far enough (R258). -/
  levelling : List Nat := []
  progFails : Nat := 0
  eraseFails : Nat := 0
  unitBits  : Nat := 0
  dumping   : Bool := false
  /-- The write sequence at the start of the dump, and the units of it counted for its record (R278). -/
  dumpSeq   : Nat := 0
  dumped    : Nat := 0
  /-- RESERVE_BLK as last taken (R260); the next restart is a regrowth (R286), with an unreadable span table (R289). -/
  reserveBlk : Nat := 0
  /-- The journal position of the next record (R283), and the ledger slot the next entry takes (R427). -/
  journalPos : Nat := 0
  ledgerNext : Nat := 0
  regrow    : Bool := false
  spanBad   : Bool := false
  deriving DecidableEq, Repr

/-! ## The hold-up bank -/

/-- The hold-up bank behind its registers (R267 to R271): whether it charges, whether V_T was reached, the measurement
that waits or runs, when the last was made; whether HU_VIN exceeds HU_VBUS with no reverse current sensed, as last sampled (R267); and for the
measurement that runs whether it discharges the bank, and the voltage it started from in mV (R269). -/
structure HoldUp where
  charging  : Bool := false
  reached   : Bool := false
  measuring : Bool := false
  measWait  : Bool := false
  postponed : Bool := false
  retryDue  : Bool := false
  valid     : Bool := false
  fault     : Bool := false
  lastMeas  : Nat := 0
  /-- When the next measurement is due, in ms of calendar time. -/
  nextMeas  : Nat := 0
  energyAt  : Nat := 0
  disEn     : Bool := false
  failed    : Bool := false
  gateOk    : Bool := true
  down      : Bool := false
  v0        : Nat := 0
  deriving DecidableEq, Repr

/-! ## Flash channels -/

/-- The operation kinds an engine runs (R300). -/
inductive OpKind where
  | read | program | erase | reset | setFeatures | getFeatures | readId
  deriving DecidableEq, Repr

/-- Who waits for a media read: a command, by lane and tag, or the collection of a group. -/
inductive Reader where
  | cmd (lane tag : Nat)
  | gc (g : Nat)
  deriving DecidableEq, Repr

/-- An operation at a channel engine (R300 to R304): its die, its block, its mode, whether it started, is suspended, and how
often it was suspended; `again` for a read already tried once after a timeout (R319). -/
structure NandOp where
  kind    : OpKind
  die     : Nat
  block   : Nat := 0
  slc     : Bool := false
  started : Bool := false
  susp    : Bool := false
  suspN   : Nat := 0
  again   : Bool := false
  phases  : Nat := 0
  /-- The data units whose codewords it moves, by key. -/
  units   : List Nat := []
  /-- It programs charged data while the window in use exceeds the limit (R275). -/
  urgent  : Bool := false
  /-- The fabric time when it was queued (R302); when it started or resumed, or, while it is suspended, how long it has run (R304). -/
  queuedAt : Nat := 0
  since   : Nat := 0
  /-- CHc.CFG and CHc.RECLAIM when it started (R334). -/
  cfg     : Nat := 0
  rclm    : Nat := 0
  /-- A read that runs during the suspension under way (R304). -/
  early   : Bool := false
  reader  : Option Reader := none
  deriving DecidableEq, Repr

/-- The sequencer of an engine while it runs an operation (R326, R327): its word address, call stack, loop counter, status
register, scratch registers, timer and whether it holds the bus; `waiting` while a WAIT holds. -/
structure Useq where
  pc      : Nat
  stack   : List Nat := []
  lc      : W32 := 0
  sr      : Byte := 0
  m       : Tbl W32 := []
  timer   : Nat := 0
  bus     : Bool := false
  /-- The die of the operation and its kind; whether its last decode passed; whether its data cycle is done. -/
  die     : Nat := 0
  kind    : OpKind := .read
  passed  : Bool := false
  xferDone : Bool := true
  /-- A WAIT holds: the word's other parts have acted. -/
  waiting : Bool := false
  /-- Bytes that the DIN or DOUT of the word has moved before its bus cycle was split (R303, R326). -/
  sent    : Nat := 0
  deriving DecidableEq, Repr

/-- A channel engine behind its registers: its operation queue in queueing order, what the translation layer still has to queue there once its
64 entries and the die's 16 have room (R300), the customer region of its control store, whether its vendor region is loaded (R322), its
sequencer, the operations that timed out in a row, by die (R311), and RATE_MAX as its discovery took it (R295). -/
structure Chan where
  ops      : List NandOp := []
  backlog  : List NandOp := []
  store    : Tbl (BitVec 192) := []
  vendor   : Bool := false
  rateMax  : Nat := 5
  seq      : Option Useq := none
  timeouts : Tbl Nat := []
  deriving DecidableEq, Repr

/-- The kept customer microcode image (R331). -/
structure Kept where
  first    : Nat
  last     : Nat
  version  : W32
  profiles : List Profile
  words    : List (BitVec 192)
  image    : Bytes := []
  deriving DecidableEq, Repr

/-- The flash complex: engines by channel, the qualified die table (R307), the export interface version of the running
bundle, the kept image, the customer profiles in use with their channels, what discovery found, by channel, and quarantined dies a restart
waits for (R310), as 16c + k. -/
structure Nand where
  chans    : Tbl Chan := []
  table    : List Profile := []
  exportV  : Nat := 1
  kept     : Option Kept := none
  cust     : List Profile := []
  custCh   : Nat × Nat := (0, 63)
  found    : List (Nat × DieFound) := []
  waitDies : List Nat := []
  /-- FLc_WP_N is low, from power-on until discovery begins (R535). -/
  wpLow    : Bool := true
  /-- The level of VDDQ_FLq the PHY of each quadrant sensed at power-on, true for 1.20 V, and set its drivers to (R537). -/
  drivers  : List Bool := []
  deriving DecidableEq, Repr

/-! ## HBM and SRAM -/

/-- A request of at most 64 B in a pseudo-channel's queue (R341): its stack address, its length, the bytes of a write, what the stack reports of a
read (R350), and the fabric time when it came. -/
structure HbmReq where
  addr  : Nat
  len   : Nat
  write : Option Bytes
  sev   : Severity
  since : Nat
  deriving DecidableEq, Repr

/-- The scheduler of a pseudo-channel (R341, R346): its requests in the order they came, whether it is in write mode, and the refreshes it has
postponed. -/
structure HbmQueue where
  reqs  : List HbmReq := []
  write : Bool := false
  owed  : Nat := 0
  deriving DecidableEq, Repr

/-- A stack: its bytes by stack address, its poison list, the open rows (row + 1 by 48 × pc + bank), the next bank each
pseudo-channel refreshes, and the schedulers of its pseudo-channels. -/
structure Stack where
  mem     : Mem := []
  poison  : List Nat := []
  rows    : Tbl Nat := []
  refPos  : Tbl Nat := []
  queues  : Tbl HbmQueue := []
  deriving DecidableEq, Repr

/-- A buffer grant (R26): the master, the range [lo, hi) and the direction. -/
structure Grant where
  master : Nat
  lo     : Nat
  hi     : Nat
  dir    : Dir
  deriving DecidableEq, Repr

/-- An SRAM bank: its bytes, the words that carry a double-bit error, and the grants outstanding. After an aborted destructive test its
unlisted bytes are free values from `junk` on (R366 does not say what they hold). -/
structure Bank where
  mem    : Mem := []
  bad    : List Nat := []
  grants : List Grant := []
  junk   : Option Nat := none
  deriving DecidableEq, Repr

/-- Buffer memory: the stacks, the banks, the march test under way (its banks, and whether it preserves them), and the SEB wipe
(running, and one more requested). -/
structure Buffers where
  stack     : Tbl Stack := []
  banks     : Tbl Bank := []
  marchOn   : List Nat := []
  marchKeep : Bool := false
  wipeAgain : Bool := false
  aborted   : Bool := false
  deriving DecidableEq, Repr

/-! ## DMA -/

/-- A descriptor as fetched (R372). -/
structure Desc where
  src    : Nat
  dst    : Nat
  len    : Nat
  sStr   : Nat
  dStr   : Nat
  irq    : Bool
  barrier : Bool
  wb     : Bool
  dW     : Nat
  sW     : Nat
  dSp    : Nat
  sSp    : Nat
  func   : Nat
  next   : Nat
  deriving DecidableEq, Repr

/-- A channel behind its registers: the descriptor it runs, whether its fetch is outstanding, whether it waits for its
completion, whether the end under way is a tail-drop, and the read buffer: the bytes from DONE to READ (R376). -/
structure DmaChan where
  desc     : Option Desc := none
  fetching : Bool := false
  /-- Bursts whose reads are issued and have not returned when the channel pauses (R382). -/
  ahead    : Nat := 0
  buf      : Bytes := []
  /-- The burst in hand of a tail-drop is still to be written (R383). -/
  last     : Bool := false
  /-- A tail-drop is under way (R383). -/
  dropping : Bool := false
  deriving DecidableEq, Repr

/-! ## Cipher -/

/-- The key-page store: the key bytes of each Loaded page, the copies in SEB, the reserved limits (R403), and whether a
missing key was reported since the page left Loaded (R417). -/
structure Cipher where
  keys     : Tbl Bytes := []
  sebKeys  : Tbl Bytes := []
  limits   : Tbl Nat := []
  missing  : List Nat := []
  deriving DecidableEq, Repr

/-! ## Persistence die and code flash -/

/-- An entry of the GCM counter reservation area as it was last written (R426). -/
structure GcmEntry where
  state     : Nat := 0
  kind      : Nat := 0
  owner     : Nat := 0
  exhausted : Nat := 0
  kcv       : Nat := 0
  keyId     : Nat := 0
  limit     : Nat := 0
  deriving DecidableEq, Repr

/-- The persistence die: its bytes and the lines that were remapped. -/
structure Pst where
  mem    : Mem := []
  remap  : List Nat := []
  gcm    : Tbl (Option GcmEntry) := []
  deriving DecidableEq, Repr

/-- What the code flash is doing (R441): programming a line, or erasing a sector. -/
inductive CflOp where
  | program (line : Nat) (data : Bytes)
  | erase (sector : Nat)
  deriving DecidableEq, Repr

/-- The fields of an option area copy, as its bytes hold them (R434); the values as shipped. -/
structure OptArea where
  gen    : Nat := 1
  clocks : Nat := 0
  pref   : Nat := 2
  lock   : Nat := 0xA5
  ceil   : Nat := 8000
  key    : Bytes := []
  deriving DecidableEq, Repr

/-- The identity values that provisioning may set (R555): vendor, subsystem vendor, device and subsystem IDs, serial and model number; none where
it left one unset. -/
structure Identity where
  vid   : Option Nat := none
  ssvid : Option Nat := none
  did   : Option Nat := none
  ssid  : Option Nat := none
  sn    : Option Bytes := none
  mn    : Option Bytes := none
  deriving DecidableEq, Repr

/-- The code flash: its bytes in the firmware data sectors (unlisted bytes read 0xFF, erased), the two option copies (none: erased), the
operation under way, its suspensions, the prefetch buffer and the branch cache (line numbers, least recently used last), the sectors out
of service, the erase intents not done (R443), the staged option copy and its authorization, the option area the last reset took
(R435), and the identity values of the management firmware data sectors (R555). -/
structure Cfl where
  mem      : Mem := []
  copyA    : Option OptArea := some {}
  copyB    : Option OptArea := none
  op       : Option CflOp := none
  suspN    : Nat := 0
  /-- When the erase that runs began or last resumed (R442). -/
  since    : Nat := 0
  /-- Sectors whose erase waits until the array is free (R441). -/
  wait     : List Nat := []
  prefetch : List Nat := []
  branch   : List Nat := []
  bad      : List Nat := []
  intents  : List Nat := []
  stage    : Mem := []
  auth     : Mem := []
  opt      : OptArea := {}
  ident    : Identity := {}
  deriving DecidableEq, Repr

/-! ## Events and time -/

/-- A recorder record (R455): its type code, TIME_BRIDGED and TRUNCATED, its recorder sequence, its time, its payload, and
the first line of its slot (R456, R459). -/
structure Record where
  type    : Nat
  bridged : Bool
  cut     : Bool := false
  seq     : Nat
  time    : Nat
  payload : Bytes
  line    : Nat := 0
  deriving DecidableEq, Repr

/-- What an observation view shows as a pulse (R523): the condition of a cause bit, by register offset and bit, the restart of a group watchdog by
its domain, and a control channel access by its unit. -/
inductive Pulse where
  | cause (off bitNo : Nat)
  | restart (dom : Nat)
  | access (unit : Nat)
  deriving DecidableEq, Repr

/-- The event fabric and the recorder: sources delivered to management cores and not yet taken, the records of the
circulating area (oldest first, pads included) and of the fixed area, the next recorder sequence, the next free line of the
circulating area, and whether records carry TIME_BRIDGED (R465). -/
structure Evt where
  cores   : List Nat := []
  circ     : List Record := []
  fixed    : List Record := []
  nextRec  : Nat := 1
  nextLine : Nat := 0
  bridged  : Bool := false
  /-- Records whose events fell in Brumation, to be built at the exit (R461). -/
  queued   : List (Nat × Bytes) := []
  /-- The pulses of the OBS_CLK period under way, while the observation multiplexer is on (R523). -/
  pulses   : List Pulse := []
  deriving DecidableEq, Repr

/-- Time (R462 to R465): the fabric time counter, the RTC count, the calendar's BASE and RTC_BASE, nanoseconds since AON
power-up, the counter and RTC sampled at Brumation entry, and the cores that serviced the die watchdog since it restarted. -/
structure Time where
  ftc      : Nat := 0
  aonNs    : Nat := 0
  base     : Nat := 0
  rtcBase  : Nat := 0
  entryFtc : Nat := 0
  entryRtc : Nat := 0
  serviced : List Nat := []
  dieNs    : Nat := 0
  pkgNs    : Nat := 0
  powerOns : Nat := 0
  gwdgN    : Tbl Nat := []
  deriving DecidableEq, Repr

/-! ## Power, boot, security, test access port -/

/-- Where the part stands: without supply, held in reset, running (the Run states and Basking, as PWR.STATE.CUR tells), or in
Brumation. -/
inductive Phase where
  | off | held | run | brumation
  deriving DecidableEq, Repr

/-- An entry under way (R485): its target (0-4 as PWR.STATE.TARGET codes it), the domains still in Delay (63 the debug agent),
the Set Features that asked for it, and the wake that arrived during it. -/
structure Entry where
  target : Nat
  delays : List Nat
  asked  : Option (Nat × BitVec 16) := none
  woke   : Option WakeSrc := none
  /-- PS4 was selected (R491). -/
  brum   : Bool := false
  deriving DecidableEq, Repr

/-- Work that reached a domain after its agent had accepted an entry, or in Basking, and waits (R486): a stream's start, a DMA channel's start or
resumption, an HBM request. -/
inductive HeldWork where
  | stream (n : Nat)
  | dmaStart (n : Nat)
  | dmaResume (n : Nat)
  | hbm (stack addr len : Nat) (wr : Option Bytes) (sev : Severity)
  deriving DecidableEq, Repr

/-- Body bias and SRAM assist as they are set (R499): the bias of a domain's logic in mV, forward positive; write assist and read assist; and the
banks whose array stands at 0.55 V. -/
structure Bias where
  logic  : Tbl Int := []
  writeA : Bool := true
  readA  : Bool := false
  low    : List Nat := []
  deriving DecidableEq, Repr

/-- Why the part is held in reset: the reset ball, a dump's end, the test access port, a lifecycle transition, a watchdog. -/
inductive HoldWhy where
  | ball | dump | tap | other
  deriving DecidableEq, Repr

/-- The power controller behind its registers: the entry under way, the work held for it (R486), the operational state held before Basking, the reset
ball, why the part is held, whether PME put the link in L2, what management firmware saved in MGB at Brumation entry (R497), and the bias (R499). -/
structure Power where
  phase    : Phase := .run
  booted   : Bool := false
  entry    : Option Entry := none
  work     : List HeldWork := []
  bias     : Bias := {}
  prior    : Nat := 0
  ballLow  : Bool := false
  heldBy   : List HoldWhy := []
  linkL2   : Bool := false
  exiting  : Bool := false
  saved    : Tbl W64 := []
  causeNow : Nat := 1
  /-- CSTS.CFS was set by a failed stack, bank, calibration row or firmware: RDY does not become 1 again before the next reset of the part. -/
  fatal    : Bool := false
  /-- The boot ROM has stopped: the part is Blank (R502). -/
  stopped  : Bool := false
  /-- WAKE_N is asserted (R492). -/
  wakeN    : Bool := false
  deriving DecidableEq, Repr

/-- A firmware slot: the images it holds (R503). -/
structure Slot where
  fw      : Bytes := []
  bundle  : Bytes := []
  bad     : Bool := false
  deriving DecidableEq, Repr

/-- A slot write under way (R509): the slot, the kind, the next sector, the commit action, the image, and the Commit to complete. -/
structure SlotWrite where
  slot   : Nat
  bundle : Bool
  sector : Nat
  ca     : Nat
  image  : Bytes
  cmd    : Option (Nat × BitVec 16)
  resumed : Bool := false
  /-- The qualified die table of the firmware the slot will hold. -/
  table  : List Profile := []
  deriving DecidableEq, Repr

/-- Boot, lifecycle, debug and test access port behind their registers: the staged image, the slots, the activation record, the slot
write under way, a lifecycle transition under way (from, to, and whether the fuses are programmed), when the last DEBUG GRANT ran,
the function that staged the image, core debug sessions, halt requests held, the TAP's instruction and boundary cells. -/
structure Sec where
  staged    : Bytes := []
  stagedOk  : Bool := false
  stagedBy  : Nat := 0
  slots     : Tbl Slot := []
  activation : Option Nat := none
  slotWrite : Option SlotWrite := none
  /-- The slot a molt activates, and the qualified die table of its firmware (R227, R307). -/
  moltTo    : Option (Nat × List Profile) := none
  transition : Option (Nat × Nat × Bool) := none
  lastGrant : Option Nat := none
  session   : List Nat := []
  held      : List (Nat × List DbgAcc) := []
  /-- A write of DBG.OBS_CTRL with EN = 1 that waits for the Basking exit (R524). -/
  obsHeld   : Option W32 := none
  tapIr     : Nat := 1
  tapCells  : List Bool := []
  obsOut    : Bool := false
  deriving DecidableEq, Repr

/-! ## Outputs -/

/-- What the part sends to the outside: completion entries, MSI-X messages, data into a command's host buffer by the fabric port it crosses
(R20), writes into host memory,
frames, and ball levels. -/
inductive Out where
  | cqe (fn cqid sqid : Nat) (cid : BitVec 16) (status dw0 : Nat)
  | msix (vec : Nat)
  | data (port fn sqid : Nat) (cid : BitVec 16) (off : Nat) (bytes : Bytes)
  | hostWrite (fn addr : Nat) (bytes : Bytes)
  | fetch (lane entry count : Nat)
  | frame (port sub : Nat) (octets : Bytes)
  | pause (port sub : Nat) (pfc : Bool) (prio quanta : Nat)
  | wakeN
  | nandReset (ch die : Nat)
  | bus (ch : Nat) (op byte : Nat)
  | debug (core : Nat) (bytes : Bytes)
  | codeword (ch die : Nat) (write : Bool) (bytes : Bytes)
  | tdo (code : Nat)
  | obs (byte : Nat)
  deriving DecidableEq, Repr

/-- The four parts of the family (The Queskarum family). -/
inductive Part where
  | qk1600 | qk1600n | qk800 | qk800c
  deriving DecidableEq, Repr

end Sys2Proof.Machine
end

