-- ==== Sys2Proof/Machine/State.lean ====
section
/-! DEFINITION. The state of the part, the reasons a command stops, and the state after reset. -/

namespace Sys2Proof.Machine

/-- The reasons a command ends the run. -/
inductive Fault where
  /-- REGISTER_WRITE and NARROW_WRITE_DISCARD at an offset past the end of the function's BAR0 (R13: 32 MiB for the physical
  function; R166: 64 KiB for a virtual function). No address of the part lies there. Safe. -/
  | outsideBar0
  deriving DecidableEq, Repr

/-- The reasons a command is turned away. -/
inductive Refusal where
  /-- Raised by an arm of Dispatch.lean whose command has no meaning yet. Safe. -/
  | notModelled (mnemonic : String)
  deriving DecidableEq, Repr

/-- The whole state. `regs` is the register file of BAR0 by offset (a 32-bit register in the low half), the one home of
every register field; the other fields are what lies behind the registers. `free` counts the free values drawn (the model's own
field), `out` lists what the part sent to the outside, oldest first, and `pending` the commands that wait, first in first out. -/
structure State where
  part    : Part := .qk1600
  regs    : Tbl W64 := []
  ur      : Urette := {}
  cap     : Capture := {}
  eth     : Eth := {}
  nvme    : Nvme := {}
  ftl     : Ftl := {}
  hu      : HoldUp := {}
  nand    : Nand := {}
  buf     : Buffers := {}
  dma     : Tbl DmaChan := []
  cph     : Cipher := {}
  pst     : Pst := {}
  cfl     : Cfl := {}
  evt     : Evt := {}
  time    : Time := {}
  power   : Power := {}
  sec     : Sec := {}
  free    : Nat := 0
  out     : List Out := []
  pending : List Instr := []
  deriving DecidableEq, Repr

/-- What a command answers. -/
abbrev Res := Host.Outcome State Fault Refusal

/-- The registers whose value after reset is the part's own: CPH.STATUS.LANES (R556), PST.STATUS.SPARE_LEFT of an unworn die (R429),
TMR.WDG.LAST_CAUSE of a power-on (R475), PWR.DOMSTATE0 and 1 in PS0 with every SP_EN 0 (R482) and SEC.LC in Provisioned (R511). -/
def resetRegs : Tbl W64 :=
  [(0x1500004, 0xf#64),
   (0x1600004, 0x51eb8#64),
   (0x1780050, 0x1000000#64),
   (0x1800010, 0xa95556aaaaaaaaaa#64),
   (0x1800018, 0x2aaaaaaaaaa#64),
   (0x1900000, 0x2#64)]

/-- The part right after power-on reset, before the start of R501 runs (PART_START): a QK1600 in Provisioned, every register at its
reset value, nothing in any memory, no command waiting. -/
def State.reset : State := { regs := resetRegs }

end Sys2Proof.Machine
end

