-- ==== Sys2Proof/Machine/Ops.lean ====
section
/-! DEFINITION. The shared operations: register fields, presence of units, the event fabric, MSI-X messages, the
recorder. Every family's meanings are written over these. -/

namespace Sys2Proof.Machine

/-- Bytes of a stack (R337). -/
def stackBytes : Nat := 35999711232

/-! ## The register file -/

/-- The 64-bit word of the register file at BAR0 offset `off`. -/
def State.reg (s : State) (off : Nat) : W64 := s.regs.get (resetValue off) off

/-- The register file with `v` at `off`. -/
def State.setReg (s : State) (off : Nat) (v : W64) : State := { s with regs := s.regs.set (resetValue off) off v }

/-- `n` with bits [lo + len - 1 : lo] replaced by `v`. -/
def putBits (n lo len v : Nat) : Nat := n % 2 ^ lo + v % 2 ^ len * 2 ^ lo + n / 2 ^ (lo + len) * 2 ^ (lo + len)

/-- `k` consecutive 64-bit words from offset `off` on, as one number (R9: a wider register is several 64-bit ones). -/
def State.words (s : State) (off : Nat) : Nat → Nat
  | 0 => 0
  | k + 1 => (s.reg off).toNat + 2 ^ 64 * s.words (off + 8) k

/-- The words from `off` on set to the low words of `v`. -/
def State.setWords (s : State) (off : Nat) : Nat → Nat → State
  | 0, _ => s
  | k + 1, v => (s.setReg off (BitVec.ofNat 64 v)).setWords (off + 8) k (v / 2 ^ 64)

/-- The value of a register field. -/
def State.fld (s : State) (f : Field) : Nat :=
  if f.lo + f.len ≤ 64 then bits (s.reg f.off).toNat f.lo f.len
  else bits (s.words f.off ((f.lo + f.len + 63) / 64)) f.lo f.len

/-- A register field set to the low bits of `v`. -/
def State.setFld (s : State) (f : Field) (v : Nat) : State :=
  if f.lo + f.len ≤ 64 then s.setReg f.off (BitVec.ofNat 64 (putBits (s.reg f.off).toNat f.lo f.len v))
  else s.setWords f.off ((f.lo + f.len + 63) / 64) (putBits (s.words f.off ((f.lo + f.len + 63) / 64)) f.lo f.len v)

/-- A one-bit field reads 1. -/
def State.on (s : State) (f : Field) : Bool := s.fld f == 1

/-- `n` added to a field that wraps at its width. -/
def State.addFld (s : State) (f : Field) (n : Nat) : State := s.setFld f (s.fld f + n)

/-- `n` added to a field that saturates at its width. -/
def State.satFld (s : State) (f : Field) (n : Nat) : State := s.setFld f (min (2 ^ f.len - 1) (s.fld f + n))

/-- `n` taken from a field, not below zero. -/
def State.subFld (s : State) (f : Field) (n : Nat) : State := s.setFld f (s.fld f - n)

/-- `n` added to the 64-bit counter at `off`, which wraps. -/
def State.count (s : State) (off : Nat) (n : Nat) : State := s.setReg off (s.reg off + BitVec.ofNat 64 n)

/-- Every register of a list back at its reset value. -/
def State.clearRegs (s : State) (p : Nat → Bool) : State := { s with regs := s.regs.filter (fun e => !p e.1) }

/-! ## The family (R1 to R7) -/

/-- Flash channels present (R2). -/
def Part.channels : Part → Nat
  | .qk1600 => 64 | .qk1600n => 64 | .qk800 => 32 | .qk800c => 32

/-- Ethernet ports present (R2). -/
def Part.ports : Part → Nat
  | .qk1600 => 8 | .qk1600n => 0 | .qk800 => 4 | .qk800c => 4

/-- HBM stacks, and so quadrants and cipher lanes, present (R2, R16). -/
def Part.stacks : Part → Nat
  | .qk1600 => 4 | .qk1600n => 4 | .qk800 => 2 | .qk800c => 2

/-- The at-rest cipher is present (R2, R556). -/
def Part.cipher : Part → Bool
  | .qk800c => false | _ => true

/-- MACsec pipelines are present in every port present (R2). -/
def Part.macsec : Part → Bool
  | .qk1600 => true | .qk1600n => false | .qk800 => true | .qk800c => false

/-- ID.PART.PART_CODE (R1). -/
def Part.code : Part → Nat
  | .qk1600 => 0x1600 | .qk1600n => 0x1601 | .qk800 => 0x0800 | .qk800c => 0x0801

/-- ID.CAPS0 (R2). -/
def Part.caps0 : Part → Nat
  | .qk1600 => 0x00811301 | .qk1600n => 0x00801201 | .qk800 => 0x00408B01 | .qk800c => 0x00408801

/-- SRAM bank `b` is present (R3, R25). -/
def Part.bank (p : Part) (b : Nat) : Bool :=
  match p with
  | .qk1600 => decide (b < 11)
  | .qk1600n => decide (4 ≤ b ∧ b < 11)
  | _ => decide (b = 0 ∨ b = 1 ∨ b = 4 ∨ b = 5 ∨ (8 ≤ b ∧ b < 11))

/-- Power domain `d` belongs to a present unit (R6, R482). -/
def Part.domain (p : Part) (d : Nat) : Bool :=
  if 5 ≤ d ∧ d ≤ 20 then decide (4 * (d - 5) < p.channels)
  else if 21 ≤ d ∧ d ≤ 28 then decide (d - 21 < p.ports)
  else if 30 ≤ d ∧ d ≤ 33 then decide (d - 30 < p.stacks)
  else if 34 ≤ d ∧ d ≤ 37 then p.cipher && decide (d - 34 < p.stacks)
  else if 38 ≤ d ∧ d ≤ 45 then p.bank (d - 38)
  else decide (d < 53)

/-- `off` lies in the register block of a unit this part lacks (R4, R556). -/
def Part.absentAt (p : Part) (off : Nat) : Bool :=
  if 0x1000000 ≤ off ∧ off < 0x1100000 then decide (p.channels ≤ (off - 0x1000000) / 0x4000)
  else if 0xC00000 ≤ off ∧ off < 0x1000000 then decide (p.ports ≤ (off - 0xC00000) / 0x10000)
  else if 0x1300000 ≤ off ∧ off < 0x1380000 then decide (p.stacks ≤ (off - 0x1300000) / 0x20000)
  else if 0x1380000 ≤ off ∧ off < 0x1381000 then !p.bank ((off - 0x1380000) / 0x40)
  else if 0x1500000 ≤ off ∧ off < 0x1600000 then
    !p.cipher || (decide (0x1500100 ≤ off ∧ off < 0x1500180) && decide (p.stacks ≤ (off - 0x1500100) / 0x20))
  else false

/-- Event source `src` belongs to an absent unit (R5, R448). -/
def Part.srcAbsent (p : Part) (src : Nat) : Bool :=
  if src < 128 then decide (p.channels ≤ src / 2)
  else if src < 192 then decide (p.ports ≤ (src - 128) / 8)
  else if 416 ≤ src ∧ src < 448 then !p.cipher
  else if 448 ≤ src ∧ src < 480 then decide (p.stacks ≤ (src - 448) / 8)
  else if 480 ≤ src ∧ src < 491 then !p.bank (src - 480)
  else if 491 ≤ src ∧ src < 502 then !p.bank (src - 491)
  else false

/-! ## Phases -/

/-- The part runs: it takes host commands and its engines work (the Run states and Basking). -/
def State.live (s : State) : Bool := s.power.booted && s.power.phase == .run

/-- The part is in Basking (PWR.STATE.CUR). -/
def State.basking (s : State) : Bool := s.fld F.PWR_STATE_CUR == 3

/-- The part runs in one of the Run states. -/
def State.inRun (s : State) : Bool := s.live && !s.basking

/-- The state of power domain `d`: 0 Off, 1 Gated, 2 On, 3 Retention (PWR.DOMSTATE0 and 1). -/
def State.dom (s : State) (d : Nat) : Nat :=
  if d < 32 then bits (s.reg R.PWR_DOMSTATE0).toNat (2 * d) 2 else bits (s.reg R.PWR_DOMSTATE1).toNat (2 * (d - 32)) 2

/-- Power domain `d` set to a state. -/
def State.setDom (s : State) (d v : Nat) : State :=
  if d < 32 then s.setFld ⟨R.PWR_DOMSTATE0, 2 * d, 2⟩ v else s.setFld ⟨R.PWR_DOMSTATE1, 2 * (d - 32), 2⟩ v

/-- An entry to Basking or Brumation is under way (R485). -/
def State.entering (s : State) : Bool :=
  match s.power.entry with
  | some e => decide (3 ≤ e.target)
  | none => false

/-- The agent of domain `d` has accepted the entry to Basking or Brumation under way: its domain starts no new work (R486). -/
def State.accepted (s : State) (d : Nat) : Bool :=
  match s.power.entry with
  | some e => decide (3 ≤ e.target) && !e.delays.contains d
  | none => false

/-- Work that reaches domain `d` now is held (R486): its agent has accepted an entry, or the part is in Basking, where its clocks stand (R483). -/
def State.holds (s : State) (d : Nat) : Bool := s.accepted d || s.basking

/-- Work held until the entry is abandoned or the exit is done (R486, R488). -/
def State.holdWork (s : State) (w : HeldWork) : State := { s with power := { s.power with work := s.power.work ++ [w] } }

/-! ## Functions and MSI-X (R168 to R171) -/

/-- The controller of a function. -/
def State.fn (s : State) (f : Nat) : Fn := s.nvme.fns.get {} f

/-- The controller of a function replaced. -/
def State.setFn (s : State) (f : Nat) (v : Fn) : State :=
  { s with nvme := { s.nvme with fns := s.nvme.fns.set {} f v } }

/-- The function's controller exists: the physical function's always, VF v's while VF Enable is set and NumVFs is at least v
(R168). -/
def State.fnExists (s : State) (f : Nat) : Bool := f == 0 || decide (f ≤ s.nvme.numVfs)

/-- The function that owns MSI-X vector `vec`; none for vectors 252 to 255 (R169). -/
def vecOwner (vec : Nat) : Option Nat :=
  if vec < 128 then some 0 else if vec < 252 then some (1 + (vec - 128) / 4) else none

/-- The vector of entry `iv` of function `f`'s table (R169, R170). -/
def fnVector (f iv : Nat) : Nat := if f = 0 then iv else 128 + 4 * (f - 1) + iv

/-- Entries in function `f`'s MSI-X table (R169). -/
def fnVectors (f : Nat) : Nat := if f = 0 then 128 else 4

/-- An output appended. -/
def State.emit (s : State) (o : Out) : State := { s with out := s.out ++ [o] }

/-- `x` added at the end of a list that holds it at most once. -/
def addOnce {α : Type} [DecidableEq α] (l : List α) (x : α) : List α := if l.contains x then l else l ++ [x]

/-- Vector `vec` may send: its function's MSI-X Enable is set, its Function Mask and the vector's mask are clear (R171). -/
def State.vecOpen (s : State) (vec : Nat) : Bool :=
  match vecOwner vec with
  | none => false
  | some f => s.fnExists f && (s.fn f).msixEn && !(s.fn f).msixMask && s.nvme.vecOpen.contains vec

/-- The message of a vector: sent where the vector is open, left as the Pending Bit where it is masked, and not sent where
the owning function is a VF that is not enabled, or no function owns it (R169, R171). -/
def State.msix (s : State) (vec : Nat) : State :=
  match vecOwner vec with
  | none => s
  | some f =>
    if !s.fnExists f then s
    else if s.vecOpen vec then s.emit (.msix vec)
    else { s with nvme := { s.nvme with vecPend := addOnce s.nvme.vecPend vec } }

/-! ## The event fabric (R448 to R454) -/

/-- The status flag of a source. -/
def State.evFlag (s : State) (src : Nat) : Bool := s.fld ⟨R.EVT_STATUS (src / 32), src % 32, 1⟩ == 1

/-- Delivery of a source by its route (R451): a message of its vector, or the list of the management cores. -/
def State.deliver (s : State) (src : Nat) : State :=
  if s.fld (F.EVT_ROUTE_TARGET src) = 1 then { s with evt := { s.evt with cores := addOnce s.evt.cores src } }
  else s.msix (s.fld (F.EVT_ROUTE_VECTOR src))

/-- A source set by its owner (R449): the flag becomes 1 whatever the enable says, and it is delivered when it goes from 0
to 1 while its enable is 1. A source of an absent unit never sets its flag (R5). -/
def State.raise (s : State) (src : Nat) : State :=
  if s.part.srcAbsent src || s.evFlag src then s
  else
    let t := s.setFld ⟨R.EVT_STATUS (src / 32), src % 32, 1⟩ 1
    if s.fld ⟨R.EVT_ENABLE (src / 32), src % 32, 1⟩ = 1 then t.deliver src else t

/-- The observation multiplexer, while it is on, sees a pulse (R523). -/
def State.pulse (s : State) (p : Pulse) : State :=
  if s.on F.DBG_OBS_CTRL_EN then { s with evt := { s.evt with pulses := addOnce s.evt.pulses p } } else s

/-- The condition of a cause bit: source `src` is set when the bit goes from 0 to 1 (R93, R155, R265, R292, R333, R356, R420, R447, R474, R500,
R527); the condition itself is what the observation multiplexer sees, before latching (R523). -/
def State.cause (s : State) (f : Field) (src : Nat) : State :=
  let t := s.pulse (.cause f.off f.lo)
  if t.fld f = 1 then t else (t.setFld f 1).raise src

/-! ## Presence of units in the register file -/

/-- The lowest-numbered source of channel `c`; cause bits 0 to 7 set 2c, bits 8 to 15 set 2c + 1 (R333). -/
def State.chCause (s : State) (c bitNo : Nat) : State :=
  s.cause ⟨R.CH_EVCAUSE c, bitNo, 1⟩ (2 * c + bitNo / 8)

/-- A cause of Ethernet port `p`, bit `i`, source 128 + 8p + i (R155). -/
def State.ethCause (s : State) (p i : Nat) : State := s.cause ⟨R.ETH_EVCAUSE p, i, 1⟩ (128 + 8 * p + i)

/-- A cause of stream `n`: every bit sets source 288 + n (R62). -/
def State.strCause (s : State) (n i : Nat) : State := s.cause ⟨R.CAP_S_EVCAUSE n, i, 1⟩ (288 + n)

/-- A cause of the translation layer, source 768 + i (R266). -/
def State.ftlCause (s : State) (i : Nat) : State := s.cause ⟨R.FTL_EVCAUSE, i, 1⟩ (768 + i)

/-- A cause of the hold-up bank, source 560 + i (R292). -/
def State.huCause (s : State) (i : Nat) : State := s.cause ⟨R.PWR_HU_EVCAUSE, i, 1⟩ (560 + i)

/-- A cause of stack `k`, source 448 + 8k + i (R356). -/
def State.hbmCause (s : State) (k i : Nat) : State := s.cause ⟨R.HBM_EVCAUSE k, i, 1⟩ (448 + 8 * k + i)

/-- A cause of DMA channel `n`: every bit sets source 352 + n (R389). -/
def State.dmaCause (s : State) (n i : Nat) : State := s.cause ⟨R.DMA_EVCAUSE n, i, 1⟩ (352 + n)

/-- A cause of the cipher, source 416 + i (R420). -/
def State.cphCause (s : State) (i : Nat) : State := s.cause ⟨R.CPH_EVCAUSE, i, 1⟩ (416 + i)

/-- A cause of the persistence die, source 512 + i (R447). -/
def State.pstCause (s : State) (i : Nat) : State := s.cause ⟨R.PST_EVCAUSE, i, 1⟩ (512 + i)

/-- A cause of the code flash, source 528 + i (R447). -/
def State.cflCause (s : State) (i : Nat) : State := s.cause ⟨R.CFL_EVCAUSE, i, 1⟩ (528 + i)

/-- A cause of the timers, source 576 + i (R474). -/
def State.tmrCause (s : State) (i : Nat) : State := s.cause ⟨R.TMR_EVCAUSE, i, 1⟩ (576 + i)

/-- A cause of the power controller, source 544 + i (R500). -/
def State.pwrCause (s : State) (i : Nat) : State := s.cause ⟨R.PWR_EVCAUSE, i, 1⟩ (544 + i)

/-- A cause of the security unit, source 608 + i (R527). -/
def State.secCause (s : State) (i : Nat) : State := s.cause ⟨R.SEC_EVCAUSE, i, 1⟩ (608 + i)

/-! ## Time (R462, R463) -/

/-- Calendar time in ms: BASE + floor((RTC - RTC_BASE) × 1000 / 32768), 48 bits (R463). -/
def State.calMs (s : State) : Nat :=
  (s.time.base + ((s.reg R.TMR_RTC).toNat - s.time.rtcBase) * 1000 / 32768) % 2 ^ 48

/-- TMR.CAL: origin, Synch and the calendar time. -/
def State.cal (s : State) : W64 :=
  BitVec.ofNat 64 (putBits (s.reg R.TMR_CAL).toNat 0 48 s.calMs)

/-! ## The recorder (R455 to R461) -/

/-- Lines of a record's slot in the circulating area (R456). -/
def recLines (len : Nat) : Nat := (len + 4 + 63) / 64

/-- The lines of the circulating area (R459). -/
def circLines : Nat := 917504

/-- A record's bytes: the header of R455 and the payload. -/
def Record.bytes (r : Record) : Bytes :=
  leBytes 2 (16 + r.payload.length) ++
  leBytes 2 (r.type + (if r.bridged then 0x8000 else 0) + (if r.cut then 0x4000 else 0)) ++
  leBytes 4 r.seq ++ leBytes 8 r.time ++ r.payload

/-- A record's length in bytes, header included. -/
def Record.len (r : Record) : Nat := 16 + r.payload.length

/-- The slot of a record overlaps lines lo to hi - 1. -/
def Record.overlaps (r : Record) (lo hi : Nat) : Bool := decide (r.line < hi ∧ lo < r.line + recLines r.len)

/-- The recorder sequence of the oldest record of the circulating area, pads skipped; 0 for none. -/
def Evt.oldest (e : Evt) : Nat := ((e.circ.find? (fun r => r.seq != 0)).map Record.seq).getD 0

/-- The recorder sequence after `n`: 1 after 0xFFFF_FFFF (R457). -/
def recNext (n : Nat) : Nat := if n = 0xFFFFFFFF then 1 else n + 1

/-- A pad record that fills the lines from `line` to the end of the circulating area (R459). -/
def padRecord (line : Nat) (time : Nat) : Record :=
  { type := 1, bridged := false, seq := 0, time := time, payload := List.replicate ((circLines - line) * 64 - 32) 0, line := line }

/-- A record written to the circulating area: a pad first where it does not fit before the end, and the older records whose lines it
takes lose their marks (R459). -/
def Evt.putCirc (e : Evt) (r : Record) : Evt :=
  let n := recLines r.len
  let fits := decide (e.nextLine + n ≤ circLines)
  let e1 : Evt :=
    if fits then e
    else { e with
      circ := (e.circ.filter (fun q => !q.overlaps e.nextLine circLines)) ++
        (if e.nextLine < circLines then [padRecord e.nextLine r.time] else [])
      nextLine := 0 }
  { e1 with
    circ := (e1.circ.filter (fun q => !q.overlaps e1.nextLine (e1.nextLine + n))) ++ [{ r with line := e1.nextLine }]
    nextLine := e1.nextLine + n }

/-- A record also written to the fixed area, its first 112 bytes where it is longer (R458). -/
def Evt.putFixed (e : Evt) (r : Record) : Evt :=
  if 65536 < r.seq ∨ 65536 ≤ e.fixed.length then e
  else { e with fixed := e.fixed ++ [if 112 < r.len then { r with payload := r.payload.take 96, cut := true } else r] }

/-- The recorder writes a record of type `t` with `payload` (R455 to R460); in Brumation, where it is off, the record waits for the exit (R461). The fixed area takes the first 65,536 records since
manufacture only: once it is full it takes none, though the sequence wraps. -/
def State.record (s : State) (t : Nat) (payload : Bytes) : State :=
  if s.power.phase = .brumation then { s with evt := { s.evt with queued := s.evt.queued ++ [(t, payload)] } }
  else
  let r : Record := { type := t, bridged := s.evt.bridged, seq := s.evt.nextRec, time := s.time.ftc, payload := payload }
  let e := { (s.evt.putCirc r).putFixed r with nextRec := recNext r.seq }
  { s with evt := e }
    |>.setReg R.EVT_REC_SEQ (BitVec.ofNat 64 (e.oldest * 2 ^ 32 + r.seq))
    |>.setFld F.EVT_REC_STAT_FIXED e.fixed.length

/-- A unit failure record, type 000Ah (R460). -/
def State.recordFailure (s : State) (unit inst cause detail : Nat) : State :=
  s.record 0x000A (leBytes 2 unit ++ leBytes 2 inst ++ leBytes 4 cause ++ leBytes 8 detail)

/-! ## Free values -/

/-- A free value drawn: the state counts it. -/
def State.draw (s : State) : State := { s with free := s.free + 1 }

/-! ## Small shared helpers -/

/-- `f` applied from left to right over a list. -/
def State.over {α : Type} (s : State) (l : List α) (f : State → α → State) : State := l.foldl f s

/-- The first number below `n` that satisfies `p`. -/
@[irreducible] def firstBelow (n : Nat) (p : Nat → Bool) : Option Nat := (List.range n).find? p

/-- Bytes padded with zeros, or cut, to `n`. -/
def fit (n : Nat) (bs : Bytes) : Bytes := bs.take n ++ List.replicate (n - bs.length) 0

/-- The zero bytes. -/
def zeros (n : Nat) : Bytes := List.replicate n 0

/-- A number as a byte. -/
def byteOf (n : Nat) : Byte := BitVec.ofNat 8 n

/-- A Boolean as 0 or 1. -/
def ofBool (b : Bool) : Nat := if b then 1 else 0

end Sys2Proof.Machine
end

