-- ==== Sys2Proof/Machine/Host.lean ====
section
/-! DEFINITION. The host interface's shared operations: status codes, completion queues and their interrupts, the Error
Information log, namespaces, lanes and their tags, and the lane freeze. -/

namespace Sys2Proof.Machine

/-! ## Status codes -/

/-- A status: type and code. Codes of types 0h, 1h and 2h are those of NVM Express 2.0, which the part implements (PRESUMED where the
spec names the status without its code); codes of type 7h are R199's. -/
abbrev Status := Nat × Nat

namespace St
def ok : Status := (0, 0)
def invalidOpcode : Status := (0, 0x01)
def invalidField : Status := (0, 0x02)
def abortRequested : Status := (0, 0x07)
def sqDeletion : Status := (0, 0x08)
def invalidNamespace : Status := (0, 0x0B)
def sequenceError : Status := (0, 0x0C)
def operationDenied : Status := (0, 0x15)
def lbaRange : Status := (0, 0x80)
def notReady : Status := (0, 0x82)
def cqInvalid : Status := (1, 0x00)
def invalidQid : Status := (1, 0x01)
def invalidQsize : Status := (1, 0x02)
def abortLimit : Status := (1, 0x03)
def aerLimit : Status := (1, 0x05)
def invalidSlot : Status := (1, 0x06)
def invalidImage : Status := (1, 0x07)
def invalidVector : Status := (1, 0x08)
def invalidLog : Status := (1, 0x09)
def invalidFormat : Status := (1, 0x0A)
def needsReset : Status := (1, 0x0B)
def invalidQdel : Status := (1, 0x0C)
def maxTime : Status := (1, 0x12)
def nsCapacity : Status := (1, 0x15)
def nsidUnavailable : Status := (1, 0x16)
def alreadyAttached : Status := (1, 0x18)
def notAttached : Status := (1, 0x1A)
def ctrlList : Status := (1, 0x1C)
def unrecovered : Status := (2, 0x81)
def accessDenied : Status := (2, 0x86)
def laneFrozen : Status := (7, 0x01)
def keyExhausted : Status := (7, 0x02)
def integrity : Status := (7, 0x03)
def spanNotFound : Status := (7, 0x04)
def capacity : Status := (7, 0x05)
def untested : Status := (7, 0x06)
def absent : Status := (7, 0x07)
end St

/-- Statuses returned with DNR = 0 beside Successful (R554). -/
def noDnr : List Status :=
  [St.ok, St.notReady, St.laneFrozen, St.abortRequested, St.sqDeletion, St.abortLimit, St.maxTime, St.needsReset]

/-- The status field as LANE.Ln_FREEZE.STATUS lays it out: DNR [14], SCT [10:8], SC [7:0] (R554). -/
def statusField (st : Status) : Nat := (if noDnr.contains st then 0 else 0x4000) + st.1 * 256 + st.2

/-- A completion with this status freezes its lane and enters the Error Information log (R217, R221, R557). -/
def freezing (st : Status) : Bool := !([St.ok, St.abortRequested, St.sqDeletion, St.laneFrozen].contains st)

/-! ## Standard controller registers (offsets of NVM Express 2.0, PRESUMED) -/

/-- The base of function `f`'s BAR0 in the register file: 0 for the physical function, 32 MiB steps for VFs. -/
def fnBase (f : Nat) : Nat := f * 0x2000000

namespace Nv
def CC (f : Nat) : Nat := fnBase f + 0x14
def CSTS (f : Nat) : Nat := fnBase f + 0x1C
def AQA (f : Nat) : Nat := fnBase f + 0x24
def ASQ (f : Nat) : Nat := fnBase f + 0x28
def ACQ (f : Nat) : Nat := fnBase f + 0x30
def EN (f : Nat) : Field := ⟨CC f, 0, 1⟩
def CSS (f : Nat) : Field := ⟨CC f, 4, 3⟩
def MPS (f : Nat) : Field := ⟨CC f, 7, 4⟩
def AMS (f : Nat) : Field := ⟨CC f, 11, 3⟩
def SHN (f : Nat) : Field := ⟨CC f, 14, 2⟩
def IOSQES (f : Nat) : Field := ⟨CC f, 16, 4⟩
def IOCQES (f : Nat) : Field := ⟨CC f, 20, 4⟩
def RDY (f : Nat) : Field := ⟨CSTS f, 0, 1⟩
def CFS (f : Nat) : Field := ⟨CSTS f, 1, 1⟩
def SHST (f : Nat) : Field := ⟨CSTS f, 2, 2⟩
end Nv

/-- The controller is enabled and ready, so it executes commands. -/
def State.ready (s : State) (f : Nat) : Bool := s.live && s.fnExists f && s.on (Nv.EN f) && s.on (Nv.RDY f)

/-! ## Completions -/

/-- A completion queue's interrupt after one more entry: held by coalescing on an I/O queue whose vector does not disable it,
until THR + 1 entries are held (R177, features 08h and 09h; THR or TIME zero means none is held). -/
def State.cqInterrupt (s : State) (f cqid : Nat) : State :=
  let fn := s.fn f
  match fn.cqs.get none cqid with
  | none => s
  | some q =>
    if !q.ien then s
    else
      let ic := (fn.features.get 0 0x08).toNat
      let thr := bits ic 0 8
      let held := cqid != 0 && thr != 0 && bits ic 8 8 != 0 && bits (fn.features.get 0 (0x900 + q.iv)).toNat 16 1 == 0
      if held && decide (q.held < thr) then
        s.setFn f { fn with cqs := fn.cqs.set none cqid (some { q with held := q.held + 1 }) }
      else (s.setFn f { fn with cqs := fn.cqs.set none cqid (some { q with held := 0 }) }).msix (fnVector f q.iv)

/-- One completion entry posted to completion queue `cqid` of function `f`; nothing where the queue is gone. -/
def State.post (s : State) (f cqid sqid : Nat) (cid : BitVec 16) (st : Status) (dw0 : Nat) : State :=
  let fn := s.fn f
  match fn.cqs.get none cqid with
  | none => s
  | some q =>
    let wrap := decide (q.size ≤ q.tail + 1)
    let q' := { q with tail := if wrap then 0 else q.tail + 1, phase := if wrap then !q.phase else q.phase }
    let t := s.setFn f { fn with cqs := fn.cqs.set none cqid (some q') }
    let t := { t with nvme := { t.nvme with posted := t.nvme.posted + 1 } }
    (t.emit (.cqe f cqid sqid cid (statusField st) dw0)).cqInterrupt f cqid

/-- An Error Information log entry (R221, R557): 64 entries, newest first. -/
def State.errorLog (s : State) (f sqid : Nat) (cid : BitVec 16) (st : Status) (ploc lba nsid : Nat) : State :=
  let fn := s.fn f
  let e : ErrEntry := { count := fn.errCount + 1, sqid := sqid, cid := cid, status := statusField st, ploc := ploc, lba := lba, nsid := nsid }
  s.setFn f { fn with errCount := fn.errCount + 1, errLog := (e :: fn.errLog).take 64 }

/-- An admin command completes (R176: no error stops the admin queue); an error status enters the log with SQID 0 (R557). `ploc` is the
Parameter Error Location, 0xFFFF for an error no field of the entry caused. -/
def State.admin (s : State) (f : Nat) (c : Sqe) (st : Status) (dw0 : Nat := 0) (ploc : Nat := 0xFFFF) : State :=
  let t := if freezing st then s.errorLog f 0 c.cid st ploc 0 c.nsid.toNat else s
  t.post f 0 0 c.cid st dw0

/-- Parameter Error Location of bit `b` of command dword `dw` (R557): the byte in bits [7:0], the bit in bits [10:8]. -/
def ploc (dw b : Nat) : Nat := (4 * dw + b / 8) + (b % 8) * 256

/-- An admin command completes with Invalid Field in Command for a bit of a command dword. -/
def State.badField (s : State) (f : Nat) (c : Sqe) (dw b : Nat) (dw0 : Nat := 0) : State :=
  s.admin f c St.invalidField dw0 (ploc dw b)

/-- The lowest set bit of `n`, 0 for none: the first offending bit of a field that must be zero (R557). -/
def lowBit (n : Nat) : Nat := ((List.range 64).find? (fun i => bit n i)).getD 0

/-- Data for an admin command's buffer, which crosses port 8: an admin command holds no tag (R20; DESIGN CHOICE, log entry 88). -/
def State.give (s : State) (f : Nat) (c : Sqe) (off : Nat) (bs : Bytes) : State :=
  if bs.isEmpty then s else s.emit (.data 8 f 0 c.cid off bs)

/-! ## Asynchronous events (R175, R177) -/

/-- An asynchronous event notice: completes the oldest outstanding request, or waits for one. -/
def State.notice (s : State) (f : Nat) (dw0 : Nat) : State :=
  let fn := s.fn f
  match fn.aers with
  | cid :: rest => (s.setFn f { fn with aers := rest }).post f 0 0 cid St.ok dw0
  | [] => if fn.notices.contains dw0 then s else s.setFn f { fn with notices := fn.notices ++ [dw0] }

/-- The functions whose controllers exist. -/
def State.fnList (s : State) : List Nat := List.range (1 + s.nvme.numVfs)

/-- A Critical Warning bit set (SMART / Health log); each controller that enables it in feature 0Bh gets a notice of type 1h with
the log 02h (dword 0 layout of NVM Express 2.0, PRESUMED). -/
def State.critical (s : State) (b : Nat) : State :=
  if bit s.nvme.critical b then s
  else
    let t := { s with nvme := { s.nvme with critical := s.nvme.critical + 2 ^ b } }
    t.over t.fnList (fun u f => if bit ((u.fn f).features.get 0 0x0B).toNat b then u.notice f (0x020001 + b * 256) else u)

/-- A Critical Warning bit cleared. -/
def State.uncritical (s : State) (b : Nat) : State :=
  if bit s.nvme.critical b then { s with nvme := { s.nvme with critical := s.nvme.critical - 2 ^ b } } else s

/-- A sensor reads `temp` °C: Critical Warning bit 1 while it is at or above a controller's Temperature Threshold (feature 04h, composite
temperature, in kelvin; R177). A threshold of 0, its default, is none. -/
def State.tempCheck (s : State) (temp : Nat) : State :=
  if s.fnList.any (fun f => let v := bits ((s.fn f).features.get 0 0x04).toNat 0 16; v != 0 && decide (v ≤ temp + 273)) then s.critical 1
  else s.uncritical 1

/-! ## Namespaces (R178) -/

/-- The namespace an NSID names. -/
def State.ns (s : State) (nsid : Nat) : Option Ns := s.nvme.nss.get none nsid

/-- A GCM page takes no further Writes or streams: it is Exhausted, or no origin sequence is left for an authenticated extent (R400, R404). -/
def State.pageSpent (s : State) (k : Nat) : Bool :=
  s.fld (F.CPH_KP_STATE_KIND k) == 2 && (s.on (F.CPH_KP_STATE_EXHAUSTED k) || decide (2 ^ 60 ≤ s.ftl.nextSeq))

/-- A namespace replaced. -/
def State.setNs (s : State) (nsid : Nat) (v : Option Ns) : State :=
  { s with nvme := { s.nvme with nss := s.nvme.nss.set none nsid v } }

/-- The namespace is attached to function `f`. -/
def State.attachedTo (s : State) (nsid f : Nat) : Bool :=
  match s.ns nsid with
  | some n => n.attached == some f
  | none => false

/-- A capture namespace. -/
def State.isCapture (s : State) (nsid : Nat) : Bool :=
  match s.ns nsid with
  | some n => n.capture
  | none => false

/-! ## Lanes (R183 to R189, R217 to R222) -/

/-- A lane. -/
def State.lane (s : State) (l : Nat) : Lane := s.nvme.lanes.get {} l

/-- A lane replaced. -/
def State.setLane (s : State) (l : Nat) (v : Lane) : State :=
  { s with nvme := { s.nvme with lanes := s.nvme.lanes.set {} l v } }

/-- The function that owns a lane. -/
def State.owner (s : State) (l : Nat) : Nat := s.fld (F.LANE_CFG_OWNER l)

/-- Lanes a function owns, ascending. -/
def State.owned (s : State) (f : Nat) : List Nat := (List.range 96).filter (fun l => s.owner l == f)

/-- A submission queue of a function. -/
def State.sq (s : State) (f qid : Nat) : Option Sq := (s.fn f).sqs.get none qid

/-- A submission queue replaced. -/
def State.setSq (s : State) (f qid : Nat) (v : Option Sq) : State :=
  s.setFn f { s.fn f with sqs := (s.fn f).sqs.set none qid v }

/-- The submission queue bound to a lane; none when Unbound. -/
def State.laneSq (s : State) (l : Nat) : Option Sq :=
  if s.fld (F.LANE_STATUS_STATE l) = 0 then none else s.sq (s.owner l) (s.fld (F.LANE_STATUS_SQID l))

/-- The tag `t` of a lane; none when free. -/
def State.tag (s : State) (l t : Nat) : Option Tag := (s.lane l).tags.get none t

/-- A tag replaced; LANE.Ln_TAGS shows it. -/
def State.setTag (s : State) (l t : Nat) (v : Option Tag) : State :=
  let exec := match v with | some g => ofBool (g.stage == .started) | none => 0
  let wait := match v with | some g => ofBool (g.stage != .started) | none => 0
  (s.setLane l { s.lane l with tags := (s.lane l).tags.set none t v })
    |>.setFld ⟨R.LANE_TAGS l, 32 + t, 1⟩ exec
    |>.setFld ⟨R.LANE_TAGS l, t, 1⟩ wait

/-- The free tags of a lane, ascending. -/
def State.freeTags (s : State) (l : Nat) : List Nat := (List.range 32).filter (fun t => (s.tag l t).isNone)

/-- The tags in use, in fetch order. -/
def State.busyTags (s : State) (l : Nat) : List (Nat × Tag) :=
  ((List.range 32).filterMap (fun t => (s.tag l t).map (fun g => (t, g)))).insertionSort (fun a b => a.2.order ≤ b.2.order)

/-- A lane back to Unbound: its status, tags, freeze record and counts cleared (R188, R189). -/
def State.unbind (s : State) (l : Nat) : State :=
  (s.setLane l {})
    |>.setFld (F.LANE_STATUS_STATE l) 0 |>.setFld (F.LANE_STATUS_CQID l) 0 |>.setFld (F.LANE_STATUS_SQID l) 0
    |>.setReg (R.LANE_TAGS l) 0 |>.setReg (R.LANE_FREEZE l) 0

/-- One SQ reference of a key page fewer (R412). -/
def State.unrefSq (s : State) (k : Option Nat) : State :=
  match k with
  | some p => s.subFld (F.CPH_KP_STATE_SQ_REFS p) 1
  | none => s

/-- The LANE RESUMEs that wait on a lane complete and the lane runs again (R196, R222). -/
def State.resumeLane (s : State) (l : Nat) : State :=
  if (s.lane l).resume.isEmpty then s
  else ((s.setLane l { s.lane l with resume := [] }).setFld (F.LANE_STATUS_STATE l) 1).over (s.lane l).resume
    (fun u r => u.post (s.owner l) 0 0 r St.ok 1)

/-- What a lane's queue waits for once its last tag is free, in submission order (R176): LANE RESUMEs complete and the lane runs again (R222), a
Delete I/O Submission Queue completes and the lane becomes Unbound (R188), and LANE RESUMEs submitted after the Delete find no queue. -/
def State.settleLane (s : State) (l : Nat) : State :=
  if !(s.busyTags l).isEmpty then s
  else
    let f := s.owner l
    let s := s.resumeLane l
    match s.laneSq l with
    | none => s
    | some q =>
      match q.deleting with
      | none => s
      | some cid =>
        let t := (((s.unrefSq q.keyPage).setSq f (s.fld (F.LANE_STATUS_SQID l)) none).unbind l).post f 0 0 cid St.ok 0
        t.over (s.lane l).after (fun u r => u.admin f { opc := 0xC4, cid := r } St.invalidQid 0 (ploc 10 0))

/-- A lane's command posts its completion entry and frees its tag. -/
def State.release (s : State) (l t : Nat) (st : Status) (dw0 : Nat) : State :=
  match s.tag l t with
  | none => s
  | some g =>
    (s.setTag l t none).post (s.owner l) (s.fld (F.LANE_STATUS_CQID l)) (s.fld (F.LANE_STATUS_SQID l)) g.cmd.sqe.cid st dw0

/-- The lane enters Frozen over the command in tag `t` (R218): fetching stops, LANE.Ln_FREEZE and the event are set (R189). -/
def State.freezeLane (s : State) (l t : Nat) (cid : BitVec 16) (st : Status) : State :=
  let aborted := ((s.busyTags l).filter (fun x => x.2.stage != .started && x.1 != t)).length
  let next := match s.laneSq l with | some q => q.next | none => 0
  (s.setLane l { s.lane l with freezes := (s.lane l).freezes + 1, errAt := (s.fn (s.owner l)).errCount })
    |>.setFld (F.LANE_STATUS_STATE l) 2
    |>.setFld (F.LANE_FREEZE_CID l) cid.toNat |>.setFld (F.LANE_FREEZE_STATUS l) (statusField st)
    |>.setFld (F.LANE_FREEZE_SQHD l) next |>.setFld (F.LANE_FREEZE_TAG l) t
    |>.setFld (F.LANE_FREEZE_ABORTED l) aborted
    |>.raise (192 + l)

/-- Every fetched and not started command of a lane completes with `st`, in submission queue order (R188, R218). -/
def State.abortWaiting (s : State) (l : Nat) (st : Status) : State :=
  s.over ((s.busyTags l).filter (fun x => x.2.stage == .waiting)) (fun u x => u.release l x.1 st 0)

/-- An I/O command completes. A freezing status writes an Error Information log entry, and freezes a Running lane: the failing
command's entry is posted first, then the commands not started complete with Lane Frozen Abort (R217 to R221). -/
def State.finish (s : State) (l t : Nat) (st : Status) (dw0 : Nat := 0) (ploc : Nat := 0xFFFF) (lba : Nat := 0) : State :=
  match s.tag l t with
  | none => s
  | some g =>
    if freezing st then
      let u := s.errorLog (s.owner l) (s.fld (F.LANE_STATUS_SQID l)) g.cmd.sqe.cid st ploc lba g.cmd.sqe.nsid.toNat
      if s.fld (F.LANE_STATUS_STATE l) = 1 then
        (((u.freezeLane l t g.cmd.sqe.cid st).release l t st dw0).abortWaiting l St.laneFrozen).settleLane l
      else (u.release l t st dw0).settleLane l
    else (s.release l t st dw0).settleLane l

/-- An I/O command completes with Invalid Field in Command for a bit of a command dword. -/
def State.badIo (s : State) (l t dw b : Nat) : State := s.finish l t St.invalidField 0 (ploc dw b)

/-- The fabric port that carries the host data of a command tag: 8 for an even one, 14 for an odd one (R20). -/
def hostPort (t : Nat) : Nat := if t % 2 = 0 then 8 else 14

/-- Data for the buffer of the I/O command in tag `t`, from byte `off` on. -/
def State.ioGive (s : State) (l t : Nat) (g : Tag) (off : Nat) (bs : Bytes) : State :=
  if bs.isEmpty then s
  else s.emit (.data (hostPort t) (s.owner l) (s.fld (F.LANE_STATUS_SQID l)) g.cmd.sqe.cid off bs)

/-- SLBA of a command. -/
def Sqe.slba (c : Sqe) : Nat := c.cdw10.toNat + 2 ^ 32 * c.cdw11.toNat

/-- Blocks a command names, its NLB being 0's based. -/
def Sqe.nlb (c : Sqe) : Nat := bits c.cdw12.toNat 0 16 + 1

end Sys2Proof.Machine
end

