-- ==== Sys2Proof/Machine/Memory.lean ====
section
/-! DEFINITION. Buffer memory: the SRAM banks with their grants, the march test and the wipe of SEB, and the HBM stacks (Buffer Memory; SRAM
bank ownership). -/

namespace Sys2Proof.Machine

/-- The part sets CSTS.CFS of every function and does not become ready again before its next reset (R348, R358, R363, R438, R505). -/
def State.fatal (s : State) : State :=
  let t := { s with power := { s.power with fatal := true } }
  t.over t.fnList (fun u f => u.setFld (Nv.CFS f) 1)

/-! ## SRAM banks (R25 to R27, R357 to R362) -/

/-- Bytes of bank `b` (R25). -/
def bankBytes (b : Nat) : Nat := if b < 8 then 6291456 else if b = 8 then 8388608 else 4194304

/-- A bank. -/
def State.bank (s : State) (b : Nat) : Bank := s.buf.banks.get {} b

/-- A bank replaced. -/
def State.setBank (s : State) (b : Nat) (v : Bank) : State := { s with buf := { s.buf with banks := s.buf.banks.set {} b v } }

/-- `n` bytes of a bank. -/
def Bank.read (v : Bank) (a n : Nat) : Bytes :=
  Mem.readD (fun i => match v.junk with | some k => Config.freeByte (k + i) | none => 0) v.mem a n

/-- Bytes written into a bank. A word written whole gets new check bits. -/
def Bank.write (v : Bank) (a : Nat) (bs : Bytes) : Bank :=
  { v with
    mem := if v.junk.isSome then v.mem.putAll a bs else v.mem.write a bs
    bad := if a % 64 = 0 ∧ bs.length = 64 then v.bad.filter (· != a / 64) else v.bad }

/-- The bank is Active. -/
def State.bankActive (s : State) (b : Nat) : Bool := s.fld (F.SRB_B_STATUS_PSTATE b) == 0

/-- Bb_STATUS.GRANTS brought up to date. -/
def State.updGrants (s : State) (b : Nat) : State := s.setFld (F.SRB_B_STATUS_GRANTS b) (min 255 (s.bank b).grants.length)

/-- BUFFER_GRANT_ISSUE: the owner of a bank grants a master the range [lo, hi) in a direction (R26). -/
def execBufferGrantIssue (b master lo hi : Nat) (dir : Dir) (s : State) : Res :=
  if s.live ∧ s.part.bank b ∧ lo < hi ∧ hi ≤ bankBytes b then
    .next ((s.setBank b { s.bank b with grants := (s.bank b).grants ++ [{ master := master, lo := lo, hi := hi, dir := dir }] }).updGrants b)
  else .next s

/-- BUFFER_GRANT_RETIRE: a grant ends (R26). -/
def execBufferGrantRetire (b idx : Nat) (s : State) : Res :=
  if s.live ∧ idx < (s.bank b).grants.length then
    .next ((s.setBank b { s.bank b with grants := (s.bank b).grants.eraseIdx idx }).updGrants b)
  else .next s

/-- A master holds a grant for an access (R26). -/
def Bank.granted (v : Bank) (master a n : Nat) (wr : Bool) : Bool :=
  v.grants.any (fun g => g.master == master && decide (g.lo ≤ a ∧ a + n ≤ g.hi) && (match g.dir with | .both => true | .read => !wr | .write => wr))

/-- An access the rotate mode of the bank permits (R360). -/
def State.rotOk (s : State) (b a : Nat) (wr : Bool) : Bool :=
  a % 64 == 0 || (match s.fld (F.SRB_B_CFG_ROT_MODE b) with | 2 => true | 1 => !wr | _ => false)

/-- The words an access touches. -/
def wordsOf (a n : Nat) : List Nat := if n = 0 then [] else (List.range ((a + n - 1) / 64 + 1 - a / 64)).map (a / 64 + ·)

/-- What an access by a master to a bank answers: outside any grant or rotate mode, it has no effect, a read returns zeros and the
access-violation event is set (R27, R360). While SEB is wiped, reads return zeros and writes are discarded without the event (R362). A read
that meets a double-bit error counts it, sets its event and delivers a poison mark; in MB, SEB and MGB that is fatal (R358). -/
inductive BankAns where
  | held | violation | data (bs : Bytes) (poisoned : Bool)
  deriving DecidableEq, Repr

/-- The violation's event (R27). -/
def State.bankViolation (s : State) (b : Nat) : State := s.raise (480 + b)

/-- Double-bit errors of words read (R358). -/
def State.doubleBit (s : State) (b : Nat) (ws : List Nat) : State :=
  s.over ws (fun u w =>
    let t := (u.satFld (F.SRB_B_ECC_UNCORR b) 1).raise (491 + b)
    if 8 ≤ b then (t.recordFailure 2 b 3 w).fatal else t)

/-- What the check code of a bank finds in the first word of a read: a single-bit error is corrected and counted; a word with a double-bit error
keeps it until it is written whole (R358). -/
def State.bankCheck (s : State) (b a : Nat) (sev : Severity) : State :=
  match sev with
  | .clean => s
  | .single => s.satFld (F.SRB_B_ECC_CORR b) 1
  | _ => s.setBank b { s.bank b with bad := addOnce (s.bank b).bad (a / 64) }

/-- A read of `n` bytes of bank `b` by a master; `sev` is what the check code finds. -/
def State.bankRead (s : State) (b master a n : Nat) (sev : Severity) : State × BankAns :=
  if !s.bankActive b then (s, .held)
  else if s.on (F.SRB_B_STATUS_WIPING b) then (s, .data (zeros n) false)
  else if !(s.bank b).granted master a n false || !s.rotOk b a false then (s.bankViolation b, .violation)
  else
    let s := s.bankCheck b a sev
    let bad := (wordsOf a n).filter (fun w => (s.bank b).bad.contains w)
    (s.doubleBit b bad, .data ((s.bank b).read a n) (!bad.isEmpty))

/-- A write of bytes to bank `b` by a master. -/
def State.bankWrite (s : State) (b master a : Nat) (bs : Bytes) : State × BankAns :=
  if !s.bankActive b then (s, .held)
  else if s.on (F.SRB_B_STATUS_WIPING b) then (s, .data [] false)
  else if !(s.bank b).granted master a bs.length true || !s.rotOk b a true then (s.bankViolation b, .violation)
  else (s.setBank b ((s.bank b).write a bs), .data [] false)

/-- A bank is Active, and its domain On; MGB is switched inside domain 0 (R361, R482). -/
def State.wakeBank (s : State) (b : Nat) : State :=
  let t := s.setFld (F.SRB_B_STATUS_PSTATE b) 0
  if b < 10 then t.setDom (38 + b) 2 else t

/-- BANK_WAKE: 12 µs after it began to leave Retention, a bank is Active (R361). -/
def execBankWake (b : Nat) (s : State) : Res :=
  if b < 11 ∧ s.fld (F.SRB_B_STATUS_PSTATE b) = 3 then .next (s.wakeBank b) else .next s

/-! ## The march test (R363 to R368) -/

/-- A test ends Done (2) or Aborted (3) with the words that failed; sources 502 and 503 (R365, R367). -/
def State.marchEnd (s : State) (st : Nat) (fails : List (Nat × Nat)) : State :=
  let fs := fails.filter (fun x => s.buf.marchOn.contains x.1)
  let t := s.setFld F.SRB_MARCH_STATUS_STATE st
  let t := match fs with
    | [] => t
    | x :: _ => ((t.setFld F.SRB_MARCH_STATUS_FAIL 1).setFld F.SRB_MARCH_STATUS_FAIL_BANK x.1).setFld F.SRB_MARCH_STATUS_FAIL_WORD x.2
  let t := t.setFld F.SRB_MARCH_FAILS_COUNT (min (2 ^ 32 - 1) fs.length)
  let t := { t with buf := { t.buf with marchOn := [], aborted := false } }
  let t := t.raise 502
  if fs.isEmpty then t else t.raise 503

/-- A destructive run leaves every word of its banks zero (R363); cut short, it leaves what the spec does not say. -/
def State.marchWipe (s : State) (done : Bool) : State :=
  if s.buf.marchKeep then s
  else s.over s.buf.marchOn (fun u b =>
    let v := { u.bank b with mem := [], bad := [], junk := if done then none else some u.free }
    if done then u.setBank b v else { u.setBank b v with free := u.free + bankBytes b })

/-- The code of the first check of R364 that a start fails. -/
def State.marchRefuse (s : State) (preserve : Bool) (banks : Nat) : Nat :=
  let bs := (List.range 11).filter (fun b => bit banks b)
  if s.fld F.SRB_MARCH_STATUS_STATE = 1 then 1
  else if bs.isEmpty ∨ bs.any (fun b => !s.part.bank b) then 2
  else if bs.any (fun b => !s.bankActive b || s.on (F.SRB_B_STATUS_FAILED b)) then 3
  else if !preserve ∧ bs.any (fun b => decide (4 ≤ b)) then 4
  else if !preserve ∧ bs.any (fun b => s.fld (F.ETH_CTRL_SP_EN (2 * b)) != 0 || s.fld (F.ETH_CTRL_SP_EN (2 * b + 1)) != 0 || !(s.bank b).grants.isEmpty) then 5
  else 0

/-- MARCH_START: MARCH_CTRL written with START = 1 (R364, R368). -/
def execMarchStart (preserve : Bool) (banks : Nat) (s : State) : Res :=
  if !s.live then .next s
  else
    let code := s.marchRefuse preserve banks
    if code ≠ 0 then .next (s.setFld F.SRB_MARCH_STATUS_REFUSE code)
    else
      let t := (s.setFld F.SRB_MARCH_CTRL_PRESERVE (ofBool preserve)).setFld F.SRB_MARCH_CTRL_BANKS banks
      let t := ((t.setReg R.SRB_MARCH_STATUS 0).setFld F.SRB_MARCH_STATUS_STATE 1).setReg R.SRB_MARCH_FAILS 0
      .next { t with buf := { t.buf with marchOn := (List.range 11).filter (fun b => bit banks b), marchKeep := preserve, aborted := false } }

/-- A test under way is aborted (R366). -/
def State.marchAbort (s : State) (fails : List (Nat × Nat)) : State :=
  if s.fld F.SRB_MARCH_STATUS_STATE = 1 then (s.marchWipe false).marchEnd 3 fails else s

/-- MARCH_ABORT: MARCH_CTRL written with ABORT = 1 (R366). -/
def execMarchAbort (fails : List (Nat × Nat)) (s : State) : Res := if s.live then .next (s.marchAbort fails) else .next s

/-- MARCH_DONE: the test has run over its banks; `fails` lists the failing words, first first (R365, R367). -/
def execMarchDone (fails : List (Nat × Nat)) (s : State) : Res :=
  if s.fld F.SRB_MARCH_STATUS_STATE = 1 then .next ((s.marchWipe true).marchEnd (if s.buf.aborted then 3 else 2) fails) else .next s

/-! ## The wipe of SEB (R362, R366) -/

/-- A wipe of SEB begins, or follows the one under way. The SEB part of a march test ends at once. -/
def State.startWipe (s : State) : State :=
  let s := { s with cph := { s.cph with sebKeys := [] } }
  if s.on (F.SRB_B_STATUS_WIPING 9) then { s with buf := { s.buf with wipeAgain := true } }
  else
    let t := (s.setBank 9 { s.bank 9 with mem := [], bad := [] }).setFld (F.SRB_B_STATUS_WIPING 9) 1
    if t.buf.marchOn.contains 9 then
      let rest := t.buf.marchOn.filter (· != 9)
      let u := { t with buf := { t.buf with marchOn := rest, aborted := true } }
      if rest.isEmpty then u.marchEnd 3 [] else u
    else t

/-- SEB_WIPE_DONE: event source 504; a word that does not read back zero fails the bank and is recorded (R362). -/
def execSebWipeDone (badWord : Option Nat) (s : State) : Res :=
  if s.on (F.SRB_B_STATUS_WIPING 9) then
    let t := (s.setFld (F.SRB_B_STATUS_WIPING 9) 0).raise 504
    let t := match badWord with
      | some w => (t.setFld (F.SRB_B_STATUS_FAILED 9) 1).recordFailure 2 9 2 w
      | none => t
    if t.buf.wipeAgain then .next { t with buf := { t.buf with wipeAgain := false } }.startWipe else .next t
  else .next s

/-! ## HBM stacks (R336 to R351) -/


/-- A stack. -/
def State.stk (s : State) (k : Nat) : Stack := s.buf.stack.get {} k

/-- A stack replaced; STATUS.POISONED shows its poison list. -/
def State.setStk (s : State) (k : Nat) (v : Stack) : State :=
  ({ s with buf := { s.buf with stack := s.buf.stack.set {} k v } }).setFld (F.HBM_STATUS_POISONED k) v.poison.length

/-- The stack is present and Ready. -/
def State.stackReady (s : State) (k : Nat) : Bool := decide (k < s.part.stacks) && s.fld (F.HBM_STATUS_STATE k) == 1

/-- What a stack address decodes to (R336, R338): pseudo-channel, bank (16 × SID + 4 × BG + BA) and row. -/
structure HbmAt where
  pc   : Nat
  bank : Nat
  row  : Nat
  deriving DecidableEq, Repr

/-- The address orders A, B and C (R338). -/
def hbmDecode (order a : Nat) : HbmAt :=
  let n := a / 2 ^ 19
  let sid := n / 22888
  let row := n % 22888
  if order = 1 then { pc := bits a 6 5, bank := 16 * sid + 4 * bits a 13 2 + bits a 11 2, row := row }
  else if order = 2 then
    { pc := Nat.xor (bits a 6 5) (bits a 19 5), bank := 16 * sid + 4 * Nat.xor (Nat.xor (bits a 17 2) (bits a 19 2)) (bits a 24 2) + bits a 15 2, row := row }
  else { pc := bits a 6 5, bank := 16 * sid + 4 * bits a 17 2 + bits a 15 2, row := row }

/-- A stack becomes Failed (R348, R349, R351): its cause, its record, and CSTS.CFS. `cause` as record 000Ah codes it. -/
def State.failStack (s : State) (k cause pc : Nat) : State :=
  (((s.setFld (F.HBM_STATUS_STATE k) 3).hbmCause k 5).recordFailure 1 k cause pc).fatal

/-- An address enters the poison list (R351). -/
def State.poison (s : State) (k a : Nat) : State :=
  let v := s.stk k
  if v.poison.contains a then s
  else if 256 ≤ v.poison.length then s.failStack k 3 (hbmDecode (s.fld (F.HBM_STATUS_ORDER_ACTIVE k)) a).pc
  else
    let t := s.setStk k { v with poison := v.poison ++ [a] }
    if v.poison.length + 1 = 128 then t.hbmCause k 6 else t

/-- The row an access needs is opened, or hit (R340). -/
def State.openRow (s : State) (k a : Nat) : State :=
  let d := hbmDecode (s.fld (F.HBM_STATUS_ORDER_ACTIVE k)) a
  let key := 48 * d.pc + d.bank
  let v := s.stk k
  if v.rows.get 0 key = d.row + 1 then s.count (R.HBM_N_ROW_HITS k) 1
  else (s.setStk k { v with rows := v.rows.set 0 key (d.row + 1) }).count (R.HBM_N_ACTIVATES k) 1

/-- The stack's report of a 64 B read at `a` (R350, R351): a listed address is uncorrectable whatever the stack reports. -/
def State.severity (s : State) (k a : Nat) (sev : Severity) : State :=
  let s := s.count (R.HBM_N_READS k) 1
  match (if (s.stk k).poison.contains a then Severity.uncorrectable else sev) with
  | .clean => s
  | .single => (s.count (R.HBM_N_SEV_SINGLE k) 1).hbmCause k 1
  | .multi => (s.count (R.HBM_N_SEV_MULTI k) 1).hbmCause k 1
  | .uncorrectable =>
    let t := (s.count (R.HBM_N_UNCORR k) 1).hbmCause k 0
    let t := if t.on (F.HBM_ERRADDR_VALID k) then t else (t.setFld (F.HBM_ERRADDR_ADDR k) a).setFld (F.HBM_ERRADDR_VALID k) 1
    t.poison k a

/-- A request of at most 64 B inside one 64 B line: a read, a whole write, or a merged write (R342, R343, R350, R351). -/
def State.hbmAccess (s : State) (k addr len : Nat) (wr : Option Bytes) (sev : Severity) : State :=
  let a := addr / 64 * 64
  let s := s.openRow k a
  match wr with
  | none => s.severity k a sev
  | some bs =>
    let put := fun (u : State) => u.setStk k { u.stk k with mem := (u.stk k).mem.write addr (fit len bs) }
    if len = 64 then
      let t := (put s).count (R.HBM_N_WRITES k) 1
      t.setStk k { t.stk k with poison := (t.stk k).poison.filter (· != a) }
    else (put (s.severity k a sev)).count (R.HBM_N_WRITES k) 1 |>.count (R.HBM_N_RMW k) 1

/-! ### The schedulers (R341, R342, R346) -/

/-- The scheduler of a pseudo-channel. -/
def State.hbmQ (s : State) (k pc : Nat) : HbmQueue := (s.stk k).queues.get {} pc

/-- The scheduler of a pseudo-channel replaced. -/
def State.setHbmQ (s : State) (k pc : Nat) (q : HbmQueue) : State :=
  s.setStk k { s.stk k with queues := (s.stk k).queues.set {} pc q }

/-- Two requests touch the same 64 B. -/
def HbmReq.same (a b : HbmReq) : Bool := a.addr / 64 == b.addr / 64

/-- A request of a stack hits an open row (R340). -/
def State.hbmHit (s : State) (k : Nat) (r : HbmReq) : Bool :=
  let d := hbmDecode (s.fld (F.HBM_STATUS_ORDER_ACTIVE k)) r.addr
  (s.stk k).rows.get 0 (48 * d.pc + d.bank) == d.row + 1

/-- A queue's requests with their places, without those behind an earlier request to the same 64 B (R342). -/
def HbmQueue.able (q : HbmQueue) : List (Nat × HbmReq) :=
  (List.zip (List.range q.reqs.length) q.reqs).filter (fun x => !(q.reqs.take x.1).any (fun r => r.same x.2))

/-- Reads and writes waiting. -/
def HbmQueue.reads (q : HbmQueue) : Nat := (q.reqs.filter (fun r => r.write.isNone)).length
def HbmQueue.writes (q : HbmQueue) : Nat := (q.reqs.filter (fun r => r.write.isSome)).length

/-- The mode a pseudo-channel picks in (R341). -/
def State.hbmMode (s : State) (k : Nat) (q : HbmQueue) : Bool :=
  let stay := q.write && decide (s.fld (F.HBM_CFG_WR_LO k) < q.writes)
  stay || decide (s.fld (F.HBM_CFG_WR_HI k) ≤ q.writes) || (q.reads == 0 && decide (0 < q.writes))

/-- The request a pseudo-channel picks, by its place (R341): the oldest one that has waited more than 8 × AGE_MAX controller cycles of 1.25 ns; else,
of its mode's, the oldest that hits an open row, then the oldest. -/
def State.hbmPick (s : State) (k : Nat) (q : HbmQueue) : Option (Nat × HbmReq) :=
  let l := q.able
  let mine := l.filter (fun x => x.2.write.isSome == s.hbmMode k q)
  (l.find? (fun x => decide (10 * s.fld (F.HBM_CFG_AGE_MAX k) < s.time.ftc - x.2.since))).or
    ((mine.find? (fun x => s.hbmHit k x.2)).or mine.head?)

/-- The next bank of a pseudo-channel refreshed; its open row closes (R345, R346). -/
def State.hbmRefreshBank (s : State) (k pc : Nat) : State :=
  let v := s.stk k
  let b := v.refPos.get 0 pc
  (s.setStk k { v with rows := v.rows.drop (48 * pc + b), refPos := v.refPos.set 0 pc ((b + 1) % 48) }).count (R.HBM_N_REFRESHES k) 1

/-- The bank a pseudo-channel refreshes next holds queued requests that hit its open row (R346). -/
def State.hbmBankHit (s : State) (k pc : Nat) : Bool :=
  (s.hbmQ k pc).reqs.any (fun r =>
    (hbmDecode (s.fld (F.HBM_STATUS_ORDER_ACTIVE k)) r.addr).bank == (s.stk k).refPos.get 0 pc && s.hbmHit k r)

/-- The picked request served: it leaves the queue. -/
def State.hbmServe (s : State) (k pc i : Nat) (r : HbmReq) : State :=
  let q := s.hbmQ k pc
  (s.setHbmQ k pc { q with reqs := q.reqs.eraseIdx i, write := s.hbmMode k q }).hbmAccess k r.addr r.len r.write r.sev

/-- The queued requests to the 64 B of a stack address served, in the order they came, ahead of an access that reaches the controller now
(R342). -/
def State.hbmSettle (s : State) (k addr : Nat) : State :=
  let pc := (hbmDecode (s.fld (F.HBM_STATUS_ORDER_ACTIVE k)) addr).pc
  s.over (s.hbmQ k pc).reqs (fun u _ =>
    match (u.hbmQ k pc).reqs.findIdx? (fun r => r.addr / 64 == addr / 64) with
    | some i => match (u.hbmQ k pc).reqs[i]? with
      | some r => u.hbmServe k pc i r
      | none => u
    | none => u)

/-- One controller cycle of a pseudo-channel: one command (R341). A postponed refresh goes as soon as no queued request hits its bank's open row. -/
def State.hbmCycle (s : State) (k pc : Nat) : State :=
  let q := s.hbmQ k pc
  if 0 < q.owed ∧ !s.hbmBankHit k pc then (s.setHbmQ k pc { q with owed := q.owed - 1 }).hbmRefreshBank k pc
  else match s.hbmPick k q with
    | some (i, r) => s.hbmServe k pc i r
    | none => s

/-- One controller cycle of every pseudo-channel of the stacks that are Ready. -/
def State.hbmCycles (s : State) : State :=
  s.over s.buf.stack (fun u e => if u.stackReady e.1 then u.over e.2.queues (fun v x => v.hbmCycle e.1 x.1) else u)

/-- A request joins its pseudo-channel's queue. A full queue serves its picks first: the request waits in the fabric. A read of the 64 B that a
queued write writes whole, and no later request touches, returns that write's data from the queue (R342). -/
def State.hbmArrive (s : State) (k : Nat) (r : HbmReq) : State :=
  let pc := (hbmDecode (s.fld (F.HBM_STATUS_ORDER_ACTIVE k)) r.addr).pc
  let full := fun (q : HbmQueue) => if r.write.isSome then decide (64 ≤ q.writes) else decide (32 ≤ q.reads)
  let t := s.over (List.range 96) (fun u _ => if full (u.hbmQ k pc) then u.hbmCycle k pc else u)
  let q := t.hbmQ k pc
  match (q.reqs.filter (fun x => x.same r)).getLast? with
  | some w =>
    if r.write.isNone ∧ w.write.isSome ∧ w.len = 64 then t.count (R.HBM_N_READS k) 1
    else t.setHbmQ k pc { q with reqs := q.reqs ++ [r] }
  | none => t.setHbmQ k pc { q with reqs := q.reqs ++ [r] }

/-- HBM_REQUEST (R342): a request reaches a stack that is Ready; one that reaches it after its agent has accepted an entry is held in the fabric
(R354). -/
def execHbmRequest (stack addr len : Nat) (wr : Option Bytes) (sev : Severity) (s : State) : Res :=
  if stack < s.part.stacks ∧ 0 < len ∧ addr % 64 + len ≤ 64 ∧ addr + len ≤ stackBytes then
    if s.live && s.holds (30 + stack) then .next (s.holdWork (.hbm stack addr len wr sev))
    else if s.stackReady stack then .next (s.hbmArrive stack { addr := addr, len := len, write := wr, sev := sev, since := s.time.ftc })
    else .next s
  else .next s

/-- HBM_REFRESH: a refresh interval expires (R345). The refresh is postponed while queued requests hit the open row of its bank, and fewer than 4
intervals (R346: it "may" be; DESIGN CHOICE, log entry 79). -/
def execHbmRefresh (stack pc : Nat) (s : State) : Res :=
  if s.stackReady stack ∧ pc < 32 then
    let q := s.hbmQ stack pc
    if s.hbmBankHit stack pc ∧ q.owed < 4 then .next (s.setHbmQ stack pc { q with owed := q.owed + 1 })
    else .next (s.hbmRefreshBank stack pc)
  else .next s

/-- HBM_TIMING_CHECK: a failed check retrains the channel and sets RETRAIN; a failed retraining fails the stack (R349). -/
def execHbmTimingCheck (stack channel : Nat) (ok retrainOk : Bool) (s : State) : Res :=
  if s.stackReady stack ∧ channel < 16 ∧ !ok then
    let t := (s.count (R.HBM_N_RETRAINS stack) 1).hbmCause stack 4
    .next (if retrainOk then t else t.failStack stack 2 (2 * channel))
  else .next s

/-- HBM_TEMP_HOT: above 85 °C the refresh rate doubles (R345). -/
def execHbmTempHot (stack temp : Nat) (s : State) : Res :=
  if s.stackReady stack ∧ 85 < temp then
    .next (((s.setFld (F.HBM_STATUS_TEMP stack) temp).setFld (F.HBM_STATUS_REF_FAST stack) 1).hbmCause stack 2 |>.tempCheck temp)
  else .next s

/-- HBM_TEMP_OK: below 80 °C the normal rate returns while REF_2X is 0 (R345). -/
def execHbmTempOk (stack temp : Nat) (s : State) : Res :=
  if s.stackReady stack ∧ temp < 80 then
    let t := ((s.setFld (F.HBM_STATUS_TEMP stack) temp).hbmCause stack 3).tempCheck temp
    .next (if t.on (F.HBM_CFG_REF_2X stack) then t else t.setFld (F.HBM_STATUS_REF_FAST stack) 0)
  else .next s

/-- HBM_ERRADDR_REARM: HBMs.ERRADDR.VALID written 1 (R351). -/
def execHbmErraddrRearm (stack : Nat) (s : State) : Res :=
  if s.live ∧ stack < s.part.stacks then .next (s.setFld (F.HBM_ERRADDR_VALID stack) 0) else .next s

end Sys2Proof.Machine
end

