-- ==== Sys2Proof/Machine/Crypto.lean ====
section
/-! DEFINITION. The cryptographic functions the manual names by their standards: SHA-384 and ECDSA over P-384 for signed images and
grants (R55, R331, R503, R520), AES-256 (R409), its CMAC (R520), GCM (R149, R399) and XTS (R398). Numbers are big-endian here. -/

namespace Sys2Proof.Machine

namespace Crypto

/-! ## SHA-384 -/

/-- The first 40 round constants of SHA-512 and SHA-384. -/
def kLow : List W64 :=
  [0x428a2f98d728ae22#64, 0x7137449123ef65cd#64, 0xb5c0fbcfec4d3b2f#64, 0xe9b5dba58189dbbc#64,
   0x3956c25bf348b538#64, 0x59f111f1b605d019#64, 0x923f82a4af194f9b#64, 0xab1c5ed5da6d8118#64,
   0xd807aa98a3030242#64, 0x12835b0145706fbe#64, 0x243185be4ee4b28c#64, 0x550c7dc3d5ffb4e2#64,
   0x72be5d74f27b896f#64, 0x80deb1fe3b1696b1#64, 0x9bdc06a725c71235#64, 0xc19bf174cf692694#64,
   0xe49b69c19ef14ad2#64, 0xefbe4786384f25e3#64, 0x0fc19dc68b8cd5b5#64, 0x240ca1cc77ac9c65#64,
   0x2de92c6f592b0275#64, 0x4a7484aa6ea6e483#64, 0x5cb0a9dcbd41fbd4#64, 0x76f988da831153b5#64,
   0x983e5152ee66dfab#64, 0xa831c66d2db43210#64, 0xb00327c898fb213f#64, 0xbf597fc7beef0ee4#64,
   0xc6e00bf33da88fc2#64, 0xd5a79147930aa725#64, 0x06ca6351e003826f#64, 0x142929670a0e6e70#64,
   0x27b70a8546d22ffc#64, 0x2e1b21385c26c926#64, 0x4d2c6dfc5ac42aed#64, 0x53380d139d95b3df#64,
   0x650a73548baf63de#64, 0x766a0abb3c77b2a8#64, 0x81c2c92e47edaee6#64, 0x92722c851482353b#64]

/-- The last 40 round constants. -/
def kHigh : List W64 :=
  [0xa2bfe8a14cf10364#64, 0xa81a664bbc423001#64, 0xc24b8b70d0f89791#64, 0xc76c51a30654be30#64,
   0xd192e819d6ef5218#64, 0xd69906245565a910#64, 0xf40e35855771202a#64, 0x106aa07032bbd1b8#64,
   0x19a4c116b8d2d0c8#64, 0x1e376c085141ab53#64, 0x2748774cdf8eeb99#64, 0x34b0bcb5e19b48a8#64,
   0x391c0cb3c5c95a63#64, 0x4ed8aa4ae3418acb#64, 0x5b9cca4f7763e373#64, 0x682e6ff3d6b2b8a3#64,
   0x748f82ee5defb2fc#64, 0x78a5636f43172f60#64, 0x84c87814a1f0ab72#64, 0x8cc702081a6439ec#64,
   0x90befffa23631e28#64, 0xa4506cebde82bde9#64, 0xbef9a3f7b2c67915#64, 0xc67178f2e372532b#64,
   0xca273eceea26619c#64, 0xd186b8c721c0c207#64, 0xeada7dd6cde0eb1e#64, 0xf57d4f7fee6ed178#64,
   0x06f067aa72176fba#64, 0x0a637dc5a2c898a6#64, 0x113f9804bef90dae#64, 0x1b710b35131c471b#64,
   0x28db77f523047d84#64, 0x32caab7b40c72493#64, 0x3c9ebe0a15c9bebc#64, 0x431d67c49c100d4c#64,
   0x4cc5d4becb3e42b6#64, 0x597f299cfc657e2a#64, 0x5fcb6fab3ad6faec#64, 0x6c44198c4a475817#64]

/-- The initial hash value of SHA-384. -/
def shaInit : List W64 :=
  [0xcbbb9d5dc1059ed8#64, 0x629a292a367cd507#64, 0x9159015a3070dd17#64, 0x152fecd8f70e5939#64,
   0x67332667ffc00b31#64, 0x8eb44a8768581511#64, 0xdb0c2e0d64f98fa7#64, 0x47b5481dbefa4fa4#64]

/-- A 64-bit rotation to the right. -/
def rotr (x : W64) (n : Nat) : W64 := (x >>> n) ||| (x <<< (64 - n))

/-- The message in 64-bit words, big-endian. -/
def words64 : Nat → Bytes → List W64
  | 0, _ => []
  | n + 1, bs => BitVec.ofNat 64 (beNat (bs.take 8)) :: words64 n (bs.drop 8)

/-- The next message-schedule word, of the 16 before it (newest last). -/
def schedNext (w : List W64) : W64 :=
  let x := w.getD 1 0
  let y := w.getD 14 0
  (rotr y 19 ^^^ rotr y 61 ^^^ (y >>> 6)) + w.getD 9 0 + (rotr x 1 ^^^ rotr x 8 ^^^ (x >>> 7)) + w.getD 0 0

/-- One round over the eight working variables. -/
def shaRound (v : List W64) (k w : W64) : List W64 :=
  match v with
  | [a, b, c, d, e, f, g, h] =>
    let t1 := h + (rotr e 14 ^^^ rotr e 18 ^^^ rotr e 41) + ((e &&& f) ^^^ ((~~~e) &&& g)) + k + w
    let t2 := (rotr a 28 ^^^ rotr a 34 ^^^ rotr a 39) + ((a &&& b) ^^^ (a &&& c) ^^^ (b &&& c))
    [t1 + t2, a, b, c, d + t1, e, f, g]
  | _ => v

/-- The 80 rounds of one block; `w` holds the 16 newest schedule words. -/
def shaRounds : List W64 → List W64 → List W64 → List W64
  | [], _, v => v
  | k :: ks, w, v => shaRounds ks (w.drop 1 ++ [schedNext w]) (shaRound v k (w.headD 0))

/-- One 128-byte block. -/
def shaBlock (h : List W64) (b : Bytes) : List W64 :=
  List.zipWith (· + ·) h (shaRounds (kLow ++ kHigh) (words64 16 b) h)

/-- `n` blocks. -/
def shaBlocks : Nat → List W64 → Bytes → List W64
  | 0, h, _ => h
  | n + 1, h, bs => shaBlocks n (shaBlock h (bs.take 128)) (bs.drop 128)

/-- SHA-384 of a byte string, 48 bytes. -/
def sha384 (m : Bytes) : Bytes :=
  let blocks := (m.length + 17 + 127) / 128
  let padded := m ++ [0x80#8] ++ List.replicate (blocks * 128 - m.length - 17) 0#8 ++ beBytes 16 (8 * m.length)
  ((shaBlocks blocks shaInit padded).take 6).flatMap (fun w => beBytes 8 w.toNat)

/-! ## ECDSA over P-384 -/

/-- The field prime. -/
def p384 : Nat := 2 ^ 384 - 2 ^ 128 - 2 ^ 96 + 2 ^ 32 - 1
/-- The group order. -/
def n384 : Nat := 0xffffffffffffffffffffffffffffffffffffffffffffffffc7634d81f4372ddf581a0db248b0a77aecec196accc52973
/-- The curve coefficient b. -/
def b384 : Nat := 0xb3312fa7e23ee7e4988e056be3f82d19181d9c6efe8141120314088f5013875ac656398d8a2ed19d2a85c8edd3ec2aef
/-- The base point, x. -/
def gx384 : Nat := 0xaa87ca22be8b05378eb1c71ef320ad746e1d3b628ba79b9859f741e082542a385502f25dbf55296c3a545e3872760ab7
/-- The base point, y. -/
def gy384 : Nat := 0x3617de4a96262c6f5d9e98bf9292dc29f8f41dbd289a147ce9da3113b5f0b8c00a60b1ce1d7e819d7a431d7c90ea0e5f

/-- x to the power e modulo m, over `fuel` bits of e. -/
def powMod (m : Nat) : Nat → Nat → Nat → Nat
  | 0, _, _ => 1 % m
  | fuel + 1, x, e => (if e % 2 = 1 then x else 1) * powMod m fuel (x * x % m) (e / 2) % m

/-- The inverse modulo a prime. -/
def invMod (m x : Nat) : Nat := powMod m 384 (x % m) (m - 2)

/-- A point in Jacobian coordinates; Z = 0 is the point at infinity. -/
structure Pt where
  x : Nat
  y : Nat
  z : Nat

/-- Twice a point (a = -3). -/
def Pt.dbl (q : Pt) : Pt :=
  let p := p384
  let d := q.z * q.z % p
  let g := q.y * q.y % p
  let b := q.x * g % p
  let a := 3 * ((q.x + p - d) % p) * (q.x + d) % p
  let x := (a * a + 8 * (p - b)) % p
  { x := x, y := (a * ((4 * b + p - x) % p) + 8 * (p - g * g % p)) % p, z := ((q.y + q.z) * (q.y + q.z) + 2 * p - g - d) % p }

/-- The sum of two points. -/
def Pt.add (q r : Pt) : Pt :=
  let p := p384
  if q.z = 0 then r
  else if r.z = 0 then q
  else
    let zz := q.z * q.z % p
    let ww := r.z * r.z % p
    let u := q.x * ww % p
    let v := r.x * zz % p
    let m := q.y * ww % p * r.z % p
    let n := r.y * zz % p * q.z % p
    if u = v then (if m = n then q.dbl else ⟨1, 1, 0⟩)
    else
      let h := (v + p - u) % p
      let t := (n + p - m) % p
      let hh := h * h % p
      let hhh := h * hh % p
      let uh := u * hh % p
      let x := (t * t + p - hhh + 2 * (p - uh)) % p
      { x := x, y := (t * ((uh + p - x) % p) + (p - m * hhh % p)) % p, z := q.z * r.z % p * h % p }

/-- k times a point, over `fuel` bits of k. -/
def Pt.mul : Nat → Nat → Pt → Pt
  | 0, _, _ => ⟨1, 1, 0⟩
  | fuel + 1, k, q => let r := Pt.mul fuel (k / 2) q.dbl
                      if k % 2 = 1 then q.add r else r

/-- The affine x coordinate. -/
def Pt.affX (q : Pt) : Nat := let i := invMod p384 q.z; q.x * (i * i % p384) % p384

/-- A public key of 96 bytes, x then y, names a point of the curve. -/
def onCurve (x y : Nat) : Bool :=
  decide (x < p384) && decide (y < p384) && (y * y % p384 == (x * x * x + (p384 - 3) * x + b384) % p384)

/-- ECDSA P-384 with SHA-384: the signature `sig` (r then s, 48 bytes each) of `msg` verifies under the public key `pub` (x then y). -/
def ecdsaOk (pub msg sig : Bytes) : Bool :=
  let x := beNat (pub.take 48)
  let y := beNat ((pub.drop 48).take 48)
  let r := beNat (sig.take 48)
  let t := beNat ((sig.drop 48).take 48)
  if pub.length = 96 ∧ sig.length = 96 ∧ onCurve x y ∧ 0 < r ∧ r < n384 ∧ 0 < t ∧ t < n384 then
    let w := invMod n384 t
    let q := ((Pt.mul 384 (beNat (sha384 msg) * w % n384) ⟨gx384, gy384, 1⟩).add (Pt.mul 384 (r * w % n384) ⟨x, y, 1⟩))
    decide (q.z ≠ 0) && q.affX % n384 == r
  else false

/-! ## AES-256 -/

/-- Multiplication by x in GF(2^8). -/
def xtime (b : Byte) : Byte := (b <<< 1) ^^^ (if b.getLsbD 7 then 0x1B#8 else 0#8)

/-- Multiplication in GF(2^8), over `n` bits of the second factor. -/
def gmul : Nat → Byte → Byte → Byte
  | 0, _, _ => 0
  | n + 1, a, b => (if b.getLsbD 0 then a else 0) ^^^ gmul n (xtime a) (b >>> 1)

/-- The S-box: the inverse in GF(2^8) and the affine map. -/
def sbox (b : Byte) : Byte :=
  let g := gmul 8
  let b2 := g b b
  let b4 := g b2 b2
  let b8 := g b4 b4
  let b16 := g b8 b8
  let b32 := g b16 b16
  let b64 := g b32 b32
  let b128 := g b64 b64
  let i := g b128 (g b64 (g b32 (g b16 (g b8 (g b4 b2)))))
  i ^^^ i.rotateLeft 1 ^^^ i.rotateLeft 2 ^^^ i.rotateLeft 3 ^^^ i.rotateLeft 4 ^^^ 0x63#8

/-- Bytewise exclusive or. -/
def xorB (a b : Bytes) : Bytes := List.zipWith (· ^^^ ·) a b

/-- The next word of the key schedule of AES-256, of the 8 words before it (newest last), as its index tells. -/
def nextKeyWord (i : Nat) (rc : Byte) (ws : List Bytes) : Bytes :=
  let t := ws.getD 7 []
  let u := if i % 8 = 0 then (match t.map sbox with
      | [a, b, c, d] => [b ^^^ rc, c, d, a]
      | x => x)
    else if i % 8 = 4 then t.map sbox else t
  xorB u (ws.getD 0 [])

/-- The key schedule's words from index `i` on, `n` of them. -/
def keyWords : Nat → Nat → Byte → List Bytes → List Bytes
  | 0, _, _, _ => []
  | n + 1, i, rc, ws =>
    let w := nextKeyWord i rc ws
    w :: keyWords n (i + 1) (if i % 8 = 0 then xtime rc else rc) (ws.drop 1 ++ [w])

/-- A byte string in pieces of `k` bytes. -/
def pieces (k : Nat) : Nat → Bytes → List Bytes
  | 0, _ => []
  | n + 1, bs => bs.take k :: pieces k n (bs.drop k)

/-- The 15 round keys of a 32-byte key. -/
def roundKeys (key : Bytes) : List Bytes :=
  let first := pieces 4 8 key
  pieces 16 15 (first ++ keyWords 52 8 1 first).flatten

/-- ShiftRows on the 16 bytes, column by column. -/
def shiftRows (s : Bytes) : Bytes := (List.range 16).map (fun i => s.getD ((i + 4 * (i % 4)) % 16) 0)

/-- MixColumns of one column. -/
def mixCol (c : Bytes) : Bytes :=
  match c with
  | [a, b, d, e] =>
    [xtime a ^^^ xtime b ^^^ b ^^^ d ^^^ e, a ^^^ xtime b ^^^ xtime d ^^^ d ^^^ e,
     a ^^^ b ^^^ xtime d ^^^ xtime e ^^^ e, xtime a ^^^ a ^^^ b ^^^ d ^^^ xtime e]
  | x => x

/-- The rounds over the round keys left; the last has no MixColumns. -/
def aesRounds : List Bytes → Bytes → Bytes
  | [], s => s
  | [k], s => xorB (shiftRows (s.map sbox)) k
  | k :: ks, s => aesRounds ks (xorB ((pieces 4 4 (shiftRows (s.map sbox))).map mixCol).flatten k)

/-- AES-256 of one 16-byte block. -/
def aes256 (key b : Bytes) : Bytes :=
  match roundKeys key with
  | k :: ks => aesRounds ks (xorB b k)
  | [] => b

/-- Doubling in GF(2^128), for the CMAC subkeys. -/
def dbl128 (b : Bytes) : Bytes :=
  let n := beNat b
  beBytes 16 (Nat.xor (n * 2 % 2 ^ 128) (if 2 ^ 127 ≤ n then 0x87 else 0))

/-- AES-256 CMAC of a byte string. -/
def cmac (key m : Bytes) : Bytes :=
  let k1 := dbl128 (aes256 key (List.replicate 16 0))
  let n := max 1 ((m.length + 15) / 16)
  let body := (pieces 16 (n - 1) m).foldl (fun c b => aes256 key (xorB c b)) (List.replicate 16 0)
  let last := m.drop (16 * (n - 1))
  let l := if last.length = 16 then xorB last k1
    else xorB (last ++ 0x80#8 :: List.replicate (15 - last.length) 0) (dbl128 k1)
  aes256 key (xorB body l)

/-! ## AES-256-GCM -/

/-- The product in GCM's field GF(2^128), over the `n` low bits of `x`, the most significant first. -/
def gmul128 : Nat → Nat → Nat → Nat → Nat
  | 0, _, _, z => z
  | n + 1, x, v, z =>
    gmul128 n x (if v % 2 = 1 then Nat.xor (v / 2) (0xE1 * 2 ^ 120) else v / 2) (if x / 2 ^ n % 2 = 1 then Nat.xor z v else z)

/-- A byte string padded with zeros to whole blocks. -/
def padBlocks (bs : Bytes) : Bytes := bs ++ List.replicate ((16 - bs.length % 16) % 16) 0

/-- The blocks of a byte string, the last cut short. -/
def blocks (bs : Bytes) : List Bytes := pieces 16 ((bs.length + 15) / 16) bs

/-- GHASH of the additional data and the ciphertext under the hash key `h`. -/
def ghash (h : Nat) (aad c : Bytes) : Bytes :=
  let m := padBlocks aad ++ padBlocks c ++ beBytes 8 (8 * aad.length) ++ beBytes 8 (8 * c.length)
  beBytes 16 ((blocks m).foldl (fun y b => gmul128 128 (Nat.xor y (beNat b)) h 0) 0)

/-- The counter mode of GCM: a byte string enciphered or deciphered under a 12-byte IV. -/
def gcmCtr (key iv m : Bytes) : Bytes :=
  xorB m ((List.range ((m.length + 15) / 16)).flatMap (fun i => aes256 key (iv ++ beBytes 4 (i + 2))))

/-- The 16-byte tag of a ciphertext and its additional data. -/
def gcmTag (key iv aad c : Bytes) : Bytes :=
  xorB (aes256 key (iv ++ beBytes 4 1)) (ghash (beNat (aes256 key (List.replicate 16 0))) aad c)

/-- AES-256-GCM: the plaintext of a ciphertext whose tag verifies. -/
def gcmOpen (key iv aad c tag : Bytes) : Option Bytes := if gcmTag key iv aad c = tag then some (gcmCtr key iv c) else none

/-- AES-256-GCM: the ciphertext followed by its tag. -/
def gcmSeal (key iv aad m : Bytes) : Bytes := let c := gcmCtr key iv m; c ++ gcmTag key iv aad c

/-! ## AES-256-XTS -/

/-- The next tweak: the product by x in XTS's field, bytes little-endian. -/
def xtsNext (t : Bytes) : Bytes :=
  let n := leNat t
  leBytes 16 (Nat.xor (n * 2 % 2 ^ 128) (if 2 ^ 127 ≤ n then 0x87 else 0))

/-- XTS over whole blocks, from the tweak `t` on. -/
def xtsBlocks (key1 : Bytes) : List Bytes → Bytes → Bytes
  | [], _ => []
  | b :: bs, t => xorB (aes256 key1 (xorB b t)) t ++ xtsBlocks key1 bs (xtsNext t)

/-- A data unit of whole blocks enciphered under Key1 and Key2, which enciphers the tweak (IEEE 1619). -/
def xtsSeal (key1 key2 tweak m : Bytes) : Bytes := xtsBlocks key1 (blocks m) (aes256 key2 tweak)

end Crypto

end Sys2Proof.Machine
end

