-- ==== Sys2Proof/Machine/Flags.lean ====
section
/-! DEFINITION. The conditions of the instruction sets: the condition codes of Urette words (R46) and serial-number
arithmetic. -/

namespace Sys2Proof.Machine

/-- `x` precedes `y` in 32-bit serial-number arithmetic (R46). -/
def slt32 (x y : W64) : Bool :=
  let dy := (y.setWidth 32 - x.setWidth 32 : W32).toNat
  decide (0 < dy ∧ dy < 2 ^ 31)

/-- `x` follows `y` in 32-bit serial-number arithmetic (R46). -/
def sgt32 (x y : W64) : Bool := slt32 y x

/-- The condition codes of CMP, CMPI, BC and BCI (R46). Codes 10 to 31 are rejected at load, so no loaded word holds one. -/
def cond (m : Nat) (x y : W64) : Bool :=
  match m with
  | 0 => x == y
  | 1 => x != y
  | 2 => decide (x < y)
  | 3 => decide (y ≤ x)
  | 4 => x.slt y
  | 5 => y.sle x
  | 6 => slt32 x y
  | 7 => sgt32 x y
  | 8 => x &&& y != 0
  | 9 => x &&& y == 0
  | _ => false

end Sys2Proof.Machine
end

