-- ==== Sys2Proof/Machine/Operands.lean ====
section
/-! DEFINITION. The operand forms of the instruction words: the fields of a Urette word (R45) and the operands a thread reads
through them. -/

namespace Sys2Proof.Machine

namespace Uw
/-- Opcode, bits [63:56]. -/
def op (w : W64) : Nat := bits w.toNat 56 8
/-- Destination register, bits [55:51]. -/
def d (w : W64) : Nat := bits w.toNat 51 5
/-- First source register, bits [50:46]. -/
def a (w : W64) : Nat := bits w.toNat 46 5
/-- Second source register, bits [45:41]. -/
def b (w : W64) : Nat := bits w.toNat 41 5
/-- Mode, bits [40:36]. -/
def m (w : W64) : Nat := bits w.toNat 36 5
/-- Flag `i`, bits [35:32]. -/
def f (w : W64) (i : Nat) : Bool := bit w.toNat (32 + i)
/-- Bits [lo + len - 1 : lo] of the immediate, bits [31:0]. -/
def imm (w : W64) (lo len : Nat) : Nat := bits w.toNat lo len
/-- imm sign-extended to 64 bits. -/
def sx (w : W64) : W64 := (w.setWidth 32 : W32).signExtend 64
/-- imm zero-extended to 64 bits. -/
def zx (w : W64) : W64 := (w.setWidth 32 : W32).setWidth 64
/-- imm[31:16] sign-extended to 64 bits. -/
def sx16 (w : W64) : W64 := (BitVec.ofNat 16 (imm w 16 16)).signExtend 64
end Uw

/-- Register `r` of a thread: u0 reads zero (R39). -/
def Thread.u (th : Thread) (r : Nat) : W64 := if r = 0 then 0 else th.regs.get 0 r

/-- Register `r` of a thread set to `v`: writes to u0 are discarded (R39). -/
def Thread.setU (th : Thread) (r : Nat) (v : W64) : Thread := if r = 0 then th else { th with regs := th.regs.set 0 r v }

/-- Byte `i` of the header window: the payload's, and zero past its end and past byte 255 (R40). -/
def Dgram.h (g : Dgram) (i : Nat) : Byte := if i < 256 then g.payload.getD i 0 else 0

/-- The 256 bytes of the header window. -/
def Dgram.window (g : Dgram) : Bytes := fit 256 (g.payload.take 256)

/-- The header window as one number, bit 0 of the window most significant (XBIT's numbering). -/
def Dgram.windowNat (g : Dgram) : Nat := beNat g.window

/-- XB's bytes off to off + w - 1, H[off] most significant unless `le` (R47). -/
def Dgram.xb (g : Dgram) (off w : Nat) (le : Bool) : Nat :=
  let bs := (g.window.drop off).take w
  if le then leNat bs else beNat bs

/-- XBIT's bits off to off + w - 1 of H, bit off most significant (R47). -/
def Dgram.xbit (g : Dgram) (off w : Nat) : Nat := g.windowNat / 2 ^ (2048 - off - w) % 2 ^ w

/-- One bit of a CRC-32C step, reflected, polynomial 0x1EDC6F41 (0x82F63B78 reflected). -/
def crcStep (c : BitVec 32) : BitVec 32 := if c.getLsbD 0 then (c >>> 1) ^^^ 0x82F63B78#32 else c >>> 1

/-- CRC-32C of a byte string: initial value and final XOR 0xFFFFFFFF (R47, HCRC). -/
def crc32c (bs : Bytes) : BitVec 32 :=
  (bs.foldl (fun c b => crcStep (crcStep (crcStep (crcStep (crcStep (crcStep (crcStep (crcStep (c ^^^ b.setWidth 32)))))))))
    0xFFFFFFFF#32) ^^^ 0xFFFFFFFF#32

end Sys2Proof.Machine
end

