-- ==== Sys2Proof/Machine/StreamOps.lean ====
section
/-! DEFINITION. The shared operations of capture: staging cells and pause, streams, extents and their seals, the placement
hold, and the spans of provisional streams. -/

namespace Sys2Proof.Machine

/-! ## Staging cells and pause (R76, R158, R159) -/

/-- Sub-ports of a port's line mode (R141). -/
def State.subs (s : State) (p : Nat) : Nat := 2 ^ s.fld (F.ETH_CTRL_MODE p)

/-- Sub-port j of port p is present, enabled and in a running part. -/
def State.subOn (s : State) (p j : Nat) : Bool := s.live && decide (p < s.part.ports) && decide (j < 4) && bit (s.fld (F.ETH_CTRL_SP_EN p)) j

/-- The link of sub-port j is up. -/
def State.linkUp (s : State) (p j : Nat) : Bool := bit (s.fld (F.ETH_STATUS_LINK_UP p)) j

/-- The cells of 256 bytes in a sub-port's receive area, by ETHp.CTRL.MODE (R141). -/
def State.areaCells (s : State) (p : Nat) : Nat := 4096 / s.subs p

/-- The free cells of a sub-port's receive area. The manual does not say what becomes of cells that datagrams of an earlier MODE still hold: DESIGN
CHOICE, they stay charged to the sub-port number that took them (log entry 87). -/
def State.freeCells (s : State) (p j : Nat) : Nat := s.areaCells p - s.eth.recvUsed.get 0 (4 * p + j)

/-- The cells of a placement hold, 4 MiB (R76). -/
def holdCells : Nat := 16384

/-- The filter entries that are valid and admit on port `p`. -/
def State.portFilters (s : State) (p : Nat) : List Nat :=
  (List.range 512).filter (fun i => s.on (F.CAP_FLT_VALID i) && bit (s.fld (F.CAP_FLT_PORT_MASK i)) p)

/-- Port `p` is pause-eligible (R159). -/
def State.pauseEligible (s : State) (p : Nat) : Bool :=
  let mode := s.fld (F.ETH_PAUSE_MODE p)
  let fs := s.portFilters p
  (mode == 1 || mode == 2) && !fs.isEmpty && fs.all (fun i => s.on (F.CAP_S_CTRL_PAUSE_EN (s.fld (F.CAP_FLT_STREAM i))))

/-- A pause frame sent with a pause time, PFC or PAUSE (R159); it counts in TX_FRAMES. -/
def State.sendPause (s : State) (p j : Nat) (pfc : Bool) (prio quanta : Nat) : State :=
  (s.emit (.pause p j pfc prio quanta)).count (R.ETH_N_TX_FRAMES p j) 1

/-- An XOFF sent as ETHp.PAUSE says; the sub-port remembers its kind for the XON (R159). -/
def State.sendXoff (s : State) (p j : Nat) : State :=
  let pfc := s.fld (F.ETH_PAUSE_MODE p) == 2
  let prio := s.fld (F.ETH_PAUSE_PFC_PRIO p)
  let t := { s with eth := { s.eth with xoff := s.eth.xoff.filter (fun (e : Nat × Bool × Nat) => e.1 != 4 * p + j) ++ [(4 * p + j, pfc, prio)] } }
  (t.sendPause p j pfc prio (s.fld (F.ETH_PAUSE_QUANTA p))).ethCause p 6

/-- The XOFF a sub-port sent last, while no XON has followed it. -/
def State.xoffOf (s : State) (p j : Nat) : Option (Nat × Bool × Nat) := s.eth.xoff.find? (fun (e : Nat × Bool × Nat) => e.1 == 4 * p + j)

/-- Free space of a receive area is below `n` 1024ths of it. -/
def State.below (s : State) (p j n : Nat) : Bool := decide (s.freeCells p j * 1024 < n * s.areaCells p)

/-- The pause frames a sub-port owes after its free space or its eligibility changed (R159): XOFF when the space falls below
XOFF_FREE, XON, of the kind of its XOFF, when it reaches XOFF_FREE + 128 or eligibility ends; neither with QUANTA = 0. A sub-port that is not
enabled or whose link is down sends nothing. -/
def State.pauseCheck (s : State) (p j : Nat) : State :=
  let lim := s.fld (F.ETH_PAUSE_XOFF_FREE p)
  if s.fld (F.ETH_PAUSE_QUANTA p) = 0 ∨ !s.subOn p j ∨ !s.linkUp p j then s
  else
    match s.xoffOf p j with
    | some x =>
      if !s.pauseEligible p || !s.below p j (lim + 128) then
        ({ s with eth := { s.eth with xoff := s.eth.xoff.filter (fun (e : Nat × Bool × Nat) => e.1 != 4 * p + j) } }).sendPause p j x.2.1 x.2.2 0
      else s
    | none => if s.pauseEligible p && s.below p j lim then s.sendXoff p j else s

/-- Cells of a receive area taken. -/
def State.takeRecv (s : State) (p j n : Nat) : State :=
  let k := 4 * p + j
  ({ s with eth := { s.eth with recvUsed := s.eth.recvUsed.set 0 k (s.eth.recvUsed.get 0 k + n) } }).pauseCheck p j

/-- Cells of a receive area freed. -/
def State.freeRecv (s : State) (p j n : Nat) : State :=
  let k := 4 * p + j
  ({ s with eth := { s.eth with recvUsed := s.eth.recvUsed.set 0 k (s.eth.recvUsed.get 0 k - n) } }).pauseCheck p j

/-- Cells of the placement hold of staging bank `b` taken (R77). -/
def State.takeHold (s : State) (b n : Nat) : State :=
  { s with eth := { s.eth with holdUsed := s.eth.holdUsed.set 0 b (s.eth.holdUsed.get 0 b + n) } }

/-- Cells of the placement hold of staging bank `b` freed. -/
def State.freeHold (s : State) (b n : Nat) : State :=
  { s with eth := { s.eth with holdUsed := s.eth.holdUsed.set 0 b (s.eth.holdUsed.get 0 b - n) } }

/-! ## Streams -/

/-- A stream. -/
def State.str (s : State) (n : Nat) : Stream := s.cap.streams.get {} n

/-- A stream replaced. -/
def State.setStr (s : State) (n : Nat) (v : Stream) : State :=
  { s with cap := { s.cap with streams := s.cap.streams.set {} n v } }

/-- CAP.Sn_STATUS.STATE: 0 Idle, 1 Running, 2 Stopping. -/
def State.strState (s : State) (n : Nat) : Nat := s.fld (F.CAP_S_STATUS_STATE n)

/-- CAP.Sn_CTRL.PROV: 0 ordinary, 1 HBM ring, 2 flash pool. -/
def State.prov (s : State) (n : Nat) : Nat := s.fld (F.CAP_S_CTRL_PROV n)

/-- The namespace extent index of a window-relative extent. -/
def State.nsExt (s : State) (n e : Nat) : Nat := s.fld (F.CAP_S_WIN_WIN_BASE n) + e

/-- The namespace extent index of the cursor. -/
def State.cursorExt (s : State) (n : Nat) : Nat := s.nsExt n (s.fld (F.CAP_S_CURSOR_CURSOR n))

/-- Bytes of an extent. -/
def extBytes : Nat := 1048576

/-- The streams, those listed in a state other than Idle. -/
def State.busyStreams (s : State) : List Nat := (List.range 64).filter (fun n => s.strState n != 0)

/-! ## Spans -/

/-- What a span holds; none while its descriptor is Free. -/
def State.span (s : State) (k : Nat) : Option SpanX := s.cap.spans.get none k

/-- What a span holds, replaced. -/
def State.setSpan (s : State) (k : Nat) (v : Option SpanX) : State :=
  { s with cap := { s.cap with spans := s.cap.spans.set none k v } }

/-- CAP.SPk.STATE: 0 Free, 1 Filling, 2 Closing, 3 Pending, 4 Committing, 5 Committed, 6 Discarding, 7 Discarded. -/
def State.spState (s : State) (k : Nat) : Nat := s.fld (F.CAP_SP_STATE k)

/-- The first extent of a span. -/
def State.spFirst (s : State) (k : Nat) : Nat := s.fld (F.CAP_SP_FIRST_EXT k)

/-- One above the last extent of a span. -/
def State.spTop (s : State) (k : Nat) : Nat := s.spFirst k + s.fld (F.CAP_SP_EXT_COUNT k)

/-- The extents of a span's range. -/
def State.spRange (s : State) (k : Nat) : List Nat := (List.range (s.fld (F.CAP_SP_EXT_COUNT k))).map (s.spFirst k + ·)

/-- The handle of a span: GEN in bits [31:12], k in bits [11:0] (R116). -/
def State.spHandle (s : State) (k : Nat) : Nat := s.fld (F.CAP_SP_GEN k) * 4096 + k

/-- The span a handle names: its descriptor is not Free and carries that generation (R116). -/
def State.named (s : State) (h : Nat) : Option Nat :=
  let k := h % 4096
  if (s.span k).isSome && s.fld (F.CAP_SP_GEN k) == h / 4096 then some k else none

/-- The descriptors not Free. -/
def State.spansUsed (s : State) : List Nat := s.cap.spans.map Prod.fst

/-- The spans of a stream whose descriptors are not Free. -/
def State.strSpans (s : State) (n : Nat) : List Nat := s.spansUsed.filter (fun k => s.fld (F.CAP_SP_STREAM k) == n)

/-- A span that may still take extents' content: Filling or Closing, or decided with placements accepted before its cut. -/
def spanTakes (st : Nat) : Bool := st == 1 || st == 2 || st == 4 || st == 6

/-- The spans of a stream in the namespace it names: those its extents may lie in. -/
def State.nsSpans (s : State) (n : Nat) : List Nat :=
  (s.strSpans n).filter (fun k => s.fld (F.CAP_SP_NSID k) == s.fld (F.CAP_S_NS_NSID n))

/-- The span of stream `n` that holds extent `x` and may take its content. -/
def State.spanOf (s : State) (n x : Nat) : Option Nat :=
  (s.nsSpans n).find? (fun k => spanTakes (s.spState k) && decide (s.spFirst k ≤ x ∧ x < s.spTop k))

/-- The Filling span of a stream, its current span. -/
def State.curSpan (s : State) (n : Nat) : Option Nat := (s.strSpans n).find? (fun k => s.spState k == 1)

/-! ## Extents -/

/-- The extent a stream holds at namespace extent index `x`. -/
def State.ext (s : State) (n x : Nat) : Option Extent :=
  if s.prov n = 0 then (s.str n).exts.get none x
  else match s.spanOf n x with
    | some k => match s.span k with | some v => v.exts.get none x | none => none
    | none => none

/-- An extent of a stream replaced. -/
def State.setExt (s : State) (n x : Nat) (v : Option Extent) : State :=
  if s.prov n = 0 then s.setStr n { s.str n with exts := (s.str n).exts.set none x v }
  else match s.spanOf n x with
    | some k => match s.span k with
      | some sp => s.setSpan k (some { sp with exts := sp.exts.set none x v })
      | none => s
    | none => s

/-- Extent `x` is sealed in span `k`. -/
def State.sealedIn (s : State) (k x : Nat) : Bool :=
  match s.span k with
  | some v => (match v.exts.get none x with | some e => e.isSealed | none => false)
  | none => false

/-- Extent `x` of stream `n` is sealed: it is below the cursor, sealed where it is held, or in a decided span's range (R84, R135). -/
def State.sealedAt (s : State) (n x : Nat) : Bool :=
  decide (x < s.cursorExt n)
  || (s.str n).decided.any (fun r => decide (r.1 ≤ x ∧ x < r.1 + r.2))
  || (match s.ext n x with | some e => e.isSealed | none => false)
  || (s.prov n != 0 && (s.nsSpans n).any (fun k => s.sealedIn k x))

/-- Blocks of an extent in a state: `miss` those with no byte placed, else those partly placed (R87). -/
def Extent.blocks (e : Extent) (miss : Bool) : Nat :=
  ((List.range 256).filter (fun b => let c := e.counts.get 0 b; if miss then c == 0 else decide (0 < c ∧ c < 4096))).length

/-- Every block of the extent reached 4,096 (R84). -/
def Extent.full (e : Extent) : Bool := (List.range 256).all (fun b => e.counts.get 0 b == 4096)

/-- An extent's seal: its counters, and the blocks missing of its span (R84, R85, R87). An extent that never opened is sealed with every
block missing. -/
def State.sealExt (s : State) (n x : Nat) (complete : Bool) : State :=
  match s.ext n x with
  | some e =>
    if e.isSealed then s
    else
      let miss := e.blocks true
      let t := s.setExt n x (some { e with isSealed := true, byComplete := complete, byOther := !complete })
        |>.count (R.CAP_S_EXT_SEALED n) 1 |>.count (R.CAP_S_BLK_MISSING n) miss
        |>.count (R.CAP_S_BLK_PARTIAL n) (e.blocks false)
        |>.subFld (F.CAP_S_STATUS_OPEN_EXT n) 1
      match s.spanOf n x with
      | some k => if s.prov n = 0 then t else t.addFld (F.CAP_SP_BLK_MISSING k) miss
      | none => t
  | none =>
    if s.prov n != 0 && (s.spanOf n x).isNone then s
    else
      let t := s.setExt n x (some { opened := false, isSealed := true, byOther := true, fill := s.reg (R.CAP_S_FILL n) })
        |>.count (R.CAP_S_EXT_SEALED n) 1 |>.count (R.CAP_S_BLK_MISSING n) 256
      match s.spanOf n x with
      | some k => if s.prov n = 0 then t else t.addFld (F.CAP_SP_BLK_MISSING k) 256
      | none => t

/-- The cursor moves up past every sealed extent at its bottom (R84); `fuel` bounds the walk. -/
def State.walkCursor (s : State) (n : Nat) : Nat → State
  | 0 => s
  | fuel + 1 =>
    if s.sealedAt n (s.cursorExt n) && decide (s.fld (F.CAP_S_CURSOR_CURSOR n) < s.fld (F.CAP_S_WIN_WIN_EXT n)) then
      (s.addFld (F.CAP_S_CURSOR_CURSOR n) 1).walkCursor n fuel
    else s

/-- How many extents the cursor or the landed mark can pass: those held, and those of decided spans. -/
def State.walkFuel (s : State) (n : Nat) : Nat :=
  (s.str n).exts.length + ((s.str n).decided.map Prod.snd).foldl (· + ·) 0
    + ((s.strSpans n).map (fun k => match s.span k with | some v => v.exts.length | none => 0)).foldl (· + ·) 0 + 1

/-- Every extent of a span is sealed (R109, R127). -/
def State.allSealed (s : State) (n k : Nat) : Bool := (s.spRange k).all (fun x => s.sealedIn k x || s.sealedAt n x)

/-- A Closing span whose extents are all sealed becomes Pending (R109); it takes its stream's TIMEOUT (R126). -/
def State.pend (s : State) (k : Nat) : State :=
  let n := s.fld (F.CAP_SP_STREAM k)
  if s.spState k = 2 ∧ s.allSealed n k then
    match s.span k with
    | some v => (s.setSpan k (some { v with timeout := s.fld (F.CAP_S_SPANCFG_TIMEOUT n) }))
        |>.setFld (F.CAP_SP_STATE k) 3 |>.setFld (F.CAP_SP_PEND_TIME k) s.time.ftc
    | none => s
  else s

/-- The Closing spans of a stream settled. -/
def State.settleSpans (s : State) (n : Nat) : State := s.over (s.strSpans n) (fun u k => u.pend k)

/-- An extent sealed, the cursor moved, and the stream's Closing spans settled. -/
def State.seal (s : State) (n x : Nat) (complete : Bool) : State :=
  let t := s.sealExt n x complete
  (t.walkCursor n (t.walkFuel n)).settleSpans n

/-- LANDED passes an extent (R93, R135): landed, or in the range of a Committed or Discarded span. -/
def State.passes (s : State) (n x : Nat) : Bool :=
  (match (s.str n).exts.get none x with | some e => e.landed | none => false)
  || (s.str n).decided.any (fun r => decide (r.1 ≤ x ∧ x < r.1 + r.2))

/-- LANDED moves up (R93, R135). -/
def State.walkLanded (s : State) (n : Nat) : Nat → State
  | 0 => s
  | fuel + 1 =>
    if s.passes n (s.nsExt n (s.fld (F.CAP_S_LANDED_LANDED n))) then (s.addFld (F.CAP_S_LANDED_LANDED n) 1).walkLanded n fuel
    else s

/-- LANDED moved up, and what lies below it forgotten. -/
def State.landedMark (s : State) (n : Nat) : State :=
  let t := s.walkLanded n (s.walkFuel n)
  let m := t.nsExt n (t.fld (F.CAP_S_LANDED_LANDED n))
  t.setStr n { t.str n with
    exts := (t.str n).exts.filter (fun e => decide (m ≤ e.1) || (match e.2 with | some v => !v.landed | none => false))
    decided := (t.str n).decided.filter (fun r => decide (m < r.1 + r.2)) }

/-- The extents of earlier windows replaced. -/
def State.setDrains (s : State) (l : List Drain) : State := { s with cap := { s.cap with drains := l } }

/-- The extents a stream leaves behind in namespace `nsid`, sealed and not landed, go on to land (R91); what it holds of the window is
forgotten. -/
def State.drainAway (s : State) (n nsid : Nat) : State :=
  let v := s.str n
  let left := v.exts.filterMap (fun e => match e.2 with
    | some x => if x.isSealed && !x.landed then some ({ stream := n, nsid := nsid, idx := e.1, ext := x } : Drain) else none
    | none => none)
  (s.setDrains (s.cap.drains ++ left)).setStr n { v with exts := [], decided := [] }

/-! ## The placement hold (R77, R82, R83, R86) -/

/-- The part of a placement that lies in window-relative extent `e`: offset in the extent and bytes. -/
def Placement.part (p : Placement) (e : Nat) : Nat × Bytes :=
  let lo := max p.off (e * extBytes)
  let hi := min (p.off + p.bytes.length) ((e + 1) * extBytes)
  (lo - e * extBytes, (p.bytes.drop (lo - p.off)).take (hi - lo))

/-- The placement without its part in window-relative extent `e`: that part is its first or its last. -/
def Placement.without (p : Placement) (e : Nat) : Placement :=
  if p.off < e * extBytes then { p with bytes := p.bytes.take (e * extBytes - p.off) }
  else
    let n := min p.bytes.length ((e + 1) * extBytes - p.off)
    { p with off := p.off + n, bytes := p.bytes.drop n }

/-- The last window-relative extent of a placement (R83: "taken from the last byte"). -/
def Placement.last (p : Placement) : Nat := (p.off + p.bytes.length - 1) / extBytes

/-- The window-relative extents a placement touches. -/
def Placement.exts (p : Placement) : List Nat :=
  if p.bytes.isEmpty then [] else (List.range (p.last + 1 - p.off / extBytes)).map (p.off / extBytes + ·)

/-- Bytes written into an extent from offset `a` on. A byte that an earlier placement wrote is one or the other, which is a free
value (R82). -/
def writeBytes (m : Mem) (a free : Nat) : Bytes → Mem
  | [] => m
  | b :: bs =>
    let v := match m.find a with | some old => if Config.keepsOld free then old else b | none => b
    writeBytes (m.put a v) (a + 1) (free + 1) bs

/-- The counts of the blocks that `len` bytes from offset `a` on touch, each saturating at 4,096 (R82). -/
def addCounts (c : Tbl Nat) (a len : Nat) : Tbl Nat :=
  if len = 0 then c
  else
    ((List.range ((a + len - 1) / 4096 + 1 - a / 4096)).map (a / 4096 + ·)).foldl
      (fun t b =>
        let lo := max a (b * 4096)
        let hi := min (a + len) ((b + 1) * 4096)
        t.set 0 b (min 4096 (t.get 0 b + (hi - lo)))) c

/-- A pair of stamps widened by a time (R47, STAMP). -/
def widen (st : Option (W64 × W64)) (t : W64) : Option (W64 × W64) :=
  match st with
  | none => some (t, t)
  | some (a, b) => some (if t < a then t else a, if b < t then t else b)

/-- A thread, by 8 × engine + thread. -/
def State.thread (s : State) (t : Nat) : Option Thread := s.ur.threads.get none t

/-- A thread replaced. -/
def State.setThread (s : State) (t : Nat) (v : Option Thread) : State :=
  { s with ur := { s.ur with threads := s.ur.threads.set none t v } }

/-- The thread that holds placement `num` learns that extent `x` received bytes of it. -/
def State.noteRecv (s : State) (num x : Nat) : State :=
  { s with ur := { s.ur with threads := s.ur.threads.map (fun e =>
      match e.2 with
      | some th => if th.placeId == some num then (e.1, some { th with recv := addOnce th.recv x }) else e
      | none => e) } }

/-- Bytes of a placement written into the open extent at namespace index `x` (R82): counts, stamps and the span's BYTES rise. -/
def State.writePart (s : State) (n x : Nat) (p : Placement) (a : Nat) (bs : Bytes) : State :=
  match s.ext n x with
  | none => s
  | some e =>
    let e' := { e with
      bytes := writeBytes e.bytes a s.free bs
      counts := addCounts e.counts a bs.length
      stamps := if p.stamp then widen e.stamps p.time else e.stamps }
    let t := ({ s with free := s.free + bs.length }.setExt n x (some e')).noteRecv p.num x
    match s.spanOf n x with
    | some k => if s.prov n = 0 then t else t.addFld (F.CAP_SP_BYTES k) bs.length
    | none => t

/-- Extent `x` is open: it takes placements (R84). -/
def State.isOpen (s : State) (n x : Nat) : Bool :=
  match s.ext n x with | some e => e.opened && !e.isSealed | none => false

/-- The placements in a stream's hold that have bytes in extent `x`. -/
def State.waitsFor (s : State) (n x : Nat) : List Placement :=
  (s.str n).hold.filter (fun p => p.exts.any (fun e => s.nsExt n e == x))

/-- The hold of a stream replaced; the cells of placements that have left it are freed. -/
def State.setHold (s : State) (n : Nat) (h : List Placement) : State :=
  let gone := (s.str n).hold.filter (fun p => h.all (fun q => q.num != p.num))
  (s.setStr n { s.str n with hold := h }).over gone (fun u p => u.freeHold p.bank p.cells)

/-- The hold without the bytes that lie in window-relative extent `e`, for the placements `sel` chooses. -/
def State.dropPart (s : State) (n e : Nat) (sel : Placement → Bool) : State :=
  s.setHold n ((s.str n).hold.filterMap (fun p =>
    if sel p && p.exts.contains e then
      let q := p.without e
      if q.bytes.isEmpty then none else some q
    else some p))

/-- Every placement that the hold has accepted for open extent `x` applied to it, ahead of a seal that is not the cursor's (R86: "A
placement accepted before a seal of its extent takes effect is applied"). -/
def State.flushInto (s : State) (n x : Nat) : State :=
  if s.isOpen n x then
    let e := x - s.fld (F.CAP_S_WIN_WIN_BASE n)
    let t := s.over (s.waitsFor n x) (fun u p => let q := p.part e; u.writePart n x p q.1 q.2)
    t.dropPart n e (fun _ => true)
  else s

/-- A seal by FORCE, idleness, a stop or a cut: waiting placements are applied first. -/
def State.sealNow (s : State) (n x : Nat) : State := (s.flushInto n x).seal n x false

/-- The open extents of a stream, by namespace extent index. -/
def State.openExts (s : State) (n : Nat) : List Nat :=
  if s.prov n = 0 then
    ((s.str n).exts.filter (fun e => match e.2 with | some v => v.opened && !v.isSealed | none => false)).map Prod.fst
  else
    ((s.strSpans n).filter (fun k => spanTakes (s.spState k))).flatMap (fun k => match s.span k with
      | some v => (v.exts.filter (fun e => match e.2 with | some w => w.opened && !w.isSealed | none => false)).map Prod.fst
      | none => [])

/-! ## Opening, deciding and freeing spans (R105 to R119) -/

/-- The span floor of a stream (R105). -/
def State.spanFloor (s : State) (n : Nat) : Nat :=
  match (s.str n).top with
  | some t => t
  | none => (s.nsSpans n).foldl (fun m k => max m (s.spTop k)) (s.cursorExt n)

/-- The lowest-numbered Free descriptor. -/
def State.freeDesc (s : State) : Option Nat := firstBelow 4096 (fun k => (s.span k).isNone)

/-- The current span of a stream becomes Closing (R106). -/
def State.closeCur (s : State) (n : Nat) : State :=
  match s.curSpan n with
  | some k => (s.setFld (F.CAP_SP_STATE k) 2).setFld (F.CAP_S_SPANCUR_HANDLE n) 0
  | none => s

/-- Descriptor `k` opens as the stream's current span at the span floor (R105, R116). -/
def State.openSpan (s : State) (n k : Nat) : State :=
  let first := s.spanFloor n
  let cnt := s.fld (F.CAP_S_SPANCFG_SPAN_EXT n)
  let gen := s.fld (F.CAP_SP_GEN k)
  let gen' := if gen = 0xFFFFF then 1 else gen + 1
  let t := ((s.closeCur n).settleSpans n).setSpan k (some { high := first })
  let t := [56, 48, 40, 32, 24, 16, 8, 0].foldl (fun u o => u.setReg (R.CAP_SP k + o) 0) t
  let t := t.setFld (F.CAP_SP_STATE k) 1 |>.setFld (F.CAP_SP_MEDIUM k) (ofBool (s.prov n == 2))
    |>.setFld (F.CAP_SP_STREAM k) n |>.setFld (F.CAP_SP_GEN k) gen'
    |>.setFld (F.CAP_SP_FIRST_EXT k) first |>.setFld (F.CAP_SP_EXT_COUNT k) cnt
    |>.setFld (F.CAP_SP_NSID k) (s.fld (F.CAP_S_NS_NSID n)) |>.setFld (F.CAP_SP_OPEN_TIME k) s.time.ftc
    |>.subFld F.CAP_SPAN_FREE_FREE_DESC 1
    |>.setFld (F.CAP_S_SPANCUR_HANDLE n) (gen' * 4096 + k)
  t.setStr n { t.str n with top := some (first + cnt) }

/-- Spans opened until one holds extent `x` (R105); false where no descriptor is Free (R113). -/
def State.spanFor (s : State) (n x : Nat) : Nat → State × Bool
  | 0 => (s, false)
  | fuel + 1 =>
    if x < s.spanFloor n then (s, true)
    else match s.freeDesc with
      | none => (s, false)
      | some k => (s.openSpan n k).spanFor n x fuel

/-- An accepted placement noted in the span that holds extent `x` (R107: the highest extent that has an accepted placement). -/
def State.noteHigh (s : State) (n x : Nat) : State :=
  match s.spanOf n x with
  | some k => match s.span k with
    | some v => s.setSpan k (some { v with high := max v.high (x + 1) })
    | none => s
  | none => s

/-- An accepted placement noted in every span that holds an extent of it (R107). -/
def State.noteExts (s : State) (n : Nat) (p : Placement) : State := s.over p.exts (fun u e => u.noteHigh n (u.nsExt n e))

/-- A placement of a Running provisional stream accepted into the hold opens the spans it needs, or waits for a descriptor;
SPAN_NODESC counts once per wait (R105, R113). A wait is the stream's: a placement that joins it while another of the stream waits does not
count again (DESIGN CHOICE, log entry 86). -/
def State.acceptProv (s : State) (n : Nat) (p : Placement) : State :=
  let x := s.nsExt n p.last
  let r := s.spanFor n x 4097
  if r.2 then
    let t := r.1.noteExts n p
    t.setStr n { t.str n with hold := (t.str n).hold ++ [p] }
  else
    let t := r.1.noteExts n p
    let t := t.setStr n { t.str n with hold := (t.str n).hold ++ [{ p with waited := true }] }
    if (s.str n).hold.any (fun q => q.waited) then t else t.count R.CAP_SPAN_NODESC 1

/-- A stream's placements that wait for a descriptor open their spans while descriptors are Free (R113). -/
def State.retryWaits (s : State) (n : Nat) : State :=
  if s.strState n = 1 then
    (s.str n).hold.foldl (fun u p =>
      if p.waited then
        let x := u.nsExt n p.last
        let r := u.spanFor n x 4097
        if r.2 then
          let t := r.1.noteExts n p
          t.setStr n { t.str n with hold := (t.str n).hold.map (fun q => if q.num == p.num then { q with waited := false } else q) }
        else r.1.noteExts n p
      else u) s
  else s

/-- The streams whose placements wait for a descriptor, the one that has waited longest first. -/
def State.waitingStreams (s : State) : List Nat :=
  ((s.cap.streams.filterMap (fun e => ((e.2.hold.find? (fun p => p.waited)).map (fun p => (p.num, e.1))))).insertionSort
    (fun a b => a.1 ≤ b.1)).map Prod.snd

/-- A Committed or Discarded span returns to Free (R117); waiting placements open spans with the descriptor (R113). -/
def State.freeSpan (s : State) (k : Nat) : State :=
  let t := ((s.setSpan k none).setFld (F.CAP_SP_STATE k) 0).addFld F.CAP_SPAN_FREE_FREE_DESC 1
  t.over t.waitingStreams (fun u n => u.retryWaits n)

/-- AUTO_FREE: a span that has become Committed or Discarded returns to Free at once (R118). -/
def State.autoFree (s : State) (k : Nat) : State :=
  if s.on (F.CAP_S_SPANCFG_AUTO_FREE (s.fld (F.CAP_SP_STREAM k))) then s.freeSpan k else s

/-- Bytes of a journal record's payload (R283). -/
def JRec.payloadLen : JRec → Nat
  | .checkpoint _ _ _ _ _ => 19
  | .opened _ _ _ _ _ _ => 21
  | .closed _ _ _ => 7
  | .eraseIntent _ _ _ _ _ _ => 17
  | .moved _ _ => 3
  | .retired _ _ _ _ => 5
  | .reserve _ => 8
  | .commit _ _ _ _ _ _ => 25
  | .discard _ _ => 8
  | .namespaceOp _ _ _ _ => 14
  | .dump _ _ => 9
  | .powerOn _ _ => 12

/-- A journal record, 16 bytes of header before its payload; the journal position only rises (R283). -/
def State.journal (s : State) (r : JRec) : State :=
  { s with ftl := { s.ftl with journal := s.ftl.journal ++ [r], journalPos := s.ftl.journalPos + 16 + r.payloadLen } }

/-- The seals of a cut (R107): an open extent is sealed at once, an unopened one with no accepted placement under R85, and one whose
placements wait in the hold later, when they are applied. -/
def State.cutSeals (s : State) (n k : Nat) : State :=
  s.over (s.spRange k) (fun u x =>
    if u.sealedAt n x then u
    else if u.isOpen n x then u.sealNow n x
    else if (u.waitsFor n x).isEmpty then u.seal n x false
    else u)

/-- A decision that a descriptor in Filling, Closing or Pending accepts (R107, R119): `by_` as CAP.SPk.DECIDED_BY codes it. A Filling
span's top is fixed at its cut; a discard's journal record comes before Discarding (R129); a commit takes its place in the order of
accepted commits (R127). -/
def State.decideSpan (s : State) (k : Nat) (commit : Bool) (by_ pin : Nat) : State :=
  match s.span k with
  | none => s
  | some v =>
    let n := s.fld (F.CAP_SP_STREAM k)
    let st := s.spState k
    let h := s.spHandle k
    let t := if st = 1 then
        let u := (s.setFld (F.CAP_SP_EXT_COUNT k) (v.high - s.spFirst k)).setFld (F.CAP_S_SPANCUR_HANDLE n) 0
        u.setStr n { u.str n with top := some v.high }
      else s
    let t := if commit then t else t.journal (.discard h (s.fld (F.CAP_SP_NSID k)))
    let t := t.setSpan k (some { v with cutAt := some s.ur.placeNo, order := s.cap.orderNo })
    let t := if commit then { t with cap := { t.cap with orderNo := t.cap.orderNo + 1 } } else t
    let t := t.setFld (F.CAP_SP_DECIDED_BY k) by_ |>.setFld (F.CAP_SP_PIN k) pin
      |>.setFld (F.CAP_SP_DECIDE_TIME k) s.time.ftc |>.setFld (F.CAP_SP_STATE k) (if commit then 4 else 6)
    let t := if commit then t
      else t.count (if by_ = 4 then R.CAP_DISC_TIMEOUT else if by_ = 5 then R.CAP_DISC_SPACE else R.CAP_DISC_TRIG) 1
    if st = 3 then t else t.cutSeals n k

/-- The span is undecided: Filling, Closing or Pending. -/
def State.undecided (s : State) (k : Nat) : Bool := let st := s.spState k; st == 1 || st == 2 || st == 3

/-- The TRIG_BACK highest of a stream's Closing and Pending spans that are not recovered (R121, R138). -/
def State.backSpans (s : State) (n : Nat) : List Nat :=
  (((s.strSpans n).filter (fun k => (s.spState k == 2 || s.spState k == 3) && !s.on (F.CAP_SP_RECOVERED k))).insertionSort
    (fun a b => s.spFirst b ≤ s.spFirst a)).take (s.fld (F.CAP_S_SPANCFG_TRIG_BACK n))

/-- The oldest Pending span of a stream that is not recovered and whose medium is `m` (R112). The oldest is the one that opened first, the
lowest first extent on ties (DESIGN CHOICE, log entry 86). -/
def State.oldestPending (s : State) (n m : Nat) : Option Nat :=
  (((s.strSpans n).filter (fun k => s.spState k == 3 && !s.on (F.CAP_SP_RECOVERED k) && s.fld (F.CAP_SP_MEDIUM k) == m)).insertionSort
    (fun a b => (s.fld (F.CAP_SP_OPEN_TIME a), s.spFirst a).1 < s.fld (F.CAP_SP_OPEN_TIME b)
      ∨ (s.fld (F.CAP_SP_OPEN_TIME a) = s.fld (F.CAP_SP_OPEN_TIME b) ∧ s.spFirst a ≤ s.spFirst b))).head?

/-! ## HBM space (R79, R80, R110) -/

/-- Extents held in a stream's HBM ring: those opened in its HBM-ring spans that are not Committed or Discarded. -/
def State.ringUsed (s : State) (n : Nat) : Nat :=
  ((s.strSpans n).map (fun k =>
    if s.fld (F.CAP_SP_MEDIUM k) = 0 ∧ s.spState k ≠ 5 ∧ s.spState k ≠ 7 then
      (match s.span k with
        | some v => (v.exts.filter (fun e => match e.2 with | some w => w.opened | none => false)).length
        | none => 0)
    else 0)).foldl (· + ·) 0

/-- The extents of a stream's ring while it is taken from HBM: of the size it had at the start, from then until it is Idle and none of its HBM-ring spans is Filling, Closing, Pending or
Committing (R110). -/
def State.ringTaken (s : State) (n : Nat) : Nat :=
  if (s.prov n = 1 ∧ s.strState n ≠ 0) ∨ (s.strSpans n).any (fun k =>
      s.fld (F.CAP_SP_MEDIUM k) == 0 && (s.spState k == 1 || s.spState k == 2 || s.spState k == 3 || s.spState k == 4)) = true
  then (s.str n).ring else 0

/-- NAND block b of die i (0 to 63) of group g, as a key. -/
def nandKey (g i b : Nat) : Nat := (g * 64 + i) * 2 ^ 14 + b

/-- The profile of die i of group g, while it is in service. -/
def State.dieProfile (s : State) (g i : Nat) : Option Profile :=
  let c := 4 * g + i / 16
  let k := i % 16
  if s.fld (F.CH_DIE_STATE c k) = 1 then
    (if s.on (F.CH_DIE_CLAIMED c k) then s.nand.cust else s.nand.table)[s.fld (F.CH_DIE_PROFILE c k)]?
  else none

/-- The NAND blocks in service: B (R260). -/
def State.blocksInService (s : State) : Nat :=
  ((List.range 16).map (fun g => ((List.range 64).map (fun i => match s.dieProfile g i with
    | some p => p.blocks - (s.ftl.retired.filter (fun k => decide (nandKey g i 0 ≤ k ∧ k < nandKey g (i + 1) 0))).length
    | none => 0)).foldl (· + ·) 0)).foldl (· + ·) 0

/-- The bytes of the maps in HBM: 8 for each capture extent, 4 for each general block, 8 for each NAND block in service (The maps). -/
def State.mapBytes (s : State) : Nat :=
  (s.nvme.nss.map (fun e => match e.2 with
    | some v => if v.capture then v.blocks / 256 * 8 else v.blocks * 4
    | none => 0)).foldl (· + ·) 0 + 8 * s.blocksInService

/-- The capture pool in extents (R80): HBM less the maps, the rings and 2 GB. -/
def State.poolCap (s : State) : Nat :=
  (s.part.stacks * stackBytes - s.mapBytes - ((List.range 64).map (fun n => s.ringTaken n)).foldl (· + ·) 0 * extBytes
    - 2000000000) / extBytes

/-- Extents that occupy the capture pool: opened and neither landed nor stored, of ordinary and flash-pool streams and of earlier windows,
and those host Writes have opened (R80, R111, R246). -/
def State.poolUsed (s : State) : Nat :=
  (s.cap.streams.map (fun e => (e.2.exts.filter (fun x => match x.2 with | some w => w.opened && !w.landed | none => false)).length)).foldl (· + ·) 0
  + (s.spansUsed.map (fun k =>
      if s.fld (F.CAP_SP_MEDIUM k) = 1 then
        (match s.span k with
          | some v => (v.exts.filter (fun x => match x.2 with | some w => w.opened && w.stored.isNone | none => false)).length
          | none => 0)
      else 0)).foldl (· + ·) 0
  + (s.cap.drains.filter (fun d => d.ext.opened)).length + s.ftl.capWrites.length

/-- The capture pool has 1 MiB free (R80). -/
def State.poolRoom (s : State) : Bool := decide (s.poolUsed < s.poolCap)

end Sys2Proof.Machine
end

