-- ==== Sys2Proof/Machine/Urette.lean ====
section
/-! DEFINITION. The Urette instruction set: dispatch of datagrams to threads (R37, R78), the issue of a word (R36, R45, R51), every
instruction (R46 to R50), outcomes, hardware drops and faults (R52, R53), and the release of side effects (R44, R122). -/

namespace Sys2Proof.Machine

/-! ## Threads and dispatch -/

/-- Engines that receive datagrams: 0 to 3 in PS2 and under the thermal limit (R480, R481), else all 16. -/
def State.enginesOn (s : State) : Nat := if s.fld F.PWR_STATE_CUR = 2 ∨ s.on F.PWR_STATE_LIMITED then 4 else 16

/-- The free threads of an engine that may take a datagram, ascending. -/
def State.freeThreads (s : State) (e : Nat) : List Nat :=
  (List.range 8).filter (fun t => (s.thread (8 * e + t)).isNone)

/-- The thread the dispatcher picks (R37): the engine with the most free threads, the lowest numbered on ties, and its lowest free
thread. -/
def State.pickThread (s : State) : Option Nat :=
  let best := (List.range s.enginesOn).foldl (fun (b : Nat × Nat) e =>
    let n := (s.freeThreads e).length
    if b.2 < n then (e, n) else b) (0, 0)
  ((s.freeThreads best.1).head?).map (fun t => 8 * best.1 + t)

/-- Free threads of the cluster. -/
def State.freeThreadCount (s : State) : Nat := ((List.range s.enginesOn).map (fun e => (s.freeThreads e).length)).foldl (· + ·) 0

/-- The registers of a thread at its first slot (R39). -/
def Dgram.regs0 (g : Dgram) : Tbl W64 :=
  [(1, BitVec.ofNat 64 g.payload.length), (2, BitVec.ofNat 64 g.filt), (3, BitVec.ofNat 64 (g.port + 16 * g.sub)), (4, g.time),
   (5, BitVec.ofNat 64 (ofBool g.macsec + 2 * ofBool g.ipv6)), (6, BitVec.ofNat 64 g.stream)].filter (fun e => e.2 != 0)

/-- A datagram counted as assigned: when it is dispatched or dropped with 94h (R96). -/
def State.countRx (s : State) (g : Dgram) : State :=
  (s.count (R.CAP_S_RX_DGRAMS g.stream) 1).count (R.CAP_S_RX_BYTES g.stream) g.payload.length

/-- A datagram given to thread `t`: its stream's program runs from word 0 under the stream's budget (R37, R51, R63). -/
def State.dispatchTo (s : State) (t : Nat) (g : Dgram) : State :=
  ((s.countRx g).setThread t (some {
      dgram := g
      regs := g.regs0
      base := 64 * s.fld (F.CAP_S_PROG_INFO_FIRST_GRAN g.stream)
      len := s.fld (F.CAP_S_PROG_INFO_WORDS g.stream)
      budget := s.fld (F.CAP_S_CTRL_BUDGET g.stream) + 1 }))
    |>.setFld ⟨R.UEN_ENG_STAT (t / 8), t % 8, 1⟩ 1

/-- The receive cells of a datagram freed. -/
def State.freeDgram (s : State) (g : Dgram) : State := s.freeRecv g.port g.sub g.cells

/-- Hardware drop 94h: no program ran (R53, R78, R96). -/
def State.dropNoThread (s : State) (g : Dgram) : State :=
  (((s.countRx g).count (R.CAP_S_NOTHREAD g.stream) 1).strCause g.stream 4).freeDgram g

/-- The datagrams of one port's header ring replaced. -/
def State.setRing (s : State) (p : Nat) (l : List Dgram) : State :=
  { s with ur := { s.ur with rings := s.ur.rings.set [] p l } }

/-- The waiting datagrams replaced. -/
def State.setWaiting (s : State) (l : List Dgram) : State := { s with ur := { s.ur with waiting := l } }

/-- The waiting datagrams take the free threads in arrival order (R37); `fuel` bounds how many. -/
def State.dispatchWaiting (s : State) : Nat → State
  | 0 => s
  | fuel + 1 => match s.ur.waiting, s.pickThread with
    | g :: rest, some t => ((s.setWaiting rest).dispatchTo t g).dispatchWaiting fuel
    | _, _ => s

/-- DATAGRAM_ARRIVAL: the oldest header in port `port`'s ring reaches the cluster. A datagram assigned while its stream was not Running is
dropped and counts in IDLE_DROP (R65, R66). Another is dispatched at once where a thread is free for it, dropped with 94h at once where none
is and DISPATCH_WAIT is 0, and waits otherwise (R37, R78). -/
def execDatagramArrival (port : Nat) (s : State) : Res :=
  match s.ur.rings.get [] port with
  | [] => .next s
  | g :: rest =>
    let u := s.setRing port rest
    if g.dead then .next ((u.count (R.CAP_S_IDLE_DROP g.stream) 1).freeDgram g)
    else
      let u := u.dispatchWaiting u.ur.waiting.length
      match u.pickThread with
      | some t => .next (u.dispatchTo t g)
      | none =>
        if u.fld (F.CAP_S_CTRL_DISPATCH_WAIT g.stream) = 0 then .next (u.dropNoThread g)
        else .next (u.setWaiting (u.ur.waiting ++ [g]))

/-- DATAGRAM_DISPATCH: a free thread takes the earliest waiting datagram (R37). -/
def execDatagramDispatch (s : State) : Res :=
  match s.ur.waiting, s.pickThread with
  | g :: rest, some t => .next ((s.setWaiting rest).dispatchTo t g)
  | _, _ => .next s

/-- DISPATCH_WAIT_EXPIRY: a waiting datagram for which no thread freed in time ends in hardware drop 94h (R78). One for which a thread is free,
the datagrams before it served, is not dropped. -/
def execDispatchWaitExpiry (idx : Nat) (s : State) : Res :=
  match s.ur.waiting[idx]? with
  | some g => if s.freeThreadCount ≤ idx then .next ((s.setWaiting (s.ur.waiting.eraseIdx idx)).dropNoThread g) else .next s
  | none => .next s

/-! ## The end of a run (R44, R52, R53) -/

/-- Thread `t` frees: its other cells are freed and BUSY falls. -/
def State.endThread (s : State) (t : Nat) (th : Thread) : State :=
  ((s.setThread t none).setFld ⟨R.UEN_ENG_STAT (t / 8), t % 8, 1⟩ 0).freeDgram th.dgram

/-- The fault latched in the engine's fault register and header window while VALID is 0 (R60). -/
def State.latchFault (s : State) (t : Nat) (th : Thread) (code : Nat) : State :=
  let e := t / 8
  if s.on (F.UEN_ENG_FAULT_VALID e) then s
  else
    let u := s.setReg (R.UEN_ENG_FAULT e) 0
      |>.setFld (F.UEN_ENG_FAULT_VALID e) 1 |>.setFld (F.UEN_ENG_FAULT_CODE e) code
      |>.setFld (F.UEN_ENG_FAULT_STREAM e) th.dgram.stream |>.setFld (F.UEN_ENG_FAULT_THREAD e) (t % 8)
      |>.setFld (F.UEN_ENG_FAULT_PC e) th.pc |>.setFld (F.UEN_ENG_FAULT_SLOTS_USED e) th.slots
    { u with ur := { u.ur with hdrs := u.ur.hdrs.set [] e th.dgram.window } }

/-- A run ends in a fault: it discards the queue, counts in FAULTS, sets the cause FAULT and is latched where the register is free. -/
def State.endFault (s : State) (t : Nat) (th : Thread) (code : Nat) : State :=
  (((s.latchFault t th code).count (R.CAP_S_FAULTS th.dgram.stream) 1).strCause th.dgram.stream 0).endThread t th

/-- A run ends in a hardware drop: 90h, 91h, 92h or 93h with its counter, and the cause of 91h and 92h. -/
def State.hwDrop (s : State) (t : Nat) (th : Thread) (code : Nat) : State :=
  let n := th.dgram.stream
  let u := match code with
    | 0x90 => s.count (R.CAP_S_DUP n) 1
    | 0x91 => (s.count (R.CAP_S_BEHIND n) 1).strCause n 5
    | 0x92 => (s.count (R.CAP_S_NOSTAGE n) 1).strCause n 3
    | _ => s.count (R.CAP_S_DIVFULL n) 1
  u.endThread t th

/-! ## Issue (R36, R51) -/

/-- What an instruction does to its thread: it goes on to the next word, branches, ends in a fault or a hardware drop, or is an outcome
that is accepted. -/
inductive UOut where
  | go (s : State) (th : Thread)
  | jump (s : State) (th : Thread) (pc : Nat)
  | fault (s : State) (code : Nat)
  | drop (s : State) (th : Thread) (code : Nat)
  | accept (s : State) (th : Thread)

/-- The slot cost of a word (R47). -/
def Uw.cost (w : W64) : Nat :=
  match Uw.op w with
  | 0x42 => 1 + ceilDiv (Uw.imm w 8 9) 32
  | 0x50 => 2 | 0x52 => 2 | 0x53 => 2 | 0x54 => 2 | 0x58 => 2 | 0x78 => 2 | 0x7A => 2
  | _ => 1

/-- The program counter after a word that is no branch: the next word, or the first word of a REPEAT body whose passes are not done,
with the counter register set for that pass (R50). -/
def Thread.goOn (th : Thread) : Thread :=
  match th.rep with
  | none => { th with pc := th.pc + 1 }
  | some r =>
    if th.pc + 1 = r.first + r.len then
      if r.i + 1 < r.n then { (th.setU r.d (BitVec.ofNat 64 (r.i + 1))) with pc := r.first, rep := some { r with i := r.i + 1 } }
      else { th with pc := th.pc + 1, rep := none }
    else { th with pc := th.pc + 1 }

/-- The word a thread stands at. -/
def State.word (s : State) (th : Thread) : W64 := s.ur.store.get 0 (th.base + th.pc)

/-- The word a thread stands at carries a double-bit error (R53, 81h). -/
def State.wordBad (s : State) (th : Thread) : Bool := s.ur.eccBad.contains (th.base + th.pc)

/-- What an issued instruction makes of the state; `th` is the thread before it, with the slots used before it. -/
def UOut.settle (t : Nat) (th : Thread) (cost : Nat) : UOut → State
  | .go s th' => s.setThread t (some { th'.goOn with slots := th.slots + cost })
  | .jump s th' pc => s.setThread t (some { th' with pc := pc, slots := th.slots + cost })
  | .fault s code => s.endFault t th code
  | .drop s th' code => s.hwDrop t th' code
  | .accept s th' => s.setThread t (some { th' with accepted := true, slots := th.slots + cost })

/-- Thread `t` issues the word it stands at, where that word has opcode `op` and its slots fit the budget; a word with a double-bit error
faults 81h. Where the thread holds no datagram, is past its outcome, stands at another opcode, or has too few slots left
(BUDGET_EXHAUSTED), this command is not the thread's next event and changes nothing. -/
def State.issue (s : State) (t op : Nat) (body : State → Thread → W64 → UOut) : Res :=
  match s.thread t with
  | none => .next s
  | some th =>
    let w := s.word th
    if th.accepted then .next s
    else if s.wordBad th then .next (s.endFault t th 0x81)
    else if Uw.op w = op ∧ th.slots + Uw.cost w ≤ th.budget then
      .next ((body (s.count (R.UEN_ENG_SLOTS (t / 8)) (Uw.cost w)) th w).settle t th (Uw.cost w))
    else .next s

/-- An instruction that only writes u[d]. -/
def alu (f : Thread → W64 → W64) (s : State) (th : Thread) (w : W64) : UOut := .go s (th.setU (Uw.d w) (f th w))

/-- An instruction on u[a] and u[b]. -/
def alu2 (f : W64 → W64 → W64) : State → Thread → W64 → UOut := alu (fun th w => f (th.u (Uw.a w)) (th.u (Uw.b w)))

/-- BUDGET_EXHAUSTED: a word whose slots would carry the count above the budget limit does not issue; fault 80h (R51). -/
def execBudgetExhausted (t : Nat) (s : State) : Res :=
  match s.thread t with
  | none => .next s
  | some th =>
    if !th.accepted && !s.wordBad th && decide (th.budget < th.slots + Uw.cost (s.word th)) then .next (s.endFault t th 0x80)
    else .next s

/-! ## Arithmetic and logic (R47) -/

/-- The store word that thread `t` is about to issue has taken a double-bit error; the error stays until the program is loaded again (R53). -/
def State.spoilWord (s : State) (t : Nat) : State :=
  match s.thread t with
  | some th => { s with ur := { s.ur with eccBad := addOnce s.ur.eccBad (th.base + th.pc) } }
  | none => s

/-- NOP. With `bad` the word read, whatever it is, carries a double-bit error, and the thread faults 81h (R53). -/
def execUNop (t : Nat) (bad : Bool) (s : State) : Res := (if bad then s.spoilWord t else s).issue t 0x00 (fun s th _ => .go s th)
/-- ADD. -/
def execUAdd (t : Nat) (s : State) : Res := s.issue t 0x10 (alu2 (fun x y => x + y))
/-- SUB. -/
def execUSub (t : Nat) (s : State) : Res := s.issue t 0x11 (alu2 (fun x y => x - y))
/-- AND. -/
def execUAnd (t : Nat) (s : State) : Res := s.issue t 0x12 (alu2 (fun x y => x &&& y))
/-- OR. -/
def execUOr (t : Nat) (s : State) : Res := s.issue t 0x13 (alu2 (fun x y => x ||| y))
/-- XOR. -/
def execUXor (t : Nat) (s : State) : Res := s.issue t 0x14 (alu2 (fun x y => x ^^^ y))
/-- SHL. -/
def execUShl (t : Nat) (s : State) : Res := s.issue t 0x15 (alu2 (fun x y => x <<< (y.toNat % 64)))
/-- SHR. -/
def execUShr (t : Nat) (s : State) : Res := s.issue t 0x16 (alu2 (fun x y => x >>> (y.toNat % 64)))
/-- SAR. -/
def execUSar (t : Nat) (s : State) : Res := s.issue t 0x17 (alu2 (fun x y => x.sshiftRight (y.toNat % 64)))
/-- MUL. -/
def execUMul (t : Nat) (s : State) : Res := s.issue t 0x18 (alu2 (fun x y => x * y))
/-- MULHU. -/
def execUMulhu (t : Nat) (s : State) : Res :=
  s.issue t 0x19 (alu2 (fun x y => BitVec.ofNat 64 (x.toNat * y.toNat / 2 ^ 64)))
/-- MINU. -/
def execUMinu (t : Nat) (s : State) : Res := s.issue t 0x1A (alu2 (fun x y => if x < y then x else y))
/-- MAXU. -/
def execUMaxu (t : Nat) (s : State) : Res := s.issue t 0x1B (alu2 (fun x y => if x < y then y else x))
/-- ADDI. -/
def execUAddi (t : Nat) (s : State) : Res := s.issue t 0x20 (alu (fun th w => th.u (Uw.a w) + Uw.sx w))
/-- ANDI. -/
def execUAndi (t : Nat) (s : State) : Res := s.issue t 0x22 (alu (fun th w => th.u (Uw.a w) &&& Uw.zx w))
/-- ORI. -/
def execUOri (t : Nat) (s : State) : Res := s.issue t 0x23 (alu (fun th w => th.u (Uw.a w) ||| Uw.zx w))
/-- XORI. -/
def execUXori (t : Nat) (s : State) : Res := s.issue t 0x24 (alu (fun th w => th.u (Uw.a w) ^^^ Uw.zx w))
/-- SHLI. -/
def execUShli (t : Nat) (s : State) : Res := s.issue t 0x25 (alu (fun th w => th.u (Uw.a w) <<< Uw.imm w 0 6))
/-- SHRI. -/
def execUShri (t : Nat) (s : State) : Res := s.issue t 0x26 (alu (fun th w => th.u (Uw.a w) >>> Uw.imm w 0 6))
/-- SARI. -/
def execUSari (t : Nat) (s : State) : Res := s.issue t 0x27 (alu (fun th w => (th.u (Uw.a w)).sshiftRight (Uw.imm w 0 6)))
/-- MULI. -/
def execUMuli (t : Nat) (s : State) : Res := s.issue t 0x28 (alu (fun th w => th.u (Uw.a w) * Uw.sx w))
/-- LI. -/
def execULi (t : Nat) (s : State) : Res := s.issue t 0x2C (alu (fun _ w => Uw.sx w))
/-- LIH: imm in the high half, the low half of u[a] kept. -/
def execULih (t : Nat) (s : State) : Res :=
  s.issue t 0x2D (alu (fun th w => (Uw.zx w <<< 32) ||| (th.u (Uw.a w) &&& 0xFFFFFFFF#64)))

/-! ## Compare, select and bit field (R46, R47) -/

/-- A condition as 0 or 1. -/
def bitOf (b : Bool) : W64 := if b then 1 else 0

/-- CMP. -/
def execUCmp (t : Nat) (s : State) : Res :=
  s.issue t 0x30 (alu (fun th w => bitOf (cond (Uw.m w) (th.u (Uw.a w)) (th.u (Uw.b w)))))
/-- CMPI. -/
def execUCmpi (t : Nat) (s : State) : Res :=
  s.issue t 0x31 (alu (fun th w => bitOf (cond (Uw.m w) (th.u (Uw.a w)) (Uw.sx w))))
/-- SEL: m names the selector register. -/
def execUSel (t : Nat) (s : State) : Res :=
  s.issue t 0x32 (alu (fun th w => if th.u (Uw.m w) ≠ 0 then th.u (Uw.a w) else th.u (Uw.b w)))
/-- BFX: bits above bit 63 read zero. -/
def execUBfx (t : Nat) (s : State) : Res :=
  s.issue t 0x33 (alu (fun th w => BitVec.ofNat 64 (bits (th.u (Uw.a w)).toNat (Uw.imm w 0 6) (Uw.imm w 8 6 + 1))))

/-! ## Header window (R40, R47) -/

/-- XB: 1, 2, 4 or 8 bytes of H, f[0] little-endian, f[1] sign-extended. -/
def execUXb (t : Nat) (s : State) : Res :=
  s.issue t 0x40 (fun s th w =>
    let off := Uw.imm w 0 8 + (th.u (Uw.a w)).toNat
    let n := 2 ^ Uw.m w
    if 256 < off + n then .fault s 0x85
    else
      let v := th.dgram.xb off n (Uw.f w 0)
      let x := if Uw.f w 1 ∧ 2 ^ (8 * n - 1) ≤ v then BitVec.ofNat 64 v - BitVec.ofNat 64 (2 ^ (8 * n)) else BitVec.ofNat 64 v
      .go s (th.setU (Uw.d w) x))
/-- XBIT: m + 1 bits of H. -/
def execUXbit (t : Nat) (s : State) : Res :=
  s.issue t 0x41 (fun s th w =>
    let off := Uw.imm w 0 11 + (th.u (Uw.a w)).toNat
    let n := Uw.m w + 1
    if 2048 < off + n then .fault s 0x85
    else .go s (th.setU (Uw.d w) (BitVec.ofNat 64 (th.dgram.xbit off n))))
/-- HCRC: CRC-32C over a range of H. -/
def execUHcrc (t : Nat) (s : State) : Res :=
  s.issue t 0x42 (fun s th w =>
    let off := Uw.imm w 0 8 + (th.u (Uw.a w)).toNat
    let len := Uw.imm w 8 9
    if 256 < off + len then .fault s 0x85
    else .go s (th.setU (Uw.d w) ((crc32c ((th.dgram.window.drop off).take len)).setWidth 64)))

/-! ## Context (R41 to R43) -/

/-- Context slot k of the thread's stream, k = imm[3:0]. -/
def ctxOff (th : Thread) (w : W64) : Nat := R.CAP_S_CTX th.dgram.stream (Uw.imm w 0 4)

/-- CLD. -/
def execUCld (t : Nat) (s : State) : Res :=
  s.issue t 0x50 (fun s th w => .go s (th.setU (Uw.d w) (s.reg (ctxOff th w))))
/-- CST. -/
def execUCst (t : Nat) (s : State) : Res :=
  s.issue t 0x51 (fun s th w => .go (s.setReg (ctxOff th w) (th.u (Uw.a w))) th)
/-- CADD. -/
def execUCadd (t : Nat) (s : State) : Res :=
  s.issue t 0x52 (fun s th w =>
    let old := s.reg (ctxOff th w)
    .go (s.setReg (ctxOff th w) (old + th.u (Uw.a w))) (th.setU (Uw.d w) old))
/-- CMAX: m = 0 unsigned 64-bit, m = 1 serial on the low 32 bits, storing all 64. -/
def execUCmax (t : Nat) (s : State) : Res :=
  s.issue t 0x53 (fun s th w =>
    let old := s.reg (ctxOff th w)
    let x := th.u (Uw.a w)
    let new := if Uw.m w = 0 then (if old < x then x else old) else (if sgt32 x old then x else old)
    .go (s.setReg (ctxOff th w) new) (th.setU (Uw.d w) old))
/-- CCAS. -/
def execUCcas (t : Nat) (s : State) : Res :=
  s.issue t 0x54 (fun s th w =>
    let old := s.reg (ctxOff th w)
    .go (if old = th.u (Uw.a w) then s.setReg (ctxOff th w) (th.u (Uw.b w)) else s) (th.setU (Uw.d w) old))

/-! ## Sequence check (R48, R73 to R75) -/

/-- The class of a submitted datagram sequence. -/
inductive SeqClass where
  | ahead | inside | duplicate | behind
  deriving DecidableEq, Repr

/-- The serial-number width of SEQCFG.SEQ_WIDTH. -/
def seqWidth (code : Nat) : Nat := match code with | 0 => 16 | 1 => 24 | 2 => 32 | _ => 48

/-- The tracker's record: high and the 65,535 values below it (R74). -/
def seqRecord : Nat := 65536

/-- Submission of a value to a stream's tracker (R73): its class, and the state with the value marked. -/
def State.submitSeq (s : State) (n : Nat) (v : W64) : State × SeqClass :=
  let M := 2 ^ seqWidth (s.fld (F.CAP_S_SEQCFG_SEQ_WIDTH n))
  let W := 2 ^ s.fld (F.CAP_S_SEQCFG_WIN_LOG2 n)
  let x := v.toNat % M
  let high := s.fld (F.CAP_S_SEQHIGH_HIGH n) % M
  let marks := (s.str n).marks
  let advance (keep : List Nat) : State :=
    ((s.setFld (F.CAP_S_SEQHIGH_VALID n) 1).setFld (F.CAP_S_SEQHIGH_HIGH n) x).setStr n { s.str n with marks := keep ++ [x] }
  if !s.on (F.CAP_S_SEQHIGH_VALID n) then (advance [], .ahead)
  else
    let d := (x + M - high) % M
    let b := (high + M - x) % M
    if d = 0 then (s, .duplicate)
    else if d < M / 2 then
      (advance (marks.filter (fun k =>
        !decide (0 < (k + M - high) % M ∧ (k + M - high) % M < d) && decide (0 < (x + M - k) % M ∧ (x + M - k) % M < seqRecord))), .ahead)
    else if W ≤ b then (s, .behind)
    else if seqRecord ≤ b then (s.count (R.CAP_S_SEQ_UNCHECKED n) 1, .inside)
    else if marks.contains x then (s, .duplicate)
    else (s.setStr n { s.str n with marks := marks ++ [x] }, .inside)

/-- SEQ. -/
def execUSeq (t : Nat) (s : State) : Res :=
  s.issue t 0x58 (fun s th w =>
    if th.seqDone then .fault s 0x86
    else
      let r := s.submitSeq th.dgram.stream (th.u (Uw.a w))
      match r.2 with
      | .duplicate => .drop r.1 th 0x90
      | .behind => .drop r.1 th 0x91
      | .inside => .go r.1 { (th.setU (Uw.d w) 0) with seqDone := true }
      | .ahead => .go r.1 { (th.setU (Uw.d w) 1) with seqDone := true })

/-! ## Control (R49, R50) -/

/-- BR. -/
def execUBr (t : Nat) (s : State) : Res := s.issue t 0x60 (fun s th w => .jump s th (th.pc + Uw.imm w 0 16))
/-- BC. -/
def execUBc (t : Nat) (s : State) : Res :=
  s.issue t 0x61 (fun s th w =>
    .jump s th (if cond (Uw.m w) (th.u (Uw.a w)) (th.u (Uw.b w)) then th.pc + Uw.imm w 0 16 else th.pc + 1))
/-- BCI: y = imm[31:16] sign-extended. -/
def execUBci (t : Nat) (s : State) : Res :=
  s.issue t 0x62 (fun s th w =>
    .jump s th (if cond (Uw.m w) (th.u (Uw.a w)) (Uw.sx16 w) then th.pc + Uw.imm w 0 16 else th.pc + 1))
/-- REPEAT: the next imm[12:8] words n times; a count of 0 skips the body. -/
def execURepeat (t : Nat) (s : State) : Res :=
  s.issue t 0x68 (fun s th w =>
    let n := if Uw.f w 0 then (th.u (Uw.a w)).toNat else Uw.imm w 0 5
    let len := Uw.imm w 8 5
    if 16 < n then .fault s 0x87
    else if n = 0 then .jump s th (th.pc + 1 + len)
    else .jump s { (th.setU (Uw.d w) 0) with rep := some { d := Uw.d w, first := th.pc + 1, len := len, n := n, i := 0 } } (th.pc + 1))

/-! ## Side effects (R44, R122) -/

/-- An entry appended to the side-effect queue; fault 84h where it holds 8. -/
def enqueue (s : State) (th : Thread) (e : SideEff) : UOut :=
  if 8 ≤ th.queue.length then .fault s 0x84 else .go s { th with queue := th.queue ++ [e] }

/-- TRIGGER: fault 88h where the stream does not place provisionally, or the named descriptor does not belong to it; the handle is
recorded at issue (R122). -/
def execUTrigger (t : Nat) (s : State) : Res :=
  s.issue t 0x70 (fun s th w =>
    let n := th.dgram.stream
    let commit := Uw.m w == 0
    if s.prov n = 0 then .fault s 0x88
    else if Uw.f w 0 then
      let k := (th.u (Uw.a w)).toNat
      if k < 4096 ∧ (s.span k).isSome ∧ s.fld (F.CAP_SP_STREAM k) = n then enqueue s th (.trigger (some (s.spHandle k)) commit false)
      else .fault s 0x88
    else enqueue s th (.trigger ((s.curSpan n).map s.spHandle) commit true))
/-- COUNT. -/
def execUCount (t : Nat) (s : State) : Res :=
  s.issue t 0x71 (fun s th w => enqueue s th (.count (Uw.imm w 0 4) (th.u (Uw.a w) + BitVec.ofNat 64 (Uw.imm w 16 16))))
/-- STAMP. -/
def execUStamp (t : Nat) (s : State) : Res := s.issue t 0x72 (fun s th _ => enqueue s th .stamp)
/-- EVENT. -/
def execUEvent (t : Nat) (s : State) : Res := s.issue t 0x73 (fun s th w => enqueue s th (.event (Uw.imm w 0 7)))

/-! ## Outcomes (R44, R47, R77, R100) -/

/-- The cells that hold payload bytes skip to skip + len - 1. -/
def cellSpan (skip len : Nat) : Nat := (skip + len - 1) / 256 - skip / 256 + 1

/-- PLACE: checks against the payload and the window, then the reservation in the placement hold (R77); an accepted placement joins the
stream's hold and, for a provisional stream that is Running, opens the spans it needs (R105). -/
def execUPlace (t : Nat) (s : State) : Res :=
  s.issue t 0x78 (fun s th w =>
    let g := th.dgram
    let n := g.stream
    let off := (th.u (Uw.a w)).toNat
    let len := (th.u (Uw.b w)).toNat
    let skip := Uw.imm w 0 16
    if len = 0 ∨ g.payload.length < skip + len then .fault s 0x83
    else if s.fld (F.CAP_S_WIN_WIN_EXT n) * extBytes < off + len then .fault s 0x82
    else
      let c := cellSpan skip len
      let bank := g.port / 2
      if holdCells < s.eth.holdUsed.get 0 bank + c then .drop s th 0x92
      else
        let num := s.ur.placeNo
        let p : Placement := { num := num, off := off, bytes := (g.payload.drop skip).take len, bank := bank, cells := c, time := g.time }
        let u := ((({ s with ur := { s.ur with placeNo := num + 1 } }).takeHold bank c).freeRecv g.port g.sub c)
          |>.count (R.CAP_S_PLACED n) 1 |>.count (R.CAP_S_PLACED_BYTES n) len
        let u := if s.prov n ≠ 0 ∧ s.strState n = 1 then u.acceptProv n p
          else u.setStr n { u.str n with hold := (u.str n).hold ++ [p] }
        .accept u { th with placeId := some num, dgram := { g with cells := g.cells - c } })

/-- DROP. -/
def execUDrop (t : Nat) (s : State) : Res :=
  s.issue t 0x79 (fun s th w =>
    let n := th.dgram.stream
    let r := Uw.imm w 0 8
    let u := s.count (R.CAP_S_PROG_DROP n) 1
    .accept (u.setStr n { u.str n with drops := (u.str n).drops.set 0 r (((u.str n).drops.get 0 r + 1) % 2 ^ 64) }) th)

/-- A divert queue has a free entry (R100). -/
def State.divRoom (s : State) (n q : Nat) : Bool :=
  decide (((s.str n).divRes.get 0 q + 2 ^ 32 - s.fld (F.CAP_S_DIV_HEAD_HEAD n q)) % 2 ^ 32 < 2 ^ s.fld (F.CAP_S_DIV_CFG_ENTRIES_LOG2 n q))

/-- DIVERT: fault 89h where the queue is disabled; hardware drop 93h where it is full; else an entry is reserved, and the datagram's cells
go with it until its last write. -/
def execUDivert (t : Nat) (s : State) : Res :=
  s.issue t 0x7A (fun s th w =>
    let n := th.dgram.stream
    let q := Uw.imm w 0 2
    if !bit (s.fld (F.CAP_S_CTRL_DIV_EN n)) q then .fault s 0x89
    else if !s.divRoom n q then .drop s th 0x93
    else
      let v := s.str n
      let num := v.divRes.get 0 q
      let e : DivEntry := { q := q, n := num, dgram := th.dgram, tag := (th.u (Uw.a w)).setWidth 32 }
      let u := (s.setStr n { v with divRes := v.divRes.set 0 q ((num + 1) % 2 ^ 32), divPend := v.divPend ++ [e] }).count (R.CAP_S_DIVERTED n) 1
      .accept u { th with dgram := { th.dgram with cells := 0 } })

/-! ## Release of side effects -/

/-- A pin edge or a TRIGGER acts on one span: the first decision stands, a later one counts in TRIG_LATE (R119); a recovered span that is
undecided takes none (R138). -/
def State.trigger (s : State) (k : Nat) (commit : Bool) (by_ pin : Nat) : State :=
  if s.undecided k then (if s.on (F.CAP_SP_RECOVERED k) then s else s.decideSpan k commit by_ pin)
  else s.count R.CAP_TRIG_LATE 1

/-- Spans committed, the lowest first (R127: the order in which commits are accepted is the order of the swaps). -/
def State.commitAll (s : State) (ks : List Nat) (by_ pin : Nat) : State :=
  s.over (ks.insertionSort (fun a b => s.spFirst a ≤ s.spFirst b)) (fun u k => u.trigger k true by_ pin)

/-- A TRIGGER released (R122). -/
def State.releaseTrigger (s : State) (n : Nat) (handle : Option Nat) (commit current : Bool) : State :=
  match handle with
  | none =>
    if commit then
      if (s.backSpans n).isEmpty then s.count R.CAP_TRIG_NOSPAN 1 else s.commitAll (s.backSpans n) 2 0
    else s.count R.CAP_TRIG_NOSPAN 1
  | some h =>
    match s.named h with
    | none => s.count R.CAP_TRIG_STALE 1
    | some k =>
      if commit && current then s.commitAll ((s.backSpans n).filter (· != k) ++ [k]) 2 0
      else s.trigger k commit 2 0

/-- A STAMP released: the time widens the pair of every extent that has received bytes of the placement, and that of those that will. -/
def State.releaseStamp (s : State) (th : Thread) : State :=
  match th.placeId with
  | none => s
  | some num =>
    let n := th.dgram.stream
    let u := s.over th.recv (fun u x => match u.ext n x with
      | some e => u.setExt n x (some { e with stamps := widen e.stamps th.dgram.time })
      | none => u)
    u.setStr n { u.str n with hold := (u.str n).hold.map (fun p => if p.num == num then { p with stamp := true } else p) }

/-- One entry released. -/
def State.releaseEntry (s : State) (th : Thread) : SideEff → State
  | .trigger h c cur => s.releaseTrigger th.dgram.stream h c cur
  | .count k a => s.setReg (R.CAP_S_UCNT th.dgram.stream k) (s.reg (R.CAP_S_UCNT th.dgram.stream k) + a)
  | .stamp => s.releaseStamp th
  | .event n => s.raise (640 + n)

/-- SIDE_EFFECT_RELEASE: the entries of an accepted thread are released in program order, and the thread frees (R37, R44). -/
def execSideEffectRelease (t : Nat) (s : State) : Res :=
  match s.thread t with
  | none => .next s
  | some th =>
    if th.accepted then
      let u := th.queue.foldl (fun u e => u.releaseEntry ((u.thread t).getD th) e) s
      .next (u.endThread t ((u.thread t).getD th))
    else .next s

/-- ENG_FAULT_REARM: 1 written to UEN.ENGn_FAULT.VALID (R60). -/
def execEngFaultRearm (eng : Nat) (s : State) : Res :=
  if eng < 16 then .next (s.setFld (F.UEN_ENG_FAULT_VALID eng) 0) else .next s

end Sys2Proof.Machine
end

