-- ==== Sys2Proof/Machine/Streams.lean ====
section
/-! DEFINITION. Capture streams: starting, stopping, the tracker's host side, extents, the placement engine, and the divert queues
(Capture Streams and In-Place Reassembly). -/

namespace Sys2Proof.Machine

/-! ## Starting and stopping (R63 to R69) -/

/-- The extents of a namespace. -/
def Ns.exts (n : Ns) : Nat := n.blocks / 256

/-- A namespace is read-only for start check 7h: the part is (R263, R430, R506), or its default page is an Exhausted GCM page (R404) or Empty
(R405). -/
def State.nsReadOnly (s : State) (nsid : Nat) : Bool :=
  s.on F.FTL_STATUS_READ_ONLY || s.on F.PST_STATUS_WORN || s.on F.SEC_STATUS_RESTRICTED ||
  (match s.ns nsid with
    | some n => (match n.keyPage with
      | some k => s.pageSpent k || s.fld (F.CPH_KP_STATE_STATE k) == 0
      | none => false)
    | none => false)

/-- Sum over the streams not Idle, stream `n` included, of `f`. -/
def State.sumBusy (s : State) (n : Nat) (f : Nat → Nat) : Nat :=
  ((List.range 64).map (fun m => if m = n ∨ s.strState m ≠ 0 then f m else 0)).foldl (· + ·) 0

/-- The span configuration permits the PROV mode (R114). -/
def State.provOk (s : State) (n : Nat) : Bool :=
  let ext := s.fld (F.CAP_S_SPANCFG_SPAN_EXT n)
  let need := ext + s.fld (F.CAP_S_HORIZON_HORIZON n)
  match s.prov n with
  | 0 => true
  | 1 => decide (1 ≤ ext ∧ need ≤ s.fld (F.CAP_S_RING_RING_EXT n)) &&
      decide (((List.range 64).map (fun m => if m = n then s.fld (F.CAP_S_RING_RING_EXT n) else s.ringTaken m)).foldl (· + ·) 0 ≤ 65536)
  | 2 => decide (1 ≤ ext) && s.on F.CAP_SPAN_POOL_POOL_EN && decide (need ≤ s.fld F.CAP_SPAN_POOL_POOL_EXT)
  | _ => false

/-- Two windows of streams on the same namespace overlap. -/
def State.winOverlap (s : State) (n m : Nat) : Bool :=
  let a := s.fld (F.CAP_S_WIN_WIN_BASE n)
  let b := s.fld (F.CAP_S_WIN_WIN_BASE m)
  s.fld (F.CAP_S_NS_NSID n) == s.fld (F.CAP_S_NS_NSID m) &&
  decide (a < b + s.fld (F.CAP_S_WIN_WIN_EXT m) ∧ b < a + s.fld (F.CAP_S_WIN_WIN_EXT n))

/-- The code of the first start check that fails; 0 for none (R64); while the maps are rebuilt it is 2h at the latest (R287). -/
def State.startRefusal (s : State) (n : Nat) : Nat :=
  let nsid := s.fld (F.CAP_S_NS_NSID n)
  let h := s.fld (F.CAP_S_HORIZON_HORIZON n)
  let w := s.fld (F.CAP_S_SEQCFG_WIN_LOG2 n)
  let exts := match s.ns nsid with | some v => v.exts | none => 0
  if !s.on (F.CAP_S_STATUS_PROG_LOADED n) then 1
  else if !(s.isCapture nsid && s.attachedTo nsid 0) || s.on F.FTL_STATUS_REBUILDING then 2
  else if s.fld (F.CAP_S_WIN_WIN_EXT n) = 0 ∨ exts < s.fld (F.CAP_S_WIN_WIN_BASE n) + s.fld (F.CAP_S_WIN_WIN_EXT n) then 3
  else if h = 0 ∨ 4096 < h ∨ 16384 < s.sumBusy n (fun m => s.fld (F.CAP_S_HORIZON_HORIZON m)) then 4
  else if w < 4 ∨ 30 < w ∨ seqWidth (s.fld (F.CAP_S_SEQCFG_SEQ_WIDTH n)) - 1 < w then 5
  else if !s.provOk n then 6
  else if s.nsReadOnly nsid then 7
  else if (s.busyStreams.filter (· != n)).any (fun m => s.winOverlap n m) then 8
  else 0

/-- STREAM_START: RUN = 1 written while Idle (R64); it waits while the cluster is held (R486). -/
def execStreamStart (n : Nat) (s : State) : Res :=
  if s.live ∧ n < 64 ∧ s.strState n = 0 then
    if s.holds 49 then .next (s.holdWork (.stream n)) else
    let c := s.startRefusal n
    if c = 0 then
      .next (((s.setFld (F.CAP_S_CTRL_RUN n) 1).setFld (F.CAP_S_STATUS_STATE n) 1).setStr n
        { s.str n with top := none, ring := if s.prov n = 1 then s.fld (F.CAP_S_RING_RING_EXT n) else (s.str n).ring })
    else .next (((s.setFld (F.CAP_S_CTRL_RUN n) 0).setFld (F.CAP_S_STATUS_REFUSE_CODE n) c).strCause n 1)
  else .next s

/-- The top of a Filling span fixed one above its highest extent with an accepted placement, and the span Closing (R107, R109). -/
def State.closeFilling (s : State) (n : Nat) : State :=
  match s.curSpan n with
  | none => s
  | some k => match s.span k with
    | none => s
    | some v =>
      let t := (s.setFld (F.CAP_SP_EXT_COUNT k) (v.high - s.spFirst k)).closeCur n
      (t.setStr n { t.str n with top := some v.high }).pend k

/-- STREAM_STOP: RUN = 0 written while Running (R65, R109). -/
def execStreamStop (n : Nat) (s : State) : Res :=
  if s.live ∧ n < 64 ∧ s.strState n = 1 then
    .next (((s.setFld (F.CAP_S_CTRL_RUN n) 0).setFld (F.CAP_S_STATUS_STATE n) 2).closeFilling n)
  else .next s

/-- A placement's bytes in extent `x` may still be applied: the stream is ordinary, or the extent lies in a span that is Filling or
Closing, or that was decided after the placement was accepted (R107, R108). -/
def State.takes (s : State) (n x : Nat) (p : Placement) : Bool :=
  if s.prov n = 0 then true
  else match s.spanOf n x with
    | none => false
    | some k =>
      let st := s.spState k
      st == 1 || st == 2 || (match s.span k with
        | some v => (match v.cutAt with | some c => decide (p.num < c) | none => false)
        | none => false)

/-- HBM has room for one more extent of a stream: its ring for PROV = 01b, else the capture pool (R80, R110). -/
def State.hbmRoom (s : State) (n : Nat) : Bool :=
  if s.prov n = 1 then decide (s.ringUsed n < (s.str n).ring) else s.poolRoom

/-- Window-relative extent `e` is wanted: it is not open nor sealed, lies at or above the cursor and inside the horizon (or in a decided
span), and an accepted placement waits for it. -/
def State.wanted (s : State) (n e : Nat) : Bool :=
  let x := s.nsExt n e
  let c := s.fld (F.CAP_S_CURSOR_CURSOR n)
  !s.isOpen n x && !s.sealedAt n x && decide (c ≤ e ∧ e < s.fld (F.CAP_S_WIN_WIN_EXT n)) &&
  (decide (e < c + s.fld (F.CAP_S_HORIZON_HORIZON n)) ||
    (s.prov n != 0 && (match s.spanOf n x with | some k => s.spState k == 4 || s.spState k == 6 | none => false))) &&
  (s.waitsFor n x).any (fun p => s.takes n x p && !p.waited)

/-- A span of stream `n` in medium `m` discarded for space is not yet Discarded: its space is still to come (R112). -/
def State.spaceComing (s : State) (n m : Nat) : Bool :=
  (s.strSpans n).any (fun k => s.spState k == 6 && s.fld (F.CAP_SP_DECIDED_BY k) == 5 && s.fld (F.CAP_SP_MEDIUM k) == m)

/-- EXTENT_OPEN: window-relative extent `e` opens in HBM, filled with the fill pattern (R80, R81, R110). Where its ring lacks space, POLICY 0
discards the stream's oldest Pending span of that medium (R112), and the extent waits. -/
def execExtentOpen (n e : Nat) (s : State) : Res :=
  if s.live ∧ s.strState n ≠ 0 ∧ s.wanted n e then
    if s.hbmRoom n then
      .next ((s.setExt n (s.nsExt n e) (some { fill := s.reg (R.CAP_S_FILL n) })).addFld (F.CAP_S_STATUS_OPEN_EXT n) 1)
    else if s.prov n = 1 ∧ !s.on (F.CAP_S_SPANCFG_POLICY n) ∧ !s.spaceComing n 0 then
      match s.oldestPending n 0 with
      | some k => .next (s.decideSpan k false 5 0)
      | none => .next s
    else .next s
  else .next s

/-- A placement's bytes in an extent applied; once every block is full the extent is sealed by completion, after the placements accepted
before (R82, R84, R86). -/
def State.applyPart (s : State) (n x : Nat) (p : Placement) (a : Nat) (bs : Bytes) : State :=
  let t := s.writePart n x p a bs
  match t.ext n x with
  | some e => if e.full then (t.flushInto n x).seal n x true else t
  | none => t

/-- An extent of a decided span is sealed once no accepted placement waits for it (R107). -/
def State.settleCut (s : State) (n x : Nat) : State :=
  if s.prov n ≠ 0 ∧ !s.sealedAt n x then
    match s.spanOf n x with
    | some k =>
      if (s.spState k = 4 ∨ s.spState k = 6) ∧ ((s.waitsFor n x).filter (fun p => s.takes n x p)).isEmpty then s.seal n x false else s
    | none => s
  else s

/-- The bytes of placement `p` (the hold's first) in window-relative extent `e` applied, discarded and counted, or left to wait (R83, R86,
R108). -/
def State.doPart (s : State) (n : Nat) (p : Placement) (e : Nat) : State :=
  let x := s.nsExt n e
  let q := p.part e
  let me := fun r : Placement => r.num == p.num
  if !s.takes n x p || s.sealedAt n x then
    ((s.count (R.CAP_S_DISC_BYTES n) q.2.length).dropPart n e me).settleCut n x
  else if s.isOpen n x then ((s.dropPart n e me).applyPart n x p q.1 q.2).settleCut n x
  else s

/-- The cursor advanced to window-relative extent `c`: every extent below it is sealed (R83, R85). -/
def State.advanceCursor (s : State) (n c : Nat) : State :=
  let lo := s.fld (F.CAP_S_CURSOR_CURSOR n)
  let t := s.over ((List.range (c - lo)).map (fun i => s.nsExt n (lo + i))) (fun u x => if u.sealedAt n x then u else u.sealExt n x false)
  let t := t.setFld (F.CAP_S_CURSOR_CURSOR n) c
  (t.walkCursor n (t.walkFuel n)).settleSpans n

/-- PLACEMENT_APPLY: the stream's placement engine takes the placement accepted first (R82, R83). A placement at or above cursor + horizon
advances the cursor before it is applied; bytes whose extent cannot yet open wait, and so do the placements behind them. -/
def execPlacementApply (n : Nat) (s : State) : Res :=
  match (s.str n).hold with
  | [] => .next s
  | p :: _ =>
    if p.waited ∧ s.strState n = 1 then .next s
    else
      let e := p.last
      let h := s.fld (F.CAP_S_HORIZON_HORIZON n)
      let t := if s.takes n (s.nsExt n e) p ∧ s.fld (F.CAP_S_CURSOR_CURSOR n) + h ≤ e then s.advanceCursor n (e + 1 - h) else s
      .next (t.over p.exts (fun u i => u.doPart n p i))

/-- Bytes that still wait in a stopping stream's hold for an extent that cannot open are discarded and counted (R103, R108). -/
def State.dropHold (s : State) (n : Nat) : State :=
  let bytes := ((s.str n).hold.map (fun p => p.bytes.length)).foldl (· + ·) 0
  (s.count (R.CAP_S_DISC_BYTES n) bytes).setHold n []

/-- Ring space can be made for a stream (R112): a span discarded for space is on its way, or POLICY 0 has one to discard. -/
def State.canMakeRoom (s : State) (n : Nat) : Bool :=
  s.prov n == 1 && (s.spaceComing n 0 || (!s.on (F.CAP_S_SPANCFG_POLICY n) && (s.oldestPending n 0).isSome))

/-- The placement accepted first waits for an extent that cannot open: of a placement inside the horizon, a part lies in an extent that is
neither open nor sealed, and HBM has no room for it. A placement at or above cursor + horizon still advances the cursor (R83). -/
def State.stuck (s : State) (n : Nat) : Bool :=
  match (s.str n).hold with
  | [] => true
  | p :: _ =>
    !(s.takes n (s.nsExt n p.last) p && decide (s.fld (F.CAP_S_CURSOR_CURSOR n) + s.fld (F.CAP_S_HORIZON_HORIZON n) ≤ p.last)) &&
    p.exts.any (fun e => s.takes n (s.nsExt n e) p && !s.sealedAt n (s.nsExt n e) && !s.isOpen n (s.nsExt n e))
    && !s.hbmRoom n && !s.canMakeRoom n

/-- Nothing of a stopping stream is under way: no thread, no datagram on its way or waiting, no divert entry reserved, and nothing that the
placement engine can still apply or open (R65, R82, R103). -/
def State.drained (s : State) (n : Nat) : Bool :=
  s.ur.threads.all (fun e => match e.2 with | some th => th.dgram.stream != n | none => true)
  && s.ur.rings.all (fun e => e.2.all (fun g => g.dead || g.stream != n)) && s.ur.waiting.all (fun g => g.stream != n)
  && (s.str n).divPend.isEmpty
  && s.stuck n

/-- Every placement of the hold taken once, in order of acceptance. -/
def State.applyAll (s : State) (n : Nat) : State :=
  s.over (s.str n).hold (fun u p => u.over p.exts (fun v i => v.doPart n p i))

/-- STREAM_STOPPED: the end of Stopping (R65, R103, R109). -/
def execStreamStopped (n : Nat) (s : State) : Res :=
  if n < 64 ∧ s.strState n = 2 ∧ s.drained n then
    let t := (s.applyAll n).dropHold n
    let t := t.over (t.openExts n) (fun u x => u.seal n x false)
    let t := t.over ((t.strSpans n).filter (fun k => spanTakes (t.spState k)))
      (fun u k => u.over (u.spRange k) (fun v x => if v.sealedAt n x then v else v.seal n x false))
    .next ((t.setFld (F.CAP_S_STATUS_STATE n) 0).strCause n 2)
  else .next s

/-! ## Programs of the store (R54, R57, R58, R68) -/

/-- The granules of the store no program holds. -/
def State.granFree (s : State) (g : Nat) : Bool := s.ur.progs.all (fun p => decide (g < p.gran ∨ p.gran + p.grans ≤ g))

/-- Over granules from `g` on, the free run that ends before the next one, and the longest seen. -/
def longestRun (free : Nat → Bool) : Nat → Nat → Nat → Nat → Nat
  | 0, _, _, best => best
  | n + 1, g, cur, best => if free g then longestRun free n (g + 1) (cur + 1) (max best (cur + 1)) else longestRun free n (g + 1) 0 best

/-- UEN.STORE brought up to date. -/
def State.updStore (s : State) : State :=
  let used := (s.ur.progs.map (fun p => p.grans)).foldl (· + ·) 0
  (s.setFld F.UEN_STORE_FREE_GRAN (1024 - used)).setFld F.UEN_STORE_LARGEST_RUN (longestRun s.granFree 1024 0 0 0)

/-- The programs of the store replaced. -/
def State.setProgs (s : State) (l : List Prog) : State := ({ s with ur := { s.ur with progs := l } }).updStore

/-- DETACH: the program of an Idle stream removed and its granules freed (R68). -/
def execDetach (n : Nat) (s : State) : Res :=
  if s.live ∧ n < 64 ∧ s.strState n = 0 then
    .next ((s.setFld (F.CAP_S_STATUS_PROG_LOADED n) 0).setReg (R.CAP_S_PROG_INFO n) 0 |>.setReg (R.CAP_S_PROG_ID n) 0
      |>.setReg (R.CAP_S_PROG_VER n) 0 |>.setProgs (s.ur.progs.filter (fun p => p.stream != some n)))
  else .next s

/-- A thread runs the program at granule `g`. -/
def State.runs (s : State) (g : Nat) : Bool :=
  s.ur.threads.any (fun e => match e.2 with | some th => th.base == 64 * g | none => false)

/-- OLD_PROGRAM_RELEASE: a replaced program's granules are freed when its last thread has ended (R58). -/
def execOldProgramRelease (gran : Nat) (s : State) : Res :=
  if s.runs gran then .next s
  else .next (s.setProgs (s.ur.progs.filter (fun p => !(p.gran == gran && p.stream.isNone))))

/-! ## Seals (R84) -/

/-- FORCE_SEAL: every open extent of the stream sealed. -/
def execForceSeal (n : Nat) (s : State) : Res :=
  if s.live ∧ n < 64 then .next (s.over (s.openExts n) (fun u x => u.sealNow n x)) else .next s

/-- IDLE_SEAL_EXPIRY: window-relative extent `e`, open and without a placement for IDLE_SEAL µs, sealed. -/
def execIdleSealExpiry (n e : Nat) (s : State) : Res :=
  if s.fld (F.CAP_S_SEAL_IDLE_SEAL n) ≠ 0 ∧ s.isOpen n (s.nsExt n e) then .next (s.sealNow n (s.nsExt n e)) else .next s

/-- SEQHIGH_WRITE: VALID = 0 empties the tracker, VALID = 1 sets high; marks outside the record of the new high are cleared (R63, R74). -/
def execSeqhighWrite (n : Nat) (v : W64) (s : State) : Res :=
  if s.live ∧ n < 64 ∧ s.strState n = 0 then
    let M := 2 ^ seqWidth (s.fld (F.CAP_S_SEQCFG_SEQ_WIDTH n))
    let high := bits v.toNat 0 48
    let keep := if bit v.toNat 63 then (s.str n).marks.filter (fun k => decide ((high % M + M - k % M) % M < seqRecord)) else []
    .next (((s.setFld (F.CAP_S_SEQHIGH_VALID n) (bits v.toNat 63 1)).setFld (F.CAP_S_SEQHIGH_HIGH n) high).setStr n
      { s.str n with marks := keep })
  else .next s

/-! ## Divert queues (R98 to R102) -/

/-- Entry size of a queue: 2, 4, 8 or 16 KiB. -/
def State.divSlot (s : State) (n q : Nat) : Nat := 2048 * 2 ^ s.fld (F.CAP_S_DIV_CFG_SLOT n q)

/-- A queue has a valid base and size (R98). -/
def State.divValid (s : State) (n q : Nat) : Bool :=
  let l := s.fld (F.CAP_S_DIV_CFG_ENTRIES_LOG2 n q)
  decide (s.fld (F.CAP_S_DIV_BASE_ADDR n q) ≠ 0 ∧ 4 ≤ l ∧ l ≤ 16)

/-- Bytes 0 to 31 of an entry (R99); `stored` payload bytes follow. -/
def DivEntry.header (e : DivEntry) (n stored : Nat) : Bytes :=
  let g := e.dgram
  leBytes 4 e.n ++ leBytes 4 g.payload.length ++ leBytes 8 g.time.toNat ++ leBytes 4 e.tag.toNat ++ leBytes 2 g.filt
    ++ [byteOf (g.port + 16 * g.sub), byteOf (ofBool g.macsec + 2 * ofBool g.ipv6 + 4 * ofBool (decide (stored < g.payload.length))),
        byteOf n, byteOf e.q] ++ leBytes 2 stored ++ leBytes 4 (2 ^ 32 - 1 - e.n)

/-- TAIL past every entry written, while each lies at it. -/
def tailWalk (done : List Nat) : Nat → Nat → Nat
  | 0, t => t
  | fuel + 1, t => if done.contains t then tailWalk done fuel ((t + 1) % 2 ^ 32) else t

/-- DIVERT_ENTRY_WRITE: entry `num` of queue `q` is written to host memory, bytes 32 onward first; its cells are freed, TAIL advances, and
DIVERT is set when TAIL leaves HEAD (R99, R100). -/
def execDivertEntryWrite (n q num : Nat) (s : State) : Res :=
  let v := s.str n
  match v.divPend.find? (fun e => e.q == q && e.n == num) with
  | none => .next s
  | some e =>
    if s.live ∧ s.nvme.linkUp then
      let size := s.divSlot n q
      let stored := min e.dgram.payload.length (size - 32)
      let addr := s.fld (F.CAP_S_DIV_BASE_ADDR n q) * 4096 + num % 2 ^ s.fld (F.CAP_S_DIV_CFG_ENTRIES_LOG2 n q) * size
      let done := v.divDone ++ [(q, num)]
      let tail := s.fld (F.CAP_S_DIV_TAIL_TAIL n q)
      let tail' := tailWalk ((done.filter (fun d => d.1 == q)).map Prod.snd) done.length tail
      let t := ((s.emit (.hostWrite 0 (addr + 32) (e.dgram.payload.take stored))).emit (.hostWrite 0 addr (e.header n stored))).setStr n
        { v with
          divPend := v.divPend.filter (fun d => !(d.q == q && d.n == num))
          divDone := done.filter (fun d => !(d.1 == q && decide ((d.2 + 2 ^ 32 - tail) % 2 ^ 32 < (tail' + 2 ^ 32 - tail) % 2 ^ 32))) }
      let t := (t.setFld (F.CAP_S_DIV_TAIL_TAIL n q) tail').freeDgram e.dgram
      .next (if tail ≠ tail' ∧ tail = s.fld (F.CAP_S_DIV_HEAD_HEAD n q) then t.strCause n 6 else t)
    else .next s

/-- DIV_HEAD_WRITE: a value past TAIL is stored as TAIL (R101). -/
def execDivHeadWrite (n q : Nat) (v : W32) (s : State) : Res :=
  if s.live ∧ n < 64 ∧ q < 4 then
    let head := s.fld (F.CAP_S_DIV_HEAD_HEAD n q)
    let tail := s.fld (F.CAP_S_DIV_TAIL_TAIL n q)
    let M := 2 ^ 32
    .next (s.setFld (F.CAP_S_DIV_HEAD_HEAD n q)
      (if (tail + M - head) % M < (v.toNat + M - head) % M then tail else v.toNat))
  else .next s

/-- Bit `q` of DIV_EN. -/
def divEnBit (n q : Nat) : Field := ⟨R.CAP_S_CTRL n, 23 + q, 1⟩

/-- DIV_EN_WRITE: 1 is stored only while the queue has a valid base and size (R98) and Bus Master Enable is 1: its value 0 clears every DIV_EN bit
(R102). -/
def execDivEnWrite (n q : Nat) (on : Bool) (s : State) : Res :=
  if s.live ∧ n < 64 ∧ q < 4 then .next (s.setFld (divEnBit n q) (ofBool (on && s.divValid n q && s.nvme.busMaster))) else .next s

/-- DIV_QUEUE_CONFIG: a write of DIVq_BASE or DIVq_CFG, taken while the stream is Idle only, sets TAIL, HEAD and the reservation count to 0
and clears the enable bit where the queue lacks a valid base or size (R63, R98). -/
def execDivQueueConfig (n q : Nat) (isBase : Bool) (v : W64) (s : State) : Res :=
  if s.live ∧ n < 64 ∧ q < 4 ∧ s.strState n = 0 then
    let t := if isBase then s.setFld (F.CAP_S_DIV_BASE_ADDR n q) (v.toNat / 4096)
      else (s.setFld (F.CAP_S_DIV_CFG_SLOT n q) (v.toNat / 256)).setFld (F.CAP_S_DIV_CFG_ENTRIES_LOG2 n q) v.toNat
    let t := (t.setFld (F.CAP_S_DIV_TAIL_TAIL n q) 0).setFld (F.CAP_S_DIV_HEAD_HEAD n q) 0
    let t := t.setStr n { t.str n with divRes := (t.str n).divRes.set 0 q 0, divDone := (t.str n).divDone.filter (fun d => d.1 != q) }
    .next (if t.divValid n q then t else t.setFld (divEnBit n q) 0)
  else .next s

/-- Every DIV_EN bit cleared; entries reserved and not yet written are never written, TAIL is set to the reservation count (R102), and
their cells are freed. TAIL so set is not an advance past written entries, and sets no DIVERT cause (DESIGN CHOICE, log entry 86). -/
def State.disableDivert (s : State) : State :=
  s.over (List.range 64) (fun u n =>
    let v := u.str n
    let t := u.over v.divPend (fun w e => (w.setFld (F.CAP_S_DIV_TAIL_TAIL n e.q) (v.divRes.get 0 e.q)).freeDgram e.dgram)
    (t.setStr n { t.str n with divPend := [], divDone := [] }).setFld (F.CAP_S_CTRL_DIV_EN n) 0)

/-- Bus Master Enable of the physical function is 0. -/
def State.busMasterOff (s : State) : State := { s with nvme := { s.nvme with busMaster := false } }.disableDivert

/-- BUS_MASTER_DISABLE: a write of the physical function's Bus Master Enable: 0 clears the divert enables (R102), 1 sets the bit again. -/
def execBusMasterDisable (value : Bool) (s : State) : Res :=
  if !s.live then .next s
  else if value then .next { s with nvme := { s.nvme with busMaster := true } }
  else .next s.busMasterOff

end Sys2Proof.Machine
end

