-- ==== Sys2Proof/Machine/FtlOps.lean ====
section
/-! DEFINITION. The translation layer's shared operations: group blocks and where data goes (R230 to R245), sequences (R241), the maps
(R234 to R238), landing (R244), the spare (R260 to R264), the operations queued at the engines (R299, R300), and what a block holds (R203, R89,
R397). -/

namespace Sys2Proof.Machine

/-! ## Keys of the tables -/

/-- Group block b of group g. -/
def gbKey (g b : Nat) : Nat := g * 2 ^ 14 + b
/-- Slot j of a group block; this is also the LOCATION of R235. -/
def slotKey (k j : Nat) : Nat := k * 2 ^ 14 + j
/-- Data unit i of a group block. -/
def unitKey (k i : Nat) : Nat := k * 2 ^ 32 + i
/-- Unit u of the slot at a location. -/
def slotUnit (loc u : Nat) : Nat := unitKey (loc / 2 ^ 14) (256 * (loc % 2 ^ 14) + u)
/-- Extent x of a capture namespace. -/
def extKey (nsid x : Nat) : Nat := nsid * 2 ^ 32 + x
/-- Block lba of a general namespace. -/
def lbaKey (nsid lba : Nat) : Nat := nsid * 2 ^ 48 + lba

/-- The LOCATION of an extent with no flash (R234, R235). -/
def noLoc : Nat := 0xFFFFFFFF

/-- The capture map entry of an extent that has never landed (R234). -/
def capNone : W64 := 0xFFFFFFFF

/-! ## Dies of a group (R230, R312) -/

/-- The translation layer's part of the state. -/
def State.setFtl (s : State) (v : Ftl) : State := { s with ftl := v }

/-- NAND block b of die i of group g is in service. -/
def State.blockOk (s : State) (g i b : Nat) : Bool :=
  match s.dieProfile g i with
  | some p => decide (b < p.blocks) && !s.ftl.retired.contains (nandKey g i b)
  | none => false

/-- The dies whose block b is in service (R230). -/
def State.usable (s : State) (g b : Nat) : List Nat := (List.range 64).filter (fun i => s.blockOk g i b)

/-- A group block. -/
def State.gb (s : State) (k : Nat) : Gb := s.ftl.gbs.get {} k

/-- A group block replaced. -/
def State.setGb (s : State) (k : Nat) (v : Gb) : State := s.setFtl { s.ftl with gbs := s.ftl.gbs.set {} k v }

/-- A group block as it lies on its dies. -/
def State.media (s : State) (k : Nat) : Media := s.ftl.media.get {} k

/-- A group block on its dies replaced. -/
def State.setMedia (s : State) (k : Nat) (v : Media) : State := s.setFtl { s.ftl with media := s.ftl.media.set {} k v }

/-- The die set of a group block (R230): fixed at its erase. -/
def State.dieSet (s : State) (g b : Nat) : List Nat :=
  let v := s.media (gbKey g b)
  if v.dies.isEmpty then s.usable g b else v.dies

/-- The least of a list, 0 for none. -/
def least (l : List Nat) : Nat := match l with | [] => 0 | x :: t => t.foldl min x

/-- Pages of a NAND block of a set of dies, in SLC or native mode: R232's P. Where the dies of the set differ the manual gives no P: DESIGN
CHOICE, the least of theirs (log entry 89). -/
def State.setPages (s : State) (g : Nat) (dies : List Nat) (slc : Bool) : Nat :=
  least (dies.map (fun i => match s.dieProfile g i with | some p => if slc then p.pagesSlc else p.pages | none => 0))

/-- R232's P of a group block in a mode: fixed with its die set. -/
def State.pages (s : State) (g b : Nat) (slc : Bool) : Nat :=
  let v := s.media (gbKey g b)
  if v.dies.isEmpty then s.setPages g (s.usable g b) slc else if slc then v.pagesSlc else v.pages

/-- Pages of a group block, D × P. -/
def State.gbPages (s : State) (g b : Nat) : Nat := (s.dieSet g b).length * s.pages g b (s.media (gbKey g b)).slc

/-- The data units of a group block's slots: those of the pages left over after the last slot are pad units (R232). -/
def State.gbUnits (s : State) (g b : Nat) : Nat := s.gbPages g b / 64 * 256

/-- NAND blocks of the die with most of them. -/
def State.maxBlocks (s : State) (g : Nat) : Nat :=
  ((List.range 64).map (fun i => match s.dieProfile g i with | some p => p.blocks | none => 0)).foldl max 0

/-- The group blocks of a group that have a block in service. -/
def State.gbList (s : State) (g : Nat) : List Nat := (List.range (s.maxBlocks g)).filter (fun b => !(s.usable g b).isEmpty)

/-- The free group blocks of a group: none of those the flash pool has taken (R115). -/
def State.freeGbs (s : State) (g : Nat) : List Nat :=
  (s.gbList g).filter (fun b => (s.gb (gbKey g b)).state == .free && !s.ftl.poolSet.contains (gbKey g b))

/-- The group blocks of a group that a use may open (R111, R115): a pool block, one of those the pool has taken. -/
def State.freeFor (s : State) (g : Nat) (u : GbUse) : List Nat :=
  if u = .pool then (s.gbList g).filter (fun b => (s.gb (gbKey g b)).state == .free && s.ftl.poolSet.contains (gbKey g b)) else s.freeGbs g

/-- The erase count of a NAND block. -/
def State.eraseCount (s : State) (g i b : Nat) : Nat := s.ftl.erases.get 0 (nandKey g i b)

/-- The sum of the erase counts of a group block's die set, and its size. -/
def State.wear (s : State) (g b : Nat) : Nat × Nat :=
  let d := s.dieSet g b
  ((d.map (fun i => s.eraseCount g i b)).foldl (· + ·) 0, d.length)

/-- Mean erase count a less than b. -/
def meanLess (a b : Nat × Nat) : Bool := decide (a.1 * b.2 < b.1 * a.2)

/-- The group block of a list with the lowest (or highest) mean erase count, the lowest number on ties (R244, R258). -/
def State.pickWear (s : State) (g : Nat) (hi : Bool) : List Nat → Option Nat
  | [] => none
  | b :: t => some (t.foldl (fun m x => if (if hi then meanLess (s.wear g m) (s.wear g x) else meanLess (s.wear g x) (s.wear g m)) then x else m) b)

/-! ## The spare (R260 to R264) -/

/-- Pages of a NAND block, the least over every die in service. -/
def State.leastPages (s : State) (slc : Bool) : Nat :=
  least ((List.range 1024).filterMap (fun i => (s.dieProfile (i / 64) (i % 64)).map (fun p => if slc then p.pagesSlc else p.pages)))

/-- Blocks of a namespace's full capacity in native mode (R260). -/
def State.nsBlocks (s : State) (blocks : Nat) : Nat := ceilDiv blocks (4 * s.leastPages false)

/-- Blocks the pool takes. -/
def State.poolBlocks (s : State) : Nat :=
  if s.on F.CAP_SPAN_POOL_POOL_EN then ceilDiv (64 * s.fld F.CAP_SPAN_POOL_POOL_EXT) (s.leastPages true) else 0

/-- Kinds of the units that hold checkpoint, gap table and deallocation records (R240, R260). -/
def metaKind (k : Nat) : Bool := k == 4 || k == 5 || k == 7

/-- Blocks that hold checkpoint, gap table and deallocation units. -/
def State.metaBlocks (s : State) : Nat :=
  ceilDiv (s.ftl.units.filter (fun e => match e.2 with | some u => metaKind u.kind | none => false)).length (4 * s.leastPages false)

/-- The spare: B less what R260 sums. It may be negative. -/
def State.spare (s : State) : Int :=
  (s.blocksInService : Int)
    - ((s.nvme.nss.map (fun e => match e.2 with | some n => s.nsBlocks n.blocks | none => 0)).foldl (· + ·) 0 : Nat)
    - (s.poolBlocks : Int) - (s.metaBlocks : Int)

/-- FTL.SPARE brought up to date. -/
def State.updSpare (s : State) : State := s.setFld F.FTL_SPARE_SPARE_BLK s.spare.toNat

/-- The reserve taken anew: ⌈B × RESERVE / 1,000⌉. -/
def State.takeReserve (s : State) : State :=
  let n := ceilDiv (s.blocksInService * s.fld F.FTL_CFG_RESERVE) 1000
  ((s.setFld F.FTL_SPARE_RESERVE_BLK n).setFtl { s.ftl with reserveBlk := n }).updSpare

/-- A Running stream moves to Stopping (R263, R404). -/
def State.stopStream (s : State) (n : Nat) : State :=
  if s.strState n = 1 then ((s.setFld (F.CAP_S_CTRL_RUN n) 0).setFld (F.CAP_S_STATUS_STATE n) 2).closeFilling n else s

/-- Every Running stream that satisfies `p` moves to Stopping. -/
def State.stopStreams (s : State) (p : Nat → Bool) : State := s.over ((List.range 64).filter p) (fun u n => u.stopStream n)

/-- Read-only begins (R263, R430). -/
def State.beginReadOnly (s : State) : State :=
  if s.on F.FTL_STATUS_READ_ONLY then s
  else (((s.setFld F.FTL_STATUS_READ_ONLY 1).critical 3).ftlCause 6).stopStreams (fun _ => true)

/-- The spare after a change: FTL.SPARE, SPARE_LOW (R262, R264), and the end of read-only (R264). -/
def State.checkSpare (s : State) : State :=
  let s := s.updSpare
  let r : Int := s.fld F.FTL_SPARE_RESERVE_BLK
  let sp := s.spare
  let s := if sp < 2 * r then (if s.on F.FTL_STATUS_SPARE_LOW then s else ((s.setFld F.FTL_STATUS_SPARE_LOW 1).critical 0).ftlCause 5)
    else if s.on F.FTL_STATUS_SPARE_LOW then (s.setFld F.FTL_STATUS_SPARE_LOW 0).uncritical 0 else s
  if s.on F.FTL_STATUS_READ_ONLY ∧ !s.on F.PST_STATUS_WORN ∧ r + (ceilDiv s.blocksInService 1000 : Nat) ≤ sp then
    ((s.setFld F.FTL_STATUS_READ_ONLY 0).uncritical 3).ftlCause 7
  else s

/-- The spare after a retirement: one that leaves it below the reserve makes the part read-only (R263). -/
def State.checkRetired (s : State) : State :=
  let t := s.checkSpare
  if t.spare < (t.fld F.FTL_SPARE_RESERVE_BLK : Int) then t.beginReadOnly else t

/-! ## Group status -/

/-- A group block is the provisional flash pool's (R257): taken by it, or programmed for it. -/
def State.poolGb (s : State) (k : Nat) : Bool :=
  s.ftl.poolSet.contains k || ((s.gb k).use == .pool && (s.gb k).state != .free)

/-- Every erase count of a group's blocks in service; pool blocks are left out while WL is 0 (R257). -/
def State.groupCounts (s : State) (g : Nat) (all : Bool) : List Nat :=
  (s.gbList g).flatMap (fun b =>
    if all || s.on F.CAP_SPAN_POOL_WL || !s.poolGb (gbKey g b) then (s.usable g b).map (fun i => s.eraseCount g i b) else [])

/-- The spread of a group (R257). -/
def State.spread (s : State) (g : Nat) : Nat := let l := s.groupCounts g false; l.foldl max 0 - least l

/-- FTL.Gg_STAT brought up to date. -/
def State.updGroup (s : State) (g : Nat) : State :=
  s.setFld (F.FTL_G_STAT_FREE_GB g) (s.freeGbs g).length
    |>.setFld (F.FTL_G_STAT_TOTAL_GB g) (s.gbList g).length
    |>.setFld (F.FTL_G_STAT_DIES g) ((List.range 64).filter (fun i => (s.dieProfile g i).isSome)).length
    |>.setFld (F.FTL_G_STAT_SPREAD g) (min (2 ^ 24 - 1) (s.spread g))

/-- FTL.Gg_STAT of every group. -/
def State.updGroups (s : State) : State := s.over (List.range 16) (fun u g => u.updGroup g)

/-- FTL.ERASE brought up to date. -/
def State.updErase (s : State) : State :=
  let l := (List.range 16).flatMap (fun g => s.groupCounts g true)
  (s.setFld F.FTL_ERASE_MAX (l.foldl max 0)).setFld F.FTL_ERASE_MIN (least l)

/-! ## The journal's area (R282, R424) -/

/-- Bytes of the journal area, 176 MiB (R424). -/
def journalArea : Nat := 184549376

/-- Bytes of the records the journal holds. -/
def State.journalBytes (s : State) : Nat := (s.ftl.journal.map (fun r => 16 + r.payloadLen)).foldl (· + ·) 0

/-! ## Sequences (R241) -/

/-- The namespace is authenticated. -/
def State.nsAuth (s : State) (nsid : Nat) : Bool := match s.ns nsid with | some n => n.auth | none => false

/-- `n` values of the write and origin sequence, and the first of them; a block of 2^20 is reserved in the journal before its first
value is used. At 2^60 the streams of authenticated namespaces stop (R400, R404). -/
def State.seqs (s : State) (n : Nat) : State × Nat :=
  let f := s.ftl.nextSeq
  let need := ceilDiv (f + n - s.ftl.reserved) (2 ^ 20)
  let s1 := (List.range need).foldl (fun u _ => (u.journal (.reserve u.ftl.reserved)).setFtl
    { (u.journal (.reserve u.ftl.reserved)).ftl with reserved := u.ftl.reserved + 2 ^ 20 }) s
  let t := (s1.setFtl { s1.ftl with nextSeq := f + n }).setReg R.FTL_WSEQ (BitVec.ofNat 64 (f + n))
  (if f < 2 ^ 60 ∧ 2 ^ 60 ≤ f + n then t.stopStreams (fun m => t.nsAuth (t.fld (F.CAP_S_NS_NSID m))) else t, f)

/-! ## Operations queued at the channel engines (R300) -/

/-- A channel engine. -/
def State.chan (s : State) (c : Nat) : Chan := s.nand.chans.get {} c

/-- A channel engine replaced. -/
def State.setChan (s : State) (c : Nat) (v : Chan) : State :=
  ({ s with nand := { s.nand with chans := s.nand.chans.set {} c v } }).setFld (F.CH_STATUS_QUEUED c) v.ops.length

/-- How long an erase has run, in ns; time spent suspended does not count (R304). -/
def NandOp.ran (o : NandOp) (now : Nat) : Nat := if o.susp then o.since else now - o.since

/-- The profile of die k of channel c lets an erase be suspended. -/
def State.canSuspend (s : State) (c k : Nat) : Bool :=
  match s.dieProfile (c / 4) (16 * (c % 4) + k) with | some p => p.suspend | none => false

/-- The reads of a die that run at once when its erase is suspended: those queued behind no program and no erase but the suspended one
(R301, R304). -/
def earlyReads (k : Nat) : Bool → List NandOp → List NandOp
  | _, [] => []
  | blocked, o :: os =>
    if o.die != k then o :: earlyReads k blocked os
    else if o.kind == .read && !blocked then { o with early := true } :: earlyReads k blocked os
    else o :: earlyReads k (blocked || (o.kind != .read && !o.susp)) os

/-- The erase that runs on a die gives way to the reads queued for it, when it has run long enough and was not suspended too often
(R304). -/
def State.trySuspend (s : State) (c k : Nat) : State :=
  let v := s.chan c
  let ok := fun (o : NandOp) => o.kind == .erase && o.die == k && o.started && !o.susp && s.canSuspend c k
    && decide (bits o.cfg 0 8 * 100000 ≤ o.ran s.time.ftc ∧ o.suspN < bits o.cfg 8 8)
  if v.ops.any ok && v.ops.any (fun o => o.kind == .read && o.die == k) then
    let ops := v.ops.map (fun o => if ok o then { o with susp := true, suspN := o.suspN + 1, since := o.ran s.time.ftc } else o)
    (s.setChan c { v with ops := earlyReads k false ops }).count (R.CH_N_SUSPENDS c) 1
  else s

/-- The engine has room for one more operation of die k: at most 64 in all and 16 of a die (R300). -/
def Chan.room (v : Chan) (k : Nat) : Bool := decide (v.ops.length < 64 ∧ (v.ops.filter (fun o => o.die == k)).length < 16)

/-- An operation enters the engine's queue; a read may suspend the erase that runs on its die. -/
def State.admitOp (s : State) (c : Nat) (o : NandOp) : State :=
  let t := s.setChan c { s.chan c with ops := (s.chan c).ops ++ [{ o with queuedAt := s.time.ftc }] }
  if o.kind = .read then t.trySuspend c o.die else t

/-- An operation queued for die i of group g. Where the engine has no room, or earlier operations of the die wait for it, the translation layer
holds it back. -/
def State.queueOp (s : State) (g i : Nat) (op : NandOp) : State :=
  let c := 4 * g + i / 16
  let v := s.chan c
  let o := { op with die := i % 16 }
  if v.room o.die && !v.backlog.any (fun x => x.die == o.die) then s.admitOp c o
  else s.setChan c { v with backlog := v.backlog ++ [o] }

/-- The oldest operation held back whose die has room, and the others. -/
def nextBack (v : Chan) : List NandOp → Option (NandOp × List NandOp)
  | [] => none
  | o :: os => if v.room o.die then some (o, os) else (nextBack v os).map (fun r => (r.1, o :: r.2))

/-- Operations held back enter the queue once there is room. -/
def State.refill (s : State) (c : Nat) : State :=
  s.over (List.range (s.chan c).backlog.length) (fun u _ => match nextBack (u.chan c) (u.chan c).backlog with
    | some (o, rest) => (u.setChan c { u.chan c with backlog := rest }).admitOp c o
    | none => u)

/-- The same operation queued for each die of a list. -/
def State.queueOps (s : State) (g : Nat) (dies : List Nat) (op : NandOp) : State := s.over dies (fun u i => u.queueOp g i op)

/-- Every operation queued, running or held back at the engines of a group. -/
def State.groupOps (s : State) (g : Nat) : List NandOp :=
  (List.range 4).flatMap (fun j => (s.chan (4 * g + j)).ops ++ (s.chan (4 * g + j)).backlog)

/-! ## Where a data unit lies (R231, R299) -/

/-- The group, the group block and the index of a data unit. -/
def unitGroup (key : Nat) : Nat := key / 2 ^ 46
def unitGb (key : Nat) : Nat := key / 2 ^ 32 % 2 ^ 14
def unitIdx (key : Nat) : Nat := key % 2 ^ 32

/-- The die, of the 64 of a group, that page i of a group block lies on (R231). -/
def State.pageDie (s : State) (g b i : Nat) : Nat := let d := s.dieSet g b; d.getD (i % d.length) 0

/-- The page row of page i of a group block within its NAND blocks (R231). -/
def State.pageRow (s : State) (g b i : Nat) : Nat := i / (s.dieSet g b).length

/-- Planes of a die (R312). -/
def State.planes (s : State) (g i : Nat) : Nat := match s.dieProfile g i with | some p => max 1 p.planes | none => 1

/-- The dies a slot's 64 pages lie on. -/
def State.slotDies (s : State) (loc : Nat) : List Nat :=
  ((List.range 64).map (fun t => s.pageDie (loc / 2 ^ 28) (loc / 2 ^ 14 % 2 ^ 14) (64 * (loc % 2 ^ 14) + t))).foldl addOnce []

/-- The program that page p of a group block begins: rows nw to nw + n − 1 of its die in one multi-plane program (R299); none where the page
belongs to a program begun earlier. -/
def State.pageProgram (s : State) (g b p : Nat) (urgent : Bool) : Option (Nat × NandOp) :=
  let D := (s.dieSet g b).length
  let i := s.pageDie g b p
  let n := s.planes g i
  if s.pageRow g b p % n = 0 then
    some (i, { kind := .program, die := 0, block := b, slc := (s.media (gbKey g b)).slc, urgent := urgent
               units := (List.range n).flatMap (fun j => (List.range 4).map (fun q => unitKey (gbKey g b) (4 * (p + D * j) + q))) })
  else none

/-- The window in use exceeds its limit (R275). -/
def State.overhang (s : State) : Bool := decide (s.fld F.PWR_HU_WIN_LIMIT < s.fld F.PWR_HU_WIN_IN_USE)

/-- The programs that n data units from unit i of a group block on begin are queued (R231, R299). -/
def State.queuePrograms (s : State) (g b i n : Nat) (charged : Bool) : State :=
  s.over (((List.range (ceilDiv (i + n) 4 - ceilDiv i 4)).map (ceilDiv i 4 + ·)).filterMap (fun p => s.pageProgram g b p (charged && s.overhang)))
    (fun u x => u.queueOp g x.1 x.2)

/-- What a media read of a data unit shares with the others of one multi-plane read: group, group block, die, and the rows of one program
(R299). -/
def State.readKey (s : State) (key : Nat) : Nat × Nat × Nat × Nat :=
  let g := unitGroup key
  let b := unitGb key
  let i := s.pageDie g b (unitIdx key / 4)
  (g, b, i, s.pageRow g b (unitIdx key / 4) / s.planes g i)

/-- The media reads of some data units queued at the engines (R300). -/
def State.queueMedia (s : State) (keys : List Nat) (r : Option Reader) : State :=
  s.over ((keys.map s.readKey).foldl addOnce []) (fun u k =>
    u.queueOp k.1 k.2.2.1 { kind := .read, die := 0, block := k.2.1, slc := (s.media (gbKey k.1 k.2.1)).slc
                            units := keys.filter (fun x => s.readKey x == k), reader := r })

/-- A media read that `r` waits for is still to be done. -/
def State.awaiting (s : State) (r : Reader) : Bool :=
  s.nand.chans.any (fun e => e.2.ops.any (fun o => o.reader == some r) || e.2.backlog.any (fun o => o.reader == some r))

/-! ## Group blocks in use (R231 to R233, R244) -/

/-- The group block of a use that is open in a group. -/
def State.openOf (s : State) (g : Nat) (u : GbUse) : Option Nat :=
  (s.ftl.gbs.find? (fun e => e.1 / 2 ^ 14 == g && e.2.state == .open && e.2.use == u)).map (fun e => e.1 % 2 ^ 14)

/-- A use programs in SLC mode (R233). -/
def State.useSlc (s : State) : GbUse → Bool
  | .capture => s.on F.FTL_CFG_CAPTURE_SLC
  | .pool => true
  | .dump => true
  | .general => false
  | .relocation => false

/-- The lowest general handle not in use, of the 2^(32 − U) (R238). -/
def State.freeHandle (s : State) : Option Nat :=
  firstBelow (min (s.ftl.handles.length + 1) (2 ^ (32 - s.ftl.unitBits))) (fun h => (s.ftl.handles.get none h).isNone)

/-- The use holds general data units, so its group block takes a handle. -/
def takesHandle : GbUse → Bool
  | .general => true
  | .relocation => true
  | .dump => true
  | .capture => false
  | .pool => false

/-- Group block b of group g taken into use, with a handle where it holds general units. -/
def State.markOpen (s : State) (g b : Nat) (u : GbUse) : State :=
  let h := if takesHandle u then s.freeHandle else none
  let t := s.setFtl { s.ftl with handles := match h with | some n => s.ftl.handles.set none n (some (gbKey g b)) | none => s.ftl.handles }
  t.setGb (gbKey g b) { state := .open, use := u, handle := h }

/-- Group block b of group g opened for a use: its die set, its pages and its mode are fixed, and its open record is written. -/
def State.openGb (s : State) (g b : Nat) (u : GbUse) : State :=
  let k := gbKey g b
  let slc := s.useSlc u
  let t := s.journal (.opened g b u slc (s.dieSet g b) s.ftl.nextSeq)
  let t := t.setMedia k { dies := s.dieSet g b, pages := s.pages g b false, pagesSlc := s.pages g b true, slc := slc, units := 0 }
  let t := t.setFtl { t.ftl with opens := t.ftl.opens.set 0 g (t.ftl.opens.get 0 g + 1) }
  let t := (t.markOpen g b u).updGroup g
  if (t.freeGbs g).length ≤ t.fld F.FTL_GC_GC_URGENT then t.ftlCause 0 else t

/-- A group block closed: its close record is written. -/
def State.closeGb (s : State) (g b : Nat) : State :=
  (s.journal (.closed g b (ceilDiv (s.media (gbKey g b)).units 4))).setGb (gbKey g b)
    { s.gb (gbKey g b) with state := .closed, closed := s.ftl.journalPos }

/-- `n` pad units, of kind 06h, programmed where a group block stands (R232). What they hold the manual does not say. -/
def State.padUnits (s : State) (g b n : Nat) : State :=
  let k := gbKey g b
  let i := (s.media k).units
  let w := s.seqs n
  let pads := (List.range n).foldl (fun (t : Tbl (Option FUnit)) j =>
    t.set none (unitKey k (i + j)) (some { nsid := 0, kind := 6, laddr := 0, wseq := w.2 + j, origin := w.2 + j, data := [] })) w.1.ftl.units
  let t := w.1.setFtl { w.1.ftl with units := pads }
  (t.setMedia k { t.media k with units := i + n }).queuePrograms g b i n false

/-- A group block without room for what comes next: the rest of its pages take pad units, and it closes (R232). -/
def State.fillGb (s : State) (g b : Nat) : State := (s.padUnits g b (4 * s.gbPages g b - (s.media (gbKey g b)).units)).closeGb g b

/-- The group block of a use that data of `units` units, aligned to `align`, can go to: the open one, filled and closed first where it lacks the
room, or a free one with the lowest mean erase count. At GC_URGENT or below, only relocation and the dump take one (R249); a general group block
needs a free handle (R238). -/
def State.roomFor (s : State) (g : Nat) (u : GbUse) (units align : Nat) : State × Option Nat :=
  let s1 := match s.openOf g u with
    | some b => if ceilDiv (s.media (gbKey g b)).units align * align + units ≤ s.gbUnits g b then s else s.fillGb g b
    | none => s
  match s1.openOf g u with
  | some b => (s1, some b)
  | none =>
    if (u ≠ .relocation ∧ u ≠ .dump ∧ (s1.freeGbs g).length ≤ s1.fld F.FTL_GC_GC_URGENT) ∨ (takesHandle u ∧ s1.freeHandle.isNone) then (s1, none)
    else match s1.pickWear g false (s1.freeFor g u) with
      | none => (s1, none)
      | some b => (s1.openGb g b u, some b)

/-- The next slot of a use's group block taken (R232): its location. Pages before it that hold no whole slot take pad units, since a group block is
programmed in ascending page index (R231). -/
def State.takeSlot (s : State) (g : Nat) (u : GbUse) : State × Option Nat :=
  match s.roomFor g u 256 256 with
  | (t, some b) =>
    let k := gbKey g b
    let j := ceilDiv (t.media k).units 256
    let t := if (t.media k).units % 256 = 0 then t else t.padUnits g b (256 * j - (t.media k).units)
    (t.setMedia k { t.media k with units := 256 * (j + 1) }, some (slotKey k j))
  | (t, none) => (t, none)

/-- The next data unit of a use's group block taken: its key. -/
def State.takeUnit (s : State) (g : Nat) (u : GbUse) : State × Option Nat :=
  match s.roomFor g u 1 1 with
  | (t, some b) =>
    let k := gbKey g b
    let i := (t.media k).units
    (t.setMedia k { t.media k with units := i + 1 }, some (unitKey k i))
  | (t, none) => (t, none)

/-- The slots of a group whose clutch still waits to be programmed. -/
def State.slotsWaiting (s : State) (g : Nat) : Nat :=
  ((((s.groupOps g).filter (fun o => o.kind == .program)).flatMap (fun o => o.units.map (· / 256))).foldl addOnce []
    |>.filter (fun j => (s.ftl.clutches.get none (slotKey (j / 2 ^ 24) (j % 2 ^ 24))).isSome)).length

/-- The group an extent of index x goes to (R244): of its quadrant, the one with the fewest slots waiting to be programmed, the lower number on
ties. A group without any group block is none of them (DESIGN CHOICE, log entry 89). -/
def State.groupFor (s : State) (x : Nat) : Option Nat :=
  let q := x % s.part.stacks
  match ((List.range 4).map (4 * q + ·)).filter (fun g => !(s.gbList g).isEmpty) with
  | [] => none
  | g :: t => some (t.foldl (fun m h => if s.slotsWaiting h < s.slotsWaiting m then h else m) g)

/-- The group general block lba goes to (R245). -/
def State.generalGroup (s : State) (lba : Nat) : Nat :=
  let x := lba / 256
  let S := s.part.stacks
  4 * (x % S) + (x / S) % 4

/-! ## Key pages on the data path (R395, R403, R404, R417) -/

/-- A key page holds a key. -/
def State.pageLoaded (s : State) (k : Nat) : Bool := s.fld (F.CPH_KP_STATE_STATE k) == 1

/-- The first datum that needs a page Awaiting key since it left Loaded sets KEY_MISSING (R417). -/
def State.keyMissing (s : State) (k : Nat) : State :=
  if s.cph.missing.contains k then s else ({ s with cph := { s.cph with missing := s.cph.missing ++ [k] } }).cphCause 4

/-- A GCM page has fewer than 2^32 invocations left (R404): it becomes Exhausted and the streams of its namespaces stop. -/
def State.checkExhausted (s : State) (k : Nat) : State :=
  if 2 ^ 48 - s.fld (F.CPH_KP_INVOC_COUNT k) < 2 ^ 32 ∧ !s.on (F.CPH_KP_STATE_EXHAUSTED k) then
    (((s.setFld (F.CPH_KP_STATE_EXHAUSTED k) 1).cphCause 0).stopStreams (fun n => match s.ns (s.fld (F.CAP_S_NS_NSID n)) with
      | some v => v.keyPage == some k
      | none => false))
  else s

/-- The entry of a key page in the GCM counter reservation area is rewritten (R415, R426). -/
def State.gcmWrite (s : State) (k : Nat) : State :=
  let e : GcmEntry := { state := s.fld (F.CPH_KP_STATE_STATE k), kind := s.fld (F.CPH_KP_STATE_KIND k), owner := s.fld (F.CPH_KP_STATE_OWNER k)
                        exhausted := s.fld (F.CPH_KP_STATE_EXHAUSTED k), kcv := s.fld (F.CPH_KP_STATE_KCV k), keyId := s.fld (F.CPH_KP_KEYID_KEYID k)
                        limit := s.cph.limits.get 0 k }
  { s with pst := { s.pst with gcm := s.pst.gcm.set none k (some e) } }

/-- `n` invocations of a GCM page counted; the reserved limit is advanced 2^20 at a time before the count reaches it (R403). -/
def State.invoke (s : State) (k n : Nat) : State :=
  let old := s.fld (F.CPH_KP_INVOC_COUNT k)
  let new := old + n
  let lim := s.cph.limits.get 0 k
  let lim' := if new < lim then lim else lim + (new - lim + 2 ^ 20) / 2 ^ 20 * 2 ^ 20
  let t := { s with cph := { s.cph with limits := s.cph.limits.set 0 k lim' } }
  let t := (if lim' = lim then t else t.gcmWrite k).setFld (F.CPH_KP_INVOC_COUNT k) new
  (if old < 2 ^ 47 ∧ 2 ^ 47 ≤ new then t.cphCause 1 else t).checkExhausted k

/-- The default key page of a namespace. -/
def State.nsPage (s : State) (nsid : Nat) : Option Nat := match s.ns nsid with | some n => n.keyPage | none => none

/-- Data of a namespace can be enciphered: it has no key page, or its page is Loaded. -/
def State.canEncipher (s : State) (nsid : Nat) : Bool := match s.nsPage nsid with | some k => s.pageLoaded k | none => true

/-! ## The capture map (R234 to R236) -/

/-- A capture map entry. -/
def State.cap1 (s : State) (nsid x : Nat) : Nat := (s.ftl.capMap.get capNone (extKey nsid x)).toNat
def State.capGen (s : State) (nsid x : Nat) : Nat := bits (s.cap1 nsid x) 48 16
def State.capLanded (s : State) (nsid x : Nat) : Bool := bit (s.cap1 nsid x) 47
def State.capAuth (s : State) (nsid x : Nat) : Bool := bit (s.cap1 nsid x) 46
def State.capTadpole (s : State) (nsid x : Nat) : Bool := bit (s.cap1 nsid x) 45
def State.capLoc (s : State) (nsid x : Nat) : Nat := bits (s.cap1 nsid x) 0 32

/-- The generation after `g` (R236). -/
def nextGen (g : Nat) : Nat := if 0xFFFF ≤ g then 1 else g + 1

/-- The capture map entry of an extent changed; its generation advances. -/
def State.setCap (s : State) (nsid x : Nat) (landed auth tadpole slc : Bool) (page loc : Nat) : State :=
  let v := nextGen (s.capGen nsid x) * 2 ^ 48 + ofBool landed * 2 ^ 47 + ofBool auth * 2 ^ 46 + ofBool tadpole * 2 ^ 45 + ofBool slc * 2 ^ 44
    + page % 256 * 2 ^ 32 + loc % 2 ^ 32
  s.setFtl { s.ftl with capMap := s.ftl.capMap.set capNone (extKey nsid x) (BitVec.ofNat 64 v) }

/-- The entry of an extent that has no landed content any more: LANDED 0, no flash, its generation advanced (R234, R236). -/
def State.clearCap (s : State) (nsid x : Nat) : State := s.setCap nsid x false false false false 0 noLoc

/-! ## The gap table (The maps, R88, R240) -/

/-- The gap table entry of an extent. -/
def State.gap (s : State) (nsid x : Nat) : Option GapRec := s.ftl.gaps.get none (extKey nsid x)

/-- The gap table entry of an extent replaced, in HBM. -/
def State.setGap (s : State) (nsid x : Nat) (v : Option GapRec) : State :=
  s.setFtl { s.ftl with gaps := s.ftl.gaps.set none (extKey nsid x) v }

/-- Two bits a block, block 0 in bits [1:0] of the first byte (R88). -/
def stateBytes (st : Tbl Nat) : Bytes :=
  (List.range 64).map (fun i => byteOf (st.get 0 (4 * i) + 4 * st.get 0 (4 * i + 1) + 16 * st.get 0 (4 * i + 2) + 64 * st.get 0 (4 * i + 3)))

/-- Blocks in a state. -/
def countState (st : Tbl Nat) (v : Nat) : Nat := (st.filter (fun e => e.2 == v)).length

/-- The record of GAP MAP READ (R88). -/
def GapRec.bytes (g : GapRec) (x : Nat) : Bytes :=
  leBytes 8 x ++ [byteOf g.stream, byteOf g.flags] ++ leBytes 2 (countState g.states 2) ++ leBytes 2 (countState g.states 1) ++ zeros 2
    ++ leBytes 8 g.first.toNat ++ leBytes 8 g.last.toNat ++ stateBytes g.states

/-- The 128-byte gap table entry of an extent: the record of R88, the fill pattern, zeros; zeros where it has none. -/
def State.gapEntry (s : State) (nsid x : Nat) : Bytes :=
  match s.gap nsid x with
  | some g => fit 128 (g.bytes x ++ leBytes 8 g.fill.toNat)
  | none => zeros 128

/-- The entry that 128 bytes of a gap table unit hold. -/
def gapOf (d : Bytes) : Option GapRec :=
  if d.all (· == 0) then none
  else some { stream := Bytes.le d 8 1, flags := Bytes.le d 9 1, first := BitVec.ofNat 64 (Bytes.le d 16 8), last := BitVec.ofNat 64 (Bytes.le d 24 8)
              states := (List.range 256).foldl (fun (t : Tbl Nat) b => t.set 0 b (bits (Bytes.le d (32 + b / 4) 1) (2 * (b % 4)) 2)) []
              fill := BitVec.ofNat 64 (Bytes.le d 96 8) }

/-- A gap table entry of a fill extent: every block missing (R235). -/
def GapRec.isFill (g : GapRec) : Bool := countState g.states 2 == 256

/-- The structure index of the gap table unit that holds an extent's entry, 32 entries to a unit. How the manual numbers them it does not say
(DESIGN CHOICE, log entry 26). -/
def gapIndex (nsid x : Nat) : Nat := nsid * 2 ^ 27 + x / 32

/-- A clutch. -/
def State.clutch (s : State) (loc : Nat) : Option Clutch := s.ftl.clutches.get none loc

/-- A clutch replaced. -/
def State.setClutch (s : State) (loc : Nat) (v : Option Clutch) : State :=
  s.setFtl { s.ftl with clutches := s.ftl.clutches.set none loc v }

/-- Units of a clutch programmed as lost (R255, R417), and units whose segment goes on failing its tag. -/
def State.loseClutch (s : State) (loc : Nat) (lost bad : List Nat) : State :=
  match s.clutch loc with
  | some c => s.setClutch loc (some { c with lostUnits := lost, badSegs := (bad.map (· / 16)).foldl addOnce [] })
  | none => s

/-- The blocks of an extent that host Writes opened that are lost: all where its key was destroyed. -/
def CapWrite.lostList (w : CapWrite) (all : Bool) : List Nat := if w.lost || all then List.range 256 else w.lostUnits

/-- Block states coded as R88: present 0, partial 1, missing 2. -/
def statesOf (counts : Tbl Nat) : Tbl Nat :=
  (List.range 256).foldl (fun t b =>
    let c := counts.get 0 b
    t.set 0 b (if c = 0 then 2 else if c < 4096 then 1 else 0)) []

/-- An extent whose blocks `us` come out of HBM poisoned: they are programmed with the fill pattern, and missing (R352). -/
def Extent.spoil (e : Extent) (us : List Nat) : Extent :=
  { e with bytes := e.bytes.filter (fun c => !us.contains (c.1 / 4096)), counts := e.counts.filter (fun c => !us.contains c.1) }

/-- The same of an extent that host Writes opened. -/
def CapWrite.spoil (w : CapWrite) (us : List Nat) : CapWrite :=
  { w with bytes := w.bytes.filter (fun c => !us.contains (c.1 / 4096)), states := us.foldl (fun t b => t.set 0 b 2) w.states }

/-- Every block missing. -/
def allMissing : Tbl Nat := statesOf []

/-- The gap record of a stream's extent (R88, R553). -/
def Extent.gapRec (e : Extent) (stream : Nat) (tadpole : Bool) : GapRec :=
  let st := if e.opened then statesOf e.counts else allMissing
  { stream := stream
    flags := ofBool st.isEmpty + 2 * ofBool (e.byOther || !e.opened) + 4 * ofBool (e.stamps.isSome && e.opened) + 8 * ofBool tadpole
    states := st
    first := match e.stamps with | some p => p.1 | none => 0
    last := match e.stamps with | some p => p.2 | none => 0
    fill := e.fill }

/-- The group of the dump an extent goes to: that of R244, else one of its quadrant, else any, that has a free group block (R278). -/
def State.dumpGroup (s : State) (x : Nat) : Option Nat :=
  let q := x % s.part.stacks
  ((s.groupFor x).toList ++ (List.range 4).map (4 * q + ·) ++ List.range 16).find? (fun g => (s.roomFor g .dump 256 256).2.isSome)

/-- An extent's 256 units programmed into the next slot of a use's group block (R244): one origin sequence, 256 write sequences, the
namespace's key page, 16 invocations where it is authenticated. The programs are queued at the slot's dies. None where its group cannot take
it, or where no origin sequence is left for an authenticated extent (R400). -/
def State.programExtent (s : State) (nsid x : Nat) (u : GbUse) (bytes : Mem) (fill : W64) (states : Tbl Nat) (pool : Bool) (handle : Nat)
    (charged : Bool) : State × Option Nat :=
  match (if s.nsAuth nsid ∧ 2 ^ 60 ≤ s.ftl.nextSeq then none else if u = .dump then s.dumpGroup x else s.groupFor x) with
  | none => (s, none)
  | some g =>
    match s.takeSlot g u with
    | (t, none) => (t, none)
    | (t, some loc) =>
      let o := t.seqs 1
      let w := o.1.seqs 256
      let page := s.nsPage nsid
      let cl : Clutch := { nsid := nsid, ext := x, pool := pool, auth := s.nsAuth nsid, keyPage := page, origin := o.2, wseq := w.2
                           key := (match page with | some k => s.cph.keys.get [] k | none => []), handle := handle, bytes := bytes, fill := fill, states := states }
      let t := w.1.setClutch loc (some cl)
      let t := match page with
        | some k => (if cl.auth then t.invoke k 16 else t).count (R.CPH_L_ENC_BYTES (x % s.part.stacks)) extBytes
        | none => t
      (t.queuePrograms g (loc / 2 ^ 14 % 2 ^ 14) (256 * (loc % 2 ^ 14)) 256 charged, some loc)

/-! ## General data (R237, R238) -/

/-- The general map entry of a block: the unit number, or 0xFFFFFFFF for unmapped. -/
def State.gen1 (s : State) (nsid lba : Nat) : Nat := (s.ftl.gens.get 0xFFFFFFFF (lbaKey nsid lba)).toNat

/-- The general map entry of a block set. -/
def State.setGen (s : State) (nsid lba u : Nat) : State :=
  s.setFtl { s.ftl with gens := s.ftl.gens.set 0xFFFFFFFF (lbaKey nsid lba) (BitVec.ofNat 32 u) }

/-- The unit number of a unit: its group block's handle above its index (R237). -/
def State.unitNo (s : State) (key : Nat) : Nat := ((s.gb (key / 2 ^ 32)).handle.getD 0) * 2 ^ s.ftl.unitBits + key % 2 ^ 32

/-- The key of the unit a unit number names. -/
def State.unitOf (s : State) (u : Nat) : Option Nat :=
  (s.ftl.handles.get none (u / 2 ^ s.ftl.unitBits)).map (fun k => unitKey k (u % 2 ^ s.ftl.unitBits))

/-- A data unit. -/
def State.unit (s : State) (key : Nat) : Option FUnit := s.ftl.units.get none key

/-- A data unit replaced. -/
def State.setUnit (s : State) (key : Nat) (v : Option FUnit) : State :=
  s.setFtl { s.ftl with units := s.ftl.units.set none key v }

/-! ## Checkpoint and gap table units (R240, R282) -/

/-- The place of a unit of kind 04h or 05h by its structure index. -/
def placeKey (kind idx : Nat) : Nat := kind * 2 ^ 64 + idx

/-- Where the newest unit of a kind and structure index lies. -/
def State.metaAt (s : State) (kind idx : Nat) : Option Nat := match s.ftl.placed.get 0 (placeKey kind idx) with | 0 => none | n + 1 => some n

/-- The newest unit of a kind and structure index lies at `key`. -/
def State.setMetaAt (s : State) (kind idx key : Nat) : State :=
  s.setFtl { s.ftl with placed := s.ftl.placed.set 0 (placeKey kind idx) (key + 1) }

/-- The groups a unit of a structure is tried in: the use table of R233 names no use for kinds 04h and 05h, so they go where deallocation
records go, the units of one structure in turn over the groups (DESIGN CHOICE, log entry 26). -/
def State.metaGroups (s : State) (idx : Nat) : List Nat :=
  let n := 4 * s.part.stacks
  (List.range n).map (fun i => (idx + i) % n)

/-- The first of some groups whose general group block takes one more unit, and the unit's key. -/
def State.takeIn1 (s : State) : List Nat → State × Option Nat
  | [] => (s, none)
  | g :: gs => match s.takeUnit g .general with | (t, some key) => (t, some key) | (_, none) => s.takeIn1 gs

/-- A unit of kind 04h or 05h programmed; false where no general group block takes it, and nothing changes. -/
def State.placeMeta (s : State) (kind idx : Nat) (data : Bytes) : State × Bool :=
  match s.takeIn1 (s.metaGroups idx) with
  | (_, none) => (s, false)
  | (t, some key) =>
    let o := t.seqs 2
    let u := (o.1.setUnit key (some { nsid := 0, kind := kind, laddr := idx, origin := o.2, wseq := o.2 + 1, data := data })).setMetaAt kind idx key
    (u.queuePrograms (unitGroup key) (unitGb key) (unitIdx key) 1 false, true)

/-- The gap table unit that holds an extent's entry written to flash. Where no general group block takes it, the entry waits in HBM for the next
write of the unit (DESIGN CHOICE, log entry 26). -/
def State.writeGap (s : State) (nsid x : Nat) : State :=
  (s.placeMeta 5 (gapIndex nsid x) ((List.range 32).flatMap (fun j => s.gapEntry nsid (32 * (x / 32) + j)))).1

/-- The gap record and then the map entry of an extent set to a slot just programmed, or to a fill extent (R91, R235, R244). -/
def State.mapExtent (s : State) (nsid x loc : Nat) (slc tadpole : Bool) (g : GapRec) : State :=
  (((s.setGap nsid x (some g)).writeGap nsid x).setCap nsid x true (s.nsAuth nsid && loc != noLoc) tadpole slc
    (if loc = noLoc then 0 else (s.nsPage nsid).getD 0) loc).checkSpare

/-! ## What a block holds (R89, R203, R235) -/

/-- The bytes of block b of an extent's content: those listed, the fill pattern elsewhere. -/
def blockBytes (m : Mem) (fill : W64) (b : Nat) : Bytes :=
  Mem.readD (fun a => byteOf (fill.toNat / 256 ^ (a % 8))) m (b * 4096) 4096

/-- Block b of a clutch. A segment with a lost unit fails its tag (R402, R255). -/
def Clutch.blk (c : Clutch) (b : Nat) : Blk :=
  { bytes := blockBytes c.bytes c.fill b
    page := c.keyPage
    key := c.key
    auth := c.auth
    lost := c.lostUnits.contains b
    bad := c.auth && (c.badSegs.contains (b / 16) || c.lostUnits.any (fun u => u / 16 == b / 16))
    state := c.states.get 0 b }

/-- Block lba of a capture namespace as last landed, cached writes of the host first (R89, R203, R246). -/
def State.capBlk (s : State) (nsid lba : Nat) : Blk :=
  let x := lba / 256
  let b := lba % 256
  match s.ftl.capWrites.get none (extKey nsid x) with
  | some w => { bytes := blockBytes w.bytes w.fill b, lost := w.lostUnits.contains b, bad := w.badUnits.contains b
                state := w.states.get 0 b, hbm := true }
  | none =>
    if s.capLanded nsid x then
      if s.capLoc nsid x = noLoc then
        match s.gap nsid x with
        | some g => { bytes := blockBytes [] g.fill b, state := g.states.get 0 b }
        | none => { bytes := zeros 4096, state := 2 }
      else match s.clutch (s.capLoc nsid x) with
        | some c => c.blk b
        | none => { bytes := zeros 4096, lost := true }
    else { bytes := zeros 4096, state := 3 }

/-- Block lba of a general namespace: the write buffer's copy, else the mapped unit, else zeros (R203, R237). -/
def State.genBlk (s : State) (nsid lba : Nat) : Blk :=
  match s.ftl.wbuf.find? (fun w => w.nsid == nsid && w.lba == lba && w.dealloc == 0) with
  | some w => { bytes := w.data, hbm := true }
  | none =>
    let u := s.gen1 nsid lba
    if u = noLoc then { bytes := zeros 4096 }
    else match (s.unitOf u).bind s.unit with
      | some f => { bytes := f.data, page := f.keyPage, key := f.key, lost := f.lost }
      | none => { bytes := zeros 4096, lost := true }

/-- A block of a namespace. -/
def State.blk (s : State) (nsid lba : Nat) : Blk := if s.isCapture nsid then s.capBlk nsid lba else s.genBlk nsid lba

end Sys2Proof.Machine
end

