-- ==== Sys2Proof/Machine/Persist.lean ====
section
/-! DEFINITION. The persistence die and the code flash (Persistence Die and Code Flash). -/

namespace Sys2Proof.Machine

/-! ## Regions of the persistence die (R424) -/

/-- Bytes of the persistence die (R421). -/
def pstBytes : Nat := 2 ^ 30

/-- The host region (R424). -/
def pstHost : Nat := 0x38000000

/-- A reserved region: it reads zero to every DMA channel and ignores its writes. -/
def pstReserved (a : Nat) : Bool := decide ((0x30000 ≤ a ∧ a < 0x40000) ∨ (0x80000 ≤ a ∧ a < 0x1000000))

/-- The 64 bytes of an entry of the GCM counter reservation area (R426). -/
def GcmEntry.bytes (e : GcmEntry) : Bytes :=
  let head := [byteOf e.state, byteOf e.kind, byteOf e.owner, byteOf e.exhausted] ++ leBytes 3 e.kcv ++ [0] ++ leBytes 8 e.keyId ++ leBytes 8 e.limit
    ++ zeros 36
  head ++ leBytes 4 (crc32c head).toNat

/-- Entry `k` of the GCM counter reservation area; one never written is that of an Empty page (PRESUMED, log entry 48). -/
def State.gcmEntry (s : State) (k : Nat) : Bytes := ((s.pst.gcm.get none k).getD {}).bytes

/-- A slot of `n` lines that holds a record: its bytes, zeros, and the valid mark in the last 4 bytes (R456). -/
def Record.slot (r : Record) (n : Nat) : Bytes := fit (64 * n - 4) r.bytes ++ leBytes 4 (crc32c r.bytes).toNat

/-- A byte of the circulating area: that of the record whose slot holds its line (R456, R459). -/
def Evt.circByte (e : Evt) (a : Nat) : Byte :=
  match e.circ.find? (fun r => r.overlaps (a / 64) (a / 64 + 1)) with
  | some r => (r.slot (recLines r.len)).getD (a - 64 * r.line) 0
  | none => 0

/-- A byte of the fixed area: slot sequence − 1, two lines a slot (R458). -/
def Evt.fixedByte (e : Evt) (a : Nat) : Byte :=
  match e.fixed.find? (fun r => r.seq == a / 128 + 1) with
  | some r => (r.slot 2).getD (a % 128) 0
  | none => 0

/-- The use of a group block as R233 lists the uses (PRESUMED: the rule gives no codes). -/
def GbUse.code : GbUse → Nat
  | .capture => 0 | .general => 1 | .relocation => 2 | .pool => 3 | .dump => 4

/-- The type of a journal record (R283). -/
def JRec.type : JRec → Nat
  | .checkpoint _ _ _ _ _ => 1
  | .opened _ _ _ _ _ _ => 2
  | .closed _ _ _ => 3
  | .eraseIntent _ _ _ _ _ _ => 4
  | .moved _ _ => 5
  | .retired _ _ _ _ => 6
  | .reserve _ => 7
  | .commit _ _ _ _ _ _ => 8
  | .discard _ _ => 9
  | .namespaceOp _ _ _ _ => 10
  | .dump _ _ => 11
  | .powerOn _ _ => 12

/-- The payload of a journal record (R283). The codes of use, mode, cause, operation, kind, medium and reason follow the order in which the rule
lists them (PRESUMED). -/
def JRec.payload : JRec → Bytes
  | .checkpoint g b p w u => leBytes 1 g ++ leBytes 2 b ++ leBytes 4 p ++ leBytes 8 w ++ leBytes 4 u
  | .opened g b u slc ds w =>
    leBytes 1 g ++ leBytes 2 b ++ leBytes 1 u.code ++ leBytes 1 (ofBool slc) ++ leBytes 8 ((ds.map (fun d => 2 ^ d)).foldl (· + ·) 0) ++ leBytes 8 w
  | .closed g b n => leBytes 1 g ++ leBytes 2 b ++ leBytes 4 n
  | .eraseIntent g v r first last n => leBytes 1 g ++ leBytes 2 v ++ leBytes 2 r ++ leBytes 4 first ++ leBytes 4 last ++ leBytes 4 n
  | .moved g v => leBytes 1 g ++ leBytes 2 v
  | .retired g d b c => leBytes 1 g ++ leBytes 1 d ++ leBytes 2 b ++ leBytes 1 c
  | .reserve v => leBytes 8 v
  | .commit h n f e pool o => leBytes 4 h ++ leBytes 4 n ++ leBytes 4 f ++ leBytes 4 e ++ leBytes 1 (ofBool pool) ++ leBytes 8 o
  | .discard h n => leBytes 4 h ++ leBytes 4 n
  | .namespaceOp n o k b => leBytes 4 n ++ leBytes 1 o ++ leBytes 1 k ++ leBytes 8 b
  | .dump u v => leBytes 8 u ++ leBytes 1 (ofBool v)
  | .powerOn c t => leBytes 4 c ++ leBytes 8 t

/-- The bytes of a journal record at position `p`: length, type, CRC-32C of the record with this field zero, position, payload (R283). -/
def JRec.bytes (r : JRec) (p : Nat) : Bytes :=
  let pre := leBytes 2 (16 + r.payloadLen) ++ leBytes 2 r.type
  let post := leBytes 8 p ++ r.payload
  pre ++ leBytes 4 (crc32c (pre ++ zeros 4 ++ post)).toNat ++ post

/-- The newest byte of the journal that lies at offset `a` of its area, among the records from position `p` on; `sz` is the area's size. -/
def journalByte (sz a : Nat) : Nat → List JRec → Option Byte
  | _, [] => none
  | p, r :: rest =>
    let n := 16 + r.payloadLen
    match journalByte sz a (p + n) rest with
    | some b => some b
    | none => if (a + sz - p % sz) % sz < n then (r.bytes p)[(a + sz - p % sz) % sz]? else none

/-- The entry in slot `k` of the ledger area, zeros where none stands (R280, R427). -/
def State.ledgerEntry (s : State) (k : Nat) : Bytes :=
  match s.ftl.ledger.find? (fun e => e.slot == k) with
  | some e => leBytes 4 e.nsid ++ leBytes 4 e.count ++ leBytes 8 e.slba ++ leBytes 8 e.origin ++ leBytes 1 e.lane ++ leBytes 1 e.tag ++ zeros 6
  | none => zeros 32

/-- The entry of the span table a descriptor has (R284). -/
def State.spanRow (s : State) (k : Nat) : SpanRow :=
  { handle := s.spHandle k, state := s.spState k, medium := s.fld (F.CAP_SP_MEDIUM k), stream := s.fld (F.CAP_SP_STREAM k)
    nsid := s.fld (F.CAP_SP_NSID k), first := s.spFirst k, exts := s.fld (F.CAP_SP_EXT_COUNT k), fixed := s.spState k != 1
    origin := match s.span k with | some v => v.origin | none => 0 }

/-- The span table (R284): as the descriptors stand, and before a restart has restored them as they stood. -/
def State.spanTable (s : State) : Tbl (Option SpanRow) := s.spansUsed.foldl (fun t k => t.set none k (some (s.spanRow k))) s.ftl.spanTab

/-- The 64 bytes of a span table entry: the fields in the order of R284, which gives no offsets (PRESUMED, log entry 48). -/
def SpanRow.bytes (r : SpanRow) : Bytes :=
  fit 64 (leBytes 4 r.handle ++ [byteOf r.state, byteOf r.medium, byteOf r.stream, byteOf (ofBool r.fixed)] ++ leBytes 4 r.nsid ++ leBytes 4 r.first
    ++ leBytes 4 r.exts ++ zeros 4 ++ leBytes 8 r.origin)

/-- A byte of the span table area. -/
def State.spanByte (s : State) (a : Nat) : Byte :=
  match s.spanTable.get none (a / 64) with | some r => r.bytes.getD (a % 64) 0 | none => 0

/-- The byte of the die at `a`: the regions whose content the rules lay out are read from what the part holds; the host region and what
PST_LINE_WRITE wrote read as written; the rest of the firmware's regions, whose layout no rule gives, read as free values. -/
def State.pstByte (s : State) (a : Nat) : Byte :=
  if pstReserved a then 0
  else if 0x20000 ≤ a ∧ a < 0x30000 then (s.gcmEntry (bits a 6 8)).getD (a % 64) 0
  else if 0x40000 ≤ a ∧ a < 0x80000 then s.spanByte (a - 0x40000)
  else if 0x1000000 ≤ a ∧ a < 0x1800000 then s.evt.fixedByte (a - 0x1000000)
  else if 0x1800000 ≤ a ∧ a < 0x5000000 then s.evt.circByte (a - 0x1800000)
  else if 0x10000000 ≤ a ∧ a < 0x30000000 then (s.ledgerEntry ((a - 0x10000000) / 32)).getD (a % 32) 0
  else match (if 0x5000000 ≤ a ∧ a < 0x10000000 then
      journalByte journalArea (a - 0x5000000) (s.ftl.journalPos - s.journalBytes) s.ftl.journal
    else s.pst.mem.find a) with
    | some b => b
    | none => if pstHost ≤ a then 0 else Config.freeByte (s.free + a)

/-- `n` bytes of the die from `a` on. -/
def State.pstRead (s : State) (a n : Nat) : Bytes := (List.range n).map (fun i => s.pstByte (a + i))

/-- Bytes stored in the die. The host region lists no zero byte, so its unlisted bytes read zero. -/
def State.pstStore (s : State) (a : Nat) (bs : Bytes) : State :=
  { s with pst := { s.pst with mem := if pstHost ≤ a then s.pst.mem.write a bs else s.pst.mem.putAll a bs } }

/-! ## Line writes (R428 to R430) -/

/-- A write fails with no spare left: the part acts read-only (R430). -/
def State.pstWorn (s : State) : State := ((s.setFld F.PST_STATUS_WORN 1).pstCause 2).beginReadOnly

/-- A line is remapped to the next spare line (R429, R430). -/
def State.pstRemap (s : State) (line : Nat) : State :=
  let left := s.fld F.PST_STATUS_SPARE_LEFT - 1
  let t := (s.setFld F.PST_STATUS_SPARE_LEFT left).count R.PST_REMAPPED 1
  let t := { t with pst := { t.pst with remap := addOnce t.pst.remap line } }
  let t := t.pstCause 0
  if left < 33554 ∧ !t.on F.PST_STATUS_LOW then ((t.setFld F.PST_STATUS_LOW 1).pstCause 1).critical 2 else t

/-- PST_LINE_WRITE: a write of one line, the retries its verify took, and whether it verified within 7 of them (R421, R428 to R430). -/
def execPstLineWrite (line : Nat) (data : Bytes) (retries : Nat) (ok : Bool) (s : State) : Res :=
  if s.power.phase = .run ∧ line < 16777216 ∧ data.length = 64 then
    let t := (s.count R.PST_WRITES 1).count R.PST_RETRIES (min 7 retries)
    if ok ∧ retries < max 1 (s.fld F.PST_CFG_REMAP_AT) then .next (t.pstStore (64 * line) data)
    else if s.fld F.PST_STATUS_SPARE_LEFT = 0 then .next t.pstWorn
    else .next ((t.pstRemap line).pstStore (64 * line) data)
  else .next s

/-! ## Option area (R434 to R436) -/

/-- The bytes 0x000 to 0xFFB of a copy (R434). -/
def OptArea.body (o : OptArea) : Bytes :=
  fit 0xFFC (leBytes 4 0x4F505451 ++ leBytes 2 1 ++ zeros 2 ++ leBytes 4 o.gen ++ zeros 4
    ++ [byteOf o.clocks, byteOf o.pref, byteOf o.lock, 0] ++ leBytes 2 o.ceil ++ zeros 10 ++ fit 48 o.key)

/-- The bytes of a copy. -/
def OptArea.bytes (o : OptArea) : Bytes := o.body ++ leBytes 4 (crc32c o.body).toNat

/-- The fields of a staged copy. -/
def optOf (d : Bytes) (gen : Nat) : OptArea :=
  { gen := gen, clocks := Bytes.le d 0x10 1, pref := Bytes.le d 0x11 1, lock := Bytes.le d 0x12 1, ceil := Bytes.le d 0x14 2
    key := if ((d.drop 0x20).take 48).all (· == 0) then [] else (d.drop 0x20).take 48 }

/-- The copy the reset sequencer takes (R435): the valid copy with the higher generation; its number, and whether there is none. -/
def Cfl.chosen (c : Cfl) : OptArea × Nat × Bool :=
  match c.copyA, c.copyB with
  | some a, some b => if a.gen < b.gen then (b, 1, false) else (a, 0, false)
  | some a, none => (a, 0, false)
  | none, some b => (b, 1, false)
  | none, none => ({}, 0, true)

/-- The staged copy (CFL.OPT_STAGE). -/
def State.staged (s : State) : Bytes := s.cfl.stage.read 0 4096

/-- The zero fields of a copy are zero (R434, R436 check 2h). -/
def optZeros (d : Bytes) : Bool :=
  Bytes.le d 6 2 == 0 && Bytes.le d 0xC 4 == 0 && decide (Bytes.le d 0x10 1 < 8) && Bytes.le d 0x13 1 == 0
    && ((d.drop 0x16).take 10).all (· == 0) && ((d.drop 0x50).take 4012).all (· == 0)

/-- The public key and the signature of CFL.OPT_AUTH authorize the staged copy under the enrolled key hash (R436 check 5h). -/
def State.optAuthorized (s : State) : Bool :=
  let a := s.cfl.auth.read 0 192
  Crypto.sha384 (a.take 96) == fit 48 s.cfl.opt.key && Crypto.ecdsaOk (a.take 96) s.staged (a.drop 96)

/-- The code of the first check of R436 the staged copy fails; 0 for none. -/
def State.optCheck (s : State) : Nat :=
  let d := s.staged
  let o := s.cfl.opt
  let n := optOf d o.gen
  let lc := s.fld F.SEC_LC_STATE
  if Bytes.le d 0 4 ≠ 0x4F505451 ∨ Bytes.le d 4 2 ≠ 1 then 1
  else if !optZeros d then 2
  else if n.lock ≠ o.lock then 3
  else if 3 ≤ lc ∧ n ≠ o then 4
  else if !o.key.isEmpty ∧ n.key ≠ o.key ∧ !s.optAuthorized then 5
  else if s.cfl.bad.contains 0 ∨ s.cfl.bad.contains 1 ∨ 0xFFFFFFFF ≤ o.gen then 6
  else if s.on F.CFL_OPT_CTRL_RUNNING then 7
  else 0

/-! ## Program and erase (R441 to R446) -/

/-- The slot a sector lies in (R432). -/
def slotOf (sec : Nat) : Option Nat :=
  if 128 ≤ sec ∧ sec < 320 then some 0 else if 320 ≤ sec ∧ sec < 512 then some 1 else none

/-- A slot. -/
def State.slot (s : State) (n : Nat) : Slot := s.sec.slots.get {} n

/-- A slot replaced. -/
def State.setSlot (s : State) (n : Nat) (v : Slot) : State := { s with sec := { s.sec with slots := s.sec.slots.set {} n v } }

/-- The first sector of a slot's firmware or bundle (R503, R505). -/
def slotSector (slot : Nat) (bundle : Bool) : Nat := 128 + 192 * slot + (if bundle then 160 else 0)

/-- Bytes written into a slot at an offset of it; what lies between the old content and them is erased. -/
def Slot.put (v : Slot) (a : Nat) (bs : Bytes) : Slot :=
  let at_ := fun (b : Bytes) (o : Nat) => (b ++ List.replicate (o - b.length) 0xFF#8).take o ++ bs ++ b.drop (o + bs.length)
  if a < 10485760 then { v with fw := at_ v.fw a } else { v with bundle := at_ v.bundle (a - 10485760) }

/-- CFL.STATUS.BUSY and SUSPENDED after a change of the operation under way. -/
def State.setCflOp (s : State) (op : Option CflOp) : State :=
  ({ s with cfl := { s.cfl with op := op, suspN := 0, since := s.time.ftc } }).setFld F.CFL_STATUS_BUSY (ofBool op.isSome) |>.setFld F.CFL_STATUS_SUSPENDED 0

/-- The lines of a sector leave the prefetch buffer and the branch cache (R440). -/
def State.dropLines (s : State) (sec : Nat) : State :=
  let keep := fun l => l / 2048 != sec
  { s with cfl := { s.cfl with prefetch := s.cfl.prefetch.filter keep, branch := s.cfl.branch.filter keep } }

/-- A sector erased: its content is gone. -/
def State.clearSector (s : State) (sec : Nat) : State :=
  let t := if sec = 0 then { s with cfl := { s.cfl with copyA := none } } else if sec = 1 then { s with cfl := { s.cfl with copyB := none } } else s
  match slotOf sec with
  | some n => t.setSlot n ((t.slot n).put (65536 * (sec - slotSector n false)) (List.replicate 65536 0xFF#8))
  | none => { t with cfl := { t.cfl with mem := t.cfl.mem.clear (65536 * sec) (65536 * sec + 65536) } }

/-- The erase of a sector begins; its intent record is written first (R443). -/
def State.beginErase (s : State) (sec : Nat) : State :=
  ((({ s with cfl := { s.cfl with intents := addOnce s.cfl.intents sec } }).clearSector sec).dropLines sec).setCflOp (some (.erase sec))

/-- An erase of a sector is asked for: the array performs one operation at a time (R441). -/
def State.startErase (s : State) (sec : Nat) : State :=
  if s.cfl.op.isSome then { s with cfl := { s.cfl with wait := s.cfl.wait ++ [sec] } } else s.beginErase sec

/-- The array is free: the erase that waits longest begins. -/
def State.cflFree (s : State) : State :=
  let t := s.setCflOp none
  match t.cfl.wait with
  | [] => t
  | sec :: l => ({ t with cfl := { t.cfl with wait := l } }).beginErase sec

/-- An erase has verified: its intent record is marked done (R443). -/
def State.eraseDone (s : State) (sec : Nat) : State := { s with cfl := { s.cfl with intents := s.cfl.intents.filter (· != sec) } }

/-- A sector goes out of service (R446). -/
def State.sectorBad (s : State) (sec : Nat) : State :=
  let t := ({ s with cfl := { s.cfl with bad := addOnce s.cfl.bad sec, intents := s.cfl.intents.filter (· != sec) } }).cflCause 1
  if sec < 2 then t.setFld F.CFL_STATUS_OPT_DEGRADED 1
  else match slotOf sec with
    | some n => (t.setSlot n { t.slot n with bad := true }).setFld ⟨R.CFL_STATUS, 6 + n, 1⟩ 1
    | none => t

/-- The copy an option commit writes: the one not in use (R436). -/
def State.optTarget (s : State) : Nat := 1 - s.fld F.CFL_STATUS_OPT_COPY

/-- OPTION_COMMIT: CFL.OPT_CTRL.COMMIT written 1. The checks run in order; the first that fails is shown and changes nothing else (R436). -/
def execOptionCommit (s : State) : Res :=
  if !s.live then .next s
  else
    let code := s.optCheck
    if code ≠ 0 then .next ((s.setFld F.CFL_OPT_CTRL_RESULT code).cflCause 2)
    else .next ((s.setFld F.CFL_OPT_CTRL_RUNNING 1).startErase s.optTarget)

/-- What is to be programmed into a sector after its erase: an option copy under way, or the piece of a slot write. -/
def State.cflPlan (s : State) (sec : Nat) : Bytes :=
  if s.on F.CFL_OPT_CTRL_RUNNING ∧ sec = s.optTarget then (optOf s.staged (s.cfl.opt.gen + 1)).bytes
  else match s.sec.slotWrite with
    | some w => if slotSector w.slot w.bundle + w.sector = sec then (w.image.drop (65536 * w.sector)).take 65536 else []
    | none => []

/-- The program of a line of a sector's plan; none behind its end. -/
def State.planLine (s : State) (line : Nat) : Option CflOp :=
  let p := (s.cflPlan (line / 2048)).drop (32 * (line % 2048))
  if p.isEmpty then none else some (.program line (p.take 32))

/-- The array goes on with a line of a sector's plan, or is free. -/
def State.cflNext (s : State) (sec line : Nat) : State :=
  match if line / 2048 = sec then s.planLine line else none with
  | some op => s.setCflOp (some op)
  | none => s.cflFree

/-- The array works at a sector, or at none: the work at the sector may end. -/
def State.cflAt (s : State) (sec : Nat) : Bool :=
  !s.cfl.wait.contains sec && (match s.cfl.op with
    | some (.erase x) => x == sec
    | some (.program l _) => l / 2048 == sec
    | none => true)

/-- OPTION_COMMIT_DONE: the erase, program and verify of the target copy end (R436, R446). -/
def execOptionCommitDone (ok : Bool) (s : State) : Res :=
  let sec := s.optTarget
  if s.on F.CFL_OPT_CTRL_RUNNING ∧ s.cflAt sec then
    let o := optOf s.staged (s.cfl.opt.gen + 1)
    let t := s.setFld F.CFL_OPT_CTRL_RUNNING 0
    if ok ∧ !s.cfl.bad.contains sec then
      let t := { t with cfl := if sec = 0 then { t.cfl with copyA := some o } else { t.cfl with copyB := some o } }
      .next ((((t.eraseDone sec).cflFree).setFld F.CFL_OPT_CTRL_RESULT 0).cflCause 2)
    else .next ((((t.sectorBad sec).cflFree).setFld F.CFL_OPT_CTRL_RESULT 8).cflCause 2)
  else .next s

/-- A line programmed. -/
def State.putLine (s : State) (line : Nat) (data : Bytes) : State :=
  match slotOf (line / 2048) with
  | some n => s.setSlot n ((s.slot n).put (32 * (line - 2048 * slotSector n false)) data)
  | none => { s with cfl := { s.cfl with mem := s.cfl.mem.putAll (32 * line) data } }

/-- CFL_PROGRAM_DONE: a line program ends, and the next line of its sector follows; one that fails takes its sector out of service (R441, R446). -/
def execCflProgramDone (ok : Bool) (s : State) : Res :=
  match s.cfl.op with
  | some (.program line data) =>
    if ok then .next ((s.putLine line data).cflNext (line / 2048) (line + 1)) else .next (s.sectorBad (line / 2048)).cflFree
  | _ => .next s

/-- CFL_ERASE_DONE: a sector erase ends after `micros` of erase time (R441, R445, R446), and what is to be programmed into the sector follows. -/
def execCflEraseDone (ok : Bool) (micros : Nat) (s : State) : Res :=
  match s.cfl.op with
  | some (.erase sec) =>
    if s.on F.CFL_STATUS_SUSPENDED then .next s
    else if ok ∧ micros ≤ 1000000 then
      let t := (s.eraseDone sec).cflNext sec (2048 * sec)
      let t := if 400000 < micros then t.cflCause 0 else t
      .next (match slotOf sec with
        | some 0 => t.setFld F.CFL_ERASE_MAX_SLOT0 (max micros (t.fld F.CFL_ERASE_MAX_SLOT0))
        | some _ => t.setFld F.CFL_ERASE_MAX_SLOT1 (max micros (t.fld F.CFL_ERASE_MAX_SLOT1))
        | none => t)
    else .next (s.sectorBad sec).cflFree
  | _ => .next s

/-! ## Read path (R439, R440, R442) -/

/-- A read returns: a hit in the prefetch buffer or the branch cache moves no array data; a miss fetches its line and the next 3, and the
line of a non-sequential fetch target enters the branch cache, which replaces the least recently used. -/
def Cfl.lookup (c : Cfl) (line : Nat) (nonSeq : Bool) : Cfl :=
  if c.branch.contains line then { c with branch := line :: c.branch.filter (· != line) }
  else
    let c := if c.prefetch.contains line then c else { c with prefetch := [line, line + 1, line + 2, line + 3].filter (fun l => decide (l < 1048576)) }
    if nonSeq then { c with branch := (line :: c.branch).take 64 } else c

/-- CFL_READ: by a core or by the host window. It waits for a program; during an erase that has run 1 ms it suspends it, at most 100 times
(R442). -/
def execCflRead (core sector offset : Nat) (nonSeq : Bool) (s : State) : Res :=
  if s.power.phase ≠ .run ∨ 4 < core ∨ 512 ≤ sector ∨ 65536 ≤ offset then .next s
  else
    let look := fun (u : State) => { u with cfl := u.cfl.lookup (2048 * sector + offset / 32) nonSeq }
    match s.cfl.op with
    | some (.program _ _) => .next s
    | some (.erase _) =>
      if s.on F.CFL_STATUS_SUSPENDED then .next (look s)
      else if 100 ≤ s.cfl.suspN ∨ s.time.ftc - s.cfl.since < 1000000 then .next s
      else .next (look ({ s with cfl := { s.cfl with suspN := s.cfl.suspN + 1 } }.setFld F.CFL_STATUS_SUSPENDED 1))
    | none => .next (look s)

/-- CFL_ERASE_RESUME: no read for 2 µs (R442). -/
def execCflEraseResume (s : State) : Res :=
  if s.on F.CFL_STATUS_SUSPENDED then .next ({ s with cfl := { s.cfl with since := s.time.ftc } }.setFld F.CFL_STATUS_SUSPENDED 0) else .next s

/-- The factory calibration row (R437): its magic, version and zero fields, and the bytes that manufacture wrote. -/
def calByte (a : Nat) : Byte :=
  if a < 8 then (leBytes 4 0x43414C52 ++ leBytes 4 1).getD a 0
  else if (0x1B ≤ a ∧ a < 0x20) ∨ (0x170 ≤ a ∧ a < 0x180) ∨ (0x380 ≤ a ∧ a < 0x3FC) then 0
  else if a < 0x400 then Config.calibration a
  else 0xFF

/-- The byte of code flash at sector and offset, as a read returns it (R440). A slot holds its firmware image in its first 10 MiB and its
patch bundle in its last 2 MiB (R503). -/
def State.cflByte (s : State) (sector offset : Nat) : Byte :=
  if s.cfl.op = some (.erase sector) then 0xFF
  else if sector = 0 ∧ s.cfl.copyA.isSome then (match s.cfl.copyA with | some o => o.bytes.getD offset 0xFF | none => 0xFF)
  else if sector = 1 ∧ s.cfl.copyB.isSome then (match s.cfl.copyB with | some o => o.bytes.getD offset 0xFF | none => 0xFF)
  else if sector = 2 then calByte offset
  else if sector = 3 then (match s.nand.kept with | some k => k.image.getD offset 0xFF | none => 0xFF)
  else match slotOf sector with
    | some n =>
      let a := 65536 * (sector - (if n = 0 then 128 else 320)) + offset
      if a < 10485760 then (s.slot n).fw.getD a 0xFF else (s.slot n).bundle.getD (a - 10485760) 0xFF
    | none => (s.cfl.mem.find (65536 * sector + offset)).getD 0xFF

end Sys2Proof.Machine
end

