-- ==== Sys2Proof/Machine/Dma.lean ====
section
/-! DEFINITION. The DMA channels (DMA Channels). -/

namespace Sys2Proof.Machine

/-- A channel. -/
def State.dmaCh (s : State) (n : Nat) : DmaChan := s.dma.get {} n

/-- A channel replaced. -/
def State.setDma (s : State) (n : Nat) (v : DmaChan) : State := { s with dma := s.dma.set {} n v }

/-- CHn_STATUS.STATE. -/
def State.dmaState (s : State) (n : Nat) : Nat := s.fld (F.DMA_STATUS_STATE n)

/-- DONE and READ of a channel set (R385). -/
def State.dmaPos (s : State) (n done read : Nat) : State := (s.setFld (F.DMA_POS_DONE n) done).setFld (F.DMA_POS_READ n) read

/-! ## Addresses (R370, R371) -/

/-- A unit of the address space of a DMA access: its index, the offset in it, and its bytes. -/
structure DmaAt where
  unit : Nat
  off  : Nat
  size : Nat
  deriving DecidableEq, Repr

/-- The unit an address names in a space; none where an unused address bit is set or no such unit lies there. -/
def State.dmaUnit (s : State) (sp a : Nat) : Option DmaAt :=
  match sp with
  | 0 => if a < 2 ^ 38 then some { unit := a / 2 ^ 36, off := a % 2 ^ 36, size := stackBytes } else none
  | 1 =>
    let b := a / 2 ^ 32
    if b < 11 ∧ bits a 23 9 = 0 then some { unit := b, off := a % 2 ^ 23, size := bankBytes b } else none
  | 2 => some { unit := 0, off := a, size := 2 ^ 64 }
  | 3 => if a < 2 ^ 30 then some { unit := 0, off := a, size := pstBytes } else none
  | _ => if a < 2 ^ 38 ∧ bits a 28 8 = 0 then some { unit := a / 2 ^ 36, off := a % 2 ^ 28, size := s.fld (F.DMA_HWIN_SIZE (a / 2 ^ 36)) * 2 ^ 20 } else none

/-- Where the host window of a stack begins, in a line of the stack (R370). -/
def hostWindowBase (k : Nat) : Nat := Config.hostWindow k % ((stackBytes - 2 ^ 28) / 64) * 64

/-- What an access answers: the bank is not Active and the access waits, an error code of R380, or the bytes read. -/
inductive DmaAns where
  | wait
  | fail (code : Nat)
  | ok (bs : Bytes)
  deriving DecidableEq, Repr

/-- One read of `w` bytes at an offset of a unit, by channel n; `host` are the bytes the host's completion returns, `sev` what the stack or the
bank's check code reports. -/
def State.dmaGet (s : State) (n sp func : Nat) (u : DmaAt) (w : Nat) (host : Bytes) (sev : Severity) : State × DmaAns :=
  if u.size < u.off + w then (s, .fail 2)
  else match sp with
  | 1 =>
    match s.bankRead u.unit n u.off w sev with
    | (t, .held) => (t, .wait)
    | (t, .violation) => (t, .fail 3)
    | (t, .data bs p) => (t, if p then .fail 7 else .ok bs)
  | 2 => if s.fnExists func then (s, .ok (fit w host)) else (s, .fail 4)
  | 3 => (s, .ok (s.pstRead u.off w))
  | _ =>
    let a := if sp = 4 then u.off + hostWindowBase u.unit else u.off
    if !s.stackReady u.unit then (s, .fail 5)
    else
      let t := (s.hbmSettle u.unit a).hbmAccess u.unit a w none sev
      (t, if (t.stk u.unit).poison.contains (a / 64 * 64) || sev == .uncorrectable then .fail 7 else .ok ((t.stk u.unit).mem.read a w))

/-- One write; `sev` is what the stack reports of the read that a merged write makes (R343). -/
def State.dmaPut (s : State) (n sp func : Nat) (u : DmaAt) (bs : Bytes) (sev : Severity) : State × DmaAns :=
  if u.size < u.off + bs.length then (s, .fail 2)
  else match sp with
  | 1 =>
    match s.bankWrite u.unit n u.off bs with
    | (t, .held) => (t, .wait)
    | (t, .violation) => (t, .fail 3)
    | (t, .data _ _) => (t, .ok [])
  | 2 => if s.fnExists func then (s.emit (.hostWrite func u.off bs), .ok []) else (s, .fail 4)
  | 3 => if pstReserved u.off then (s, .ok []) else ((s.pstStore u.off bs).count R.PST_WRITES 1, .ok [])
  | _ =>
    let a := if sp = 4 then u.off + hostWindowBase u.unit else u.off
    if !s.stackReady u.unit then (s, .fail 6) else ((s.hbmSettle u.unit a).hbmAccess u.unit a bs.length (some bs) sev, .ok [])

/-- A channel may reach an address of a space (R369, R370, R425). -/
def dmaReach (n sp a : Nat) : Bool := decide (48 ≤ n) || sp == 1 || sp == 2 || sp == 4 || (sp == 3 && decide (pstHost ≤ a))

/-! ## Descriptors (R372, R373) -/

/-- A descriptor of 64 bytes. -/
def descOf (d : Bytes) : Desc :=
  let c := Bytes.le d 28 4
  { src := Bytes.le d 0 8, dst := Bytes.le d 8 8, len := Bytes.le d 16 4, sStr := Bytes.le d 20 4, dStr := Bytes.le d 24 4
    irq := bit c 31, barrier := bit c 30, wb := bit c 29, dW := bits c 23 3, sW := bits c 20 3, dSp := bits c 16 4, sSp := bits c 12 4
    func := bits c 0 5, next := Bytes.le d 32 8 }

/-- A stride fits its element width. -/
def strideOk (str w : Nat) : Bool := str == 0 || decide (w ≤ str ∧ str % w = 0)

/-- The descriptor is valid (R373), its spaces exist (R370). -/
def State.descValid (s : State) (d : Bytes) : Bool :=
  let x := descOf d
  let c := Bytes.le d 28 4
  decide (x.dW < 7 ∧ x.sW < 7 ∧ 0 < x.len ∧ x.len ≤ 0x80000000 ∧ x.len % 2 ^ x.sW = 0 ∧ x.len % 2 ^ x.dW = 0
    ∧ x.src % 2 ^ x.sW = 0 ∧ x.dst % 2 ^ x.dW = 0 ∧ bits c 26 3 = 0 ∧ bits c 5 7 = 0 ∧ Bytes.le d 44 4 = 0 ∧ x.dSp < 5 ∧ x.sSp < 5)
    && strideOk x.sStr (2 ^ x.sW) && strideOk x.dStr (2 ^ x.dW) && s.fnExists x.func

/-! ## Halts and retries (R380, R381) -/

/-- The channel halts with an error at an address of a space. -/
def State.dmaHalt (s : State) (n code sp a : Nat) : State :=
  let t := (s.setFld (F.DMA_STATUS_STATE n) 5).setFld (F.DMA_STATUS_ERR n) code
  let t := (t.setFld (F.DMA_STATUS_ERR_SPACE n) sp).setFld (F.DMA_ERRADDR_ADDR n) a
  (t.setDma n { t.dmaCh n with ahead := 0, last := false, dropping := false }).dmaCause n 4

/-- An error of an access: a retried one costs a retry while any is left. -/
def State.dmaFail (s : State) (n code sp a : Nat) : State :=
  if [5, 6, 8, 9].contains code ∧ s.fld (F.DMA_STATUS_RETRIES n) < s.fld (F.DMA_CTRL_RETRY n) then
    ((s.addFld (F.DMA_STATUS_RETRIES n) 1).addFld (F.DMA_COUNT_RETRIES n) 1).dmaCause n 5
  else s.dmaHalt n code sp a

/-! ## Commands (R381 to R384) -/

/-- DMA_START: CHn_CTRL.START written 1. -/
def execDmaStart (n : Nat) (s : State) : Res :=
  if s.live ∧ n < 64 ∧ s.dmaState n = 0 then
    if s.holds 50 then .next (s.holdWork (.dmaStart n)) else
    let t := (s.setReg (R.DMA_STATUS n) 0).setFld (F.DMA_STATUS_STATE n) 1
    .next ((t.setReg (R.DMA_POS n) 0).setDma n { fetching := true })
  else .next s

/-- The channel becomes Paused (R382). -/
def State.dmaPaused (s : State) (n : Nat) : State := (s.setFld (F.DMA_STATUS_STATE n) 3).dmaCause n 2

/-- Bursts whose reads may return next (R376, R382, R383): in Running, up to MAX_OUT beyond the one in hand and what the read buffer of 1 KiB and
the holding register have room for; in Pausing, those whose reads are issued; in a tail-drop, the burst in hand. -/
def State.dmaRoom (s : State) (n : Nat) : Nat :=
  let c := s.dmaCh n
  match s.dmaState n with
  | 1 => min (s.fld (F.DMA_CTRL_MAX_OUT n)) 16 + 1 - (c.buf.length + 63) / 64
  | 2 => c.ahead
  | _ => if c.last && c.buf.isEmpty then 1 else 0

/-- DMA_PAUSE: bursts whose reads are issued are still read and written out, at most MAX_OUT beyond the one in hand; how many is free (R382). -/
def execDmaPause (n : Nat) (s : State) : Res :=
  if s.live ∧ n < 64 ∧ s.dmaState n = 1 then
    let c := s.dmaCh n
    let k := Config.freeNat s.free % (s.dmaRoom n + 1)
    if c.fetching then .next (s.setFld (F.DMA_STATUS_STATE n) 2)
    else if k = 0 ∧ c.buf = [] then .next (s.draw.dmaPaused n)
    else .next ((s.draw.setFld (F.DMA_STATUS_STATE n) 2).setDma n { c with ahead := k })
  else .next s

/-- LEN of the descriptor in hand. -/
def DmaChan.len (c : DmaChan) : Nat := match c.desc with | some d => d.len | none => 0

/-- DMA_RESUME: a Paused channel goes on, a Halted one runs the failed burst again from its first element (R381, R382). -/
def execDmaResume (n : Nat) (s : State) : Res :=
  if s.live ∧ n < 64 ∧ (s.dmaState n = 3 ∨ s.dmaState n = 5) then
    if s.holds 50 then .next (s.holdWork (.dmaResume n)) else
    let c := s.dmaCh n
    let done := s.fld (F.DMA_POS_DONE n)
    let t := ((s.setFld (F.DMA_STATUS_RETRIES n) 0).dmaPos n done done).setDma n { c with buf := [] }
    if c.desc.isNone then .next ((t.setFld (F.DMA_STATUS_STATE n) 1).setDma n { c with fetching := true })
    else .next (t.setFld (F.DMA_STATUS_STATE n) (if s.fld (F.DMA_POS_DONE n) = c.len then 6 else 1))
  else .next s

/-- The 16 bytes of a write-back (R379). -/
def State.dmaStatus (s : State) (n : Nat) (dropped halted : Bool) : Bytes :=
  leBytes 4 (2 ^ 31 + (if dropped then 2 ^ 30 else 0) + (if halted then 2 ^ 29 else 0) + s.fld (F.DMA_STATUS_ERR n) * 2 ^ 20)
    ++ leBytes 4 ((s.dmaCh n).len - s.fld (F.DMA_POS_DONE n)) ++ leBytes 8 s.time.ftc

/-- The write-back of a descriptor: bytes 48 to 63, in the descriptor's space. -/
def State.dmaWriteBack (s : State) (n : Nat) (dropped halted : Bool) : State × DmaAns :=
  let sp := s.fld (F.DMA_CTRL_DESC_SPACE n)
  match s.dmaUnit sp (s.fld (F.DMA_DESC_ADDR n)) with
  | some u => s.dmaPut n sp (s.fld (F.DMA_CTRL_DESC_FUNC n)) { u with off := u.off + 48 } (s.dmaStatus n dropped halted) .clean
  | none => (s, .fail 2)

/-- The channel becomes Idle, with READ equal to DONE. -/
def State.dmaIdle (s : State) (n : Nat) : State :=
  let done := s.fld (F.DMA_POS_DONE n)
  ((s.setFld (F.DMA_STATUS_STATE n) 0).dmaPos n done done).setDma n {}

/-- A tail-drop begins on a channel that runs: the burst in hand is still to be written, and what was read beyond it is discarded (R383). -/
def State.dmaDropping (s : State) (n : Nat) : State :=
  let c := s.dmaCh n
  let done := s.fld (F.DMA_POS_DONE n)
  let b := c.buf.take 64
  ((s.setFld (F.DMA_STATUS_STATE n) 4).dmaPos n done (done + b.length)).setDma n { c with ahead := 0, last := !c.fetching, dropping := true, buf := b }

/-- DMA_TAILDROP (R381, R383, R384). A channel that waits or is halted writes back at once. -/
def execDmaTaildrop (n : Nat) (s : State) : Res :=
  if s.live ∧ n < 64 then
    let c := s.dmaCh n
    match s.dmaState n with
    | 1 => .next (s.dmaDropping n)
    | 2 => .next (s.dmaDropping n)
    | 6 => .next ((s.setFld (F.DMA_STATUS_STATE n) 4).setDma n { c with dropping := true })
    | 3 => .next ((((if c.desc.isSome then (s.dmaWriteBack n true false).1 else s).dmaCause n 3)).dmaIdle n)
    | 5 => .next ((if c.desc.isSome then (s.dmaWriteBack n false true).1 else s).dmaIdle n)
    | _ => .next s
  else .next s

/-! ## Fetch (R374) -/

/-- The descriptor at CHn_DESC: from the host's completion, or read from the part's memory. -/
def State.dmaFetch (s : State) (n : Nat) (desc : Option Bytes) : State × DmaAns :=
  let sp := s.fld (F.DMA_CTRL_DESC_SPACE n)
  let a := s.fld (F.DMA_DESC_ADDR n)
  if 5 ≤ sp ∨ a % 64 ≠ 0 then (s, .fail 1)
  else if !dmaReach n sp a then (s, .fail 3)
  else match s.dmaUnit sp a with
    | none => (s, .fail 2)
    | some u =>
      match s.dmaGet n sp (s.fld (F.DMA_CTRL_DESC_FUNC n)) u 64 (desc.getD []) .clean with
      | (t, .ok bs) => if sp = 2 ∧ desc.isNone then (t, .fail 8) else (t, .ok bs)
      | (t, .fail c) => (t, .fail (if c = 5 then 8 else c))
      | x => x

/-- DMA_DESCRIPTOR_FETCH: the descriptor is validated and its transfer begins (R372 to R374, R380). -/
def execDmaDescriptorFetch (n : Nat) (desc : Option Bytes) (s : State) : Res :=
  let st := s.dmaState n
  if !(s.live ∧ n < 64 ∧ (s.dmaCh n).fetching ∧ (st = 1 ∨ st = 2 ∨ st = 4)) then .next s
  else
    let sp := s.fld (F.DMA_CTRL_DESC_SPACE n)
    let a := s.fld (F.DMA_DESC_ADDR n)
    match s.dmaFetch n desc with
    | (_, .wait) => .next s
    | (t, .fail c) => .next (t.dmaFail n c sp a)
    | (t, .ok bs) =>
      let d := descOf bs
      let t := t.setDma n { t.dmaCh n with fetching := false, desc := some d }
      if !t.descValid bs then .next (t.dmaHalt n 1 sp a)
      else if !dmaReach n d.sSp d.src then .next (t.dmaHalt n 3 d.sSp d.src)
      else if !dmaReach n d.dSp d.dst then .next (t.dmaHalt n 3 d.dSp d.dst)
      else
        let t := t.setFld (F.DMA_STATUS_RETRIES n) 0
        .next (if st = 2 then t.dmaPaused n else t)

/-! ## Bursts (R375, R376) -/

/-- Bytes of the burst at stream byte `done`. -/
def Desc.burst (d : Desc) (done : Nat) : Nat := min 64 (d.len - done)

/-- The step from one element to the next. -/
def stepOf (str w : Nat) : Nat := if str = 0 then w else str

/-- The report of the next access, and those of the accesses behind it; an access without one is clean. -/
def nextSev : List Severity → Severity × List Severity
  | [] => (.clean, [])
  | v :: vs => (v, vs)

/-- The source elements `i` of a burst read in order, `host` being the burst's bytes where the source is host memory. An error tells its
address; the reports that are left are answered too. -/
def State.dmaGather (s : State) (n : Nat) (d : Desc) : List Nat → Bytes → List Severity → State × Nat × DmaAns × List Severity
  | [], _, vs => (s, 0, .ok [], vs)
  | i :: is, host, vs =>
    let w := 2 ^ d.sW
    let a := d.src + i * stepOf d.sStr w
    match s.dmaUnit d.sSp d.src with
    | none => (s, a, .fail 2, vs)
    | some u =>
      match s.dmaGet n d.sSp d.func { u with off := u.off + i * stepOf d.sStr w } w host (nextSev vs).1 with
      | (t, .ok bs) =>
        match t.dmaGather n d is (host.drop w) (nextSev vs).2 with
        | (t', b, .ok cs, ws) => (t', b, .ok (bs ++ cs), ws)
        | x => x
      | (t, x) => (t, a, x, vs)

/-- The destination elements written in order; `stop` is the element whose write fails, where one does. -/
def State.dmaScatter (s : State) (n : Nat) (d : Desc) (stop : Option Nat) : List Nat → Bytes → List Severity → State × Nat × DmaAns
  | [], _, _ => (s, 0, .ok [])
  | j :: js, bs, vs =>
    let w := 2 ^ d.dW
    let a := d.dst + j * stepOf d.dStr w
    if stop = some j then (s, a, .fail 6)
    else match s.dmaUnit d.dSp d.dst with
    | none => (s, a, .fail 2)
    | some u =>
      match s.dmaPut n d.dSp d.func { u with off := u.off + j * stepOf d.dStr w } (bs.take w) (nextSev vs).1 with
      | (t, .ok _) => t.dmaScatter n d stop js (bs.drop w) (nextSev vs).2
      | (t, x) => (t, a, x)

/-- The elements of width `w` of the `len` stream bytes from `done` on. -/
def elemsOf (done len w : Nat) : List Nat := (List.range (len / w)).map (done / w + ·)

/-- The source elements of the next `k` bursts return into the read buffer, in burst order; `ok` tells whether those of the last one do. -/
def State.dmaReads (s : State) (n : Nat) (d : Desc) (ok : Bool) : Nat → Option Bytes → List Severity → State × Nat × DmaAns
  | 0, _, _ => (s, 0, .ok [])
  | k + 1, host, vs =>
    let rd := s.fld (F.DMA_POS_READ n)
    let nb := d.burst rd
    if nb = 0 then (s, 0, .ok [])
    else if (k = 0 ∧ !ok) ∨ (d.sSp = 2 ∧ host.isNone) then (s, d.src + rd / 2 ^ d.sW * stepOf d.sStr (2 ^ d.sW), .fail 5)
    else match s.dmaGather n d (elemsOf rd nb (2 ^ d.sW)) (host.getD []) vs with
      | (t, _, .ok bs, ws) =>
        let c := t.dmaCh n
        ((t.dmaPos n (t.fld (F.DMA_POS_DONE n)) (rd + nb)).setDma n { c with buf := c.buf ++ bs, ahead := c.ahead - 1 }).dmaReads n d ok k
          (host.map (fun h => h.drop nb)) ws
      | (t, a, x, _) => (t, a, x)

/-- A burst of `nb` bytes is written: DONE rises, and the channel pauses, drops or awaits its completion where that is due. -/
def State.dmaWritten (s : State) (n : Nat) (d : Desc) (nb : Nat) : State :=
  let c := s.dmaCh n
  let done := s.fld (F.DMA_POS_DONE n) + nb
  let left := { c with buf := c.buf.drop nb }
  let t := ((s.dmaPos n done (done + left.buf.length)).setFld (F.DMA_STATUS_RETRIES n) 0).setDma n left
  match s.dmaState n with
  | 2 => if (c.ahead = 0 ∧ left.buf = []) ∨ done = d.len then (t.setDma n { left with ahead := 0 }).dmaPaused n else t
  | 4 => t.setDma n { left with last := false }
  | _ => if done = d.len then t.setFld (F.DMA_STATUS_STATE n) 6 else t

/-- The burst at DONE written from the holding register. A failed write leaves it written in part or not at all (R380): how far is free. -/
def State.dmaDrain (s : State) (n : Nat) (d : Desc) (ok : Bool) (vs : List Severity) : Option State :=
  let done := s.fld (F.DMA_POS_DONE n)
  let nb := d.burst done
  let js := elemsOf done nb (2 ^ d.dW)
  let stop := if ok then none else js[Config.freeNat s.free % js.length]?
  match s.draw.dmaScatter n d stop js ((s.dmaCh n).buf.take nb) vs with
  | (_, _, .wait) => none
  | (u, a, .fail code) => some (u.dmaFail n code d.dSp a)
  | (u, _, .ok _) => some (u.dmaWritten n d nb)

/-- DMA_BURST: the source elements of up to `reads` further bursts return, and the burst in the holding register is written (R375, R376). `host` holds the
bytes the host's completions return; `srcOk` and `dstOk` tell whether the last burst's reads and the writes complete; `sev` and `dsev` are the
reports of the memories for the source accesses and for the reads of merged writes, in order (R350, R358). An access to a bank that is not Active
waits (R361). -/
def execDmaBurst (n reads : Nat) (host : Option Bytes) (srcOk dstOk : Bool) (sev dsev : List Severity) (s : State) : Res :=
  let c := s.dmaCh n
  let st := s.dmaState n
  match c.desc with
  | none => .next s
  | some d =>
    if !(s.live ∧ n < 64 ∧ s.fld (F.DMA_POS_DONE n) < d.len ∧ (st = 1 ∨ st = 2 ∨ (st = 4 ∧ c.last))) || c.fetching then .next s
    else
      match s.dmaReads n d srcOk (min reads (s.dmaRoom n)) host sev with
      | (_, _, .wait) => .next s
      | (t, a, .fail code) => .next (t.dmaFail n code d.sSp a)
      | (t, _, .ok _) =>
        if (t.dmaCh n).buf = [] then .next t
        else .next ((t.dmaDrain n d dstOk dsev).getD s)

/-! ## Completion (R377 to R379) -/

/-- The descriptor ends: its causes, and the next one is fetched (R374). -/
def State.dmaEnd (s : State) (n : Nat) (d : Desc) : State :=
  if (s.dmaCh n).dropping then (s.dmaCause n 3).dmaIdle n
  else
    let t := s.addFld (F.DMA_COUNT_DESCS n) 1
    let t := if d.irq then t.dmaCause n 0 else t
    if d.next = 0 then (t.dmaIdle n).dmaCause n 1
    else ((t.setFld (F.DMA_DESC_ADDR n) d.next).setReg (R.DMA_POS n) 0).setFld (F.DMA_STATUS_STATE n) 1 |>.setDma n { fetching := true }

/-- The 64 bytes of the destination that hold the last byte written (R377). -/
def Desc.lastLine (d : Desc) (done : Nat) : Nat :=
  let w := 2 ^ d.dW
  (if done = 0 then d.dst else d.dst + (done / w - 1) * stepOf d.dStr w + w - 1) / 64 * 64

/-- The read-back of a descriptor: in HBM one more read, none where the stack is not Ready (R377, R380). -/
def State.dmaReadBack (s : State) (d : Desc) (line : Nat) (sev : Severity) : Option State :=
  match d.dSp, s.dmaUnit d.dSp line with
  | 0, some u => if s.stackReady u.unit then some ((s.hbmSettle u.unit u.off).hbmAccess u.unit u.off 64 none sev) else none
  | 4, some u =>
    let a := u.off + hostWindowBase u.unit
    if s.stackReady u.unit then some ((s.hbmSettle u.unit a).hbmAccess u.unit a 64 none sev) else none
  | _, _ => some s

/-- DMA_DESCRIPTOR_COMPLETE: the read-back returned, or the last write was accepted; the status is written back where it is due. -/
def execDmaDescriptorComplete (n : Nat) (readOk writeOk : Bool) (sev : Severity) (s : State) : Res :=
  let c := s.dmaCh n
  let st := s.dmaState n
  match c.desc with
  | none => .next s
  | some d =>
    let line := d.lastLine (s.fld (F.DMA_POS_DONE n))
    if !(s.live ∧ n < 64 ∧ (st = 6 ∨ (st = 4 ∧ !c.last))) then .next s
    else match if d.barrier then some s else if readOk then s.dmaReadBack d line sev else none with
    | none => .next (s.dmaFail n 9 d.dSp line)
    | some r =>
      if d.wb ∨ c.dropping then
        let at_ := s.fld (F.DMA_DESC_ADDR n) + 48
        let sp := s.fld (F.DMA_CTRL_DESC_SPACE n)
        if !writeOk then .next (r.dmaFail n 6 sp at_)
        else match r.dmaWriteBack n c.dropping false with
          | (_, .wait) => .next s
          | (t, .fail code) => .next (t.dmaFail n code sp at_)
          | (t, .ok _) => .next (t.dmaEnd n d)
      else .next (r.dmaEnd n d)

/-! ## Reset of a function (R387) -/

/-- A host channel stopped by a reset. -/
def State.dmaStop1 (s : State) (n : Nat) : State :=
  (s.dmaIdle n).setFld (F.DMA_STATUS_ERR n) 10

/-- The host channels that a reset of function f stops: every one for the physical function, those that name the VF for a VF. -/
def State.dmaStop (s : State) (f : Nat) : State :=
  s.over ((List.range 48).filter (fun n => s.dmaState n != 0 && (f == 0 || s.fld (F.DMA_CTRL_DESC_FUNC n) == f
    || (match (s.dmaCh n).desc with | some d => d.func == f | none => false)))) (fun u n => u.dmaStop1 n)

end Sys2Proof.Machine
end

