-- ==== Sys2Proof/Machine/IoOps.lean ====
section
/-! DEFINITION. The shared operations of the lanes' commands: the checks every I/O command meets (R173, R181, R190), what a read returns
(R90, R193, R397, R402, R406) and the records of GAP MAP READ. -/

namespace Sys2Proof.Machine

/-! ## Command dwords -/

/-- Command dword `i`. -/
def Sqe.dw (c : Sqe) : Nat → Nat
  | 0 => c.opc.toNat + 256 * c.fuse.toNat + 65536 * c.cid.toNat
  | 1 => c.nsid.toNat
  | 2 => c.cdw2.toNat
  | 3 => c.cdw3.toNat
  | 4 => c.mptr.toNat % 2 ^ 32
  | 5 => c.mptr.toNat / 2 ^ 32
  | 6 => c.prp1.toNat % 2 ^ 32
  | 7 => c.prp1.toNat / 2 ^ 32
  | 8 => c.prp2.toNat % 2 ^ 32
  | 9 => c.prp2.toNat / 2 ^ 32
  | 10 => c.cdw10.toNat
  | 11 => c.cdw11.toNat
  | 12 => c.cdw12.toNat
  | 13 => c.cdw13.toNat
  | 14 => c.cdw14.toNat
  | 15 => c.cdw15.toNat
  | _ => 0

/-- `n` with the bits of `mask` cleared. -/
def outside (n mask : Nat) : Nat := n - (n &&& mask)

/-- The first bit set in a dword of `dws` outside the mask that dword is allowed, as (dword, bit): "Fields not listed must be zero" (Vendor
command dwords). FUSE and PSDT of CDW0 lie in no dword given here: the manual asks nothing of them beyond PRP only (R174), and the part ignores both
(DESIGN CHOICE, log entry 88). -/
def Sqe.stray (c : Sqe) (dws : List Nat) (masks : List (Nat × Nat)) : Option (Nat × Nat) :=
  (dws.find? (fun i => outside (c.dw i) (Tbl.get 0 masks i) != 0)).map (fun i => (i, lowBit (outside (c.dw i) (Tbl.get 0 masks i))))

/-- The dwords of a vendor I/O command that the fields of R190 share out. -/
def vendorDws : List Nat := [2, 3, 4, 5, 10, 11, 12, 13, 14, 15]

/-- The fields of a vendor I/O command (R190), as masks of its dwords. -/
def vendorMasks (opc : Nat) : List (Nat × Nat) :=
  match opc with
  | 0x80 => [(10, 0xFFFFFFFF), (11, 0x8000003F)]
  | 0x84 => [(10, 0xFFFFFFFF), (11, 0x8000003F)]
  | 0x82 => [(10, 0xFFFFFFFF), (11, 0xFFFFFFFF), (12, 0xFFFF)]
  | 0x86 => [(10, 0xFFFFFFFF), (11, 0xFFFFFFFF), (12, 0xFFFF), (13, 0xFFFFFFFF), (14, 0xFFFF)]
  | 0x8A => [(10, 0xFFFFFFFF), (11, 0xFFFFFFFF), (12, 0x7FFF)]
  | _ => []

/-- The I/O opcodes the lanes honour (R181). -/
def ioOpcodes : List Nat := [0x00, 0x01, 0x02, 0x08, 0x09, 0x80, 0x82, 0x84, 0x86, 0x8A]

/-- Charged data waits to be programmed while the window in use exceeds its limit: it goes ahead of every other program (R275). -/
def State.overhangFirst (s : State) : Bool :=
  s.overhang && (s.ftl.wbuf.any (fun w => w.charged) || s.ftl.capWrites.any (fun e => match e.2 with | some w => w.charged && !w.lost | none => false))

/-! ## Checks -/

/-- What a check answers: a status, the dword and bit at fault (none: no field is), and the first block in error. -/
structure IoErr where
  st  : Status
  at_ : Option (Nat × Nat) := none
  lba : Nat := 0
  deriving DecidableEq, Repr

/-- The command of tag `t` completes with an error. -/
def State.ioErr (s : State) (l t : Nat) (e : IoErr) : State :=
  s.finish l t e.st 0 (match e.at_ with | some (d, b) => ploc d b | none => 0xFFFF) e.lba

/-- The command in tag `t` of lane `l` has started, has not taken its blocks and carries opcode `opc`. -/
def State.running (s : State) (l t opc : Nat) : Option Tag :=
  match s.tag l t with
  | some g => if s.live ∧ g.stage = .started ∧ !g.taken ∧ g.cmd.sqe.opc.toNat = opc then some g else none
  | none => none

/-- The namespace check (NVM Express 2.0, R173, R285): it exists, is attached to the lane's function, and is ready. -/
def State.nsErr (s : State) (l nsid : Nat) : Option IoErr :=
  if !s.attachedTo nsid (s.owner l) then some { st := St.invalidNamespace, at_ := some (1, 0) }
  else if s.on F.FTL_STATUS_REBUILDING || (match s.ns nsid with | some n => n.notReady | none => false) then some { st := St.notReady }
  else none

/-- The blocks of a namespace. -/
def State.nsSize (s : State) (nsid : Nat) : Nat := match s.ns nsid with | some n => n.blocks | none => 0

/-- The checks of a command that moves blocks SLBA to SLBA + NLB: 2 MiB (R181), its namespace, its range. -/
def State.rangeErr (s : State) (l : Nat) (c : Sqe) (moves : Bool) : Option IoErr :=
  if moves ∧ 512 < c.nlb then some { st := St.invalidField, at_ := some (12, 0) }
  else match s.nsErr l c.nsid.toNat with
    | some e => some e
    | none => if s.nsSize c.nsid.toNat < c.slba + c.nlb then
        some { st := St.lbaRange, at_ := some (10, 0), lba := max c.slba (s.nsSize c.nsid.toNat) } else none

/-- PRINFO, DTYPE and DSPEC are zero (R181). -/
def Sqe.ioFields (c : Sqe) : Option IoErr :=
  (c.stray [12, 13] [(12, 0xFFFFFFFF - 0x3C000000 - 0xF00000), (13, 0xFFFF)]).map (fun x => { st := St.invalidField, at_ := some x })

/-- A vendor I/O command's fields (R190), its namespace, and that it is a capture namespace (R182). -/
def State.vendorErr (s : State) (l : Nat) (c : Sqe) : Option IoErr :=
  match c.stray vendorDws (vendorMasks c.opc.toNat) with
  | some x => some { st := St.invalidField, at_ := some x }
  | none =>
    match s.nsErr l c.nsid.toNat with
    | some e => some e
    | none => if s.isCapture c.nsid.toNat then none else some { st := St.invalidNamespace, at_ := some (1, 0) }

/-- The key page of a lane's commands on a namespace: the queue's (R185), else the namespace's default. -/
def State.cmdPage (s : State) (l nsid : Nat) : Option Nat :=
  match (s.laneSq l).bind (fun q => q.keyPage) with
  | some k => some k
  | none => s.nsPage nsid

/-! ## What a read returns -/

/-- A block of a capture namespace belongs to an extent of a stream's window that is open or sealed and has not landed, or to the range of a
span that is Filling, Closing, Pending or Committing (R90, R130). -/
def State.unlanded (s : State) (nsid x : Nat) : Bool :=
  s.cap.drains.any (fun d => d.nsid == nsid && d.idx == x)
  || (List.range 64).any (fun n => s.fld (F.CAP_S_NS_NSID n) == nsid &&
    (match (s.str n).exts.get none x with | some e => !e.landed | none => false))
  || s.spansUsed.any (fun k => decide (1 ≤ s.spState k ∧ s.spState k ≤ 4) && s.fld (F.CAP_SP_NSID k) == nsid &&
    decide (s.spFirst k ≤ x ∧ x < s.spTop k))

/-- A lookup of the range meets a span in Committing (R131). -/
def State.meetsCommitting (s : State) (nsid lba n : Nat) : Bool :=
  s.spansUsed.any (fun k => s.spState k == 4 && s.fld (F.CAP_SP_NSID k) == nsid &&
    decide (s.spFirst k * 256 < lba + n ∧ lba < s.spTop k * 256))

/-- Dword 0 of a read of a capture namespace (R90, R132, R193): the states of the blocks returned, and bits 1 to 3. -/
def readDw0 (states : List Nat) (b1 b2 b3 : Bool) : Nat :=
  match states.findIdx? (· != 0) with
  | some i => 1 + 2 * ofBool b1 + 4 * ofBool b2 + 8 * ofBool b3 + 65536 * min i 0xFFFF
  | none => 2 * ofBool b1 + 4 * ofBool b2 + 8 * ofBool b3

/-- `n` free bytes, drawn by the count of free values. -/
def freeBytes (k n : Nat) : Bytes := (List.range n).map (fun i => Config.freeByte (k + i))

/-- Bytes deciphered under a key other than the one they were enciphered under: the spec does not say what they are, so they are free. -/
def State.decipher (s : State) (b : Blk) : Bytes :=
  match b.page with
  | some k => if s.cph.keys.get [] k = b.key then b.bytes else freeBytes s.free 4096
  | none => b.bytes

/-- A block's tag fails: its segment is known to fail, or it is authenticated under another key than the page holds now. -/
def State.tagBad (s : State) (b : Blk) : Bool :=
  b.bad || (b.auth && (match b.page with | some k => s.cph.keys.get [] k != b.key | none => false))

/-- The bytes of a list of blocks; each draws its free bytes. -/
def State.gather (s : State) : List Blk → State × Bytes
  | [] => (s, [])
  | b :: t =>
    let r := State.gather { s with free := s.free + 4096 } t
    (r.1, s.decipher b ++ r.2)

/-- Byte k of the poison fill is byte k mod 8 of CPH.POISON (R406). -/
def State.poisonBytes (s : State) (n : Nat) : Bytes :=
  (List.range n).map (fun k => byteOf ((s.reg R.CPH_POISON).toNat / 256 ^ (k % 8)))

/-- The segments, as segment numbers of the namespace, with a block that satisfies `p`. -/
def segsWith (lba : Nat) (blks : List Blk) (p : Blk → Bool) : List Nat :=
  (((List.zip (List.range blks.length) blks).filter (fun x => p x.2)).map (fun x => (lba + x.1) / 16)).foldl addOnce []

/-- Data bytes deciphered, counted at the lanes of the blocks' quadrants (CPH.Lq_CNT): a unit that is enciphered counts once, and an authenticated
segment whole (R402). -/
def State.countDec (s : State) (lba : Nat) (blks : List Blk) : State :=
  let t := s.over (List.zip (List.range blks.length) blks) (fun u x =>
    if x.2.page.isSome && !x.2.auth then u.count (R.CPH_L_DEC_BYTES (((lba + x.1) / 256) % s.part.stacks)) 4096 else u)
  t.over (segsWith lba blks Blk.auth) (fun u g => u.count (R.CPH_L_DEC_BYTES (g / 16 % s.part.stacks)) 65536)

/-- The read once its key is at hand. -/
def State.endReadKeyed (s : State) (l t : Nat) (g : Tag) (lba : Nat) (blks : List Blk) (dw0 : Nat) : State :=
  let s := s.countDec lba blks
  match blks.findIdx? (fun b => b.lost) with
  | some i => s.finish l t St.unrecovered 0 0xFFFF (lba + i)
  | none =>
    match blks.findIdx? s.tagBad with
    | none =>
      let r := s.gather blks
      (r.1.ioGive l t g 0 r.2).finish l t St.ok dw0
    | some i =>
      let off := (max lba ((lba + i) / 16 * 16) - lba) * 4096
      let r := s.gather (blks.take (off / 4096))
      let u := (r.1.ioGive l t g 0 r.2).ioGive l t g off (s.poisonBytes (blks.length * 4096 - off))
      let u := u.over (segsWith lba blks s.tagBad) (fun v g => v.count (R.CPH_L_TAG_FAIL (g / 16 % s.part.stacks)) 1)
      (u.cphCause 2).finish l t St.integrity off 0xFFFF (lba + off / 4096)

/-- A read command ends (R397, R402 to R407, R417, R255): Access Denied where a unit lies under another page than the command's, or under
one that holds no key; Unrecovered Read Error where a block is lost; Integrity Segment Failure with the poison fill from the first failing
segment on; else its data and dword 0. `lba` is the first block. -/
def State.endRead (s : State) (l t : Nat) (g : Tag) (lba : Nat) (blks : List Blk) (dw0 : Nat) : State :=
  let page := s.cmdPage l g.cmd.sqe.nsid.toNat
  let empty := match page with | some k => s.fld (F.CPH_KP_STATE_STATE k) == 0 | none => false
  match blks.findIdx? (fun b => empty || (b.page.isSome && b.page != page)) with
  | some i => s.finish l t St.accessDenied 0 0xFFFF (lba + i)
  | none =>
    match page with
    | some k =>
      match blks.findIdx? (fun b => b.page.isSome) with
      | some i =>
        if s.pageLoaded k then s.endReadKeyed l t g lba blks dw0
        else (s.keyMissing k).finish l t St.accessDenied 0 0xFFFF (lba + i)
      | none => s.endReadKeyed l t g lba blks dw0
    | none => s.endReadKeyed l t g lba blks dw0

/-- The blocks of a range. -/
def State.blks (s : State) (nsid lba n : Nat) : List Blk := (List.range n).map (fun i => s.blk nsid (lba + i))

/-- The extents a range touches. -/
def extsOf (lba n : Nat) : List Nat := (List.range ((lba + n - 1) / 256 + 1 - lba / 256)).map (lba / 256 + ·)

/-- Dword 0 of a Read (R90, R193): 0 for a general namespace. -/
def State.readWord (s : State) (nsid lba : Nat) (blks : List Blk) (stale : Bool) : Nat :=
  if s.isCapture nsid then
    readDw0 (blks.map Blk.state) ((extsOf lba blks.length).any (fun x => s.unlanded nsid x)) false stale
  else 0

/-! ## Media reads (R299, R300, R402) -/

/-- The data unit on flash that a Read of a block reads, by key. -/
def State.mediaUnit (s : State) (nsid a : Nat) : Option Nat :=
  if s.isCapture nsid then
    let x := a / 256
    if (s.ftl.capWrites.get none (extKey nsid x)).isSome || !s.capLanded nsid x || s.capLoc nsid x == noLoc then none
    else some (slotUnit (s.capLoc nsid x) (a % 256))
  else if s.ftl.wbuf.any (fun w => w.nsid == nsid && w.lba == a && w.dealloc == 0) || s.gen1 nsid a == noLoc then none
  else s.unitOf (s.gen1 nsid a)

/-- A data unit belongs to a clutch with GCM tags. -/
def State.authUnit (s : State) (key : Nat) : Bool :=
  match s.clutch (slotKey (key / 2 ^ 32) (unitIdx key / 256)) with | some c => c.auth | none => false

/-- The data units a read of some units fetches: of an authenticated extent, the whole of every segment it touches (R402). -/
def State.wholeSegs (s : State) (keys : List Nat) : List Nat :=
  (keys.flatMap (fun k => if s.authUnit k then (List.range 16).map (k / 16 * 16 + ·) else [k])).foldl addOnce []

/-- The data units that a Read of a range fetches. -/
def State.mediaUnits (s : State) (nsid lba n : Nat) : List Nat := s.wholeSegs ((List.range n).filterMap (fun i => s.mediaUnit nsid (lba + i)))

/-- The units a command's lookup found are read, and the tag keeps what it found (R131). -/
def State.noteSeen (s : State) (l t : Nat) (v : Seen) (keys : List Nat) : State :=
  match s.tag l t with
  | some g => (s.setTag l t (some { g with seen := some v })).queueMedia keys (some (.cmd l t))
  | none => s

/-- The one lookup of a Read of a range (R131); dword 0 bit 3 as `stale` tells. It waits while the range meets a span in Committing. -/
def State.lookRead (s : State) (l t nsid lba n : Nat) (stale : Bool) : State :=
  if s.meetsCommitting nsid lba n then s
  else
    let bs := s.blks nsid lba n
    s.noteSeen l t { blks := bs, dw0 := s.readWord nsid lba bs stale } (s.mediaUnits nsid lba n)

/-- What a command's lookup found. -/
def State.seen (s : State) (l t : Nat) : Option Seen := (s.tag l t).bind Tag.seen

/-- Media reads of some commands forgotten: they run, and nothing waits for them. -/
def State.unread (s : State) (p : Nat × Nat → Bool) : State :=
  let drop := fun (o : NandOp) => match o.reader with | some (.cmd l t) => if p (l, t) then { o with reader := none } else o | _ => o
  { s with nand := { s.nand with chans := s.nand.chans.map (fun e => (e.1, { e.2 with ops := e.2.ops.map drop, backlog := e.2.backlog.map drop })) } }

/-- Blocks of which those taken from HBM at the places `poison` come poisoned: they are lost to the command (R352). -/
def spoilBlks (poison : List Nat) (bs : List Blk) : List Blk :=
  (List.zip (List.range bs.length) bs).map (fun x => if x.2.hbm && poison.contains x.1 then { x.2 with lost := true } else x.2)

/-- A read command ends with what its lookup found, once its media reads are done. `poison` are the places, among its blocks, of data that
HBM delivers with a poison mark. -/
def State.endSeen (s : State) (l t : Nat) (g : Tag) (lba : Nat) (poison : List Nat) : State :=
  match s.seen l t with
  | none => s
  | some v => if s.awaiting (.cmd l t) then s else s.endRead l t g lba (spoilBlks poison v.blks) v.dw0

end Sys2Proof.Machine
end

