-- ==== Sys2Proof/Machine/Spans.lean ====
section
/-! DEFINITION. Provisional capture: triggers, the commands that decide spans, the pool, the commit instant, discards, and PROVISIONAL
READ (Provisional Capture: Tadpole Spans and Triggers). -/

namespace Sys2Proof.Machine

/-! ## Triggers (R121) -/

/-- Pin `p` is enabled: CAP.TRIG_CFG.PINp.EN. -/
def State.pinOn (s : State) (p : Nat) : Bool := s.on ⟨R.CAP_TRIG_CFG, 8 * p + 7, 1⟩

/-- The spans a pin edge commits in stream `n`: the current span and the TRIG_BACK spans (R121). -/
def State.pinSpans (s : State) (n : Nat) : List Nat := (s.backSpans n) ++ (s.curSpan n).toList

/-- The streams a pin edge acts on: Running, with TRIG_EN bit p set (R121). -/
def State.pinStreams (s : State) (p : Nat) : List Nat :=
  (List.range 64).filter (fun n => s.strState n == 1 && bit (s.fld (F.CAP_S_SPANCFG_TRIG_EN n)) p)

/-- TRIG_EDGE: a debounced active edge of TRIG[p] is detected and its time latched; it is a trigger where PINp.EN is 1 (R121). While
the fabric is not on, AON samples the ball: such an edge is at most a wake (R545). -/
def execTrigEdge (p : Nat) (s : State) : Res :=
  if s.inRun ∧ p < 4 then
    let s := s.setReg (R.CAP_TRIG_TIME p) (BitVec.ofNat 64 s.time.ftc)
    let ns := s.pinStreams p
    if !s.pinOn p then .next s
    else if ns.all (fun n => (s.pinSpans n).isEmpty) then .next (s.count R.CAP_TRIG_NOSPAN 1)
    else .next (s.over ns (fun u n => u.commitAll (u.pinSpans n) 1 p))
  else .next s

/-! ## CAPTURE COMMIT and CAPTURE DISCARD (R123 to R125) -/

/-- The span a span command names: by handle, or the current span of a stream, in the command's namespace (R125, R190). -/
def State.spanNamed (s : State) (c : Sqe) : Option Nat :=
  let k := if bit c.cdw11.toNat 31 then s.curSpan (bits c.cdw11.toNat 0 6) else s.named c.cdw10.toNat
  match k with
  | some k => if s.fld (F.CAP_SP_NSID k) = c.nsid.toNat then some k else none
  | none => none

/-- The checks of a span command: its fields, its namespace, Restricted mode (R506), and the span it names. -/
def State.spanCmd (s : State) (l : Nat) (g : Tag) : Sum IoErr Nat :=
  match s.vendorErr l g.cmd.sqe with
  | some e => .inl e
  | none =>
    match g.deny with
    | some d => .inl { st := d }
    | none => match s.spanNamed g.cmd.sqe with | some k => .inr k | none => .inl { st := St.spanNotFound }

/-- The command of a tag waits for a span's commit instant with an outcome code (R123). -/
def State.awaitSpan (s : State) (l t k code : Nat) : State :=
  match s.tag l t, s.span k with
  | some g, some v => (s.setTag l t (some { g with taken := true })).setSpan k (some { v with waits := v.waits ++ [{ lane := l, tag := t, code := code }] })
  | _, _ => s

/-- CAPTURE COMMIT: decides the span and waits for its commit instant; on a decided span it reports the outcome (R119, R123). -/
def execCaptureCommit (l t : Nat) (s : State) : Res :=
  match s.running l t 0x80 with
  | none => .next s
  | some g =>
    match s.spanCmd l g with
    | .inl e => .next (s.ioErr l t e)
    | .inr k =>
      match s.spState k with
      | 4 => .next (s.awaitSpan l t k 1)
      | 5 => .next (s.finish l t St.ok 1)
      | 6 => .next (s.finish l t St.ok 2)
      | 7 => .next (s.finish l t St.ok 2)
      | _ => .next ((s.decideSpan k true 3 0).awaitSpan l t k 0)

/-- CAPTURE DISCARD: completes when the descriptor accepts the discard (R119, R124); 001b on a span Committing or Committed, 010b on one
already Discarding or Discarded. -/
def execCaptureDiscard (l t : Nat) (s : State) : Res :=
  match s.running l t 0x84 with
  | none => .next s
  | some g =>
    match s.spanCmd l g with
    | .inl e => .next (s.ioErr l t e)
    | .inr k =>
      match s.spState k with
      | 4 => .next (s.finish l t St.ok 1)
      | 5 => .next (s.finish l t St.ok 1)
      | 6 => .next (s.finish l t St.ok 2)
      | 7 => .next (s.finish l t St.ok 2)
      | _ => .next ((s.decideSpan k false 3 0).finish l t St.ok 0)

/-! ## The pool's blocks (R111, R115) -/

/-- Slots of the pool's group blocks that provisional extents may take: all of those free, and those of the others that no landed clutch holds. -/
def State.poolSlots (s : State) : Nat :=
  (s.ftl.poolSet.map (fun k => s.gbUnits (k / 2 ^ 14) (k % 2 ^ 14) / 256
    - (s.ftl.clutches.filter (fun e => match e.2 with
        | some c => e.1 / 2 ^ 14 == k && s.capLanded c.nsid c.ext && s.capLoc c.nsid c.ext == e.1
        | none => false)).length)).foldl (· + ·) 0

/-- The free group blocks of the part, in the order the pool takes them: by number, then by group. R115 and R111 say only that they come from the
free blocks (DESIGN CHOICE, log entry 89). -/
def State.poolCands (s : State) : List Nat :=
  (List.range (((List.range 16).map s.maxBlocks).foldl max 0)).flatMap (fun b =>
    ((List.range 16).filter (fun g => (s.freeGbs g).contains b)).map (fun g => gbKey g b))

/-- Empty blocks that the pool holds beyond POOL_EXT extents go back to the free blocks (R111). -/
def State.trimPool (s : State) : State :=
  s.over (s.ftl.poolSet.filter (fun k => (s.gb k).state == .free)) (fun u k =>
    if u.fld F.CAP_SPAN_POOL_POOL_EXT + u.gbUnits (k / 2 ^ 14) (k % 2 ^ 14) / 256 ≤ u.poolSlots then
      u.setFtl { u.ftl with poolSet := u.ftl.poolSet.filter (· != k) } else u)

/-- The pool takes free blocks until it holds POOL_EXT extents (R111, R115). -/
def State.keepPool (s : State) : State :=
  if s.on F.CAP_SPAN_POOL_POOL_EN then
    (s.trimPool.over s.poolCands (fun u k => if u.poolSlots < u.fld F.CAP_SPAN_POOL_POOL_EXT then
      u.setFtl { u.ftl with poolSet := u.ftl.poolSet ++ [k] } else u)).updGroups
  else s

/-- POOL_EN is cleared: the pool's blocks are returned (R115). -/
def State.returnPool (s : State) : State :=
  if s.on F.CAP_SPAN_POOL_POOL_EN then s else (s.setFtl { s.ftl with poolSet := [] }).updGroups

/-! ## The commit instant and the end of a discard (R127, R129, R135) -/

/-- Extents of a span stored in the pool. -/
def SpanX.storedNo (v : SpanX) : Nat := (v.exts.filter (fun e => match e.2 with | some x => x.stored.isSome | none => false)).length

/-- Every extent of the range is sealed and, where it opened, stored or programmed (R127). A recovered span's missing extents need
neither (R138). -/
def State.commitReady (s : State) (k : Nat) (v : SpanX) : Bool :=
  let n := s.fld (F.CAP_SP_STREAM k)
  (s.on (F.CAP_SP_RECOVERED k) || s.allSealed n k) &&
  (s.spRange k).all (fun x => match v.exts.get none x with | some e => !e.opened || e.stored.isSome | none => true)

/-- No commit of the same stream that was accepted earlier is still to come (R127). -/
def State.commitTurn (s : State) (k : Nat) (v : SpanX) : Bool :=
  (s.strSpans (s.fld (F.CAP_SP_STREAM k))).all (fun j =>
    j == k || s.spState j != 4 || (match s.span j with | some w => decide (v.order ≤ w.order) | none => true))

/-- Extent `x` of a committed span swapped into the map: its clutch, or a fill extent (R127, R235). The units stay as they are: the commit record
gives them their origin sequence (R242). -/
def State.swapIn (s : State) (k : Nat) (v : SpanX) (x : Nat) : State :=
  let nsid := s.fld (F.CAP_SP_NSID k)
  let n := s.fld (F.CAP_SP_STREAM k)
  match v.exts.get none x with
  | some e =>
    match e.stored with
    | some loc =>
      match s.clutch loc with
      | some _ => s.mapExtent nsid x loc (s.media (loc / 2 ^ 14)).slc true (e.gapRec n true)
      | none => s.mapExtent nsid x noLoc false true (e.gapRec n true)
    | none => s.mapExtent nsid x noLoc false true (e.gapRec n true)
  | none => s.mapExtent nsid x noLoc false true
      ({ opened := false, isSealed := true, byOther := true, fill := s.reg (R.CAP_S_FILL n) : Extent }.gapRec n true)

/-- The span's extents are decided: the stream's LANDED and CURSOR may pass them (R135). -/
def State.noteDecided (s : State) (k : Nat) : State :=
  let n := s.fld (F.CAP_SP_STREAM k)
  if s.prov n ≠ 0 ∧ s.fld (F.CAP_SP_NSID k) = s.fld (F.CAP_S_NS_NSID n) then
    let t := s.setStr n { s.str n with decided := (s.str n).decided ++ [(s.spFirst k, s.fld (F.CAP_SP_EXT_COUNT k))] }
    (t.walkCursor n (t.walkFuel n)).landedMark n
  else s

/-- The commands that wait for a span's commit complete (R123). -/
def State.endWaits (s : State) (ws : List SpanWait) : State := s.over ws (fun u w => u.finish w.lane w.tag St.ok w.code)

/-- SPAN_COMMIT_INSTANT: the swap, its journal record, and the instant (R127, R128). -/
def execSpanCommitInstant (k : Nat) (s : State) : Res :=
  match s.span k with
  | none => .next s
  | some v =>
    if s.live ∧ s.spState k = 4 ∧ s.commitReady k v ∧ s.commitTurn k v then
      let o := s.seqs 1
      let pool := s.on (F.CAP_SP_MEDIUM k)
      let u := o.1.over (s.spRange k) (fun w x => w.swapIn k v x)
      let u := u.journal (.commit (s.spHandle k) (s.fld (F.CAP_SP_NSID k)) (s.spFirst k) (s.fld (F.CAP_SP_EXT_COUNT k)) pool o.2)
      let u := if pool then u.subFld F.CAP_SPAN_POOL_POOL_USED v.storedNo else u
      let u := (u.setFld (F.CAP_SP_STATE k) 5).count R.CAP_COMMITTED 1
      let u := u.count (R.CAP_S_EXT_LANDED (s.fld (F.CAP_SP_STREAM k))) (s.fld (F.CAP_SP_EXT_COUNT k))
      let u := (u.setSpan k (some { v with exts := [], waits := [], origin := o.2 })).noteDecided k
      .next ((u.keepPool.endWaits v.waits).autoFree k)
    else .next s

/-- A read command whose lookup found provisional content of a span is still reading (R133). -/
def State.spanRead (s : State) (k : Nat) : Bool :=
  s.nvme.lanes.any (fun e => e.2.tags.any (fun x => match x.2 with
    | some g => (match g.seen with | some v => v.spans.contains k | none => false)
    | none => false))

/-- SPAN_DISCARDED: once every extent of the range is sealed and no PROVISIONAL READ that looked the span up still reads it, ring space or pool blocks
are freed (R129, R133, R135). -/
def execSpanDiscarded (k : Nat) (s : State) : Res :=
  match s.span k with
  | none => .next s
  | some v =>
    if s.live ∧ s.spState k = 6 ∧ !s.spanRead k ∧ (s.on (F.CAP_SP_RECOVERED k) || s.allSealed (s.fld (F.CAP_SP_STREAM k)) k) = true then
      let u := s.over v.exts (fun w e => match e.2.bind Extent.stored with | some loc => w.setClutch loc none | none => w)
      let u := if s.on (F.CAP_SP_MEDIUM k) then u.subFld F.CAP_SPAN_POOL_POOL_USED v.storedNo else u
      let u := (u.setSpan k (some { v with exts := [] })).setFld (F.CAP_SP_STATE k) 7
      .next ((u.noteDecided k).autoFree k)
    else .next s

/-- SPAN_TIMEOUT: a span that has been Pending for its TIMEOUT is discarded (R126); a recovered one is not (R138). -/
def execSpanTimeout (k : Nat) (s : State) : Res :=
  match s.span k with
  | none => .next s
  | some v =>
    if s.live ∧ s.spState k = 3 ∧ v.timeout ≠ 0 ∧ !s.on (F.CAP_SP_RECOVERED k) then .next (s.decideSpan k false 4 0) else .next s

/-- SPAN_FREE: a Committed or Discarded span returns to Free (R117). -/
def execSpanFree (k : Nat) (s : State) : Res :=
  if s.live ∧ k < 4096 ∧ (s.spState k = 5 ∨ s.spState k = 7) then .next (s.freeSpan k) else .next s

/-! ## The flash pool (R111, R112, R115) -/

/-- The span of stream `n` with extent `x` sealed, opened and not yet stored. -/
def State.unstored (s : State) (n x : Nat) : Option (Nat × SpanX × Extent) :=
  (s.strSpans n).findSome? (fun k => match s.span k with
    | some v => match v.exts.get none x with
      | some e => if s.on (F.CAP_SP_MEDIUM k) && e.isSealed && e.opened && e.stored.isNone && decide (1 ≤ s.spState k ∧ s.spState k ≤ 4)
          then some (k, v, e) else none
      | none => none
    | none => none)

/-- An extent of a provisional span programmed: where its clutch lies; none where it must wait for its key (R417) or for a group block. Its units
are of kind 03h and carry the span's handle, in an HBM-ring commit too (DEDUCED, log entry 89: R288 drops kind 03h units of an HBM-ring span). -/
def State.programSpan (s : State) (k x : Nat) (e : Extent) (u : GbUse) : State × Option Nat :=
  let nsid := s.fld (F.CAP_SP_NSID k)
  if s.canEncipher nsid then
    s.programExtent nsid x u e.bytes e.fill (statesOf e.counts) true (s.spHandle k) false
  else (match s.nsPage nsid with | some p => s.keyMissing p | none => s, none)

/-- POOL_STORE: extent `x` of a span of stream `n` is stored into the pool (R111). Where the pool is full, POLICY 0 discards the
stream's oldest Pending span (R112); while the part is read-only, the extent's own span is discarded (R263). Programs of an overhang go first
(R275). -/
def execPoolStore (n x : Nat) (s : State) : Res :=
  match s.unstored n x with
  | none => .next s
  | some (k, v, ex) =>
    if !s.live ∨ s.overhangFirst then .next s
    else if s.on F.FTL_STATUS_READ_ONLY then
      .next (if s.undecided k && !s.on (F.CAP_SP_RECOVERED k) then s.decideSpan k false 5 0 else s)
    else if s.fld F.CAP_SPAN_POOL_POOL_USED < s.fld F.CAP_SPAN_POOL_POOL_EXT then
      match s.programSpan k x ex .pool with
      | (u, none) => .next u
      | (u, some loc) =>
        .next (((u.setSpan k (some { v with exts := v.exts.set none x (some { ex with stored := some loc }) })).addFld
          (F.CAP_SP_EXT_STORED k) 1).addFld F.CAP_SPAN_POOL_POOL_USED 1)
    else if s.on (F.CAP_S_SPANCFG_POLICY n) ∨ s.spaceComing n 1 then .next s
    else match s.oldestPending n 1 with
      | some j => .next (s.decideSpan j false 5 0)
      | none => .next s

/-- CAP.SPAN_POOL may be written (R115). -/
def State.poolOpen (s : State) : Bool :=
  (List.range 64).all (fun n => s.prov n != 2 || s.strState n == 0) && s.spansUsed.all (fun k => !s.on (F.CAP_SP_MEDIUM k))

/-- POOL_CONFIG: a write of CAP.SPAN_POOL (R115, R261). -/
def execPoolConfig (v : W64) (s : State) : Res :=
  if s.live ∧ s.poolOpen then
    let t := (s.setFld F.CAP_SPAN_POOL_WL (bits v.toNat 62 1)).setFld F.CAP_SPAN_POOL_POOL_EXT (bits v.toNat 32 28)
      |>.setFld F.CAP_SPAN_POOL_POOL_EN (bits v.toNat 63 1)
    let t := if t.on F.CAP_SPAN_POOL_POOL_EN ∧ t.spare < 2 * (s.fld F.FTL_SPARE_RESERVE_BLK : Int) then t.setFld F.CAP_SPAN_POOL_POOL_EN 0 else t
    .next (t.returnPool.keepPool.updGroups).checkSpare
  else .next s

/-! ## PROVISIONAL READ (R132, R133) -/

/-- The span whose sealed extent `x` a PROVISIONAL READ returns: of those undecided or Committing, the lowest descriptor in which `x` is sealed
(where several streams hold it, DESIGN CHOICE, log entry 86), else a recovered one that misses it (R138). -/
def State.provSpan (s : State) (nsid x : Nat) : Option Nat :=
  let ks := s.spansUsed.filter (fun k => decide (1 ≤ s.spState k ∧ s.spState k ≤ 4) && s.fld (F.CAP_SP_NSID k) == nsid &&
    decide (s.spFirst k ≤ x ∧ x < s.spTop k))
  (ks.find? (fun k => s.sealedIn k x)).or (ks.find? (fun k => s.on (F.CAP_SP_RECOVERED k)))

/-- Block `lba` as a PROVISIONAL READ returns it, and whether it is provisional content. -/
def State.provBlk (s : State) (nsid lba : Nat) : Blk × Bool :=
  let x := lba / 256
  let b := lba % 256
  match s.provSpan nsid x with
  | none => (s.capBlk nsid lba, false)
  | some k =>
    match (match s.span k with | some v => v.exts.get none x | none => none) with
    | some e =>
      if !e.isSealed then (s.capBlk nsid lba, false)
      else match e.stored.bind s.clutch with
        | some c => (c.blk b, true)
        | none => ({ bytes := blockBytes e.bytes e.fill b, state := (if e.opened then statesOf e.counts else allMissing).get 0 b, hbm := e.opened }, true)
    | none => if s.on (F.CAP_SP_RECOVERED k) then ({ s.capBlk nsid lba with state := 2 }, false) else (s.capBlk nsid lba, false)

/-- The data units on flash that a PROVISIONAL READ of a range fetches. -/
def State.provUnits (s : State) (nsid lba n : Nat) : List Nat :=
  s.wholeSegs ((List.range n).filterMap (fun i =>
    let x := (lba + i) / 256
    match (s.provSpan nsid x).bind (fun k => (s.span k).bind (fun v => v.exts.get none x)) with
    | some e => match e.stored with
      | some loc => some (slotUnit loc ((lba + i) % 256))
      | none => if e.isSealed then none else s.mediaUnit nsid (lba + i)
    | none => s.mediaUnit nsid (lba + i)))

/-- The one lookup of a PROVISIONAL READ (R131 to R133). A block that a Read would return meets R131: the lookup waits while its span is
Committing. -/
def State.lookProv (s : State) (l t nsid lba n : Nat) : State :=
  let bs := (List.range n).map (fun i => s.provBlk nsid (lba + i))
  if (List.zip (List.range n) bs).any (fun x => !x.2.2 && s.meetsCommitting nsid (lba + x.1) 1) then s
  else
    let b1 := (extsOf lba n).any (fun x => s.unlanded nsid x)
    let ks := ((List.range n).filter (fun i => (s.provBlk nsid (lba + i)).2)).filterMap (fun i => s.provSpan nsid ((lba + i) / 256))
    s.noteSeen l t { blks := bs.map Prod.fst, dw0 := readDw0 (bs.map (fun b => b.1.state)) b1 (bs.any Prod.snd) false
                     spans := ks.foldl addOnce [] } (s.provUnits nsid lba n)

/-- PROVISIONAL READ (R132): it looks its blocks up once, at COMMAND_START or, where that met a span in Committing, later (R131). -/
def execProvisionalRead (l t : Nat) (poison : List Nat) (s : State) : Res :=
  match s.running l t 0x82 with
  | none => .next s
  | some g =>
    let c := g.cmd.sqe
    match (s.vendorErr l c).or (s.rangeErr l c true) with
    | some e => .next (s.ioErr l t e)
    | none => .next ((if g.seen.isSome then s else s.lookProv l t c.nsid.toNat c.slba c.nlb).endSeen l t g c.slba poison)

end Sys2Proof.Machine
end

