-- ==== Sys2Proof/Machine/IoCommands.lean ====
section
/-! DEFINITION. The I/O commands of the lanes: starting, reads, writes and their admission to the protected window, deallocation and Flush
(Host Interface; Command Ordering, Flush, Reset, Abort and Lane Freeze; Power-Loss Protection). -/

namespace Sys2Proof.Machine

/-! ## Starting (R201, R202) -/

/-- The ranges a Dataset Management lists. -/
def Fetched.dsmRanges (f : Fetched) : List (Nat × Nat) :=
  (List.range (bits f.sqe.cdw10.toNat 0 8 + 1)).map (fun i => (Bytes.le f.data (16 * i + 8) 8, Bytes.le f.data (16 * i + 4) 4))

/-- The ranges of a command, as (first block, blocks), none empty; none for commands without a range (R201). The manual gives a Dataset
Management deallocation a range and does not speak of one without AD: DESIGN CHOICE, it has none (log entry 88). -/
def Fetched.ranges (f : Fetched) : List (Nat × Nat) :=
  let c := f.sqe
  match c.opc.toNat with
  | 0x01 => [(c.slba, c.nlb)]
  | 0x02 => [(c.slba, c.nlb)]
  | 0x08 => [(c.slba, c.nlb)]
  | 0x82 => [(c.slba, c.nlb)]
  | 0x86 => [(c.slba, c.nlb)]
  | 0x09 => if bit c.cdw11.toNat 2 then f.dsmRanges.filter (fun r => r.2 != 0) else []
  | _ => []

/-- Two commands name the same namespace and share a block. -/
def Fetched.overlaps (a b : Fetched) : Bool :=
  a.sqe.nsid == b.sqe.nsid &&
  a.ranges.any (fun x => b.ranges.any (fun y => decide (x.1 < y.1 + y.2 ∧ y.1 < x.1 + x.2)))

/-- The hint of a LOCATED READ matches the extent's entry (R248). -/
def State.hintOk (s : State) (c : Sqe) : Bool :=
  let x := c.slba / 256
  let nsid := c.nsid.toNat
  let gen := bits c.cdw14.toNat 0 16
  gen != 0 && s.capLanded nsid x && s.capLoc nsid x == c.cdw13.toNat && s.capGen nsid x == gen

/-- The media read of a LOCATED READ at the hinted location, started at once (R248): where the hint holds, it is the command's own read. -/
def State.readHinted (s : State) (c : Sqe) : State :=
  if s.hintOk c ∨ c.cdw13.toNat = noLoc then s
  else s.queueMedia (s.wholeSegs ((List.range c.nlb).map (fun i => slotUnit c.cdw13.toNat ((c.slba + i) % 256)))) none

/-- The lookup of a read command as it starts, and its media reads (R131, R132, R248). One that its checks will refuse looks nothing up. -/
def State.startRead (s : State) (l t : Nat) (c : Sqe) : State :=
  let nsid := c.nsid.toNat
  if (s.rangeErr l c true).isSome then s
  else if c.opc = 0x02 then (if c.ioFields.isSome then s else s.lookRead l t nsid c.slba c.nlb false)
  else if c.opc = 0x82 then (if (s.vendorErr l c).isSome then s else s.lookProv l t nsid c.slba c.nlb)
  else if c.opc = 0x86 then
    (if (s.vendorErr l c).isSome ∨ c.slba / 256 ≠ (c.slba + c.nlb - 1) / 256 then s
     else (s.readHinted c).lookRead l t nsid c.slba c.nlb (!s.hintOk c))
  else s

/-- COMMAND_START: a fetched command of a lane that is not Frozen starts once every earlier-fetched overlapping command has written or taken
its blocks; a read looks its blocks up and its media reads are queued. Another opcode completes with Invalid Command Opcode (R181). -/
def execCommandStart (l t : Nat) (s : State) : Res :=
  match s.tag l t with
  | none => .next s
  | some g =>
    let c := g.cmd.sqe
    let earlier := (s.busyTags l).any (fun x => decide (x.2.order < g.order) && x.2.stage != .reserved && !x.2.taken && x.2.cmd.overlaps g.cmd)
    if !s.live ∨ g.stage ≠ .waiting ∨ s.fld (F.LANE_STATUS_STATE l) ≠ 1 ∨ earlier then .next s
    else if !ioOpcodes.contains c.opc.toNat then .next (s.finish l t St.invalidOpcode 0 (ploc 0 0))
    else
      .next ((s.setTag l t (some { g with stage := .started })).startRead l t c)

/-! ## Reads (R89, R90, R191, R192) -/

/-- READ: what its one lookup found, once its media reads are done. A range that met a span in Committing is looked up when that has ended
(R131). -/
def execRead (l t : Nat) (poison : List Nat) (s : State) : Res :=
  match s.running l t 0x02 with
  | none => .next s
  | some g =>
    let c := g.cmd.sqe
    match c.ioFields.or (s.rangeErr l c true) with
    | some e => .next (s.ioErr l t e)
    | none => .next ((if g.seen.isSome then s else s.lookRead l t c.nsid.toNat c.slba c.nlb false).endSeen l t g c.slba poison)

/-- LOCATED READ: within one extent; what a Read of the range returns, with bit 3 where the hint is stale (R191, R248). -/
def execLocatedRead (l t : Nat) (poison : List Nat) (s : State) : Res :=
  match s.running l t 0x86 with
  | none => .next s
  | some g =>
    let c := g.cmd.sqe
    let cross : Option IoErr := if c.slba / 256 ≠ (c.slba + c.nlb - 1) / 256 then some { st := St.invalidField, at_ := some (12, 0) } else none
    match ((s.vendorErr l c).or (s.rangeErr l c true)).or cross with
    | some e => .next (s.ioErr l t e)
    | none => .next ((if g.seen.isSome then s else s.lookRead l t c.nsid.toNat c.slba c.nlb (!s.hintOk c)).endSeen l t g c.slba poison)

/-- GAP MAP READ: the records of the range's landed extents, in order (R88, R192). -/
def execGapMapRead (l t : Nat) (s : State) : Res :=
  match s.running l t 0x8A with
  | none => .next s
  | some g =>
    let c := g.cmd.sqe
    let nsid := c.nsid.toNat
    let n := bits c.cdw12.toNat 0 15 + 1
    let big : Option IoErr := if 21845 < n then some { st := St.invalidField, at_ := some (12, 0) } else none
    let past : Option IoErr :=
      if s.nsSize nsid / 256 < c.slba + n then some { st := St.lbaRange, at_ := some (10, 0), lba := max (256 * c.slba) (s.nsSize nsid) } else none
    match ((s.vendorErr l c).or big).or past with
    | some e => .next (s.ioErr l t e)
    | none =>
      let recs := ((List.range n).map (c.slba + ·)).filterMap (fun x =>
        if s.capLanded nsid x then (s.gap nsid x).map (fun r => r.bytes x) else none)
      .next ((s.ioGive l t g 0 recs.flatten).finish l t St.ok recs.length)

/-! ## The protected window (R271 to R274) -/

/-- The charge target V_T in mV (R268): min(VMAX, sqrt(2 × CEIL / (1.03 × C_m))), rounded down (the manual gives no rounding: DESIGN CHOICE,
log entry 89). -/
def State.vTarget (s : State) : Nat :=
  let c := s.fld F.PWR_HU_CAP_C_M
  if c = 0 then 0 else min (s.fld F.PWR_HU_VLIM_VMAX) (Nat.sqrt (200000000000 * s.fld F.PWR_HU_CFG_CEIL / (103 * c)))

/-- The window limit in MiB that the bank gives at `v` mV (R271): (EFF / 100) × 0.5 × 0.97 × C_m × (V² − VCUT²) − 0.5 J, 1 J for each
GiB. -/
def State.limitAt (s : State) (v : Nat) : Nat :=
  let e := 1024 * s.fld F.PWR_HU_CFG_EFF * 485 * s.fld F.PWR_HU_CAP_C_M * (v * v - s.fld F.PWR_HU_VLIM_VCUT * s.fld F.PWR_HU_VLIM_VCUT)
  (e - 512 * 10 ^ 17) / 10 ^ 17

/-- The limit that admits writes, in 4 KiB units: PWR.HU_WIN.LIMIT; while a 24-hour measurement waits or runs, at most what 0.95 × V_T
would give (R270). -/
def State.admitLimit (s : State) : Nat :=
  let lim := s.fld F.PWR_HU_WIN_LIMIT
  if s.hu.measWait || s.hu.measuring then min lim (256 * s.limitAt (s.vTarget * 95 / 100)) else lim

/-- Writes run write-through: the limit is below 2 MiB (R274). -/
def State.writeThrough (s : State) : Bool := decide (s.fld F.PWR_HU_WIN_LIMIT < 512)

/-- `n` units charged to the window. -/
def State.charge (s : State) (n : Nat) : State := s.addFld F.PWR_HU_WIN_IN_USE n

/-- One unit of the ledger entry that covers origin sequence `o` released; the entry is cleared with its last (R280). -/
def State.releaseUnit (s : State) (o : Nat) : State :=
  (s.subFld F.PWR_HU_WIN_IN_USE 1).setFtl { s.ftl with
    ledger := s.ftl.ledger.filterMap (fun e =>
      if e.origin ≤ o ∧ o < e.origin + e.count then (if e.left ≤ 1 then none else some { e with left := e.left - 1 }) else some e) }

/-- The charge of a capture extent released (R272). -/
def State.releaseExtent (s : State) (nsid x : Nat) : State :=
  (s.subFld F.PWR_HU_WIN_IN_USE 256).setFtl { s.ftl with
    ledger := s.ftl.ledger.filter (fun e => !(e.count == 256 && e.nsid == nsid && e.slba == 256 * x)) }

/-- A free slot of the ledger area from `k` on (R427). -/
def freeLedgerSlot (l : List Ledger) : Nat → Nat → Nat
  | 0, k => k
  | n + 1, k => if l.any (fun e => e.slot == k) then freeLedgerSlot l n ((k + 1) % 2 ^ 24) else k

/-- A ledger entry written, in the next free slot after the one last taken (R280, R427). -/
def State.enter (s : State) (e : Ledger) : State :=
  let k := freeLedgerSlot s.ftl.ledger s.ftl.ledger.length s.ftl.ledgerNext
  s.setFtl { s.ftl with ledger := s.ftl.ledger ++ [{ e with slot := k }], ledgerNext := (k + 1) % 2 ^ 24 }

/-- Volatile Write Cache is on for the function of a lane (R210). -/
def State.wce (s : State) (l : Nat) : Bool := bit ((s.fn (s.owner l)).features.get 0 0x06).toNat 0

/-! ## Writing (R202, R243, R246) -/

/-- The deallocation records of a command: each up to 255 ranges (R240). -/
def recordsOf (rs : List (Nat × Nat)) : List (List (Nat × Nat)) :=
  if rs.length ≤ 255 then (if rs.isEmpty then [] else [rs]) else [rs.take 255, rs.drop 255]

/-- The ranges a deallocation acts on: all of them in a general namespace, the whole extents inside each in a capture namespace (R182). -/
def State.deallocRanges (s : State) (nsid : Nat) (rs : List (Nat × Nat)) : List (Nat × Nat) :=
  let rs := rs.filter (fun r => r.2 != 0)
  if s.isCapture nsid then
    rs.filterMap (fun r =>
      let lo := (r.1 + 255) / 256
      let hi := (r.1 + r.2) / 256
      if lo < hi then some (256 * lo, 256 * (hi - lo)) else none)
  else rs

/-- The ranges a started command deallocates: Write Zeroes its own, Dataset Management with AD its list (R182). -/
def State.dropRanges (s : State) (g : Tag) : List (Nat × Nat) :=
  let c := g.cmd.sqe
  if c.opc = 0x08 then [(c.slba, c.nlb)]
  else s.deallocRanges c.nsid.toNat g.cmd.ranges

/-- The window units a command charges (R272). -/
def State.chargeOf (s : State) (l : Nat) (g : Tag) : Nat :=
  let c := g.cmd.sqe
  let nsid := c.nsid.toNat
  if c.opc = 0x01 then
    if s.isCapture nsid then
      if s.wce l then 0
      else 256 * ((extsOf c.slba c.nlb).filter (fun x => match s.ftl.capWrites.get none (extKey nsid x) with
        | some w => !w.charged | none => true)).length
    else c.nlb
  else (recordsOf (s.dropRanges g)).length

/-- The buffered copy of a general block, and its charge, gone (R243). -/
def State.unbuffer (s : State) (nsid lba : Nat) : State :=
  match s.ftl.wbuf.find? (fun w => w.nsid == nsid && w.lba == lba && w.dealloc == 0) with
  | none => s
  | some w =>
    let t := s.setFtl { s.ftl with wbuf := s.ftl.wbuf.filter (fun v => !(v.nsid == nsid && v.lba == lba && v.dealloc == 0)) }
    if w.charged then t.releaseUnit w.origin else t

/-- A general block's data enters the write buffer (R202, R243); those that waited for the copy it replaces wait for it. -/
def State.buffer (s : State) (nsid lba origin : Nat) (data : Bytes) (charged : Bool) (page : Option Nat) (waits : List (Nat × Nat)) : State :=
  let old := match s.ftl.wbuf.find? (fun w => w.nsid == nsid && w.lba == lba && w.dealloc == 0) with | some w => w.waits | none => []
  let t := s.unbuffer nsid lba
  t.setFtl { t.ftl with wbuf := t.ftl.wbuf ++
    [{ nsid := nsid, lba := lba, data := data, origin := origin, charged := charged, waits := old ++ waits, keyPage := page }] }

/-- A Write of a general namespace enters the buffer. -/
def State.putGeneral (s : State) (l t : Nat) (g : Tag) (charged : Bool) : State :=
  let c := g.cmd.sqe
  let nsid := c.nsid.toNat
  let o := s.seqs c.nlb
  let u := if charged then (o.1.charge c.nlb).enter
      { nsid := nsid, count := c.nlb, slba := c.slba, origin := o.2, lane := l, tag := t, left := c.nlb } else o.1
  u.over (List.range c.nlb) (fun w i => w.buffer nsid (c.slba + i) (o.2 + i) (fit 4096 (g.cmd.data.drop (4096 * i))) charged (s.cmdPage l nsid)
    (if charged then [] else [(l, t)]))

/-- A clutch was enciphered under another key than its page holds now. -/
def State.otherKey (s : State) (c : Clutch) : Bool := match c.keyPage with | some p => s.cph.keys.get [] p != c.key | none => false

/-- A capture extent opened for host Writes: its landed content copied, or zeros (R246). What cannot be read stays lost, and what fails its tag
goes on failing it; content under another key deciphers to free bytes. -/
def State.openWrite (s : State) (nsid x : Nat) : CapWrite :=
  match s.ftl.capWrites.get none (extKey nsid x) with
  | some w => w
  | none =>
    if s.capLanded nsid x then
      if s.capLoc nsid x = noLoc then
        match s.gap nsid x with
        | some r => { nsid := nsid, ext := x, bytes := [], fill := r.fill, states := r.states }
        | none => { nsid := nsid, ext := x, bytes := [], fill := 0, states := allMissing }
      else match s.clutch (s.capLoc nsid x) with
        | some k =>
          let other := s.otherKey k
          { nsid := nsid, ext := x, bytes := if other && !k.auth then Mem.putAll [] 0 (freeBytes s.free extBytes) else k.bytes, fill := k.fill
            states := k.states, lostUnits := k.lostUnits
            badUnits := if k.auth then (List.range 256).filter (fun b => other || (k.blk b).bad) else [] }
        | none => { nsid := nsid, ext := x, bytes := [], fill := 0, states := [], lostUnits := List.range 256 }
    else { nsid := nsid, ext := x, bytes := [], fill := 0, states := (List.range 256).foldl (fun t b => t.set 0 b 3) [] }

/-- A Write's blocks merged into extent `x` (R246): `cached` for data outside the window, `lands` where the extent must land for it. -/
def State.mergeExtent (s : State) (l t : Nat) (g : Tag) (x : Nat) (charged cached lands : Bool) : State :=
  let c := g.cmd.sqe
  let nsid := c.nsid.toNat
  let w := s.openWrite nsid x
  let blocks := (List.range c.nlb).filter (fun i => (c.slba + i) / 256 == x)
  let w' := { w with
    bytes := blocks.foldl (fun m i => m.putAll ((c.slba + i) % 256 * 4096) (fit 4096 (g.cmd.data.drop (4096 * i)))) w.bytes
    states := blocks.foldl (fun st i => st.set 0 ((c.slba + i) % 256) 0) w.states
    lostUnits := w.lostUnits.filter (fun b => !blocks.any (fun i => (c.slba + i) % 256 == b))
    badUnits := w.badUnits.filter (fun b => !blocks.any (fun i => (c.slba + i) % 256 == b))
    charged := w.charged || charged
    cached := w.cached || cached
    lands := w.lands || lands
    writers := if lands then w.writers ++ [(l, t)] else w.writers }
  let u := s.setFtl { s.ftl with capWrites := s.ftl.capWrites.set none (extKey nsid x) (some w') }
  let u := if (s.ftl.capWrites.get none (extKey nsid x)).isNone then { u with free := u.free + extBytes } else u
  if charged && !w.charged then
    let o := u.seqs 1
    (o.1.charge 256).enter { nsid := nsid, count := 256, slba := 256 * x, origin := o.2, lane := l, tag := t, left := 256 }
  else u

/-- A Write of a capture namespace enters the capture pool (R210, R246, R272). -/
def State.putCapture (s : State) (l t : Nat) (g : Tag) (charged : Bool) : State :=
  let c := g.cmd.sqe
  let cached := s.wce l
  let lands := (cached && bit c.cdw12.toNat 30) || (!cached && !charged)
  s.over (extsOf c.slba c.nlb) (fun u x => u.mergeExtent l t g x (charged && !cached) cached lands)

/-- A block or an extent unmapped (R182, R202, R236). -/
def State.unmapRange (s : State) (nsid : Nat) (r : Nat × Nat) : State :=
  if s.isCapture nsid then
    s.over (extsOf r.1 r.2) (fun u x =>
      let u := match u.ftl.capWrites.get none (extKey nsid x) with
        | some w => (if w.charged then u.releaseExtent nsid x else u)
        | none => u
      let u := u.setFtl { u.ftl with capWrites := u.ftl.capWrites.set none (extKey nsid x) none }
      if u.capLanded nsid x then (u.clearCap nsid x).setGap nsid x none else u)
  else s.over ((List.range r.2).map (r.1 + ·)) (fun u b => (u.unbuffer nsid b).setGen nsid b noLoc)

/-- A deallocation record's bytes (R240, kind 07h). -/
def dealloc (nsid : Nat) (rs : List (Nat × Nat)) : Bytes :=
  fit 4096 (leBytes 2 rs.length ++ zeros 14 ++ rs.flatMap (fun r => leBytes 8 r.1 ++ leBytes 4 r.2 ++ leBytes 4 nsid))

/-- A deallocation: the map changes and its records enter the buffer (R202, R245, R272). -/
def State.putDealloc (s : State) (l t : Nat) (g : Tag) (charged : Bool) : State :=
  let nsid := g.cmd.sqe.nsid.toNat
  let rs := s.dropRanges g
  let u := s.over rs (fun w r => w.unmapRange nsid r)
  u.over (recordsOf rs) (fun w rec =>
    let o := w.seqs 1
    let first := (rec.headD (0, 0)).1
    let w := if charged then (o.1.charge 1).enter
        { nsid := nsid, count := 1, slba := first, origin := o.2, lane := l, tag := t, left := 1 } else o.1
    w.setFtl { w.ftl with wbuf := w.ftl.wbuf ++
      [{ nsid := nsid, lba := first, data := dealloc nsid rec, origin := o.2, charged := charged, dealloc := rec.length
         waits := if charged then [] else [(l, t)] }] })

/-- A command's data enters the write buffer, or its map entries change: its blocks are written (R202). -/
def State.takeIn (s : State) (l t : Nat) (g : Tag) (charged : Bool) : State :=
  let u := s.setTag l t (some { g with taken := true, through := !charged })
  if g.cmd.sqe.opc = 0x01 then
    if s.isCapture g.cmd.sqe.nsid.toNat then u.putCapture l t g charged else u.putGeneral l t g charged
  else u.putDealloc l t g charged

/-- Writes held are counted and recorded (R273, R276). -/
def State.hold (s : State) (l t : Nat) : State :=
  let first := s.ftl.held.isEmpty
  let u := s.setFtl { s.ftl with held := s.ftl.held ++ [(l, t)], heldCount := (if first then 0 else s.ftl.heldCount) + 1 }
  let u := u.setFld F.PWR_HU_HELD_HELD u.ftl.held.length
  if first then
    (u.huCause 2).record 0x0008 ([byteOf 7, byteOf 8] ++ zeros 6 ++ leBytes 8 (4096 * u.fld F.PWR_HU_WIN_IN_USE)
      ++ leBytes 8 (4096 * u.fld F.PWR_HU_WIN_LIMIT) ++ zeros 8)
  else u

/-- Cached extents in the capture pool (R211). -/
def State.cachedExts (s : State) : Nat := (s.ftl.capWrites.filter (fun e => match e.2 with | some w => w.cached | none => false)).length

/-- A capture Write finds room in the capture pool: an extent each it would open, at most 8 GiB of cached ones (R80, R211). -/
def State.poolTakes (s : State) (l : Nat) (g : Tag) : Bool :=
  let c := g.cmd.sqe
  let nsid := c.nsid.toNat
  if c.opc = 0x01 ∧ s.isCapture nsid then
    let xs := extsOf c.slba c.nlb
    let new := xs.filter (fun x => (s.ftl.capWrites.get none (extKey nsid x)).isNone)
    let newCached := xs.filter (fun x => match s.ftl.capWrites.get none (extKey nsid x) with | some w => !w.cached | none => true)
    decide (s.poolUsed + new.length ≤ s.poolCap) && (!s.wce l || decide (s.cachedExts + newCached.length ≤ 8192))
  else true

/-- Every extent host Writes have opened is asked to land (R246: "when the cached or held data in the capture pool reaches its limit"). -/
def State.landAll (s : State) : State :=
  s.setFtl { s.ftl with capWrites := s.ftl.capWrites.map (fun e => (e.1, e.2.map (fun w => { w with lands := true }))) }

/-- The command writes nothing that the protected window takes in: a cached capture Write, which stays outside it until it lands (R210, R272), or a
deallocation without records (DEDUCED, log entry 33). -/
def State.outsideWindow (s : State) (l : Nat) (g : Tag) : Bool :=
  let c := g.cmd.sqe
  if c.opc = 0x01 then s.isCapture c.nsid.toNat && s.wce l else (recordsOf (s.dropRanges g)).isEmpty

/-- A command that writes is admitted, runs write-through, waits for pool room, or is held (R211, R273, R274). Held commands go first. -/
def State.letIn (s : State) (l t : Nat) (g : Tag) : State :=
  if s.ftl.held.contains (l, t) then s
  else if !s.poolTakes l g then s.landAll
  else if s.outsideWindow l g then s.takeIn l t g true
  else if s.writeThrough then s.takeIn l t g false
  else if s.ftl.held.isEmpty ∧ s.fld F.PWR_HU_WIN_IN_USE + s.chargeOf l g ≤ s.admitLimit then s.takeIn l t g true
  else s.hold l t

/-- A block lies in the window of a stream that is not Idle, in a capture namespace (R182). -/
def State.busyBlock (s : State) (nsid a : Nat) : Bool :=
  s.isCapture nsid && s.busyStreams.any (fun n => s.fld (F.CAP_S_NS_NSID n) == nsid &&
    decide (s.fld (F.CAP_S_WIN_WIN_BASE n) * 256 ≤ a ∧ a < (s.fld (F.CAP_S_WIN_WIN_BASE n) + s.fld (F.CAP_S_WIN_WIN_EXT n)) * 256))

/-- A range touches the window of a stream that is not Idle, in a capture namespace (R182). -/
def State.inBusyWindow (s : State) (nsid : Nat) (r : Nat × Nat) : Bool :=
  s.isCapture nsid && s.busyStreams.any (fun n => s.fld (F.CAP_S_NS_NSID n) == nsid &&
    decide (s.fld (F.CAP_S_WIN_WIN_BASE n) * 256 < r.1 + r.2 ∧
      r.1 < (s.fld (F.CAP_S_WIN_WIN_BASE n) + s.fld (F.CAP_S_WIN_WIN_EXT n)) * 256))

/-- The first block of a range in such a window (R221). -/
def State.firstBusy (s : State) (nsid : Nat) (r : Nat × Nat) : Nat :=
  if s.busyBlock nsid r.1 then r.1
  else least ((s.busyStreams.filter (fun n => s.fld (F.CAP_S_NS_NSID n) == nsid && decide (r.1 < s.fld (F.CAP_S_WIN_WIN_BASE n) * 256))).map
    (fun n => s.fld (F.CAP_S_WIN_WIN_BASE n) * 256))

/-- The key checks of a Write (R397, R405, R417): a queue page other than a capture namespace's default is refused, and a page without a key
denies access. -/
def State.writeKey (s : State) (l : Nat) (c : Sqe) : Option IoErr :=
  let nsid := c.nsid.toNat
  let q := (s.laneSq l).bind (fun q => q.keyPage)
  if s.isCapture nsid ∧ q.isSome ∧ q ≠ s.nsPage nsid then some { st := St.invalidField }
  else match s.cmdPage l nsid with
    | some k => if s.pageLoaded k then none else some { st := St.accessDenied, lba := c.slba }
    | none => none

/-- The status a command that writes completes with because of when it was fetched (R263, R404, R506). -/
def Tag.denied (g : Tag) : Option IoErr := g.deny.map (fun d => { st := d })

/-- Operation Denied, first at block `lba` (R182, R221). -/
def opDenied (b : Bool) (lba : Nat) : Option IoErr := if b then some { st := St.operationDenied, lba := lba } else none

/-- WRITE: checked, then admitted, held or run write-through (R181, R182, R210, R211, R273, R274). -/
def execWrite (l t : Nat) (s : State) : Res :=
  match s.running l t 0x01 with
  | none => .next s
  | some g =>
    let c := g.cmd.sqe
    let nsid := c.nsid.toNat
    let busy := opDenied (s.inBusyWindow nsid (c.slba, c.nlb)) (s.firstBusy nsid (c.slba, c.nlb))
    match (((c.ioFields.or (s.rangeErr l c true)).or g.denied).or (s.writeKey l c)).or busy with
    | some e =>
      let u := if e.st = St.accessDenied then (match s.cmdPage l nsid with
        | some k => if s.fld (F.CPH_KP_STATE_STATE k) = 2 then s.keyMissing k else s
        | none => s) else s
      .next (u.ioErr l t e)
    | none => .next (s.letIn l t g)

/-- WRITE ZEROES: unmaps the blocks of a general namespace; denied in a capture namespace (R182, R263). -/
def execWriteZeroes (l t : Nat) (s : State) : Res :=
  match s.running l t 0x08 with
  | none => .next s
  | some g =>
    let c := g.cmd.sqe
    match ((c.ioFields.or (s.rangeErr l c false)).or g.denied).or (opDenied (s.isCapture c.nsid.toNat) c.slba) with
    | some e => .next (s.ioErr l t e)
    | none => .next (s.letIn l t g)

/-- DATASET MANAGEMENT: with AD, deallocates (R182); without, its hints are ignored and it has no effect. R181's LBA Out of Range is for a range
that runs past the namespace; whether it holds for ranges that nothing is done with the manual does not say: DESIGN CHOICE, only with AD (log entry
88). -/
def execDatasetManagement (l t : Nat) (s : State) : Res :=
  match s.running l t 0x09 with
  | none => .next s
  | some g =>
    let nsid := g.cmd.sqe.nsid.toNat
    let rs := g.cmd.ranges
    let past : Option IoErr := (rs.find? (fun r => decide (s.nsSize nsid < r.1 + r.2))).map (fun r => { st := St.lbaRange, lba := max r.1 (s.nsSize nsid) })
    let busy : Option IoErr := (rs.find? (s.inBusyWindow nsid)).map (fun r => { st := St.operationDenied, lba := s.firstBusy nsid r })
    match (((s.nsErr l nsid).or past).or g.denied).or busy with
    | some e => .next (s.ioErr l t e)
    | none => .next (s.letIn l t g)

/-- HELD_WRITE_ADMIT: the write held longest is admitted once the window has room, or proceeds write-through (R273, R274); with the last one
the recorder writes how many were held (R276). -/
def execHeldWriteAdmit (s : State) : Res :=
  match s.ftl.held with
  | [] => .next s
  | (l, t) :: rest =>
    match s.tag l t with
    | none => .next s
    | some g =>
      let fits := decide (s.fld F.PWR_HU_WIN_IN_USE + s.chargeOf l g ≤ s.admitLimit)
      if !s.live ∨ !(s.writeThrough || fits) ∨ !s.poolTakes l g then .next s
      else
        let u := ((s.setFtl { s.ftl with held := rest }).setFld F.PWR_HU_HELD_HELD rest.length).takeIn l t g (!s.writeThrough)
        .next (if rest.isEmpty then u.record 0x0009 (leBytes 8 s.ftl.heldCount ++ zeros 8) else u)

/-- A command waits until data of it is verified on flash or an extent of it lands. -/
def State.unverified (s : State) (l t : Nat) : Bool :=
  s.ftl.wbuf.any (fun w => w.waits.contains (l, t))
  || s.ftl.capWrites.any (fun e => match e.2 with | some w => w.writers.contains (l, t) | none => false)

/-- The cached extents of a Write that has completed take the number of completions posted (R208). -/
def State.noteDone (s : State) (g : Tag) : State :=
  let c := g.cmd.sqe
  let nsid := c.nsid.toNat
  if c.opc = 0x01 ∧ s.isCapture nsid then
    s.over (extsOf c.slba c.nlb) (fun u x => match u.ftl.capWrites.get none (extKey nsid x) with
      | some w =>
        if w.doneAt = 0 then u.setFtl { u.ftl with capWrites := u.ftl.capWrites.set none (extKey nsid x) (some { w with doneAt := u.nvme.posted }) }
        else u
      | none => u)
  else s

/-- WRITE_COMPLETE: a command that has written its blocks completes, once what it waits for is on flash (R209, R210, R274). -/
def execWriteComplete (l t : Nat) (s : State) : Res :=
  match s.tag l t with
  | none => .next s
  | some g =>
    let o := g.cmd.sqe.opc
    if s.live ∧ g.stage = .started ∧ g.taken ∧ (o = 0x01 ∨ o = 0x08 ∨ o = 0x09) ∧ !s.unverified l t then
      .next ((s.finish l t St.ok).noteDone g)
    else .next s

/-! ## Flush (R208, R210) -/

/-- A Flush of a lane covers a namespace. -/
def State.covers (s : State) (l : Nat) (c : Sqe) (nsid : Nat) : Bool :=
  if c.nsid.toNat = 0xFFFFFFFF then s.attachedTo nsid (s.owner l) else c.nsid.toNat == nsid

/-- Extents with cached data that a Flush covers: written by a Write completed before the Flush was fetched. -/
def State.flushNeeds (s : State) (l : Nat) (g : Tag) (w : CapWrite) : Bool :=
  s.covers l g.cmd.sqe w.nsid && w.cached && decide (w.doneAt ≠ 0 ∧ w.doneAt ≤ g.fetchedAt)

/-- What a Flush's namespace check answers: with NSID FFFFFFFFh, that of the first namespace it covers which is not ready (R173). -/
def State.flushErr (s : State) (l : Nat) (c : Sqe) : Option IoErr :=
  if c.nsid.toNat = 0xFFFFFFFF then ((s.nvme.nss.map Prod.fst).filter (fun n => s.attachedTo n (s.owner l))).findSome? (s.nsErr l)
  else s.nsErr l c.nsid.toNat

/-- FLUSH: completes when every covered cached write has landed; the extents it needs are asked to land (R208, R210, R246). -/
def execFlush (l t : Nat) (s : State) : Res :=
  match s.running l t 0x00 with
  | none => .next s
  | some g =>
    match s.flushErr l g.cmd.sqe with
    | some e => .next (s.ioErr l t e)
    | none =>
      if s.ftl.capWrites.any (fun e => match e.2 with | some w => s.flushNeeds l g w | none => false) then
        .next (s.setFtl { s.ftl with capWrites := s.ftl.capWrites.map (fun e =>
          (e.1, e.2.map (fun w => if s.flushNeeds l g w then { w with lands := true } else w))) })
      else .next (s.finish l t St.ok)

/-- CAPTURE_WRITE_IDLE_EXPIRY: an extent no Write has touched for 1 ms is asked to land (R246). -/
def execCaptureWriteIdleExpiry (nsid x : Nat) (s : State) : Res :=
  match s.ftl.capWrites.get none (extKey nsid x) with
  | some w => .next (s.setFtl { s.ftl with capWrites := s.ftl.capWrites.set none (extKey nsid x) (some { w with lands := true }) })
  | none => .next s

end Sys2Proof.Machine
end

