-- ==== Sys2Proof/Machine/Units.lean ====
section
/-! DEFINITION. A data unit as it is stored: enciphered at rest (R395 to R400), with its spare record (R239, R240), in a codeword (R297, R298). The
model keeps what a unit holds; these functions say which bytes that is on the die. -/

namespace Sys2Proof.Machine

/-! ## At rest (R395, R398, R399) -/

/-- A data unit under XTS with the two 32-byte halves of its key: the tweak is NSID × 2^64 + LBA (R398). -/
def xtsUnit (key : Bytes) (nsid lba : Nat) (data : Bytes) : Bytes :=
  Crypto.xtsSeal (key.take 32) ((key.drop 32).take 32) (leBytes 16 (nsid * 2 ^ 64 + lba)) data

/-- The initialization vector of segment s of a clutch (R399): key page, device salt, and the invocation field, most significant byte first. -/
def Clutch.iv (c : Clutch) (salt s : Nat) : Bytes :=
  [byteOf (c.keyPage.getD 0)] ++ leBytes 3 salt ++ beBytes 8 (c.origin * 16 + s)

/-- The additional data of segment s of a clutch (R399). -/
def Clutch.aad (c : Clutch) (s : Nat) : Bytes := leBytes 4 c.nsid ++ leBytes 8 c.ext ++ leBytes 1 s ++ zeros 3

/-- The 65,536 bytes of segment s of a clutch before encipherment. -/
def Clutch.segment (c : Clutch) (s : Nat) : Bytes := (List.range 16).flatMap (fun i => blockBytes c.bytes c.fill (16 * s + i))

/-- Segment s of an authenticated clutch as stored, and its tag behind it. -/
def Clutch.sealed (c : Clutch) (salt s : Nat) : Bytes := Crypto.gcmSeal c.key (c.iv salt s) (c.aad s) (c.segment s)

/-- The 4,096 bytes of unit u of a clutch as stored; zeros for a unit copied as lost (R255). -/
def Clutch.stored (c : Clutch) (salt u : Nat) : Bytes :=
  if c.lostUnits.contains u then zeros 4096
  else if c.keyPage.isNone then blockBytes c.bytes c.fill u
  else if c.auth then ((c.sealed salt (u / 16)).drop (u % 16 * 4096)).take 4096
  else xtsUnit c.key c.nsid (256 * c.ext + u) (blockBytes c.bytes c.fill u)

/-- The 4,096 bytes of another unit as stored. What a pad unit holds the manual does not say: free bytes. -/
def FUnit.stored (f : FUnit) : Bytes :=
  if f.kind = 6 then (List.range 4096).map (fun i => Config.freeByte (f.wseq + i))
  else if f.kind = 1 ∧ f.keyPage.isSome then xtsUnit f.key f.nsid f.laddr f.data
  else f.data

/-! ## Spare records (R239) -/

/-- The 64 bytes of a spare record from its fields. -/
def spareRecord (nsid kind flags page laddr wseq origin : Nat) (tag : Bytes) (handle : Nat) (stored : Bytes) : Bytes :=
  let head := leBytes 4 nsid ++ [byteOf kind, byteOf flags, byteOf page, 0] ++ leBytes 8 laddr ++ leBytes 8 wseq ++ leBytes 8 origin ++ fit 16 tag
    ++ leBytes 4 handle ++ zeros 4 ++ leBytes 4 (crc32c stored).toNat
  head ++ leBytes 4 (crc32c head).toNat

/-- The spare record of unit u of a clutch: kind 02h, or 03h where it was provisional (R240); the tag of a segment with its last unit. -/
def Clutch.spare (c : Clutch) (salt u : Nat) : Bytes :=
  let tagged := c.auth && u % 16 == 15
  let flags := c.states.get 0 u % 4 + 4 * ofBool c.copied + 8 * ofBool c.keyPage.isSome + 16 * ofBool (c.lostUnits.contains u) + 32 * ofBool tagged
  spareRecord c.nsid (if c.pool then 3 else 2) flags (c.keyPage.getD 0) (256 * c.ext + u) (c.wseq + u) c.origin
    (if tagged then (c.sealed salt (u / 16)).drop 65536 else []) (if c.pool then c.handle else 0) (c.stored salt u)

/-- The spare record of another unit. -/
def FUnit.spare (f : FUnit) : Bytes :=
  let coded := f.kind == 1 && f.keyPage.isSome
  spareRecord (if f.kind = 1 then f.nsid else 0) f.kind (4 * ofBool f.copied + 8 * ofBool coded + 16 * ofBool f.lost)
    (if coded then f.keyPage.getD 0 else 0) f.laddr f.wseq f.origin [] 0 f.stored

/-- A kind of R240; any other makes a programmed unit invalid to every rebuild. -/
def goodKind (k : Nat) : Bool := decide (1 ≤ k ∧ k ≤ 7)

/-! ## Codewords (R297, R298) -/

/-- A codeword: data, spare record, and the 448 bytes of parity of a code the manual does not give. -/
def codeword (stored spare : Bytes) : Bytes := stored ++ spare ++ (List.range 448).map (fun i => Config.ldpcParity (stored ++ spare) i)

/-- The bytes a codeword has on the die: XORed with the sequence that the die number, the NAND block and the page row seed (R298). -/
def onDie (die block row : Nat) (cw : Bytes) : Bytes :=
  List.zipWith (fun b i => b ^^^ Config.scramble die block row i) cw (List.range cw.length)

/-- The stored bytes and the spare record of the data unit at `key`; none where nothing is programmed. -/
def State.unitBytes (s : State) (key : Nat) : Option (Bytes × Bytes) :=
  let salt := s.fld F.CPH_SALT_SALT
  match s.clutch (slotKey (key / 2 ^ 32) (unitIdx key / 256)) with
  | some c => some (c.stored salt (unitIdx key % 256), c.spare salt (unitIdx key % 256))
  | none => (s.unit key).map (fun f => (f.stored, f.spare))

/-- The codeword of the data unit at `key` as its die holds it (R231, R297, R298). -/
def State.mediaCodeword (s : State) (key : Nat) : Option Bytes :=
  (s.unitBytes key).map (fun x =>
    let g := unitGroup key
    let p := unitIdx key / 4
    onDie (s.pageDie g (unitGb key) p % 16) (unitGb key) (s.pageRow g (unitGb key) p) (codeword x.1 x.2))

/-- The logical block a data unit holds: the logical address of its spare record. -/
def State.unitLba (s : State) (key : Nat) : Option Nat :=
  match s.clutch (slotKey (key / 2 ^ 32) (unitIdx key / 256)) with
  | some c => some (256 * c.ext + unitIdx key % 256)
  | none => (s.unit key).map (fun f => f.laddr)

end Sys2Proof.Machine
end

