-- ==== Sys2Proof/Machine/Ftl.lean ====
section
/-! DEFINITION. The translation layer's commands: landing, garbage collection, wear levelling, failing blocks, general units and checkpoints
(Flash Translation and Media Management). -/

namespace Sys2Proof.Machine

/-! ## Landing (R91, R244, R246) -/

/-- The extent of an earlier window that lands next as extent `x` of a namespace. -/
def State.drainOf (s : State) (nsid x : Nat) : Option Drain := s.cap.drains.find? (fun d => d.nsid == nsid && d.idx == x)

/-- The stream that holds extent `x` of a namespace, not of a span, sealed and not landed: one of an earlier window first. -/
def State.sealedOf (s : State) (nsid x : Nat) : Option (Nat × Extent) :=
  match s.drainOf nsid x with
  | some d => some (d.stream, d.ext)
  | none => (List.range 64).findSome? (fun n =>
    if s.fld (F.CAP_S_NS_NSID n) = nsid then
      match (s.str n).exts.get none x with
      | some e => if e.isSealed && !e.landed then some (n, e) else none
      | none => none
    else none)

/-- The Committing HBM-ring span that holds extent `x` of a namespace sealed and not programmed (R127). -/
def State.ringOf (s : State) (nsid x : Nat) : Option (Nat × SpanX × Extent) :=
  s.spansUsed.findSome? (fun k =>
    if s.spState k = 4 ∧ !s.on (F.CAP_SP_MEDIUM k) ∧ s.fld (F.CAP_SP_NSID k) = nsid then
      match s.span k with
      | some v => match v.exts.get none x with
        | some e => if e.isSealed && e.opened && e.stored.isNone then some (k, v, e) else none
        | none => none
      | none => none
    else none)

/-- The gap record of an extent that host Writes landed (R246, R553): the stream number of the record it replaces, a free one where there is
none. -/
def State.hostGap (s : State) (w : CapWrite) : GapRec :=
  { stream := match s.gap w.nsid w.ext with | some r => r.stream | none => Config.freeNat s.free % 64
    flags := ofBool w.states.isEmpty, states := w.states, first := 0, last := 0, fill := w.fill }

/-- An extent that host Writes opened lands (R246); its charge is released (R272). -/
def State.landWrite (s : State) (w : CapWrite) : State :=
  match s.programExtent w.nsid w.ext .capture w.bytes w.fill w.states false 0 w.charged with
  | (t, none) => t
  | (t, some loc) =>
    let u := ((t.mapExtent w.nsid w.ext loc (t.media (loc / 2 ^ 14)).slc false (t.hostGap w)).draw).loseClutch loc (w.lostList false) w.badUnits
    let u := u.setFtl { u.ftl with capWrites := u.ftl.capWrites.set none (extKey w.nsid w.ext) none }
    if w.charged then u.releaseExtent w.nsid w.ext else u

/-- A stream's extent has landed: it counts, and LANDED moves (R93) where it lies in the stream's present window. -/
def State.noteLanded (s : State) (nsid n x : Nat) (e : Extent) : State :=
  match s.drainOf nsid x with
  | some d => (s.setDrains (s.cap.drains.erase d)).count (R.CAP_S_EXT_LANDED n) 1
  | none => ((s.setStr n { s.str n with exts := (s.str n).exts.set none x (some { e with landed := true }) }).count (R.CAP_S_EXT_LANDED n) 1).landedMark n

/-- A sealed extent of an ordinary stream lands: programmed, or as a fill extent where it never opened (R85, R91, R235, R244). -/
def State.landSealed (s : State) (nsid n x : Nat) (e : Extent) : State :=
  if e.opened then
    match s.programExtent nsid x .capture e.bytes e.fill (statesOf e.counts) false 0 false with
    | (t, none) => t
    | (t, some loc) => (t.mapExtent nsid x loc (t.media (loc / 2 ^ 14)).slc false (e.gapRec n false)).noteLanded nsid n x e
  else (s.mapExtent nsid x noLoc false false (e.gapRec n false)).noteLanded nsid n x e

/-- The extent that host Writes opened and that is asked to land: while an overhang is programmed, only a charged one (R275). -/
def State.writeToLand (s : State) (nsid x : Nat) : Option CapWrite :=
  match s.ftl.capWrites.get none (extKey nsid x) with
  | some w => if w.lands && (w.charged || !s.overhangFirst) then some w else none
  | none => none

/-- EXTENT_LAND: extent `x` of a capture namespace lands. It waits while its key page holds no key (R417), while no group block of its group can
take it (R244, R249), and while the programs of an overhang go first (R275). An extent of a Committing HBM-ring span is programmed, and lands at
its commit instant. `poison` are the blocks of the extent that come out of HBM poisoned (R352). -/
def execExtentLand (nsid x : Nat) (poison : List Nat) (s : State) : Res :=
  if !s.live then .next s
  else
    let wait := match s.nsPage nsid with | some p => s.keyMissing p | none => s
    match s.writeToLand nsid x with
    | some w => .next (if s.canEncipher nsid || w.lost then s.landWrite (w.spoil poison) else wait)
    | none =>
      if s.overhangFirst then .next s
      else match s.sealedOf nsid x with
      | some (n, e) => .next (if s.canEncipher nsid || !e.opened then s.landSealed nsid n x (e.spoil poison) else wait)
      | none =>
        match s.ringOf nsid x with
        | some (k, v, e) =>
          match s.programSpan k x (e.spoil poison) .capture with
          | (u, none) => .next u
          | (u, some loc) => .next (u.setSpan k (some { v with exts := v.exts.set none x (some { e.spoil poison with stored := some loc }) }))
        | none => .next s

/-! ## General units (R245) -/

/-- The oldest entry of the write buffer that goes to group `g`; while the window in use exceeds its limit, the oldest charged one (R275). -/
def State.oldestFor (s : State) (g : Nat) : Option WbEntry :=
  let mine := s.ftl.wbuf.filter (fun w => s.generalGroup w.lba == g)
  if s.overhang then (mine.find? (fun w => w.charged)).or mine.head? else mine.head?

/-- A buffered entry as it lies on flash; lost where its page holds no key (R417), or where its data comes out of HBM poisoned (R352). -/
def State.asUnit (s : State) (w : WbEntry) (seq : Nat) (poison : Bool) : FUnit :=
  let lost := w.lost || poison || match w.keyPage with | some k => !s.pageLoaded k | none => false
  { nsid := w.nsid, kind := if w.dealloc = 0 then 1 else 7, lost := lost, keyPage := w.keyPage
    key := match w.keyPage with | some k => s.cph.keys.get [] k | none => []
    laddr := if w.dealloc = 0 then w.lba else 0, wseq := seq, origin := w.origin, data := if lost then zeros 4096 else w.data }

/-- UNIT_PROGRAM_VERIFIED: the oldest entry of the write buffer that goes to group `g` is placed and verified: its map entry changes to the
unit and its charge is released (R241, R245, R272). It waits where the group has no open block and free blocks go to relocation (R249). -/
def execUnitProgramVerified (g : Nat) (poison : Bool) (s : State) : Res :=
  if s.live ∧ g < 16 then
    match s.oldestFor g with
    | none => .next s
    | some w =>
      match s.takeUnit g .general with
      | (t, none) => .next t
      | (t, some key) =>
        let o := t.seqs 1
        let f := t.asUnit w o.2 (poison && w.dealloc == 0)
        let u := o.1.setUnit key (some f)
        let u := u.setFtl { u.ftl with wbuf := u.ftl.wbuf.filter (fun v => v.origin != w.origin) }
        let u := if w.dealloc = 0 then u.setGen w.nsid w.lba (u.unitNo key) else u
        let u := if w.charged then u.releaseUnit w.origin else u
        let u := match w.keyPage with
          | some k => if !s.pageLoaded k then u.keyMissing k else if f.lost then u else u.count (R.CPH_L_ENC_BYTES (w.lba / 256 % s.part.stacks)) 4096
          | none => u
        let u := if f.lost then u.ftlCause 8 else u
        .next ((u.queuePrograms g (unitGb key) (unitIdx key) 1 w.charged).checkSpare)
  else .next s

/-! ## Valid units (R250) -/

/-- The span whose extent list points at a slot. -/
def State.spanAt (s : State) (loc : Nat) : Option (Nat × Nat) :=
  s.spansUsed.findSome? (fun k => match s.span k with
    | some v => (v.exts.find? (fun e => match e.2 with | some x => x.stored == some loc | none => false)).map (fun e => (k, e.1))
    | none => none)

/-- The live map, or a span's extent list, points at a clutch. -/
def State.clutchLive (s : State) (loc : Nat) (c : Clutch) : Bool :=
  (s.capLanded c.nsid c.ext && s.capLoc c.nsid c.ext == loc) || (s.spanAt loc).isSome

/-- A unit is valid: the live map points at it, it is the newest gap table unit of its index or a unit of the newest checkpoint, or a deallocation
record. -/
def State.unitLive (s : State) (key : Nat) (u : FUnit) : Bool :=
  match u.kind with
  | 1 => s.gen1 u.nsid u.laddr == s.unitNo key
  | 4 => s.metaAt 4 u.laddr == some key && (match s.ftl.ckpt with | some c => c.pages.contains u.laddr | none => false)
  | 5 => s.metaAt 5 u.laddr == some key
  | 7 => true
  | _ => false

/-- The valid contents of a group block: slots as 2 × location, units as 2 × key + 1. -/
def State.validItems (s : State) (k : Nat) : List Nat :=
  s.ftl.clutches.filterMap (fun e => match e.2 with
    | some c => if e.1 / 2 ^ 14 = k ∧ s.clutchLive e.1 c then some (2 * e.1) else none
    | none => none)
  ++ s.ftl.units.filterMap (fun e => match e.2 with
    | some u => if e.1 / 2 ^ 32 = k ∧ s.unitLive e.1 u then some (2 * e.1 + 1) else none
    | none => none)

/-- Valid units of a group block. -/
def State.validUnits (s : State) (k : Nat) : Nat :=
  ((s.validItems k).map (fun i => if i % 2 = 0 then 256 else 1)).foldl (· + ·) 0

/-- The closed group blocks of a group. -/
def State.closedGbs (s : State) (g : Nat) : List Nat :=
  (s.ftl.gbs.filter (fun e => e.1 / 2 ^ 14 == g && e.2.state == .closed)).map (fun e => e.1 % 2 ^ 14)

/-- The best of a list by a strict order, the earliest closed on ties, then the lower number. -/
def State.pickBy (s : State) (g : Nat) (less : Nat → Nat → Bool) : List Nat → Option Nat
  | [] => none
  | b :: t => some (t.foldl (fun m x =>
      if less x m || (!less m x && decide ((s.gb (gbKey g x)).closed < (s.gb (gbKey g m)).closed)) then x else m) b)

/-- The victim (R250): the closed group block with the lowest fraction of valid units. -/
def State.victim (s : State) (g : Nat) : Option Nat :=
  s.pickBy g (fun x y => decide (s.validUnits (gbKey g x) * s.gbPages g y < s.validUnits (gbKey g y) * s.gbPages g x)) (s.closedGbs g)

/-! ## Copies (R251, R252, R255, R396) -/

/-- The copy of a slot: raw, its origin sequence kept, with a new write sequence; `lost` are the units that could not be read, which are copied as
lost, their data zeros (Clutch.stored). It is switched to only where the map, or the span's list, still points at the source (R252). -/
def State.copyClutch (s : State) (g loc : Nat) (use : GbUse) (lost : List Nat) : State × Option Nat :=
  match s.clutch loc with
  | none => (s, none)
  | some c =>
    match s.takeSlot g use with
    | (t, none) => (t, none)
    | (t, some new) =>
      let w := t.seqs 256
      let u := w.1.setClutch new (some { c with copied := true, wseq := w.2, lostUnits := lost.foldl addOnce c.lostUnits })
      let u := u.queuePrograms g (new / 2 ^ 14 % 2 ^ 14) (256 * (new % 2 ^ 14)) 256 false
      let u := if lost.isEmpty then u else u.ftlCause 8
      let u := if s.capLanded c.nsid c.ext ∧ s.capLoc c.nsid c.ext = loc then
          u.setCap c.nsid c.ext true (s.capAuth c.nsid c.ext) (s.capTadpole c.nsid c.ext) (u.media (new / 2 ^ 14)).slc (c.keyPage.getD 0) new
        else u
      match s.spanAt loc with
      | some (k, x) => match u.span k with
        | some v => match v.exts.get none x with
          | some e => (u.setSpan k (some { v with exts := v.exts.set none x (some { e with stored := some new }) }), some (slotUnit new 0))
          | none => (u, some (slotUnit new 0))
        | none => (u, some (slotUnit new 0))
      | none => (u, some (slotUnit new 0))

/-- The copy of another unit. -/
def State.copyUnit (s : State) (g key : Nat) (use : GbUse) (lost : Bool) : State × Option Nat :=
  match s.unit key with
  | none => (s, none)
  | some f =>
    match s.takeUnit g use with
    | (t, none) => (t, none)
    | (t, some new) =>
      let w := t.seqs 1
      let u := w.1.setUnit new (some { f with copied := true, wseq := w.2, lost := f.lost || lost, data := if lost then zeros 4096 else f.data })
      let u := u.queuePrograms g (unitGb new) (unitIdx new) 1 false
      let u := if lost then u.ftlCause 8 else u
      let u := if f.kind = 1 ∧ s.gen1 f.nsid f.laddr = s.unitNo key then u.setGen f.nsid f.laddr (u.unitNo new) else u
      (if (f.kind = 4 ∨ f.kind = 5) ∧ s.metaAt f.kind f.laddr = some key then u.setMetaAt f.kind f.laddr new else u, some new)

/-- The copy of one item of `State.validItems` into a group block of a use: the key of its first unit, none where no group block takes it. -/
def State.copyItem (s : State) (g item : Nat) (use : GbUse) (lost : List Nat) : State × Option Nat :=
  if item % 2 = 0 then s.copyClutch g (item / 2) use lost else s.copyUnit g (item / 2) use (!lost.isEmpty)

/-- The use a data unit or a slot can be copied into: units go only where a group block has a handle. -/
def itemUse (item : Nat) (u : GbUse) : GbUse := if item % 2 = 1 ∧ takesHandle u = false then .relocation else u

/-- The data units of an item. -/
def itemUnits (item : Nat) : List Nat := if item % 2 = 0 then (List.range 256).map (slotUnit (item / 2)) else [item / 2]

/-- An item is still valid in group block k. -/
def State.itemLive (s : State) (k item : Nat) : Bool := (s.validItems k).contains item

/-- An item of a failing or worn NAND block copied, or kept for when a group block takes it (R254, R317). -/
def State.moveItem (s : State) (g item : Nat) (use : GbUse) (lost : List Nat) : State :=
  match s.copyItem g item (itemUse item use) lost with
  | (t, some _) => t
  | (t, none) => t.setFtl { t.ftl with moves := t.ftl.moves ++ [{ g := g, item := item, use := itemUse item use, lost := lost }] }

/-! ## Garbage collection (R249 to R253) -/

/-- A collection replaced; FTL.STATUS.GC_ACTIVE is left to the caller. -/
def State.setGc (s : State) (g : Nat) (v : Option Gc) : State := s.setFtl { s.ftl with gcs := s.ftl.gcs.set none g v }

/-- A copy of n units from unit key `new` on noted with the others of its victim (R283, type 04h). -/
def addRun (l : List CopyRun) (new n : Nat) : List CopyRun :=
  let b := unitGb new
  let p := unitIdx new / 4
  let q := (unitIdx new + n - 1) / 4
  if l.any (fun r => r.gb == b) then
    l.map (fun r => if r.gb = b then { r with first := min r.first p, last := max r.last q, units := r.units + n } else r)
  else l ++ [{ gb := b, first := p, last := q, units := n }]

/-- An operation of a kind on a block of a group is queued or runs. -/
def State.opOn (s : State) (g b : Nat) (p : NandOp → Bool) : Bool := (s.groupOps g).any (fun o => o.block == b && p o)

/-- The erases of a victim's die set are queued, once no read that looked a block up there still transfers from it (R253). -/
def State.askErases (s : State) (g : Nat) (c : Gc) : State :=
  if s.opOn g c.victim (fun o => o.reader.isSome) then s.setGc g (some c)
  else (s.setGc g (some { c with unasked := [] })).queueOps g c.unasked
    { kind := .erase, die := 0, block := c.victim, slc := (s.media (gbKey g c.victim)).slc }

/-- Every valid unit is copied: the erase intent is written, one record for each relocation group block, and the erase of the victim's die set
begins (R251 steps 3 and 4, R283). -/
def State.eraseVictim (s : State) (g : Nat) (c : Gc) : State :=
  let k := gbKey g c.victim
  let runs : List CopyRun := if c.copies.isEmpty then [{ gb := (s.openOf g .relocation).getD 0, first := 0, last := 0, units := 0 }] else c.copies
  let t := s.over runs (fun u r => u.journal (.eraseIntent g c.victim r.gb r.first r.last r.units))
  let dies := (s.dieSet g c.victim).filter (fun i => s.blockOk g i c.victim)
  (t.setGb k { t.gb k with state := .erasing }).askErases g { c with todo := [], erasing := true, left := dies, unasked := dies }

/-- The collection goes on with its next item: the media reads of it are queued (R251 step 1); with none left the victim is erased. -/
def State.nextItem (s : State) (g : Nat) (c : Gc) : State :=
  match c.todo with
  | [] => s.eraseVictim g c
  | i :: _ => (s.setGc g (some { c with bad := [] })).queueMedia (itemUnits i) (some (.gc g))

/-- A collection of a group block begins. -/
def State.collect (s : State) (g victim : Nat) (wear : Bool) : State :=
  s.nextItem g { victim := victim, todo := s.validItems (gbKey g victim), wear := wear }

/-- The group stands at GC_URGENT or below (R249). -/
def State.urgent (s : State) (g : Nat) : Bool := decide ((s.freeGbs g).length ≤ s.fld F.FTL_GC_GC_URGENT)

/-- A group may begin a collection: the part runs, is not in Restricted mode (R506), and the group collects nothing yet. -/
def State.mayCollect (s : State) (g : Nat) : Bool :=
  s.live && decide (g < 16) && !s.on F.SEC_STATUS_RESTRICTED && (s.ftl.gcs.get none g).isNone && !s.hu.failed

/-- The field of FTL.STATUS.GC_ACTIVE for a group. -/
def gcActive (g : Nat) : Field := ⟨R.FTL_STATUS, g, 1⟩

/-- At GC_URGENT or below, collection takes precedence over a levelling move that has not come to its erase: the move is given up, its source stays
closed, and its copies stay valid (R259). -/
def State.yieldWear (s : State) (g : Nat) : State :=
  match s.ftl.gcs.get none g with
  | some c => if c.wear && !c.erasing && s.urgent g then s.setGc g none else s
  | none => s

/-- GC_START: a group whose free group blocks are at most GC_START, or that has not yet reached GC_STOP, takes a victim (R249, R250). -/
def execGcStart (g : Nat) (s : State) : Res :=
  let t := s.yieldWear g
  if t.mayCollect g ∧ ((t.freeGbs g).length ≤ t.fld F.FTL_GC_GC_START ∨ t.on (gcActive g)) then
    match t.victim g with
    | none => .next s
    | some b => .next ((t.setFld (gcActive g) 1).collect g b false)
  else .next s

/-- The copy of an item kept back by `State.moveItem`, tried again. -/
def State.retryMove (s : State) (m : Move) (lost : List Nat) : State :=
  match s.copyItem m.g m.item m.use (lost.foldl addOnce m.lost) with
  | (t, some _) => t.setFtl { t.ftl with moves := t.ftl.moves.erase m }
  | (t, none) => if (s.itemLive (if m.item % 2 = 0 then m.item / 2 / 2 ^ 14 else m.item / 2 / 2 ^ 32) m.item) then t
    else s.setFtl { s.ftl with moves := s.ftl.moves.erase m }

/-- GC_COPY_VERIFIED: the next item to be moved in a group is copied and, where the map still points at it, switched (R251, R252): first what a failing
or worn block left (R254), then the next valid item of the victim, once its media reads are done. `lost` names the units of it, by their place in
the item, that could not be read; those whose codewords were uncorrectable are known already (R255, R316). -/
def execGcCopyVerified (g : Nat) (lost : List Nat) (s : State) : Res :=
  if !s.live ∨ (s.overhangFirst ∧ !s.urgent g) then .next s
  else match s.ftl.moves.find? (fun m => m.g == g) with
  | some m => .next (s.retryMove m (lost.filter (· < 256)))
  | none =>
    match s.ftl.gcs.get none g with
    | none => .next s
    | some c =>
      if c.erasing ∨ s.awaiting (.gc g) then .next s
      else
        match c.todo with
        | [] => .next (s.eraseVictim g c)
        | i :: rest =>
          if !s.itemLive (gbKey g c.victim) i then .next (s.nextItem g { c with todo := rest })
          else match s.copyItem g i .relocation ((lost.filter (· < 256)).foldl addOnce c.bad) with
            | (t, none) => .next t
            | (t, some new) =>
              .next (t.nextItem g { c with todo := rest, copies := addRun c.copies new (if i % 2 = 0 then 256 else 1) })

/-- Erase counts of NAND block b of some dies of a group raised by one (R251 step 4, R257). -/
def State.countErase (s : State) (g b : Nat) (dies : List Nat) : State :=
  s.setFtl { s.ftl with erases := dies.foldl (fun (t : Tbl Nat) i => t.set 0 (nandKey g i b) (min 0xFFFFFFFF (t.get 0 (nandKey g i b) + 1))) s.ftl.erases }

/-- A group block lies erased on its dies: its content is gone, and its die set and pages are fixed anew (R230). -/
def State.wipeGb (s : State) (g b : Nat) : State :=
  let k := gbKey g b
  let t := s.setFtl { s.ftl with
    clutches := s.ftl.clutches.filter (fun e => e.1 / 2 ^ 14 != k)
    units := s.ftl.units.filter (fun e => e.1 / 2 ^ 32 != k) }
  let d := t.usable g b
  t.setMedia k { dies := d, pages := t.setPages g d false, pagesSlc := t.setPages g d true, wiped := (s.media k).wiped }

/-- An erase of NAND block b of die i of a group has passed: its count rises, and once the whole die set is erased the group block lies erased
(R251 step 4). -/
def State.blockErased (s : State) (g i b : Nat) : State :=
  let t := (s.countErase g b [i]).updErase
  let t := t.setFtl { t.ftl with suspect := t.ftl.suspect.filter (· != nandKey g i b) }
  match t.ftl.gcs.get none g with
  | some c =>
    if c.erasing ∧ c.victim = b ∧ c.left.contains i then
      let left := c.left.filter (· != i)
      let m := t.media (gbKey g b)
      let u := (t.setGc g (some { c with left := left })).setMedia (gbKey g b) { m with wiped := addOnce m.wiped i }
      if left.isEmpty then u.wipeGb g b else u
    else t
  | none => t

/-- A group block back on the free list, its handle released (R238, R251 step 6). -/
def State.releaseGb (s : State) (g b : Nat) : State :=
  let k := gbKey g b
  (s.setFtl { s.ftl with handles := match (s.gb k).handle with | some h => s.ftl.handles.set none h none | none => s.ftl.handles }).setGb k {}

/-- An erased group block returns to the free list; the pool keeps its extents (R111, R251 step 6). -/
def State.freeGb (s : State) (g b : Nat) : State :=
  ((s.releaseGb g b).keepPool.updGroup g).updErase.checkSpare

/-- GC_ERASE_DONE: the victim's erase completes: the move record is written and the group block is free again; the group stops collecting at GC_STOP,
and levelling ends at the lower spread (R249, R251, R258). Erases that waited for a read are queued first (R253). -/
def execGcEraseDone (g : Nat) (s : State) : Res :=
  match s.ftl.gcs.get none g with
  | none => .next s
  | some c =>
    if !s.live ∨ !c.erasing then .next s
    else if !c.unasked.isEmpty then .next (s.askErases g c)
    else if c.left.isEmpty then
      let t := ((((s.journal (.moved g c.victim)).wipeGb g c.victim).freeGb g c.victim).setGc g none)
      let t := if s.fld F.FTL_GC_GC_STOP ≤ (t.freeGbs g).length then t.setFld (gcActive g) 0 else t
      let lim := s.fld F.FTL_CFG_WL_LIMIT
      .next (if c.wear ∧ t.spread g ≤ lim - lim / 8 then t.setFtl { t.ftl with levelling := t.ftl.levelling.filter (· != g) } else t)
    else .next s

/-- The wear-levelling source (R258): the closed group block with the lowest mean erase count, the earliest closed on ties; no pool block
while CAP.SPAN_POOL.WL is 0. -/
def State.wlSource (s : State) (g : Nat) : Option Nat :=
  s.pickBy g (fun x y => meanLess (s.wear g x) (s.wear g y))
    ((s.closedGbs g).filter (fun b => s.on F.CAP_SPAN_POOL_WL || (s.gb (gbKey g b)).use != .pool))

/-- WL_START: a group whose spread exceeds WL_LIMIT takes a source, and opens a relocation group block from the free group block with the
highest mean erase count (R258); collection at GC_URGENT or below comes first (R259). -/
def execWlStart (g : Nat) (s : State) : Res :=
  let lim := s.fld F.FTL_CFG_WL_LIMIT
  let sp := s.spread g
  if s.mayCollect g ∧ s.on F.FTL_CFG_WL_EN ∧ !s.urgent g ∧ s.freeHandle.isSome ∧
      (lim < sp ∨ (s.ftl.levelling.contains g ∧ lim - lim / 8 < sp)) then
    match s.wlSource g, s.pickWear g true (s.freeGbs g) with
    | some b, some r =>
      let t := match s.openOf g .relocation with | some o => s.closeGb g o | none => s
      let t := (t.openGb g r .relocation).ftlCause 1
      .next ((t.setFtl { t.ftl with levelling := addOnce t.ftl.levelling g }).collect g b true)
    | _, _ => .next s
  else .next s

/-! ## Failing blocks (R254, R256) -/

/-- A NAND block retired (R254, R256): it never returns to service; causes 0 program, 1 erase, 2 suspect erase. -/
def State.retire (s : State) (g i b cause : Nat) : State :=
  let t := (s.journal (.retired g i b cause))
  let t := t.setFtl { t.ftl with retired := addOnce t.ftl.retired (nandKey g i b) }
  ((t.ftlCause 4).updGroup g).updErase.checkRetired

/-- An item of a group block has a page on die `i`. -/
def State.itemOn (s : State) (g b i item : Nat) : Bool :=
  if item % 2 = 0 then (s.slotDies (item / 2)).contains i else s.pageDie g b (unitIdx (item / 2) / 4) == i

/-- An item has a unit on page `p` of its group block. -/
def itemPage (item p : Nat) : Bool := (itemUnits item).any (fun k => unitIdx k / 4 == p)

/-- The units of an item, by their place in it, among data units of the group block that could not be read. -/
def itemLost (item : Nat) (lost : List Nat) : List Nat :=
  (List.range (itemUnits item).length).filter (fun j => lost.contains (unitIdx ((itemUnits item).getD j 0)))

/-- The valid units on NAND block `b` of die `i` of a group move elsewhere: those of page `p` into a group block of the same use, the others into
the relocation group block (R254); `lost` as for `execProgramFail`. Their media reads are queued. -/
def State.evacuate (s : State) (g i b : Nat) (p : Option Nat) (lost : List Nat) : State :=
  let items := (s.validItems (gbKey g b)).filter (fun x => s.itemOn g b i x)
  let use := (s.gb (gbKey g b)).use
  (s.queueMedia (items.flatMap itemUnits) none).over items (fun u x =>
    u.moveItem g x (match p with | some q => if itemPage x q then use else .relocation | none => .relocation) (itemLost x lost))

/-- PROGRAM_FAIL: the program of page `page` of a group block, on NAND block `block` of die `die`, failed. The group block closes, the failed page's
units are programmed again into the next group block of the same use, what else lies on the NAND block is relocated, and the NAND block is
retired (R254); `lost` are data units of the group block whose source could not be read (R255). -/
def execProgramFail (g die block page : Nat) (lost : List Nat) (s : State) : Res :=
  let k := gbKey g block
  if s.live ∧ g < 16 ∧ !s.ftl.retired.contains (nandKey g die block) ∧ (s.dieSet g block).contains die
      ∧ ((s.gb k).state = .open ∨ (s.gb k).state = .closed) then
    let t := if (s.gb k).state = .open then s.closeGb g block else s
    let t := t.evacuate g die block (some page) lost
    let t := t.setFtl { t.ftl with progFails := t.ftl.progFails + 1 }
    .next ((t.ftlCause 2).retire g die block 0)
  else .next s

/-- ERASE_FAIL: the NAND block is retired and the group block erased again without it (R256). -/
def execEraseFail (g die block : Nat) (s : State) : Res :=
  let k := gbKey g block
  match s.ftl.gcs.get none g with
  | none => .next s
  | some c =>
    if s.live ∧ g < 16 ∧ c.erasing ∧ c.victim = block ∧ (s.dieSet g block).contains die then
      let t := s.setFtl { s.ftl with eraseFails := s.ftl.eraseFails + 1 }
      let t := (t.ftlCause 3).retire g die block (if s.ftl.suspect.contains (nandKey g die block) then 2 else 1)
      let t := t.setFtl { t.ftl with suspect := t.ftl.suspect.filter (· != nandKey g die block) }
      let rest := ((s.dieSet g block).filter (· != die))
      let t := t.setMedia k { t.media k with dies := rest }
      let dies := rest.filter (fun i => t.blockOk g i block)
      let queued := ((t.groupOps g).filter (fun o => o.block == block && o.kind == .erase)).isEmpty
      .next (t.askErases g { c with left := dies, unasked := if queued then dies else dies.filter (fun i => !c.left.contains i) })
    else .next s

/-! ## Checkpoints (R282) -/

/-- A checkpoint is due: 8 group blocks opened in a group since the last, 300 s, a journal area half full, or an NVMe shutdown notification. -/
def State.ckptDue (s : State) : Bool :=
  s.ftl.opens.any (fun e => decide (8 ≤ e.2)) || decide (s.ftl.ckptAt + 300000000000 ≤ s.time.ftc)
    || decide (journalArea ≤ 2 * s.journalBytes) || s.ftl.ckptAsked

/-- CHECKPOINT_START: the write sequence at its start is noted, and what makes the next one due begins anew. -/
def execCheckpointStart (s : State) : Res :=
  if s.live ∧ s.ftl.ckptRun.isNone ∧ !s.on F.FTL_STATUS_REBUILDING ∧ s.ckptDue then
    .next (s.setFtl { s.ftl with ckptRun := some s.ftl.nextSeq, opens := [], ckptAt := s.time.ftc, ckptAsked := false })
  else .next s

/-- The structures of a checkpoint, above the page's number in the structure index of its unit: capture map, general map, block table, handle table,
root. How the manual numbers them it does not say (DESIGN CHOICE, log entry 26). -/
def ckptIdx (structure_ page : Nat) : Nat := structure_ * 2 ^ 56 + page

/-- The 4 KiB pages of a map that hold an entry changed between two states of it. -/
def changedPages {α : Type} [DecidableEq α] (d : α) (per : Nat) (a b : Tbl α) : List Nat :=
  (((a ++ b).map Prod.fst).filter (fun k => decide (a.get d k ≠ b.get d k))).map (· / per) |>.foldl addOnce []

/-- The units a checkpoint writes, by structure index: every map page changed since the previous one, the block table, the handle table and the
root. The layout of the last three the manual does not give: free bytes. -/
def State.ckptUnits (s : State) (old : Ckpt) : List (Nat × Bytes) :=
  ((changedPages capNone 512 old.capMap s.ftl.capMap).map (fun p =>
    (ckptIdx 0 p, (List.range 512).flatMap (fun i => leBytes 8 (s.ftl.capMap.get capNone (512 * p + i)).toNat))))
  ++ ((changedPages 0xFFFFFFFF 1024 old.genMap s.ftl.gens).map (fun p =>
    (ckptIdx 1 p, (List.range 1024).flatMap (fun i => leBytes 4 (s.ftl.gens.get 0xFFFFFFFF (1024 * p + i)).toNat))))
  ++ ((List.range (ceilDiv (8 * s.blocksInService) 4096)).map (fun p => (ckptIdx 2 p, freeBytes s.free 4096)))
  ++ ((List.range (ceilDiv (4 * s.ftl.handles.length) 4096)).map (fun p => (ckptIdx 3 p, freeBytes s.free 4096)))
  ++ [(ckptIdx 4 0, freeBytes s.free 4096)]

/-- The units of a checkpoint programmed, the root last; false where one finds no room. -/
def State.placeAll (s : State) : List (Nat × Bytes) → State × Bool
  | [] => (s, true)
  | (i, d) :: us => match s.placeMeta 4 i d with
    | (t, true) => t.placeAll us
    | (_, false) => (s, false)

/-- A full checkpoint written (R282): its units, its record, and the journal without what lies before it. None where its units find no room. -/
def State.checkpoint (s : State) (seq : Nat) : Option State :=
  let old := s.ftl.ckpt.getD { seq := 0 }
  let us := s.ckptUnits old
  match s.placeAll us with
  | (_, false) => none
  | (t, true) =>
    let root := (t.metaAt 4 (ckptIdx 4 0)).getD 0
    let c : Ckpt := { capMap := t.ftl.capMap, genMap := t.ftl.gens, gbs := t.ftl.gbs, handles := t.ftl.handles, erases := t.ftl.erases, seq := seq
                      pages := (us.map Prod.fst).foldl addOnce old.pages }
    let t := t.setFtl { t.ftl with ckpt := some c, ckptRun := none, journal := [] }
    some (({ t with free := t.free + 4096 }.journal (.checkpoint (unitGroup root) (unitGb root) (unitIdx root / 4) seq us.length)).checkSpare)

/-- CHECKPOINT_COMPLETE: the checkpoint holds the maps as they now stand; its record enters the journal, and what lies before it is no longer
needed. It waits where its units find no room. -/
def execCheckpointComplete (s : State) : Res :=
  match s.ftl.ckptRun with
  | some seq => if s.live then .next ((s.checkpoint seq).getD s) else .next s
  | none => .next s

end Sys2Proof.Machine
end

