-- ==== Sys2Proof/Machine/HoldUp.lean ====
section
/-! DEFINITION. The hold-up bank: charging, measurement, the protected window's limit, and the detection of a power failure (Power-Loss
Protection, the Energy Ceiling and Regrowth). -/

namespace Sys2Proof.Machine

/-! ## The window limit (R271, R275) -/

/-- The hold-up bank's part of the state. -/
def State.setHu (s : State) (v : HoldUp) : State := { s with hu := v }

/-- PWR.HU_STATUS.STATE. -/
def State.huState (s : State) : Nat := s.fld F.PWR_HU_STATUS_STATE

/-- The bank voltage sampled; once it lies below 0.95 × V_T the target has to be reached anew (PWR.HU_EVCAUSE.CHARGED). While no valid C_m exists
charging ends at VCUT + 2 V (R268). -/
def State.setVbank (s : State) (v : Nat) : State :=
  let t := s.setFld F.PWR_HU_STATUS_VBANK v
  let t := if !t.hu.valid ∧ t.fld F.PWR_HU_VLIM_VCUT + 2000 ≤ v then t.setHu { t.hu with charging := false } else t
  if v * 100 < 95 * t.vTarget then t.setHu { t.hu with reached := false } else t

/-- The duty cycle of HU_CHG_PWM in %, 5 A full scale (R547): while the bank charges, the setpoint is ILIM, in units of 50 mA; R268 says "at most
ILIM", R269 "at ILIM" (DESIGN CHOICE, log entry 89). -/
def State.chgPwm (s : State) : Nat := if s.hu.charging then s.fld F.PWR_HU_CFG_ILIM else 0

/-- The limit the bank gives now, in 4 KiB units: 0 while the state is not Ready or Measuring, and while MEAS_FAIL is 1 (R271). -/
def State.limitNow (s : State) : Nat :=
  if (s.huState = 2 ∨ s.huState = 3) ∧ !s.on F.PWR_HU_STATUS_MEAS_FAIL then
    256 * s.limitAt (min (s.fld F.PWR_HU_STATUS_VBANK) s.vTarget)
  else 0

/-- The limit recomputed (R271, R274, R275); `meas` at a measurement. -/
def State.recompute (s : State) (meas : Bool) : State :=
  let old := s.fld F.PWR_HU_WIN_LIMIT
  let new := s.limitNow
  let used := s.fld F.PWR_HU_WIN_IN_USE
  let ovh := decide (new < used) && decide (used ≤ old)
  let t := (s.setFld F.PWR_HU_WIN_LIMIT new).setFld F.PWR_HU_STATUS_WRITE_THROUGH (ofBool (decide (new < 512)))
  let t := if ovh || (meas && decide (new < old)) then t.huCause 1 else t
  if ovh then t.huCause 5 else t

/-! ## Charging and measurement (R267 to R270) -/

/-- Charging is permitted (R268), and the bank is not in Fault. -/
def State.chargeOk (s : State) : Bool :=
  s.fld F.PWR_HU_VLIM_VMAX != 0 && s.fld F.PWR_HU_CFG_CEIL != 0 && s.on F.PWR_HU_CTRL_CHARGE && s.huState != 5 && !s.hu.failed

/-- HU_GATE: on only while HU_VIN exceeds HU_VBUS with no reverse current, and never with HU_DIS_EN (R267). -/
def State.setGate (s : State) : State := s.setFld F.PWR_HU_STATUS_GATE_ON (ofBool (s.hu.gateOk && !s.hu.disEn))

/-- The two conditions of HU_GATE sampled (R267). -/
def State.sampleGate (s : State) (ok : Bool) : State := (s.setHu { s.hu with gateOk := ok }).setGate

/-- A discharge through the converter: HU_GATE goes off before HU_DIS_EN comes on (R267). -/
def State.discharge (s : State) (on : Bool) : State := (s.setHu { s.hu with disEn := on }).setGate

/-- The power-on measurement begins once charging is first permitted (R269): below VCUT + 1 V the bank is charged, else it is discharged. -/
def State.powerOnMeasure (s : State) : State :=
  if s.chargeOk ∧ !s.hu.valid ∧ !s.hu.measuring ∧ !s.hu.retryDue then
    let v := s.fld F.PWR_HU_STATUS_VBANK
    if v < s.fld F.PWR_HU_VLIM_VCUT + 1000 then
      (s.setHu { s.hu with measuring := true, charging := true, down := false, v0 := v }).setFld F.PWR_HU_STATUS_STATE 1
    else ((s.setHu { s.hu with measuring := true, down := true, v0 := v }).discharge true).setFld F.PWR_HU_STATUS_STATE 3
  else s

/-- What follows a write of HU_CFG, HU_VLIM or HU_CTRL (R268, R269). -/
def State.huWritten (s : State) : State :=
  if s.chargeOk then s.powerOnMeasure
  else
    let t := s.setHu { s.hu with charging := false }
    if t.huState = 1 then (t.setFld F.PWR_HU_STATUS_STATE 0).setHu { t.hu with charging := false, measuring := false } else t

/-- A 24-hour measurement starts once the window in use is at most what 0.95 × V_T would give (R270). -/
def State.tryMeasure (s : State) : State :=
  if s.hu.measWait ∧ s.huState = 2 ∧ s.fld F.PWR_HU_WIN_IN_USE ≤ 256 * s.limitAt (s.vTarget * 95 / 100) then
    ((s.setHu { s.hu with measWait := false, measuring := true, charging := false, down := true, v0 := s.vTarget }).discharge true).setFld F.PWR_HU_STATUS_STATE 3
  else s

/-- A measurement by discharge from V_T is asked for (R269): it waits for R270's condition. It needs a bank that is Ready. -/
def State.askMeasure (s : State) : State :=
  if s.huState = 2 ∧ s.hu.valid ∧ !s.hu.measuring then (s.setHu { s.hu with measWait := true, postponed := false }).tryMeasure else s

/-- MEASURE: HU_CTRL.MEASURE written 1 (R269). -/
def execMeasure (s : State) : Res := if s.power.phase = .off then .next s else .next s.askMeasure

/-- MEASURE_DUE: 24 hours after the last measurement, or an hour after it was postponed (R269, R270). -/
def execMeasureDue (s : State) : Res := if s.power.phase = .off then .next s else .next s.askMeasure

/-- MEASURE_POSTPONE: the window has not come down for 10 s (R270). -/
def execMeasurePostpone (s : State) : Res :=
  if s.hu.measWait then .next (s.setHu { s.hu with measWait := false, postponed := true, nextMeas := s.calMs + 3600000 }) else .next s

/-- A measurement that gave a valid capacitance (R269). -/
def State.measured (s : State) (c : Nat) : State :=
  let daily := s.hu.valid
  let t := s.setFld F.PWR_HU_CAP_C_M c |>.setFld F.PWR_HU_STATUS_MEAS_FAIL 0
  let t := t.setHu { t.hu with valid := true, charging := t.chargeOk, lastMeas := s.calMs, nextMeas := s.calMs + 86400000
                               energyAt := c * t.vTarget * t.vTarget / 2000000000 }
  (t.setFld F.PWR_HU_STATUS_STATE (if daily then 2 else if t.hu.charging then 1 else 0)).huCause 3

/-- A failed measurement (R269): C_m keeps its last valid value and the limit becomes 0. -/
def State.measureFailed (s : State) : State :=
  let t := s.setFld F.PWR_HU_STATUS_MEAS_FAIL 1
  (((t.setHu { t.hu with retryDue := true, charging := t.hu.valid && t.chargeOk, lastMeas := s.calMs,
                                 nextMeas := s.calMs + 3600000 }).setFld F.PWR_HU_STATUS_STATE
    (if s.hu.valid then 2 else 0))).huCause 4

/-- The current in mA, the voltage span in mV and the longest time in µs of the measurement that runs (R269): a charge at ILIM from the higher of V0
and VCUT to VCUT + 2 V in 30 s; a discharge at 1 A over 1 V at power-on, and else from V_T to 0.95 × V_T, in 1 s. -/
def State.measSpan (s : State) : Nat × Nat × Nat :=
  if s.hu.down then (1000, if s.hu.valid then s.hu.v0 - s.hu.v0 * 95 / 100 else 1000, 1000000)
  else (50 * s.fld F.PWR_HU_CFG_ILIM, s.fld F.PWR_HU_VLIM_VCUT + 2000 - max s.hu.v0 (s.fld F.PWR_HU_VLIM_VCUT), 30000000)

/-- C_m = I × t / ΔV in µF, from the time the span took in µs, rounded down (R269; the rounding is a DESIGN CHOICE, log entry 89); none where the
measurement failed. -/
def State.measResult (s : State) (time : Option Nat) : Option Nat :=
  let m := s.measSpan
  match time with
  | some t =>
    let c := m.1 * t / m.2.1
    if t ≤ m.2.2 ∧ 1000 ≤ c ∧ c ≤ 200000 then some c else none
  | none => none

/-- MEASUREMENT_DONE: `time` is how long the bank took to get through the measurement's span, none where it did not; C_m follows, and a result outside
1,000 µF to 200,000 µF fails too (R269). The limit is recomputed (R271, R275). -/
def execMeasurementDone (time : Option Nat) (vbank : Nat) (gate : Bool) (s : State) : Res :=
  if !s.hu.measuring then .next s
  else
    let r := s.measResult time
    let t := ((s.setHu { s.hu with measuring := false, charging := false, gateOk := gate }).discharge false)
    let t := match r with
      | some c => t.measured c
      | none => t.measureFailed
    .next ((t.setVbank vbank).recompute true)

/-- MEASURE_RETRY_EXPIRY: an hour after a failed measurement it is repeated (R269). -/
def execMeasureRetryExpiry (s : State) : Res :=
  if s.hu.retryDue then
    let t := s.setHu { s.hu with retryDue := false }
    .next (if t.hu.valid then t.askMeasure else t.powerOnMeasure)
  else .next s

/-- CHARGE_TARGET_REACHED: the bank reaches V_T; charging stops and the state is Ready (R268, HU_STATUS). -/
def execChargeTargetReached (vbank : Nat) (s : State) : Res :=
  if s.hu.charging ∧ s.hu.valid ∧ !s.hu.measuring ∧ s.vTarget ≤ vbank then
    let first := !s.hu.reached
    let t := (s.setVbank vbank).setFld F.PWR_HU_STATUS_STATE 2
    let t := t.setHu { t.hu with charging := false, reached := true }
    .next ((if first then t.huCause 0 else t).recompute false)
  else .next s

/-- CHARGE_RESUME: the bank has fallen 1 % below V_T (R268); a Ready bank stays Ready. -/
def execChargeResume (vbank : Nat) (s : State) : Res :=
  if s.chargeOk ∧ s.hu.valid ∧ !s.hu.charging ∧ !s.hu.measuring ∧ vbank * 100 ≤ 99 * s.vTarget then
    let t := s.setVbank vbank
    let t := t.setHu { t.hu with charging := true }
    .next (if t.huState = 2 then t else t.setFld F.PWR_HU_STATUS_STATE 1)
  else .next s

/-- HU_FAULT: the bank exceeds VMAX by 5 %, or falls while the charger is on; charging stops until the next power-on (HU_STATUS). -/
def execHuFault (vbank : Nat) (s : State) : Res :=
  if s.huState ≠ 5 ∧ s.fld F.PWR_HU_VLIM_VMAX ≠ 0 ∧ !s.hu.failed ∧
      (105 * s.fld F.PWR_HU_VLIM_VMAX < 100 * vbank ∨ (s.hu.charging ∧ vbank < s.fld F.PWR_HU_STATUS_VBANK)) then
    let t := (s.setVbank vbank).setFld F.PWR_HU_STATUS_STATE 5
    let t := t.setHu { t.hu with charging := false, measuring := false, measWait := false, fault := true }
    .next (((t.discharge false).huCause 6).recompute false)
  else .next s

/-- WINDOW_RECOMPUTE: every 1 ms (R271): the bank voltage and HU_GATE's conditions are sampled (R267), and the limit follows; it is 0 in a dump. -/
def execWindowRecompute (vbank : Nat) (gate : Bool) (s : State) : Res :=
  if s.power.phase = .off then .next s
  else
    let t := ((s.setVbank vbank).sampleGate gate).recompute false
    .next (if t.hu.failed then t else t.tryMeasure)

/-! ## The dump (R278) -/

/-- A dump group block opened in every group that has a free group block; while the maps are rebuilt nothing is charged, and which blocks are free
is not known. -/
def State.openDump (s : State) : State :=
  if s.on F.FTL_STATUS_REBUILDING then s else s.over (List.range 16) (fun u g => (u.roomFor g .dump 1 1).1)

/-- The first of some groups whose dump group block takes one more unit. -/
def State.takeDump (s : State) : List Nat → State × Option Nat
  | [] => (s, none)
  | g :: gs => match s.takeUnit g .dump with | (t, some key) => (t, some key) | (_, none) => s.takeDump gs

/-- A charged block of the write buffer programmed into the dump, in its own group or where that has no room in another (R278). -/
def State.dumpUnit (s : State) (w : WbEntry) : State :=
  match s.takeDump (s.generalGroup w.lba :: List.range 16) with
  | (_, none) => s
  | (t, some key) =>
    let o := t.seqs 1
    (o.1.setUnit key (some (t.asUnit w o.2 false))).queuePrograms (unitGroup key) (unitGb key) (unitIdx key) 1 true

/-- A charged capture extent programmed into the dump (R272, R278). -/
def State.dumpExtent (s : State) (w : CapWrite) : State :=
  match s.programExtent w.nsid w.ext .dump w.bytes w.fill w.states false 0 true with
  | (_, none) => s
  | (t, some loc) => t.loseClutch loc (w.lostList (!s.canEncipher w.nsid)) w.badUnits

/-- The charged blocks of the write buffer, and the charged capture extents. -/
def State.chargedUnits (s : State) : List WbEntry := s.ftl.wbuf.filter (fun w => w.charged)
def State.chargedExtents (s : State) : List CapWrite :=
  s.ftl.capWrites.filterMap (fun e => e.2.bind (fun w => if w.charged then some w else none))

/-- Programs that have not started leave the queues of the engines: none but the dump's starts any more (R278). -/
def State.dropPrograms (s : State) : State :=
  let keep := fun (o : NandOp) => o.kind != .program || o.started
  { s with nand := { s.nand with chans := s.nand.chans.map (fun e =>
      (e.1, { e.2 with ops := e.2.ops.filter keep, backlog := e.2.backlog.filter keep })) } }

/-- The dump begins: its group blocks are opened, and every charged unit goes to them (R278). -/
def State.beginDump (s : State) : State :=
  let t := (s.dropPrograms.setFtl { s.ftl with dumping := true, dumpSeq := s.ftl.nextSeq }).openDump
  if s.on F.FTL_STATUS_REBUILDING then t
  else
    let t := t.over t.chargedUnits (fun u w => u.dumpUnit w)
    t.over t.chargedExtents (fun u w => u.dumpExtent w)

/-- Charged data enciphered in quadrant q waits to be dumped. -/
def State.laneNeeded (s : State) (q : Nat) : Bool :=
  s.ftl.wbuf.any (fun w => w.charged && w.keyPage.isSome && w.lba / 256 % s.part.stacks == q)
  || s.ftl.capWrites.any (fun e => match e.2 with | some w => w.charged && (s.nsPage w.nsid).isSome && w.ext % s.part.stacks == q | none => false)

/-- What a power failure turns off: the Ethernet ports, the PCIe controller, the stream engine cluster, and the cipher lanes the dump does not need
(R278; the numbers are R482's). -/
def State.shedLoad (s : State) : State :=
  s.over ([21, 22, 23, 24, 25, 26, 27, 28, 29, 49] ++ ((List.range 4).filter (fun q => !s.laneNeeded q)).map (34 + ·)) (fun u d => u.setDom d 0)

/-- In Basking, the domains that the dump needs are brought to On (R495): the banks leave Retention and the stacks self-refresh. -/
def State.wakeForDump (s : State) : State :=
  if !s.basking then s
  else
    let t := s.over ((List.range 53).filter s.part.domain) (fun u d => u.setDom d 2)
    let t := t.over ((List.range 11).filter t.part.bank) (fun u b => u.setFld (F.SRB_B_STATUS_PSTATE b) 0)
    t.over ((List.range t.part.stacks).filter (fun k => t.fld (F.HBM_STATUS_STATE k) == 2)) (fun u k => (u.setFld (F.HBM_STATUS_STATE k) 1).hbmCause k 7)

/-- POWER_FAIL_DETECT: HU_GATE goes off, the bank feeds the board, fetching and completions stop, what the dump does not need is powered off, and
the dump begins (R278). The hold-up state leaves Ready, so the window limit is 0 (R271). An entry
under way is abandoned with no refusal recorded (R495). -/
def execPowerFailDetect (s : State) : Res :=
  if s.power.phase = .off ∨ s.hu.failed then .next s
  else
    let t := (s.discharge true).setFld F.PWR_HU_STATUS_STATE 4
    let t := (t.setHu { t.hu with failed := true, charging := false, measuring := false, measWait := false }).recompute false
    let t := { t.wakeForDump with power := { t.power with phase := .held, heldBy := addOnce t.power.heldBy .dump, entry := none } }
    let t := (t.setFld F.PWR_STATE_TARGET 0).setFld F.PWR_STATE_PHASE 0
    .next (t.shedLoad.beginDump)

/-- A program or an erase runs at some engine: the dump lets it finish (R278). -/
def State.nandRuns (s : State) : Bool :=
  s.nand.chans.any (fun e => e.2.ops.any (fun o => o.started && (o.kind == .program || o.kind == .erase)))

/-- Program operations of the dump that are still to be done, by the data units they carry. -/
def State.dumpLeft (s : State) : List Nat :=
  (List.range 16).flatMap (fun g => ((s.groupOps g).filter (fun o => o.kind == .program && (s.gb (gbKey g o.block)).use == .dump)).flatMap (fun o => o.units))

/-- The bank reached VCUT before the dump's end: what is not programmed is not on flash. -/
def State.cutDump (s : State) : State :=
  let left := s.dumpLeft
  s.setFtl { s.ftl with
    clutches := s.ftl.clutches.filter (fun e => !left.any (fun k => decide (slotKey (k / 2 ^ 32) (unitIdx k / 256) = e.1)))
    units := s.ftl.units.filter (fun e => !left.contains e.1) }

/-- A charged block of the write buffer lies in the dump. -/
def State.unitDumped (s : State) (w : WbEntry) : Bool :=
  s.ftl.units.any (fun e => match e.2 with
    | some f => (s.gb (e.1 / 2 ^ 32)).use == .dump && decide (s.ftl.dumpSeq ≤ f.wseq) && f.origin == w.origin
    | none => false)

/-- A charged capture extent lies in the dump. -/
def State.extentDumped (s : State) (w : CapWrite) : Bool :=
  s.ftl.clutches.any (fun e => match e.2 with
    | some c => (s.gb (e.1 / 2 ^ 14)).use == .dump && decide (s.ftl.dumpSeq ≤ c.wseq) && c.nsid == w.nsid && c.ext == w.ext
    | none => false)

/-- The charges of what the dump has on flash released, and its units counted (R278, R283). -/
def State.settleDump (s : State) : State :=
  let t := s.setFtl { s.ftl with dumped := 0 }
  let t := t.over s.chargedUnits (fun u w =>
    if u.unitDumped w then (u.releaseUnit w.origin).setFtl { (u.releaseUnit w.origin).ftl with dumped := u.ftl.dumped + 1 } else u)
  t.over s.chargedExtents (fun u w =>
    if u.extentDumped w then (u.releaseExtent w.nsid w.ext).setFtl { (u.releaseExtent w.nsid w.ext).ftl with dumped := u.ftl.dumped + 256 } else u)

/-- A program of the dump failed on NAND block `b` of die `i` of a group: the units of the program are torn, the group block closes, the NAND block
retires, and what is no longer in the dump is programmed again (R254). -/
def State.redump (s : State) (g i b : Nat) (units : List Nat) : State :=
  let t := if (s.gb (gbKey g b)).state = .open then s.closeGb g b else s
  let t := t.setFtl { t.ftl with
    clutches := t.ftl.clutches.filter (fun e => !units.any (fun k => decide (slotKey (k / 2 ^ 32) (unitIdx k / 256) = e.1)))
    units := t.ftl.units.filter (fun e => !units.contains e.1)
    progFails := t.ftl.progFails + 1 }
  let t := (t.ftlCause 2).retire g i b 0
  let t := t.over t.chargedUnits (fun u w => if u.unitDumped w then u else u.dumpUnit w)
  t.over t.chargedExtents (fun u w => if u.extentDumped w then u else u.dumpExtent w)

/-- The dump's end: its record is written, and the ledger is clear of all it has on flash (R278, R281); `vcut` where the bank reached VCUT first. -/
def State.endDump (s : State) (vcut : Bool) : State :=
  let t := (if vcut then s.cutDump else s).settleDump
  (t.journal (.dump t.ftl.dumped vcut)).setFtl { (t.journal (.dump t.ftl.dumped vcut)).ftl with dumping := false }

/-- REGROW_REQUEST: FTL.REGROW.START written 1 (R286). -/
def execRegrowRequest (s : State) : Res :=
  if s.live then .next ((s.setFld F.FTL_REGROW_PENDING 1).setFtl { s.ftl with regrow := true }) else .next s

end Sys2Proof.Machine
end

