-- ==== Sys2Proof/Machine/Restart.lean ====
section
/-! DEFINITION. What a reset of the part leaves, and the restart of the translation layer: map rebuild and regrowth (Power-Loss Protection,
the Energy Ceiling and Regrowth; Boot, Firmware Images, Lifecycle and Debug). -/

namespace Sys2Proof.Machine

/-! ## A reset of the part -/

/-- The registers a reset of the part leaves: those "since manufacture", of AON's latches and fuses, of the persistence die and of the kept
image (TMR.CAL, TMR.RTC, TMR.WDG, SEC.LC, SEC.BOOT_OVR, PST, EVT.REC, CFL.ERASE_MAX, CCS.KEPT, CPH.SALT). -/
def keptRegs : List Nat :=
  [R.ID_PART, R.CCS_KEPT, R.CPH_SALT, R.PST_STATUS, R.PST_RETRIES, R.PST_REMAPPED, R.CFL_ERASE_MAX, R.EVT_REC_SEQ, R.EVT_REC_STAT,
   R.TMR_CAL, R.TMR_RTC, R.TMR_WDG, R.SEC_LC, R.SEC_BOOT_OVR]

/-- The value of CPH.KPk_STATE after a reset of the part, from the page's entry in the persistence die: a Loaded page becomes Awaiting key, and no
SQ or SA refers to it (R410, R416, R426). -/
def GcmEntry.register (e : GcmEntry) : W64 :=
  BitVec.ofNat 64 (putBits (putBits (putBits (putBits (putBits 0 62 2 (if e.state = 0 then 0 else 2)) 60 2 e.kind) 59 1 e.exhausted) 53 5 e.owner) 24 24 e.kcv)

/-- A key page's registers restored from the persistence die; the invocation count resumes at the reserved limit (R403). -/
def State.restorePage (old s : State) (k : Nat) : State :=
  match old.pst.gcm.get none k with
  | some e => (((s.setReg (R.CPH_KP_STATE k) e.register).setFld (F.CPH_KP_STATE_NS_REFS k) (old.fld (F.CPH_KP_STATE_NS_REFS k))).setFld
      (F.CPH_KP_KEYID_KEYID k) e.keyId).setFld (F.CPH_KP_INVOC_COUNT k) e.limit
  | none => s

/-- NAND blocks whose erase a reset cuts short: they are suspect (R256, R320). -/
def State.cutErases (s : State) : List Nat :=
  s.nand.chans.flatMap (fun c => (c.2.ops.filter (fun o => o.kind == .erase && o.started)).map (fun o =>
    nandKey (c.1 / 4) (16 * (c.1 % 4) + o.die) o.block))

/-- What the translation layer keeps over a reset: what lies on flash and in the persistence die. The counter resumes at the end of what was
reserved (R241). -/
def State.ftlAfterReset (s : State) : Ftl :=
  { clutches := s.ftl.clutches, units := s.ftl.units, media := s.ftl.media, retired := s.ftl.retired
    suspect := s.cutErases.foldl addOnce s.ftl.suspect, ledger := s.ftl.ledger, nextSeq := s.ftl.reserved, reserved := s.ftl.reserved
    journal := s.ftl.journal, journalPos := s.ftl.journalPos, ledgerNext := s.ftl.ledgerNext, spanTab := s.spanTable, ckpt := s.ftl.ckpt
    unitBits := s.ftl.unitBits, progFails := s.ftl.progFails, eraseFails := s.ftl.eraseFails, reserveBlk := s.ftl.reserveBlk
    regrow := s.ftl.regrow, spanBad := s.ftl.spanBad }

/-- A grant ends (R521): halted cores resume, the core debug session closes, OBS goes off, the watchdogs start again, and a type 0022h record
is written; `why` as the record codes it (0 reset, 1 Brumation, 2 tamper, 3 transition, 4 revoke, PRESUMED from the row's order). -/
def State.endGrant (s : State) (why : Nat) : State :=
  let scope := s.fld F.DBG_STATUS_SCOPE
  if scope = 0 then s
  else
    let t := (s.record 0x0022 ([byteOf scope, byteOf why] ++ zeros 14)).setReg R.DBG_STATUS 0
    let t := t.setFld F.DBG_OBS_CTRL_EN 0
    let t := { t with sec := { t.sec with session := [], held := [], obsHeld := none, obsOut := false }, time := { t.time with dieNs := 0, pkgNs := 0 } }
    t.secCause 7

/-- A reset of the part with its cause and, for cause 5, the power domain (R475). What lies on flash, in the persistence die, in the code
flash, in the fuses and in AON's time stays; every other register takes its reset value. The part has then to start (R501). -/
def State.partReset (s : State) (cause dom : Nat) : State :=
  let s := s.endGrant 0
  let t : State :=
    { part := s.part
      regs := (resetRegs.filter (fun e => !keptRegs.contains e.1)).foldl (fun r e => r.set (resetValue e.1) e.1 e.2) (s.regs.filter (fun e => keptRegs.contains e.1))
      ftl := s.ftlAfterReset
      nvme := { nss := s.nvme.nss.map (fun e => (e.1, e.2.map (fun n => { n with notReady := true }))), linkUp := s.nvme.linkUp
                perstLow := s.nvme.perstLow, posted := s.nvme.posted }
      nand := { table := s.nand.table, exportV := s.nand.exportV, kept := s.nand.kept, cust := s.nand.cust, drivers := s.nand.drivers }
      cph := { limits := s.cph.limits }
      pst := s.pst
      cfl := { mem := s.cfl.mem, copyA := s.cfl.copyA, copyB := s.cfl.copyB, bad := s.cfl.bad, intents := s.cfl.intents, opt := s.cfl.chosen.1 }
      evt := { s.evt with cores := [], bridged := false, queued := [] }
      time := { s.time with ftc := 0, entryFtc := 0, entryRtc := 0, serviced := [], dieNs := 0, pkgNs := 0, gwdgN := [] }
      power := { phase := s.power.phase, ballLow := s.power.ballLow, heldBy := s.power.heldBy, causeNow := cause }
      sec := { s.sec with session := [], held := [], obsHeld := none, obsOut := false }
      free := s.free
      out := s.out
      pending := s.pending }
  let t := (t.setFld F.TMR_WDG_LAST_CAUSE cause).setFld F.TMR_WDG_LAST_DOMAIN dom
  let t := t.setFld F.SEC_STATUS_MIN_SVN (s.fld F.SEC_STATUS_MIN_SVN) |>.setFld F.CFL_STATUS_SLOT_BAD (s.fld F.CFL_STATUS_SLOT_BAD)
  let t := t.setFld F.CFL_STATUS_OPT_COPY s.cfl.chosen.2.1 |>.setFld F.CFL_STATUS_OPT_BAD (ofBool s.cfl.chosen.2.2)
    |>.setFld F.CFL_STATUS_OPT_DEGRADED (ofBool (s.cfl.bad.any (fun x => decide (x < 2)))) |>.setFld F.PWR_HU_CFG_CEIL (min 20000 s.cfl.chosen.1.ceil)
  let t := t.setFld F.PST_STATUS_WORN 0
  let t := (t.setFld F.PWR_HU_STATUS_GATE_ON (s.fld F.PWR_HU_STATUS_GATE_ON)).setHu { gateOk := s.hu.gateOk }
  let t := t.over (List.range 4) (fun u k => u.setFld (F.HBM_CFG_ORDER k) (s.fld (F.HBM_CFG_ORDER k)))
  t.over (List.range 256) (fun u k => s.restorePage u k)

/-- The part resets and runs its start next: nothing holds it. -/
def State.resetAndRun (s : State) (cause dom : Nat) : State :=
  let t := s.partReset cause dom
  { t with power := { t.power with phase := .run, heldBy := [] } }

/-- DUMP_END: the dump's last unit is verified and its record written; the part then resets and restarts as from power-on, with cause 6 (R278,
R279). It waits while a program of the dump is to be done, or a program or an erase runs, unless the bank reaches VCUT first (`vcut`). A dump that
the reset ball or the test access port began ends in the reset they asked for, and the part stays in it while they hold it: cause 2, or 6 where the
supply failed during it (R517, R540). -/
def execDumpEnd (vcut : Bool) (s : State) : Res :=
  if s.ftl.dumping ∧ (vcut ∨ (s.dumpLeft.isEmpty ∧ !s.nandRuns)) then
    let t := (s.endDump vcut).partReset (if s.hu.failed then 6 else 2) 0
    let why := t.power.heldBy.filter (· != .dump)
    let t := { t with power := { t.power with phase := if why.isEmpty then .run else .held, heldBy := why } }
    .next (if s.hu.failed then t.discharge false else t)
  else .next s

/-! ## Restart (R285, R281, R137) -/

/-- A deallocation record later than origin sequence `o` names the block (R242). -/
def State.dropped (s : State) (nsid lba o : Nat) : Bool :=
  s.ftl.units.any (fun e => match e.2 with
    | some u => u.kind == 7 && !u.lost && decide (o < u.origin) && (List.range (Bytes.le u.data 0 2)).any (fun i =>
        let b := 16 + 16 * i
        Bytes.le u.data (b + 12) 4 == nsid && decide (Bytes.le u.data b 8 ≤ lba ∧ lba < Bytes.le u.data b 8 + Bytes.le u.data (b + 8) 4))
    | none => false)

/-- A copy on flash: where it lies, its origin and its write sequence. -/
structure Copy where
  loc    : Nat
  origin : Nat
  wseq   : Nat
  deriving DecidableEq, Repr

/-- R242's order: by origin sequence, then by write sequence. -/
def Copy.older (a b : Copy) : Bool := decide (a.origin < b.origin ∨ (a.origin = b.origin ∧ a.wseq < b.wseq))

/-- The current copy among some (R242). -/
def currentOf (l : List Copy) : Option Copy :=
  l.foldl (fun m c => match m with | some b => if b.older c then some c else m | none => some c) none

/-- What a rebuild reads: the data units it may take, by key; the origin sequence it gives a provisional clutch, none where it is not committed; and
the sequence a fill extent of the maps it starts from has. -/
structure Scan where
  unit   : Nat → Bool
  pool   : Nat → Clutch → Option Nat
  fillAt : Nat

/-- The copies of a general block that a rebuild finds. -/
def State.genCopies (s : State) (r : Scan) (nsid lba : Nat) : List Copy :=
  s.ftl.units.filterMap (fun e => match e.2 with
    | some u => if u.kind = 1 ∧ u.nsid = nsid ∧ u.laddr = lba ∧ (r.unit e.1 ∨ s.unitOf (s.gen1 nsid lba) = some e.1) then
        some { loc := e.1, origin := u.origin, wseq := u.wseq } else none
    | none => none)

/-- The map entry of a general block (R242). -/
def State.currentGen (s : State) (r : Scan) (nsid lba : Nat) : Nat :=
  match currentOf (s.genCopies r nsid lba) with
  | some c => if s.dropped nsid lba c.origin then noLoc else s.unitNo c.loc
  | none => noLoc

/-- A clutch that a rebuild takes: its first and its last unit are readable (R288, R291), or the map it starts from points at it. -/
def State.slotOk (s : State) (r : Scan) (loc : Nat) (c : Clutch) : Bool :=
  (r.unit (slotUnit loc 0) && r.unit (slotUnit loc 255)) || (s.capLanded c.nsid c.ext && s.capLoc c.nsid c.ext == loc)

/-- The newest gap table unit of an extent. -/
def State.gapUnit (s : State) (nsid x : Nat) : Option FUnit := (s.metaAt 5 (gapIndex nsid x)).bind s.unit

/-- The copies of a capture extent that a rebuild finds: its clutches, and a fill extent (R235) as the newest gap table unit or the map it starts
from tells. -/
def State.capCopies (s : State) (r : Scan) (nsid x : Nat) : List Copy :=
  s.ftl.clutches.filterMap (fun e => match e.2 with
    | some c => if c.nsid = nsid ∧ c.ext = x ∧ s.slotOk r e.1 c then
        (if c.pool then r.pool e.1 c else some c.origin).map (fun o => { loc := e.1, origin := o, wseq := c.wseq }) else none
    | none => none)
  ++ (match s.gapUnit nsid x, s.gap nsid x with
    | some u, some g => if g.isFill then [{ loc := noLoc, origin := u.origin, wseq := u.wseq }] else []
    | _, _ => [])
  ++ (if s.capLanded nsid x ∧ s.capLoc nsid x = noLoc then [{ loc := noLoc, origin := r.fillAt, wseq := 0 }] else [])

/-- The general blocks that have an entry or a unit. -/
def State.genKeys (s : State) : List Nat :=
  (s.ftl.gens.map Prod.fst ++ s.ftl.units.filterMap (fun e => match e.2 with
    | some u => if u.kind = 1 then some (lbaKey u.nsid u.laddr) else none
    | none => none)).foldl addOnce []

/-- The capture extents that have an entry, a clutch or a gap record. -/
def State.capKeys (s : State) : List Nat :=
  (s.ftl.capMap.map Prod.fst ++ s.ftl.clutches.filterMap (fun e => e.2.map (fun c => extKey c.nsid c.ext)) ++ s.ftl.gaps.map Prod.fst).foldl addOnce []

/-- The general map rebuilt (R242, R285). -/
def State.rebuildGen (s : State) (r : Scan) : State :=
  s.over s.genKeys (fun u k => u.setGen (k / 2 ^ 48) (k % 2 ^ 48) (s.currentGen r (k / 2 ^ 48) (k % 2 ^ 48)))

/-- The gap record of a clutch whose gap table unit was not found, or is older: the states its spare records carry (R239); the stream is not on flash,
so it is free. -/
def State.spareGap (s : State) (c : Clutch) : GapRec :=
  { stream := Config.freeNat s.free % 64, flags := ofBool c.states.isEmpty + 8 * ofBool c.pool, states := c.states, first := 0, last := 0, fill := c.fill }

/-- The gap record of an extent whose current copy is a clutch. -/
def State.fixGap (s : State) (nsid x : Nat) (v : Copy) (c : Clutch) : State :=
  match s.gap nsid x, s.gapUnit nsid x with
  | some g, some u => if v.origin ≤ u.origin ∧ !g.isFill then s else (s.setGap nsid x (some (s.spareGap c))).draw
  | _, _ => (s.setGap nsid x (some (s.spareGap c))).draw

/-- One capture map entry rebuilt: an entry that already tells the current copy keeps its generation; another takes the copy and a new
generation. -/
def State.rebuildCap1 (s : State) (r : Scan) (nsid x : Nat) : State :=
  match (currentOf (s.capCopies r nsid x)).filter (fun v => !s.dropped nsid (256 * x) v.origin) with
  | some v =>
    if v.loc = noLoc then
      (if s.capLanded nsid x ∧ s.capLoc nsid x = noLoc then s
       else s.setCap nsid x true false (match s.gap nsid x with | some g => bit g.flags 3 | none => false) false 0 noLoc)
    else match s.clutch v.loc with
      | some c =>
        (if s.capLanded nsid x ∧ s.capLoc nsid x = v.loc then s
         else s.setCap nsid x true c.auth c.pool (s.media (v.loc / 2 ^ 14)).slc (c.keyPage.getD 0) v.loc).fixGap nsid x v c
      | none => s
  | none => (if s.capLanded nsid x then s.clearCap nsid x else s).setGap nsid x none

/-- The capture map rebuilt. -/
def State.rebuildCap (s : State) (r : Scan) : State := s.over s.capKeys (fun u k => u.rebuildCap1 r (k / 2 ^ 32) (k % 2 ^ 32))

/-! ## Checkpoint and journal (R282, R283, R285) -/

/-- Where the newest readable units of kinds 04h and 05h lie. -/
def State.findMeta (s : State) (bad : List Nat) : State :=
  s.over s.ftl.units (fun u e => match e.2 with
    | some f =>
      if (f.kind = 4 ∨ f.kind = 5) ∧ !f.lost ∧ !bad.contains e.1 then
        (match (u.metaAt f.kind f.laddr).bind u.unit with
          | some o => if o.wseq < f.wseq then u.setMetaAt f.kind f.laddr e.1 else u
          | none => u.setMetaAt f.kind f.laddr e.1)
      else u
    | none => u)

/-- The entries of a gap table unit, in HBM. -/
def State.loadGap (s : State) (idx : Nat) (d : Bytes) : State :=
  s.over (List.range 32) (fun u j => u.setGap (idx / 2 ^ 27) (32 * (idx % 2 ^ 27) + j) (gapOf ((d.drop (128 * j)).take 128)))

/-- The gap table as its units on flash hold it. -/
def State.loadGaps (s : State) : State :=
  s.over s.ftl.placed (fun u e => if e.1 / 2 ^ 64 = 5 then (match u.unit (e.2 - 1) with | some f => u.loadGap f.laddr f.data | none => u) else u)

/-- A page of the newest checkpoint cannot be read (R286). -/
def State.ckptLost (s : State) (bad : List Nat) : Bool :=
  match s.ftl.ckpt with
  | some c => let t := s.findMeta bad; c.pages.any (fun i => (t.metaAt 4 i).isNone)
  | none => true

/-- The maps and the tables as the newest checkpoint holds them. -/
def State.loadCkpt (s : State) : State :=
  match s.ftl.ckpt with
  | some c => s.setFtl { s.ftl with capMap := c.capMap, gens := c.genMap, gbs := c.gbs, handles := c.handles, erases := c.erases }
  | none => s

/-- One journal record after the checkpoint replayed; `p` is its position. -/
def State.replay1 (s : State) (p : Nat) : JRec → State
  | .opened g b u _ _ _ => (s.setFtl { s.ftl with opens := s.ftl.opens.set 0 g (s.ftl.opens.get 0 g + 1) }).markOpen g b u
  | .closed g b _ => s.setGb (gbKey g b) { s.gb (gbKey g b) with state := .closed, closed := p }
  | .eraseIntent g v _ _ _ _ => s.setGb (gbKey g v) { s.gb (gbKey g v) with state := .erasing }
  | .moved g v => (s.countErase g v (s.media (gbKey g v)).dies).releaseGb g v
  | .checkpoint _ _ _ _ _ => s
  | .retired _ _ _ _ => s
  | .reserve _ => s
  | .commit _ _ _ _ _ _ => s
  | .discard _ _ => s
  | .namespaceOp _ _ _ _ => s
  | .dump _ _ => s
  | .powerOn _ _ => s

/-- The journal replayed in position order. -/
def State.replay (s : State) (p : Nat) : List JRec → State
  | [] => s
  | r :: rs => (s.replay1 p r).replay (p + 16 + r.payloadLen) rs

/-- The namespaces deleted or formatted since the checkpoint lose what its maps say of them. -/
def State.dropNss (s : State) : State :=
  let gone := s.ftl.journal.filterMap (fun r => match r with | .namespaceOp n op _ _ => if op = 0 then none else some n | _ => none)
  s.setFtl { s.ftl with capMap := s.ftl.capMap.filter (fun e => !gone.contains (e.1 / 2 ^ 32))
                        gens := s.ftl.gens.filter (fun e => !gone.contains (e.1 / 2 ^ 48)) }

/-- The group blocks opened after the checkpoint, and those open at it: a normal restart reads their spare records (R285; those open at it are
DEDUCED, log entry 89). -/
def State.scanned (s : State) : List Nat :=
  s.ftl.journal.filterMap (fun r => match r with | .opened g b _ _ _ _ => some (gbKey g b) | _ => none)
  ++ (match s.ftl.ckpt with | some c => (c.gbs.filter (fun e => e.2.state == .open)).map Prod.fst | none => [])

/-- The origin sequence a commit gave the units of a handle, as the span table holds it (R284). -/
def State.tabOrigin (s : State) (h : Nat) : Option Nat :=
  s.ftl.spanTab.findSome? (fun e => match e.2 with | some r => if r.handle = h ∧ r.state = 5 then some r.origin else none | none => none)

/-- The same as the journal's commit records hold it. -/
def State.recOrigin (s : State) (c : Clutch) : Option Nat :=
  s.ftl.journal.findSome? (fun r => match r with
    | .commit h n f k _ o => if h = c.handle ∧ n = c.nsid ∧ f ≤ c.ext ∧ c.ext < f + k then some o else none
    | _ => none)

/-- What a normal restart reads (R285). A clutch that was provisional counts as committed where a commit record or the span table says so, and where
the checkpoint's map points at its like: that one was committed before the checkpoint. -/
def State.normalScan (s : State) (bad : List Nat) : Scan :=
  let ks := s.scanned
  let at_ := match s.ftl.ckpt with | some c => c.seq - 1 | none => 0
  { unit := fun k => !bad.contains k && ks.contains (k / 2 ^ 32)
    pool := fun _ c => match (s.recOrigin c).or (s.tabOrigin c.handle) with
      | some o => some o
      | none => match (if s.capLanded c.nsid c.ext then s.clutch (s.capLoc c.nsid c.ext) else none) with
        | some v => if v.pool ∧ v.handle = c.handle then some at_ else none
        | none => none
    fillAt := at_ }

/-- What regrowth reads: every spare record, and the span table (R288, R289). -/
def State.regrowScan (s : State) (bad : List Nat) : Scan :=
  { unit := fun k => !bad.contains k, pool := fun _ c => if s.ftl.spanBad then none else s.tabOrigin c.handle, fillAt := 0 }

/-! ## Spans (R137, R289) -/

/-- The counts a restored extent's states stand for. -/
def countsOf (states : Tbl Nat) : Tbl Nat :=
  (List.range 256).foldl (fun t b => t.set 0 b (match states.get 0 b with | 0 => 4096 | 1 => 1 | _ => 0)) []

/-- The extents stored in the pool for a span, by namespace extent index: of each the current copy by R242, unless it is landed data. -/
def State.storedOf (s : State) (r : SpanRow) : Tbl (Option Extent) :=
  let mine := fun (loc : Nat) (c : Clutch) => c.pool && c.handle == r.handle && c.nsid == r.nsid && decide (r.first ≤ c.ext)
    && (r.state == 1 || decide (c.ext < r.first + r.exts)) && !(s.capLanded c.nsid c.ext && s.capLoc c.nsid c.ext == loc)
  let copies := s.ftl.clutches.filterMap (fun e => match e.2 with | some c => if mine e.1 c then some (e.1, c) else none | none => none)
  ((copies.map (fun x => x.2.ext)).foldl addOnce []).foldl (fun t x =>
    match currentOf ((copies.filter (fun y => y.2.ext == x)).map (fun y => { loc := y.1, origin := y.2.origin, wseq := y.2.wseq })) with
    | some v => match s.clutch v.loc with
      | some c => t.set none x (some { isSealed := true, counts := countsOf c.states, fill := c.fill, byOther := true, stored := some v.loc })
      | none => t
    | none => t) []

/-- A span's descriptor restored (R137): its state, with RECOVERED set, and the extents it holds. -/
def State.putSpan (s : State) (k : Nat) (r : SpanRow) (st count : Nat) (exts : Tbl (Option Extent)) : State :=
  let t := s.setSpan k (some { exts := exts, high := r.first + count })
  let t := [56, 48, 40, 32, 24, 16, 8, 0].foldl (fun u o => u.setReg (R.CAP_SP k + o) 0) t
  t.setFld (F.CAP_SP_STATE k) st |>.setFld (F.CAP_SP_RECOVERED k) 1 |>.setFld (F.CAP_SP_MEDIUM k) r.medium
    |>.setFld (F.CAP_SP_STREAM k) r.stream |>.setFld (F.CAP_SP_GEN k) (r.handle / 4096) |>.setFld (F.CAP_SP_FIRST_EXT k) r.first
    |>.setFld (F.CAP_SP_EXT_COUNT k) count |>.setFld (F.CAP_SP_NSID k) r.nsid |>.setFld (F.CAP_SP_EXT_STORED k) exts.length
    |>.addFld F.CAP_SPAN_POOL_POOL_USED exts.length |>.subFld F.CAP_SPAN_FREE_FREE_DESC 1

/-- Clutches of a handle dropped that are not landed data: its span was discarded, or lost (R137). -/
def State.dropPool (s : State) (h : Nat) : State :=
  s.setFtl { s.ftl with clutches := s.ftl.clutches.filter (fun e => match e.2 with
    | some c => !(c.pool && c.handle == h) || (s.capLanded c.nsid c.ext && s.capLoc c.nsid c.ext == e.1)
    | none => true) }

/-- One span restored from the span table (R137). -/
def State.restoreSpan (s : State) (k : Nat) (r : SpanRow) : State :=
  if r.state = 5 then s.putSpan k r 5 r.exts []
  else if r.medium = 0 ∨ r.state = 6 ∨ r.state = 7 then s.dropPool r.handle
  else
    let exts := s.storedOf r
    if r.state = 1 then
      if exts.isEmpty then s
      else s.putSpan k r 3 (((exts.map Prod.fst).foldl (fun m x => max m (x + 1)) 0) - r.first) exts
    else s.putSpan k r 3 r.exts exts

/-- The spans restored; the span table then stands as the descriptors do. -/
def State.restoreSpans (s : State) : State :=
  let t := s.over s.ftl.spanTab (fun u e => match e.2 with | some r => u.restoreSpan e.1 r | none => u)
  t.setFtl { t.ftl with spanTab := [] }

/-- The handles of the clutches that were provisional, the newest first where two name one descriptor. -/
def State.poolHandles (s : State) : List Nat :=
  ((s.ftl.clutches.filterMap (fun e => e.2.bind (fun c => if c.pool then some c.handle else none))).foldl addOnce []).insertionSort (fun a b => b ≤ a)

/-- The row of a recovered Pending span: its range runs from the lowest extent stored under the handle to one above the highest (R289). Its stream is
not on flash, so it is free. -/
def State.handleRow (s : State) (k h : Nat) : SpanRow :=
  let mine := s.ftl.clutches.filterMap (fun e => e.2.bind (fun c => if c.pool && c.handle == h then some (c.nsid, c.ext) else none))
  let lo := least (mine.map Prod.snd)
  let hi := (mine.map (fun x => x.2 + 1)).foldl max 0
  { handle := h, state := 3, medium := 1, stream := Config.freeNat (s.free + k) % 64, nsid := (mine.map Prod.fst).headD 0
    first := lo, exts := hi - lo, fixed := true, origin := 0 }

/-- One recovered Pending span for each handle found in the pool, where the span table is unreadable (R289). A handle whose descriptor a newer one has
taken goes to the lowest free descriptor (DESIGN CHOICE, log entry 89). -/
def State.handleRows (s : State) : Tbl (Option SpanRow) :=
  s.poolHandles.foldl (fun (t : Tbl (Option SpanRow)) h =>
    let k := if (t.get none (h % 4096)).isNone then some (h % 4096) else firstBelow 4096 (fun j => (t.get none j).isNone && !s.poolHandles.any (fun x => x % 4096 == j))
    match k with | some j => t.set none j (some (s.handleRow j h)) | none => t) []

/-! ## Erase intents (R256, R285, R291) -/

/-- A NAND block whose erase has to be done again: it counts, or retires as a suspect one (R256). -/
def State.reErase (s : State) (bad : List Nat) (g i b : Nat) : State :=
  let c := 4 * g + i / 16
  let t := s.count (R.CH_N_ERASES c) 1
  if bad.contains (nandKey g i b) then
    let t := ((t.count (R.CH_N_ERASE_FAIL c) 1).chCause c 2).ftlCause 3
    (t.setFtl { t.ftl with eraseFails := t.ftl.eraseFails + 1 }).retire g i b 2
  else t.countErase g b [i]

/-- An erase intent without its move record finished: what was erased before the cut counts, the victim is erased and verified again, and its move
record written. -/
def State.finishErase (s : State) (bad : List Nat) (g b : Nat) : State :=
  let m := s.media (gbKey g b)
  let t := (s.countErase g b m.wiped).over (m.dies.filter (fun i => !s.ftl.retired.contains (nandKey g i b))) (fun u i => u.reErase bad g i b)
  let t := (((t.setMedia (gbKey g b) { m with wiped := [] }).journal (.moved g b)).wipeGb g b).releaseGb g b
  t.setFtl { t.ftl with suspect := t.ftl.suspect.filter (fun n => !m.dies.any (fun i => n == nandKey g i b)) }

/-- Every erase intent without its move record finished, and what else is suspect erased and verified again. -/
def State.finishErases (s : State) (bad : List Nat) : State :=
  let t := s.over (s.ftl.gbs.filter (fun e => e.2.state == .erasing)) (fun u e => u.finishErase bad (e.1 / 2 ^ 14) (e.1 % 2 ^ 14))
  let t := t.over t.ftl.suspect (fun u n => u.reErase bad (n / 2 ^ 20) (n / 2 ^ 14 % 64) (n % 2 ^ 14))
  t.setFtl { t.ftl with gcs := [], suspect := [] }

/-- Dump group blocks closed (R233). -/
def State.closeDumps (s : State) : State :=
  s.over (s.ftl.gbs.filter (fun e => e.2.state == .open && e.2.use == .dump)) (fun u e => u.closeGb (e.1 / 2 ^ 14) (e.1 % 2 ^ 14))

/-- Ledger entries found at restart: the dump did not finish (R281). -/
def State.checkLedger (s : State) : State :=
  if s.ftl.ledger.isEmpty then s
  else
    let t := s.over s.ftl.ledger (fun u e => u.record 0x000B (leBytes 4 e.nsid ++ leBytes 4 e.count ++ leBytes 8 e.slba))
    ((t.setFtl { t.ftl with ledger := [] }).huCause 7).critical 2

/-- The bits of a unit index: the least U with 2^U at least 4 × 64 × P (R237). -/
def State.unitBitsFor (s : State) : Nat :=
  let p := ((List.range 1024).map (fun i => match s.dieProfile (i / 64) (i % 64) with | some v => v.pages | none => 0)).foldl max 0
  (firstBelow 64 (fun u => decide (4 * 64 * p ≤ 2 ^ u))).getD 64

/-- The part formatted first: U and the reserve are taken (R237, R260). -/
def State.firstFormat (s : State) : State :=
  if s.ftl.unitBits = 0 then (s.setFtl { s.ftl with unitBits := s.unitBitsFor }).takeReserve
  else s.setFld F.FTL_SPARE_RESERVE_BLK s.ftl.reserveBlk

/-- The end of a restart: REBUILDING clears, namespaces are ready, and the registers show what was found. -/
def State.endRestart (s : State) : State :=
  let t := s.setReg R.FTL_WSEQ (BitVec.ofNat 64 s.ftl.nextSeq)
  let t := t.updGroups.updErase.checkSpare
  let nss : Tbl (Option Ns) := t.nvme.nss.map (fun e => (e.1, e.2.map (fun n => { n with notReady := false })))
  let t := { t with nvme := { t.nvme with nss := nss } }
  (t.setFld F.FTL_STATUS_REBUILDING 0).ftlCause 9

/-- A restart waits for a quarantined or failed die (R310). -/
def State.restartWaits (s : State) : Bool := !s.nand.waitDies.isEmpty

/-- The part restarts: it has started and its maps are not yet built. -/
def State.restarting (s : State) : Bool := s.live && s.on F.FTL_STATUS_REBUILDING && !s.restartWaits

/-- This restart is a regrowth: asked for, a journal that cannot be read, no checkpoint, or one with a page that cannot be read (R286). -/
def State.mustRegrow (s : State) (bad : List Nat) : Bool := s.ftl.regrow || s.ckptLost bad

/-- MAP_REBUILD: a normal restart (R285). -/
def execMapRebuild (facts : RestartFacts) (s : State) : Res :=
  if s.restarting ∧ !s.mustRegrow facts.bad then
    let t := ((s.firstFormat.loadCkpt.dropNss).replay (s.ftl.journalPos - s.journalBytes) s.ftl.journal).findMeta facts.bad
    let t := t.loadGaps
    let r := t.normalScan facts.bad
    let t := (t.rebuildGen r).rebuildCap r
    .next ((t.finishErases facts.eraseBad).closeDumps.restoreSpans.checkLedger.endRestart)
  else .next s

/-! ### Regrowth (R286 to R290) -/

/-- A generation after regrowth: the spare records do not carry it, so it is free, from 1 to 0xFFFF (R234, R236). -/
def State.freeGen (s : State) (k : Nat) : State :=
  let v := (s.ftl.capMap.get capNone k).toNat
  if v = capNone.toNat then s
  else (s.setFtl { s.ftl with capMap := s.ftl.capMap.set capNone k (BitVec.ofNat 64 (v % 2 ^ 48 + (Config.freeNat s.free % 65535 + 1) * 2 ^ 48)) }).draw

/-- The use of a group block as its open record or the newest block table tells it, else by what it holds (DESIGN CHOICE, log entry 89). -/
def State.useOf (s : State) (k : Nat) : GbUse :=
  let rec_ := s.ftl.journal.reverse.findSome? (fun r => match r with | .opened g b u _ _ _ => if gbKey g b = k then some u else none | _ => none)
  let tab := s.ftl.ckpt.bind (fun c => (c.gbs.find k).bind (fun g => if g.state = .free then none else some g.use))
  match rec_.or tab with
  | some u => u
  | none =>
    if s.ftl.units.any (fun e => e.1 / 2 ^ 32 == k && e.2.isSome) then .general
    else if s.ftl.clutches.any (fun e => e.1 / 2 ^ 14 == k && (match e.2 with | some c => c.pool | none => false)) then .pool
    else .capture

/-- The block table from the scan: a group block with a page programmed is closed, one open at the loss too (DESIGN CHOICE, log entry 89); the others
are free. Erase intents without a move record stand. -/
def State.scanGbs (s : State) : State :=
  let intent := fun (k : Nat) => s.ftl.journal.foldl (fun (v : Bool) r => match r with
    | .eraseIntent g b _ _ _ _ => v || gbKey g b == k
    | .moved g b => v && gbKey g b != k
    | _ => v) (match s.ftl.ckpt with | some c => (c.gbs.get {} k).state == .erasing | none => false)
  let t := s.setFtl { s.ftl with gbs := [], handles := [], gens := [], capMap := [] }
  let t := t.over (s.ftl.media.filter (fun e => decide (0 < e.2.units) || intent e.1)) (fun u e => u.markOpen (e.1 / 2 ^ 14) (e.1 % 2 ^ 14) (s.useOf e.1))
  t.over t.ftl.gbs (fun u e => u.setGb e.1 { u.gb e.1 with state := if intent e.1 then .erasing else .closed })

/-- Erase counts: the newest readable block table, and one for each erase the journal records since (R288). -/
def State.scanErases (s : State) : State :=
  let t := s.setFtl { s.ftl with erases := match s.ftl.ckpt with | some c => c.erases | none => [] }
  t.over s.ftl.journal (fun u r => match r with | .moved g v => u.countErase g v (u.media (gbKey g v)).dies | _ => u)

/-- REGROWTH: every map from the spare records (R286, R288, R289); a full checkpoint ends it. -/
def execRegrowth (facts : RestartFacts) (s : State) : Res :=
  if s.restarting ∧ s.mustRegrow facts.bad then
    let t := (s.ftlCause 10).firstFormat.scanErases.scanGbs
    let t := if t.ftl.spanBad then t.setFtl { t.ftl with spanTab := t.handleRows } else t
    let t := (t.findMeta facts.bad).loadGaps
    let r := t.regrowScan facts.bad
    let t := (t.rebuildGen r).rebuildCap r
    let t := t.over (t.ftl.capMap.map Prod.fst) (fun u k => u.freeGen k)
    let t := (t.finishErases facts.eraseBad).closeDumps.restoreSpans.checkLedger
    let t := t.setFtl { t.ftl with regrow := false, spanBad := false, ckpt := none }
    let t := (t.checkpoint t.ftl.nextSeq).getD t
    .next ((t.setFld F.FTL_REGROW_PROGRESS 100).setFld F.FTL_REGROW_PENDING 0).endRestart
  else .next s

end Sys2Proof.Machine
end

