-- ==== Sys2Proof/Machine/Controllers.lean ====
section
/-! DEFINITION. The NVMe controllers' life: enabling and resetting, the functions, lanes and their fetches, and the queues (Host Interface;
Command Ordering, Flush, Reset, Abort and Lane Freeze). -/

namespace Sys2Proof.Machine

/-! ## Doorbells and fetching (R186, R187) -/

/-- Entries between the first not fetched and the tail. -/
def Sq.unfetched (q : Sq) : Nat := (q.tail + q.size - q.next) % q.size

/-- Entries of a function's admin submission queue (AQA.ASQS, 0's based). -/
def State.asqSize (s : State) (f : Nat) : Nat := bits (s.reg (Nv.AQA f)).toNat 0 12 + 1

/-- SQ_TAIL_DOORBELL: the tail of a submission queue (R186). A tail at or past the queue's size names no entry and is not taken, nor is one of a
queue that does not exist; each is reported as an asynchronous event of the error type (R175; Invalid Doorbell Write Value and Write to Invalid
Doorbell Register of NVM Express 2.0, PRESUMED). -/
def execSqTailDoorbell (f qid tail : Nat) (s : State) : Res :=
  if s.live ∧ s.fnExists f ∧ s.on (Nv.EN f) then
    if qid = 0 then
      (if tail < s.asqSize f then .next (s.setFn f { s.fn f with admTail := tail }) else .next (s.notice f 0x010100))
    else match s.sq f qid with
      | some q => if tail < q.size then .next (s.setSq f qid (some { q with tail := tail })) else .next (s.notice f 0x010100)
      | none => .next (s.notice f 0x010000)
  else .next s

/-- Entries are fetched: the part is in a Run state and no molt runs (R227, R479), the PCIe agent has not accepted an entry (R486), and no power
failure was detected (R278). -/
def State.fetching (s : State) : Bool := s.inRun && s.nvme.molting.isNone && !s.hu.failed && !s.accepted 29

/-- A lane takes a fetch turn: Running, with a free tag, an entry to fetch, and fewer than 4 fetch reads outstanding (R186, R187). -/
def State.wantsFetch (s : State) (l : Nat) : Bool :=
  s.fld (F.LANE_STATUS_STATE l) == 1 && s.ready (s.owner l) && !(s.freeTags l).isEmpty && decide ((s.lane l).fetches.length < 4) &&
  (match s.laneSq l with | some q => decide (0 < q.unfetched) && q.deleting.isNone | none => false)

/-- The lanes in turn order after the lane of the last turn (R187). -/
def State.turnOrder (s : State) : List Nat := (List.range 96).map (fun i => (s.nvme.lastLane + 1 + i) % 96)

/-- An admin queue holds an entry to be fetched, which goes ahead of every lane (R187). -/
def State.adminWaits (s : State) (f : Nat) : Bool := s.ready f && (s.fn f).admNext != (s.fn f).admTail

/-- LANE_FETCH: the next lane's turn issues one fetch read; its entries take the lowest free tags (R186, R187). No lane has a turn while an admin
queue waits. -/
def execLaneFetch (s : State) : Res :=
  if s.fetching ∧ !s.fnList.any s.adminWaits then
    match s.turnOrder.find? s.wantsFetch with
    | none => .next s
    | some l =>
      match s.laneSq l with
      | none => .next s
      | some q =>
        let ab := bits ((s.fn (s.owner l)).features.get 0 0x01).toNat 0 3
        let tags := (s.freeTags l).take (min (min (2 ^ ab) 8) q.unfetched)
        let base := (s.lane l).order
        let u := s.over (List.zip tags (List.range tags.length)) (fun u x => u.setTag l x.1 (some { order := base + x.2 }))
        let u := u.setLane l { u.lane l with order := base + tags.length, fetches := (u.lane l).fetches ++ [tags] }
        let u := u.setSq (s.owner l) (s.fld (F.LANE_STATUS_SQID l)) (some { q with next := (q.next + tags.length) % q.size })
        .next ({ u with nvme := { u.nvme with lastLane := l } }.emit (.fetch l q.next tags.length))
  else .next s

/-- The status a command that writes will complete with because of when it was fetched (R263, R404, R430, R506). -/
def State.denyAt (s : State) (c : Sqe) : Option Status :=
  let o := c.opc.toNat
  if s.on F.SEC_STATUS_RESTRICTED ∧ [0x01, 0x08, 0x09, 0x80, 0x84].contains o then some St.untested
  else if (s.on F.FTL_STATUS_READ_ONLY || s.on F.PST_STATUS_WORN) ∧ (o = 0x01 ∨ o = 0x08) then some St.capacity
  else if o = 0x01 ∧ s.isCapture c.nsid.toNat then
    match s.nsPage c.nsid.toNat with
    | some k => if s.pageSpent k then some St.keyExhausted else none
    | none => none
  else none

/-- FETCH_COMPLETE: the oldest fetch read of a lane returns its entries. On a Frozen lane they complete with Lane Frozen Abort (R218), on a
queue being deleted with Command Aborted due to SQ Deletion (R188). -/
def execFetchComplete (l : Nat) (es : List Fetched) (s : State) : Res :=
  match (s.lane l).fetches with
  | [] => .next s
  | tags :: rest =>
    if !s.live ∨ es.length ≠ tags.length then .next s
    else
      let u := s.setLane l { s.lane l with fetches := rest }
      let u := u.over (List.zip tags es) (fun v x => match v.tag l x.1 with
        | some g => v.setTag l x.1 (some { g with stage := .waiting, cmd := x.2, fetchedAt := v.nvme.posted, deny := v.denyAt x.2.sqe })
        | none => v)
      let u := u.addFld (F.LANE_FETCHED_FETCHED l) tags.length
      let gone := match s.laneSq l with | some q => q.deleting.isSome | none => false
      .next (if gone then (u.over tags (fun v t => v.release l t St.sqDeletion 0)).settleLane l
        else if s.fld (F.LANE_STATUS_STATE l) = 2 then (u.over tags (fun v t => v.release l t St.laneFrozen 0)).settleLane l
        else u)

/-! ## Enabling (R172, R173) -/

/-- CC_ENABLE: CC written with EN = 1 while it was 0: a CC other than R172's sets CSTS.CFS; else the admin queues stand. -/
def execCcEnable (f : Nat) (cc : W32) (s : State) : Res :=
  if s.live ∧ s.fnExists f ∧ !s.on (Nv.EN f) ∧ bit cc.toNat 0 then
    let t := s.setReg (Nv.CC f) (cc.setWidth 64)
    let t := t.setFld (Nv.SHST f) 0
    if bits cc.toNat 7 4 = 0 ∧ bits cc.toNat 16 4 = 6 ∧ bits cc.toNat 20 4 = 4 ∧ bits cc.toNat 4 3 = 0 then
      .next (t.setFn f { t.fn f with admTail := 0, admNext := 0, cqs := Tbl.put (t.fn f).cqs 0 (some { base := s.reg (Nv.ACQ f), size := bits (s.reg (Nv.AQA f)).toNat 16 12 + 1, ien := true }) })
    else .next (t.setFld (Nv.CFS f) 1)
  else .next s

/-- CONTROLLER_READY: RDY becomes 1 after EN, even while maps rebuild (R173); never in Blank (R502), nor after a failed start (R505). -/
def execControllerReady (f : Nat) (s : State) : Res :=
  if s.live ∧ s.fnExists f ∧ s.on (Nv.EN f) ∧ !s.on (Nv.CFS f) ∧ s.fld F.SEC_LC_STATE ≠ 0 then
    .next (s.setFld (if s.power.fatal then Nv.CFS f else Nv.RDY f) 1)
  else .next s

/-! ## Resets (R167, R223 to R226, R541) -/

/-- Commands of a function's lanes are forgotten wherever they wait: held writes, spans, data to be verified, media reads (R223, R224). -/
def State.forget (s : State) (ls : List Nat) : State :=
  let mine := fun (x : Nat × Nat) => ls.contains x.1
  let spans : Tbl (Option SpanX) := s.cap.spans.map (fun e => (e.1, e.2.map (fun v => { v with waits := v.waits.filter (fun w => !ls.contains w.lane) })))
  let cw : Tbl (Option CapWrite) := s.ftl.capWrites.map (fun e => (e.1, e.2.map (fun w => { w with writers := w.writers.filter (fun x => !mine x) })))
  let held := s.ftl.held.filter (fun x => !mine x)
  let t := s.setFtl { s.ftl with held := held, capWrites := cw, wbuf := s.ftl.wbuf.map (fun w => { w with waits := w.waits.filter (fun x => !mine x) }) }
  ({ t with cap := { t.cap with spans := spans } }.unread mine).setFld F.PWR_HU_HELD_HELD held.length

/-- The I/O queues of a function deleted and its lanes Unbound. -/
def State.dropQueues (s : State) (f : Nat) : State :=
  let ls := s.owned f
  let t := s.over (s.fn f).sqs (fun u e => match e.2 with | some q => u.unrefSq q.keyPage | none => u)
  let t := (t.forget ls).over ls (fun u l => u.unbind l)
  t.setFn f { t.fn f with sqs := [], cqs := [] }

/-- An image that the function has partly downloaded is discarded (R225). -/
def State.dropStaged (s : State) (f : Nat) : State :=
  if s.sec.stagedBy = f then { s with sec := { s.sec with staged := [], stagedOk := false } } else s

/-- The admin commands of a function that run are forgotten: a molt, the Commit of a slot write, a format's completion, a Set Features that waits
for its entry (R223, R225). -/
def State.forgetAdmin (s : State) (f : Nat) : State :=
  let t := match s.nvme.molting with
    | some m => if m.1 = f then { s with nvme := { s.nvme with molting := none }, sec := { s.sec with moltTo := none } } else s
    | none => s
  let t := match t.sec.slotWrite with
    | some w => if w.cmd.map Prod.fst = some f then { t with sec := { t.sec with slotWrite := some { w with cmd := none } } } else t
    | none => t
  let t := { t with nvme := { t.nvme with formats := t.nvme.formats.map (fun (x : Formatting) => if x.fn = f then { x with asked := false } else x) } }
  match t.power.entry with
  | some e => if e.asked.map Prod.fst = some f then { t with power := { t.power with entry := some { e with asked := none } } } else t
  | none => t

/-- A controller reset of a function (R223): EN and RDY clear, its queues go, its features take their defaults (R209), outstanding admin
commands are forgotten, and no further completion or interrupt is posted; one of the physical
function disables the divert queues (R102) and stops the host DMA channels (R387). The CAP, UEN, ETH, channel and translation-layer units do not
change else (R226). -/
def State.controllerReset (s : State) (f : Nat) : State :=
  let t := (s.dropQueues f).setReg (Nv.CC f) 0
  let t := t.setReg (Nv.CSTS f) 0
  let t := t.setFn f { t.fn f with features := [], apst := [], aers := [], notices := [], admTail := 0, admNext := 0 }
  let t := ({ t with nvme := { t.nvme with vecPend := t.nvme.vecPend.filter (fun v => vecOwner v != some f) } }.forgetAdmin f).dropStaged f
  if f = 0 then t.disableDivert.dmaStop 0 else t

/-- CONTROLLER_RESET: CC.EN written from 1 to 0. -/
def execControllerReset (f : Nat) (s : State) : Res :=
  if s.live ∧ s.fnExists f ∧ s.on (Nv.EN f) then .next (s.controllerReset f) else .next s

/-- A reset of a function also clears its MSI-X Enable and Function Mask, masks every vector and forgets what was pending (PCI Express Base
6.0). -/
def State.functionReset (s : State) (f : Nat) : State :=
  let t := (s.controllerReset f).dmaStop f
  let mine := fun v => vecOwner v == some f
  ({ t with nvme := { t.nvme with vecOpen := t.nvme.vecOpen.filter (fun v => !mine v) } }).setFn f
    { t.fn f with msixEn := false, msixMask := false }

/-- FUNCTION_LEVEL_RESET (R167). A reset of the physical function clears its Bus Master Enable (R102). -/
def execFunctionLevelReset (f : Nat) (s : State) : Res :=
  if s.live ∧ s.fnExists f then .next (if f = 0 then (s.functionReset f).busMasterOff else s.functionReset f) else .next s

/-- Every function reset, the VFs gone, Bus Master Enable clear (R102, R167). -/
def State.allFunctionsReset (s : State) : State :=
  let t := s.over s.fnList (fun u f => u.functionReset f)
  { t with nvme := { t.nvme with numVfs := 0 } }.busMasterOff

/-- PCIE_CONVENTIONAL_RESET: PERST_N low, hot reset or link down (R167, R541): every function resets; the part does not. -/
def execPcieConventionalReset (s : State) : Res :=
  if s.power.phase = .off then .next s
  else
    let t := if s.live then s.allFunctionsReset else s
    .next { t with nvme := { t.nvme with linkUp := false, perstLow := true } }

/-- TotalVFs of the SR-IOV capability (R166). -/
def totalVfs : Nat := 31

/-- First VF Offset of the SR-IOV capability (R166). -/
def firstVfOffset : Nat := 1

/-- VF Stride of the SR-IOV capability (R166). -/
def vfStride : Nat := 1

/-- The PCI function number of VF `v` under ARI, which is also its controller's CNTLID (R166, R168). -/
def vfFunction (v : Nat) : Nat := firstVfOffset + (v - 1) * vfStride

/-- VF_ENABLE: VF Enable and NumVFs of the SR-IOV capability (R166, R168). VFs that cease to exist are reset; those that appear are fresh. -/
def execVfEnable (on : Bool) (n : Nat) (s : State) : Res :=
  if s.live then
    let n' := if on then min n totalVfs else 0
    let t := s.over ((List.range 32).filter (fun f => decide (n' < f ∧ f ≤ s.nvme.numVfs))) (fun u f => u.functionReset f)
    .next { t with nvme := { t.nvme with numVfs := n' } }
  else .next s

/-- LANE_OWNER_WRITE: taken while the lane is Unbound, and by a VF that owns fewer than 64 (R184). -/
def execLaneOwnerWrite (l owner : Nat) (s : State) : Res :=
  if s.live ∧ l < 96 ∧ owner < 32 ∧ s.fld (F.LANE_STATUS_STATE l) = 0 ∧ (owner = 0 ∨ (s.owned owner).length < 64) then
    .next (s.setFld (F.LANE_CFG_OWNER l) owner)
  else .next s

/-! ## Queues (R170, R175, R183, R185, R188) -/

/-- The opcodes of the admin commands (R175, R194). -/
def adminOpcodes : List Nat :=
  [0x00, 0x01, 0x02, 0x04, 0x05, 0x06, 0x08, 0x09, 0x0A, 0x0C, 0x0D, 0x10, 0x11, 0x15, 0x80, 0xC1, 0xC2, 0xC4, 0xC5, 0xC9, 0xCA, 0xCC]

/-- Admin commands of a function that have started and not completed: Deletes and LANE RESUMEs that wait, Format NVMs that run, a Set Features that
waits for its entry, a Firmware Commit that writes its slot or molts. Asynchronous Event Requests, of which four may be outstanding (R174), are
not counted (DESIGN CHOICE, log entry 88). -/
def State.adminHeld (s : State) (f : Nat) : Nat :=
  ((s.fn f).sqs.filter (fun e => match e.2 with | some q => q.deleting.isSome | none => false)).length
    + ((s.owned f).map (fun l => (s.lane l).resume.length + (s.lane l).after.length)).foldl (· + ·) 0
    + (s.nvme.formats.filter (fun x => x.asked && x.fn == f)).length
    + ofBool ((s.power.entry.bind Entry.asked).map Prod.fst == some f)
    + ofBool ((s.sec.slotWrite.bind SlotWrite.cmd).map Prod.fst == some f) + ofBool (s.nvme.molting.map Prod.fst == some f)

/-- An admin command of a function starts: admin queues are fetched, an entry of its queue is there, and fewer than 8 are held (R176). -/
def State.adminOk (s : State) (f : Nat) : Bool := s.fetching && s.adminWaits f && decide (s.adminHeld f < 8)

/-- One admin entry fetched. -/
def State.adminFetched (s : State) (f : Nat) : State :=
  s.setFn f { s.fn f with admNext := ((s.fn f).admNext + 1) % s.asqSize f }

/-- An admin command starts, where it may, with the effect `k` of its opcode `opc`. An opcode that no row of R175 or R194 has completes with Invalid
Command Opcode; an entry with another row's opcode is left to that row. -/
def State.adminRun (s : State) (f : Nat) (c : Sqe) (opc : Nat) (k : State → Res) : Res :=
  if !s.adminOk f then .next s
  else if c.opc.toNat = opc then k (s.adminFetched f)
  else if adminOpcodes.contains c.opc.toNat then .next s
  else .next ((s.adminFetched f).admin f c St.invalidOpcode 0 (ploc 0 0))

/-- QID of a queue command. -/
def Sqe.qid (c : Sqe) : Nat := bits c.cdw10.toNat 0 16

/-- An earlier Delete of a submission queue has not completed: a later command that deletes or creates the queue waits for it (R176). -/
def State.sqGoing (s : State) (f qid : Nat) : Bool := match s.sq f qid with | some q => q.deleting.isSome | none => false

/-- DELETE_IO_SQ: commands not started are aborted; the Delete completes with the last that runs (R188). -/
def execDeleteIoSq (f : Nat) (c : Sqe) (s : State) : Res :=
  if s.sqGoing f c.qid then .next s
  else s.adminRun f c 0x00 (fun s => match s.sq f c.qid with
    | none => .next (s.admin f c St.invalidQid 0 (ploc 10 0))
    | some q =>
      .next (((s.setSq f c.qid (some { q with deleting := some c.cid })).abortWaiting q.lane St.sqDeletion).settleLane q.lane))

/-- The field errors of Create I/O Submission Queue, in the order of the entry's dwords; a unit that is absent comes before every other
check (R7). -/
def State.sqErr (s : State) (f : Nat) (c : Sqe) : Option IoErr :=
  let qid := c.qid
  let ls := s.owned f
  let key := bits c.cdw13.toNat 0 8
  if bit c.cdw13.toNat 15 ∧ !s.part.cipher then some { st := St.absent, at_ := none }
  else if qid = 0 ∨ ls.length < qid ∨ (s.sq f qid).isSome ∨ s.fld (F.LANE_STATUS_STATE (ls.getD (qid - 1) 0)) ≠ 0 then
    some { st := St.invalidQid, at_ := some (10, 0) }
  else if bits c.cdw10.toNat 16 16 = 0 then some { st := St.invalidQsize, at_ := some (10, 16) }
  else if !bit c.cdw11.toNat 0 then some { st := St.invalidField, at_ := some (11, 0) }
  else if bits c.cdw11.toNat 16 16 = 0 ∨ ((s.fn f).cqs.get none (bits c.cdw11.toNat 16 16)).isNone then some { st := St.cqInvalid, at_ := some (11, 16) }
  else if bits c.cdw13.toNat 8 7 ≠ 0 ∨ bits c.cdw13.toNat 16 16 ≠ 0 then
    some { st := St.invalidField, at_ := some (13, lowBit (outside c.cdw13.toNat 0x80FF)) }
  else if !bit c.cdw13.toNat 15 then none
  else if s.fld (F.CPH_KP_STATE_OWNER key) ≠ f then some { st := St.invalidField, at_ := some (13, 0) }
  else none

/-- An admin command completes with an error. -/
def State.adminErr (s : State) (f : Nat) (c : Sqe) (e : IoErr) : State :=
  s.admin f c e.st 0 (match e.at_ with | some (d, b) => ploc d b | none => 0xFFFF)

/-- CREATE_IO_SQ: queue q binds to the q-th lane its function owns, optionally with a key page (R183, R185). -/
def execCreateIoSq (f : Nat) (c : Sqe) (s : State) : Res :=
  if s.sqGoing f c.qid then .next s
  else s.adminRun f c 0x01 (fun s => match s.sqErr f c with
    | some e => .next (s.adminErr f c e)
    | none =>
      let l := (s.owned f).getD (c.qid - 1) 0
      let key := if bit c.cdw13.toNat 15 then some (bits c.cdw13.toNat 0 8) else none
      let cq := bits c.cdw11.toNat 16 16
      let t := (s.unbind l).setSq f c.qid (some { base := c.prp1, size := bits c.cdw10.toNat 16 16 + 1, cqid := cq, lane := l, keyPage := key })
      let t := t.setFld (F.LANE_STATUS_STATE l) 1 |>.setFld (F.LANE_STATUS_SQID l) c.qid |>.setFld (F.LANE_STATUS_CQID l) cq
        |>.setFld (F.LANE_FETCHED_FETCHED l) 0
      let t := match key with | some k => t.addFld (F.CPH_KP_STATE_SQ_REFS k) 1 | none => t
      .next (t.admin f c St.ok))

/-- DELETE_IO_CQ: a queue that a submission queue still uses is not deleted (NVM Express 2.0). -/
def execDeleteIoCq (f : Nat) (c : Sqe) (s : State) : Res :=
  s.adminRun f c 0x04 (fun s => if c.qid = 0 ∨ ((s.fn f).cqs.get none c.qid).isNone then .next (s.admin f c St.invalidQid 0 (ploc 10 0))
  else if (s.fn f).sqs.any (fun e => match e.2 with | some q => q.cqid == c.qid | none => false) then
    .next (s.admin f c St.invalidQdel 0 (ploc 10 0))
  else .next ((s.setFn f { s.fn f with cqs := (s.fn f).cqs.set none c.qid none }).admin f c St.ok))

/-- CREATE_IO_CQ (R170, R183). -/
def execCreateIoCq (f : Nat) (c : Sqe) (s : State) : Res :=
  s.adminRun f c 0x05 (fun s => if c.qid = 0 ∨ (s.owned f).length < c.qid ∨ ((s.fn f).cqs.get none c.qid).isSome then .next (s.admin f c St.invalidQid 0 (ploc 10 0))
  else if bits c.cdw10.toNat 16 16 = 0 then .next (s.admin f c St.invalidQsize 0 (ploc 10 16))
  else if !bit c.cdw11.toNat 0 then .next (s.badField f c 11 0)
  else if fnVectors f ≤ bits c.cdw11.toNat 16 16 then .next (s.admin f c St.invalidVector 0 (ploc 11 16))
  else
    let q : Cq := { base := c.prp1, size := bits c.cdw10.toNat 16 16 + 1, ien := bit c.cdw11.toNat 1, iv := bits c.cdw11.toNat 16 16 }
    .next ((s.setFn f { s.fn f with cqs := Tbl.put (s.fn f).cqs c.qid (some q) }).admin f c St.ok))

/-- ABORT: catches a command that holds a tag of its queue's lane and has not started (R213). `others` tells how many Aborts of the controller
are outstanding as this one starts, each Abort being one step here: a fifth completes with Abort Command Limit Exceeded (R216). -/
def execAbort (f : Nat) (c : Sqe) (others : Nat) (s : State) : Res :=
  s.adminRun f c 0x08 (fun s =>
    let cid := bits c.cdw10.toNat 16 16
    if 4 ≤ others then .next (s.admin f c St.abortLimit)
    else match s.sq f c.qid with
    | none => .next (s.admin f c St.ok 1)
    | some q =>
      match (s.busyTags q.lane).find? (fun x => x.2.stage == .waiting && x.2.cmd.sqe.cid.toNat == cid) with
      | some x => .next ((s.finish q.lane x.1 St.abortRequested).admin f c St.ok 0)
      | none => .next (s.admin f c St.ok 1))

/-- LANE_RESUME: a Frozen lane runs again once every tag is free (R196, R222). One submitted after a Delete of the lane's queue takes effect after
it (R176). -/
def execLaneResume (f : Nat) (c : Sqe) (s : State) : Res :=
  s.adminRun f c 0xC4 (fun s => match c.stray (1 :: vendorDws) [(10, 0xFFFF)] with
    | some x => .next (s.badField f c x.1 x.2)
    | none =>
      match s.sq f c.qid with
      | none => .next (s.admin f c St.invalidQid 0 (ploc 10 0))
      | some q =>
        if q.deleting.isSome then .next (s.setLane q.lane { s.lane q.lane with after := (s.lane q.lane).after ++ [c.cid] })
        else if s.fld (F.LANE_STATUS_STATE q.lane) ≠ 2 then .next (s.admin f c St.ok 0)
        else .next ((s.setLane q.lane { s.lane q.lane with resume := (s.lane q.lane).resume ++ [c.cid] }).settleLane q.lane))

/-! ## Interrupts of completion queues (R171, R177) -/

/-- MSIX_UNMASK: a vector's mask, a Function Mask or the enable opens the way, and the pending messages it lets through are sent (R171). -/
def execMsixUnmask (what : MsixOpen) (s : State) : Res :=
  if s.live then
    let t := match what with
      | .vectorMask v => { s with nvme := { s.nvme with vecOpen := addOnce s.nvme.vecOpen v } }
      | .functionMask f => s.setFn f { s.fn f with msixMask := false }
      | .enable f => s.setFn f { s.fn f with msixEn := true }
    let go := t.nvme.vecPend.filter t.vecOpen
    .next (({ t with nvme := { t.nvme with vecPend := t.nvme.vecPend.filter (fun v => !t.vecOpen v) } }).over go (fun u v => u.emit (.msix v)))
  else .next s

/-- INTERRUPT_COALESCING_TIME: the aggregation time of a completion queue's held interrupt has passed (R177). -/
def execInterruptCoalescingTime (f qid : Nat) (s : State) : Res :=
  match (s.fn f).cqs.get none qid with
  | some q =>
    if s.live ∧ 0 < q.held then
      .next ((s.setFn f { s.fn f with cqs := Tbl.put (s.fn f).cqs qid (some { q with held := 0 }) }).msix (fnVector f q.iv))
    else .next s
  | none => .next s

end Sys2Proof.Machine
end

