-- ==== Sys2Proof/Machine/Frames.lean ====
section
/-! DEFINITION. Ethernet frames by their octets: the FCS, MACsec tags, C-tags, the IP and UDP headers and their checksums (R142 to R149), and
the frames the part itself sends (R153, R160). The formats are those of the standards the manual names. -/

namespace Sys2Proof.Machine

/-- The big-endian field of `n` octets at `off` of a byte string; octets past its end read zero. -/
def Bytes.be (bs : Bytes) (off n : Nat) : Nat := beNat (fit n (bs.drop off))

/-! ## The MAC frame -/

/-- One bit of a CRC-32 step, reflected, polynomial 0x04C11DB7. -/
def fcsStep (c : BitVec 32) : BitVec 32 := if c.getLsbD 0 then (c >>> 1) ^^^ 0xEDB88320#32 else c >>> 1

/-- The frame check sequence over a byte string (IEEE 802.3), in the order it is sent. -/
def fcsOf (bs : Bytes) : Bytes :=
  leBytes 4 ((bs.foldl (fun c b => fcsStep (fcsStep (fcsStep (fcsStep (fcsStep (fcsStep (fcsStep (fcsStep (c ^^^ b.setWidth 32)))))))))
    0xFFFFFFFF#32) ^^^ 0xFFFFFFFF#32).toNat

/-- A frame's octets, destination MAC to FCS. -/
def Frame.octets (f : Frame) : Nat := f.bytes.length

/-- A frame fails at the MAC: bad FCS, shorter than 64 bytes, cut by link loss, or a preemption start (R142). -/
def Frame.fcsErr (f : Frame) : Bool :=
  decide (f.octets < 64) || f.smdC || f.cutByLink || fcsOf (f.bytes.take (f.octets - 4)) != f.bytes.drop (f.octets - 4)

/-- The destination MAC. -/
def Frame.dstMac (f : Frame) : Nat := Bytes.be f.bytes 0 6

/-- The source MAC. -/
def Frame.srcMac (f : Frame) : Nat := Bytes.be f.bytes 6 6

/-- The octets between the source MAC and the FCS, from the EtherType on. -/
def Frame.wire (f : Frame) : Bytes := (f.bytes.take (f.octets - 4)).drop 12

/-- A MAC control frame, EtherType 0x8808 (R145). -/
def Frame.macCtrl (f : Frame) : Bool := Bytes.be f.wire 0 2 == 0x8808

/-! ## The SecTAG (IEEE 802.1AE) -/

/-- A protected frame, EtherType 0x88E5. -/
def Frame.secTag (f : Frame) : Bool := Bytes.be f.wire 0 2 == 0x88E5

/-- The TCI and AN octet. -/
def Frame.tci (f : Frame) : Nat := Bytes.be f.wire 2 1

/-- The association number. -/
def Frame.an (f : Frame) : Nat := f.tci % 4

/-- The short length octet. -/
def Frame.shortLen (f : Frame) : Nat := Bytes.be f.wire 3 1

/-- The PN the SecTAG carries. -/
def Frame.secPn (f : Frame) : Nat := Bytes.be f.wire 4 4

/-- The SecTAG's octets, EtherType included. -/
def Frame.tagLen (f : Frame) : Nat := if bit f.tci 5 then 16 else 8

/-- The SCI of a protected frame (R147). -/
def Frame.sciOf (f : Frame) : W64 := BitVec.ofNat 64 (if bit f.tci 5 then Bytes.be f.wire 8 8 else f.srcMac * 2 ^ 16 + 1)

/-- The secure data, the ICV and any pad. -/
def Frame.secured (f : Frame) : Bytes := f.wire.drop f.tagLen

/-- Octets of the secure data. -/
def Frame.dataLen (f : Frame) : Nat := if f.shortLen % 64 = 0 then f.secured.length - 16 else f.shortLen % 64

/-- The SecTAG is well formed: version 0, no ES or SCB beside SC, E and C set (R147), a short length below 48 that the frame holds. -/
def Frame.tagOk (f : Frame) : Bool :=
  !bit f.tci 7 && !(bit f.tci 5 && (bit f.tci 6 || bit f.tci 4)) && bit f.tci 3 && bit f.tci 2 && decide (f.shortLen < 48)
    && decide (f.dataLen + 16 ≤ f.secured.length) && (f.shortLen != 0 || decide (48 ≤ f.dataLen))

/-- The IV of a protected frame: SCI and PN, or for XPN the salt over SSCI and PN (R149). -/
def macsecIv (xpn : Bool) (sci : W64) (ssci salt pn : Nat) : Bytes :=
  if xpn then Crypto.xorB (beBytes 12 salt) (beBytes 4 ssci ++ beBytes 8 pn) else beBytes 8 sci.toNat ++ beBytes 4 pn

/-- The additional data of a protected frame: both MAC addresses and the SecTAG. -/
def Frame.aad (f : Frame) : Bytes := f.bytes.take (12 + f.tagLen)

/-! ## The contents of a frame -/

/-- What follows the MAC addresses and any SecTAG: the tags (2 for an S-tag or a doubled one), the VLAN identifier, the EtherType after
a C-tag, and the octets after it. -/
structure Pkt where
  tags  : Nat
  vlan  : Nat
  etype : Nat
  net   : Bytes
  deriving DecidableEq, Repr

/-- The contents `c` of a frame, from its EtherType on. -/
def pktOf (c : Bytes) : Pkt :=
  let t := Bytes.be c 0 2
  let u := Bytes.be c 4 2
  if t = 0x8100 then ⟨if u = 0x8100 ∨ u = 0x88A8 then 2 else 1, Bytes.be c 2 2 % 4096, u, c.drop 6⟩
  else if t = 0x88A8 then ⟨2, Bytes.be c 2 2 % 4096, u, c.drop 6⟩
  else ⟨0, 0, t, c.drop 2⟩

/-- An IP version 6 packet, by the EtherType. -/
def Pkt.v6 (k : Pkt) : Bool := k.etype == 0x86DD

/-- An IP version 4 packet, by the EtherType. -/
def Pkt.v4 (k : Pkt) : Bool := k.etype == 0x0800

/-- Octets of the IP header: the IHL's, or 40. -/
def Pkt.hdrLen (k : Pkt) : Nat := if k.v6 then 40 else 4 * (Bytes.be k.net 0 1 % 16)

/-- An IPv4 fragment: MF or a fragment offset (R144). -/
def Pkt.frag (k : Pkt) : Bool := k.v4 && Bytes.be k.net 6 2 % 2 ^ 14 != 0

/-- The protocol, or next header. -/
def Pkt.proto (k : Pkt) : Nat := if k.v6 then Bytes.be k.net 6 1 else Bytes.be k.net 9 1

/-- The IP payload's length as the header gives it. -/
def Pkt.ipLen (k : Pkt) : Nat := if k.v6 then Bytes.be k.net 4 2 else Bytes.be k.net 2 2 - k.hdrLen

/-- The sum of the 16-bit words of a byte string. -/
def wordSum : Bytes → Nat
  | [] => 0
  | [a] => a.toNat * 256
  | a :: b :: t => a.toNat * 256 + b.toNat + wordSum t

/-- A one's complement sum that verifies. -/
def sumOk (bs : Bytes) : Bool := let n := wordSum bs; n != 0 && n % 65535 == 0

/-- The IP header is sound: its version, its length within the octets there are, the IPv4 header checksum and a total length that holds the
header (R144). -/
def Pkt.hdrOk (k : Pkt) : Bool :=
  let v := Bytes.be k.net 0 1 / 16
  if k.v6 then v == 6 && decide (40 ≤ k.net.length)
  else v == 4 && decide (20 ≤ k.hdrLen ∧ k.hdrLen ≤ k.net.length ∧ k.hdrLen ≤ Bytes.be k.net 2 2) && sumOk (k.net.take k.hdrLen)

/-- The IP payload lies within the frame. -/
def Pkt.fits (k : Pkt) : Bool := decide (k.hdrLen + k.ipLen ≤ k.net.length)

/-- The IP payload. -/
def Pkt.seg (k : Pkt) : Bytes := (k.net.drop k.hdrLen).take k.ipLen

/-- The source IP address. -/
def Pkt.srcIp (k : Pkt) : Nat := if k.v6 then Bytes.be k.net 8 16 else Bytes.be k.net 12 4

/-- The destination IP address. -/
def Pkt.dstIp (k : Pkt) : Nat := if k.v6 then Bytes.be k.net 24 16 else Bytes.be k.net 16 4

/-- A UDP datagram of a supported IP version (R144). -/
def Pkt.isUdp (k : Pkt) : Bool := (k.v4 || k.v6) && !k.frag && k.proto == 17

/-- The UDP source port. -/
def Pkt.udpSrc (k : Pkt) : Nat := Bytes.be k.seg 0 2

/-- The UDP destination port. -/
def Pkt.udpDst (k : Pkt) : Nat := Bytes.be k.seg 2 2

/-- The UDP length. -/
def Pkt.udpLen (k : Pkt) : Nat := Bytes.be k.seg 4 2

/-- The UDP length is at least 8 and that of the IP payload (R144). -/
def Pkt.udpLenOk (k : Pkt) : Bool := decide (8 ≤ k.udpLen ∧ k.udpLen = k.ipLen)

/-- The pseudo header of the UDP and ICMPv6 checksums. -/
def pseudoHdr (v6 : Bool) (src dst proto len : Nat) : Bytes :=
  let a := if v6 then 16 else 4
  beBytes a src ++ beBytes a dst ++ beBytes 4 proto ++ beBytes 4 len

/-- The UDP checksum verifies. -/
def Pkt.csumOk (k : Pkt) : Bool := sumOk (pseudoHdr k.v6 k.srcIp k.dstIp 17 k.ipLen ++ k.seg)

/-- The UDP checksum field is zero. -/
def Pkt.csumZero (k : Pkt) : Bool := Bytes.be k.seg 6 2 == 0

/-- The UDP payload. -/
def Pkt.payload (k : Pkt) : Bytes := k.seg.drop 8

/-- The cells a datagram's payload takes, as its UDP header gives the length (R158). -/
def Pkt.cells (k : Pkt) : Nat := ceilDiv (k.udpLen - 8) 256

/-- An ARP frame. -/
def Pkt.arp (k : Pkt) : Bool := k.etype == 0x0806

/-- An ICMPv6 packet: next header 58 directly. The manual does not say whether an ICMPv6 message behind an extension header is another ICMPv6
frame (R160, MGMT_DROP) or a frame with an extension header (NOT_UDP): DESIGN CHOICE, the latter (log entry 87). -/
def Pkt.icmp6 (k : Pkt) : Bool := k.v6 && k.proto == 58

/-- The ICMPv6 type. -/
def Pkt.icmpType (k : Pkt) : Nat := Bytes.be k.net 40 1

/-- A neighbour discovery message. -/
def Pkt.nd (k : Pkt) : Bool := k.icmp6 && decide (133 ≤ k.icmpType ∧ k.icmpType ≤ 137)

/-- An ARP request for an IPv4 address on Ethernet, or a neighbour solicitation. -/
def Pkt.request (k : Pkt) : Bool :=
  if k.arp then Bytes.be k.net 0 8 == 0x0001080006040001 else k.icmp6 && k.icmpType == 135

/-- The target of a request. -/
def Pkt.target (k : Pkt) : Nat := if k.arp then Bytes.be k.net 24 4 else Bytes.be k.net 48 16

/-- The protocol address a request comes from. -/
def Pkt.sender (k : Pkt) : Nat := if k.arp then Bytes.be k.net 14 4 else k.srcIp

/-! ## Frames the part sends -/

/-- A frame padded to 64 octets, with its FCS. -/
def macFrame (bs : Bytes) : Bytes := let b := bs ++ zeros (60 - bs.length); b ++ fcsOf b

/-- The contents of an ARP packet from an address pair to another. -/
def arpBody (op smac sip tmac tip : Nat) : Bytes :=
  beBytes 2 0x0806 ++ beBytes 8 (0x0001080006040000 + op) ++ beBytes 6 smac ++ beBytes 4 sip ++ beBytes 6 tmac ++ beBytes 4 tip

/-- The checksum field of a byte string: the one's complement of its one's complement sum. -/
def csumField (bs : Bytes) : Nat := 65535 - (if wordSum bs = 0 then 0 else (wordSum bs - 1) % 65535 + 1)

/-- The contents of a neighbour advertisement of `target` at `mac`, sent to `dst` with the flags octet. -/
def naBody (flags target mac dst : Nat) : Bytes :=
  let icmp := fun (c : Nat) => beBytes 2 0x8800 ++ beBytes 2 c ++ beBytes 4 (flags * 2 ^ 24) ++ beBytes 16 target ++ beBytes 2 0x0201 ++ beBytes 6 mac
  beBytes 2 0x86DD ++ beBytes 4 (6 * 2 ^ 28) ++ beBytes 2 32 ++ beBytes 2 0x3AFF ++ beBytes 16 target ++ beBytes 16 dst
    ++ icmp (csumField (pseudoHdr true target dst 58 32 ++ icmp 0))

/-- The all-nodes group. -/
def allNodes : Nat := 0xFF02 * 2 ^ 112 + 1

end Sys2Proof.Machine
end

