-- ==== Sys2Proof/Machine/Ethernet.lean ====
section
/-! DEFINITION. The Ethernet ports: links, the accounting order of received frames, MACsec, the sender filter, replies and pause (Ethernet
Ingest Ports). -/

namespace Sys2Proof.Machine

/-! A port whose domain is Off has no registers to reach and receives nothing (R34, R483). -/

/-! ## Replies and announcements (R153, R160) -/

/-- A frame of the part's own leaves; it counts in TX_FRAMES. -/
def State.sendFrame (s : State) (p j : Nat) (octets : Bytes) : State := (s.emit (.frame p j octets)).count (R.ETH_N_TX_FRAMES p j) 1

/-- The contents of a frame of sub-port j with the C-tag its receive side asks of others; the manual does not say that replies carry it: PRESUMED
(log entry 87). -/
def State.tagged (s : State) (p j : Nat) (body : Bytes) : Bytes :=
  if s.on (F.ETH_SP_CFG_VLAN_EN p j) then beBytes 4 (0x81000000 + s.fld (F.ETH_SP_CFG_VLAN_ID p j)) ++ body else body

/-- The gratuitous ARP and the unsolicited neighbour advertisement of an address (SPj_CFG.GARP). -/
def State.announcement (s : State) (p j : Nat) (v6 : Bool) (a : Nat) : Bytes :=
  let mac := s.fld (F.ETH_SP_MAC_MAC p j)
  macFrame (beBytes 6 (if v6 then 0x333300000001 else 0xFFFFFFFFFFFF) ++ beBytes 6 mac
    ++ s.tagged p j (if v6 then naBody 0x20 a mac allNodes else arpBody 1 mac a 0 a))

/-- The IPv6 addresses of a sub-port. -/
def State.ip6s (s : State) (p j : Nat) : List Nat :=
  [s.fld (F.ETH_SP_IP6A_IP6 p j), s.fld (F.ETH_SP_IP6B_IP6 p j)].filter (· != 0)

/-- The IPv4 addresses of a sub-port. -/
def State.ip4s (s : State) (p j : Nat) : List Nat :=
  [s.fld (F.ETH_SP_IP4_IP4A p j), s.fld (F.ETH_SP_IP4_IP4B p j)].filter (· != 0)

/-- The announcements of a sub-port: one gratuitous ARP for each IPv4 address, one unsolicited NA for each IPv6 address (SPj_CFG.GARP). -/
def State.announce (s : State) (p j : Nat) : State :=
  (s.over (s.ip4s p j) (fun u a => u.sendFrame p j (s.announcement p j false a))).over (s.ip6s p j)
    (fun u a => u.sendFrame p j (s.announcement p j true a))

/-- The announcements of links that came up while the device was not in Run (R160). -/
def State.announceDue (s : State) : State :=
  ({ s with eth := { s.eth with garpDue := [] } }).over s.eth.garpDue (fun u x => u.announce x.1 x.2)

/-- The PN a protected reply of sub-port j takes: none where it may not be sent (R153). -/
def State.txPn (s : State) (p j : Nat) : Option Nat :=
  let pn := s.fld (F.ETH_TXSA_NEXT_PN p j)
  if pn = 0 ∨ (if s.on (F.ETH_TXSA_XPN p j) then pn = 2 ^ 64 - 1 else 0xFFFFFFFF < pn) then none else some pn

/-- The PN from which a transmit SA's threshold is passed (R153). -/
def State.pnThreshold (s : State) (p j : Nat) : Nat := if s.on (F.ETH_TXSA_XPN p j) then 0xC000000000000000 else 0xC0000000

/-- The PN cause of a transmit SA whose NEXT_PN, `old` before, has passed its threshold (R153). -/
def State.passPn (s : State) (p j old : Nat) : State :=
  if old ≤ s.pnThreshold p j ∧ s.pnThreshold p j < s.fld (F.ETH_TXSA_NEXT_PN p j) then s.ethCause p 5 else s

/-- The two MAC addresses and the contents of a reply: an ARP reply or a solicited neighbour advertisement, to the requester's source MAC
address (R160). A solicitation from the unspecified address is answered to the all-nodes group. -/
def State.replyBody (s : State) (r : MgmtReq) : Bytes × Bytes :=
  let mac := s.fld (F.ETH_SP_MAC_MAC r.port r.sub)
  (beBytes 6 r.mac ++ beBytes 6 mac,
   s.tagged r.port r.sub
     (if r.ipv6 then (if r.ip = 0 then naBody 0x20 r.target mac allNodes else naBody 0x60 r.target mac r.ip) else arpBody 2 mac r.target r.mac r.ip))

/-- A frame protected by the transmit SA under its cipher suite: the SecTAG with SC, E and C set, the SA's AN and TX_SCI, then the ciphertext
and the ICV (R153). -/
def State.protect (s : State) (p j pn : Nat) (macs body key : Bytes) : Bytes :=
  let sci := BitVec.ofNat 64 (s.fld (F.ETH_TXSA_TX_SCI p j))
  let tag := beBytes 2 0x88E5 ++ beBytes 1 (0x2C + s.fld (F.ETH_TXSA_AN p j)) ++ beBytes 1 (if body.length < 48 then body.length else 0)
    ++ beBytes 4 pn ++ beBytes 8 sci.toNat
  let iv := macsecIv (s.on (F.ETH_TXSA_XPN p j)) sci (s.fld (F.ETH_TXSA_SSCI p j)) (s.fld (F.ETH_TXSA_SALT p j)) pn
  macFrame (macs ++ tag ++ Crypto.gcmSeal key iv (macs ++ tag) body)

/-- Where an SA's copy of its SAK lies: a receive SA 4i + n, or a transmit SA. -/
def saSlot (p : Nat) (tx : Bool) (idx : Nat) : Nat := 512 * p + (if tx then 256 + idx % 4 else idx % 256)

/-- One reply to an ARP or ND request; under TX_PROTECT it takes a PN of the transmit SA. Nothing leaves on an SA that is not in use. -/
def State.reply (s : State) (r : MgmtReq) : State :=
  let b := s.replyBody r
  if !s.on (F.ETH_SP_CFG_TX_PROTECT r.port r.sub) then s.sendFrame r.port r.sub (macFrame (b.1 ++ b.2))
  else
    match s.txPn r.port r.sub with
    | none => s.ethCause r.port 5
    | some pn =>
      match s.eth.saKeys.get none (saSlot r.port true r.sub) with
      | some x =>
        ((s.sendFrame r.port r.sub (s.protect r.port r.sub pn b.1 b.2 x.2)).setFld (F.ETH_TXSA_NEXT_PN r.port r.sub) (pn + 1)).passPn r.port r.sub pn
      | none => s

/-- ARP_REPLY: the oldest request of a sub-port is answered while the device is in Run (R160). The manual does not say what becomes of a request
whose sub-port has lost its link or its SP_EN bit meanwhile: DESIGN CHOICE, its reply leaves like any other (log entry 87). -/
def execArpReply (p j : Nat) (s : State) : Res :=
  match s.eth.requests.find? (fun r => r.port == p && r.sub == j) with
  | some r => if s.inRun then .next (({ s with eth := { s.eth with requests := s.eth.requests.erase r } }).reply r) else .next s
  | none => .next s

/-- MGMT_TOKEN_REFILL: one token, up to 4,096 (R160). -/
def execMgmtTokenRefill (p j : Nat) (s : State) : Res :=
  let k := 4 * p + j
  .next { s with eth := { s.eth with tokensUsed := s.eth.tokensUsed.set 0 k (s.eth.tokensUsed.get 0 k - 1) } }

/-! ## Links (R142, R143) -/

/-- A bit of ETHp.STATUS set or cleared. -/
def State.setBit (s : State) (f : Field) (j : Nat) (on : Bool) : State := s.setFld ⟨f.off, f.lo + j, 1⟩ (ofBool on)

/-- The link of a sub-port goes down: a pause condition of its ends with it. -/
def State.dropLink (s : State) (p j : Nat) : State :=
  if s.linkUp p j then
    let t := (s.setBit (F.ETH_STATUS_LINK_UP p) j false).ethCause p 0
    { t with eth := { t.eth with xoff := t.eth.xoff.filter (fun (e : Nat × Bool × Nat) => e.1 != 4 * p + j), garpDue := t.eth.garpDue.filter (· != (p, j)) } }
  else s

/-- LINK_UP: alignment on every lane and no local fault (R143); the announcements of GARP leave in Run, or once Run is entered (R160). -/
def execLinkUp (p j : Nat) (s : State) : Res :=
  if s.subOn p j ∧ !s.linkUp p j then
    let t := ((s.setBit (F.ETH_STATUS_LOCAL_FAULT p) j false).setBit (F.ETH_STATUS_LINK_UP p) j true).ethCause p 0
    if !t.on (F.ETH_SP_CFG_GARP p j) then .next t
    else if t.inRun then .next (t.announce p j)
    else .next { t with eth := { t.eth with garpDue := addOnce t.eth.garpDue (p, j) } }
  else .next s

/-- REMOTE_FAULT: the reconciliation sublayer of a sub-port starts or stops receiving remote fault (R142). -/
def execRemoteFault (p j : Nat) (on : Bool) (s : State) : Res :=
  if s.live ∧ p < s.part.ports ∧ j < 4 ∧ s.dom (21 + p) ≠ 0 then .next (s.setBit (F.ETH_STATUS_REMOTE_FAULT p) j on) else .next s

/-- FEC_SER_WINDOW: the FEC symbol errors of the last second against 10^6 (ETHp.STATUS.HI_SER), and the codewords corrected and uncorrectable
outside frames meanwhile (FEC_CORR, FEC_UNCORR). -/
def execFecSerWindow (p j errors corr uncorr : Nat) (s : State) : Res :=
  if s.live ∧ p < s.part.ports ∧ j < 4 ∧ s.dom (21 + p) ≠ 0 then
    let hi := decide (1000000 < errors)
    let t := ((s.setBit (F.ETH_STATUS_HI_SER p) j hi).count (R.ETH_N_FEC_CORR p j) corr).count (R.ETH_N_FEC_UNCORR p j) uncorr
    .next (if hi && !bit (s.fld (F.ETH_STATUS_HI_SER p)) j then t.ethCause p 1 else t)
  else .next s

/-! ## MACsec (R147 to R152) -/

/-- The receive secure channel of a frame: valid, of its sub-port, with its SCI; the lowest-numbered. -/
def State.rxSc (s : State) (p j : Nat) (f : Frame) : Option Nat :=
  firstBelow 64 (fun i => s.on (F.ETH_RXSC_VALID p i) && s.fld (F.ETH_RXSC_SUBPORT p i) == j && s.reg (R.ETH_RXSC p i) == f.sciOf)

/-- The SA of a frame, in use (R148). -/
def State.rxSa (s : State) (p j : Nat) (f : Frame) : Option Nat :=
  match s.rxSc p j f with
  | some i => if s.on (F.ETH_RXSA_IN_USE p i f.an) then some i else none
  | none => none

/-- The lowest acceptable PN of an SA (R149). -/
def State.lowestPn (s : State) (p i n : Nat) : Nat :=
  max 1 (s.fld (F.ETH_RXSA_NEXT_PN p i n) - (if s.on (F.ETH_RXSC_REPLAY_PROTECT p i) then s.fld (F.ETH_RXSC_REPLAY_WINDOW p i) else 0))

/-- The PN of a protected frame (R149). -/
def State.framePn (s : State) (p i : Nat) (f : Frame) : Nat :=
  let lowest := s.lowestPn p i f.an
  if s.on (F.ETH_RXSA_XPN p i f.an) then
    lowest / 2 ^ 32 * 2 ^ 32 + f.secPn + (if f.secPn < lowest % 2 ^ 32 then 2 ^ 32 else 0)
  else f.secPn

/-- The IV of a frame under an SA (R149). -/
def State.rxIv (s : State) (p i : Nat) (f : Frame) : Bytes :=
  macsecIv (s.on (F.ETH_RXSA_XPN p i f.an)) f.sciOf (s.fld (F.ETH_RXSA_SSCI p i f.an)) (s.fld (F.ETH_RXSA_SALT p i f.an)) (s.framePn p i f)

/-- The SA's copy of its SAK; an SA in use has one. -/
def State.rxKey (s : State) (p i : Nat) (f : Frame) : Bytes :=
  match s.eth.saKeys.get none (saSlot p false (4 * i + f.an)) with | some x => x.2 | none => []

/-- The contents of a frame under an SA where its ICV verifies (R149). -/
def State.unseal (s : State) (p i : Nat) (f : Frame) : Option Bytes :=
  Crypto.gcmOpen (s.rxKey p i f) (s.rxIv p i f) f.aad (f.secured.take f.dataLen) ((f.secured.drop f.dataLen).take 16)

/-- The contents of a protected frame: none where it fails the SecTAG's form, PN 0 or the ICV. -/
def State.verified (s : State) (p i : Nat) (f : Frame) : Option Bytes :=
  if !f.tagOk ∨ f.secPn = 0 then none else s.unseal p i f

/-- What the port deciphers of a frame before its ICV is checked: the octets as they stand of one without a SecTAG. -/
def State.streamed (s : State) (p j : Nat) (f : Frame) : Option Bytes :=
  if !f.secTag then some f.wire
  else if !s.part.macsec then none
  else (s.rxSa p j f).map (fun i => Crypto.gcmCtr (s.rxKey p i f) (s.rxIv p i f) (f.secured.take f.dataLen))

/-- The contents of a frame that its MACsec checks have shown: none of a protected one that fails them. -/
def State.shown (s : State) (p j : Nat) (f : Frame) : Option Bytes :=
  if !f.secTag then some f.wire
  else if !s.part.macsec then none
  else match s.rxSa p j f with
    | some i => s.verified p i f
    | none => none

/-- The frame fails the replay check. -/
def State.isLate (s : State) (p i : Nat) (f : Frame) : Bool :=
  s.on (F.ETH_RXSC_REPLAY_PROTECT p i) && decide (s.framePn p i f < s.lowestPn p i f.an)

/-- A frame that passes its SA raises NEXT_PN and counts in OK_FRAMES (R149). A next PN of 2^64 or more does not fit the field, and the spec
does not say what it then holds: a free value. -/
def State.passSa (s : State) (p i : Nat) (f : Frame) : State :=
  let n := f.an
  let next := max (s.fld (F.ETH_RXSA_NEXT_PN p i n)) (s.framePn p i f + 1)
  let t := s.count (R.ETH_RXSA p i n + 24) 1
  if next < 2 ^ 64 then t.setFld (F.ETH_RXSA_NEXT_PN p i n) next
  else (t.setFld (F.ETH_RXSA_NEXT_PN p i n) (Config.freeNat t.free)).draw

/-- The SAs in use that name a key page, as KPk_STATE.SA_REFS shows them (R412). -/
def State.updSaRefs (s : State) (k : Nat) : State :=
  s.setFld (F.CPH_KP_STATE_SA_REFS k)
    (min 255 (s.eth.saKeys.filter (fun e => match e.2 with | some x => x.1 == k | none => false)).length)

/-- The IN_USE field of an SA: a receive SA 4i + n, or a transmit SA. -/
def saInUse (p : Nat) (tx : Bool) (idx : Nat) : Field :=
  if tx then F.ETH_TXSA_IN_USE p (idx % 4) else F.ETH_RXSA_IN_USE p (idx / 4 % 64) (idx % 4)

/-- The KEY_PAGE field of an SA. -/
def saKeyPage (p : Nat) (tx : Bool) (idx : Nat) : Field :=
  if tx then F.ETH_TXSA_KEY_PAGE p (idx % 4) else F.ETH_RXSA_KEY_PAGE p (idx / 4 % 64) (idx % 4)

/-- SA_IN_USE_WRITE: 1 only for a MACsec page of the physical function, whose SAK the SA copies; 0 gives the copy up (R151, R412, R418). -/
def execSaInUseWrite (p : Nat) (tx : Bool) (idx : Nat) (on : Bool) (s : State) : Res :=
  if !s.live ∨ !s.part.macsec ∨ s.part.ports ≤ p ∨ s.dom (21 + p) = 0 ∨ s.on (saInUse p tx idx) = on then .next s
  else
    let k := s.fld (saKeyPage p tx idx)
    let key : Option (Nat × Bytes) := if on then some (k, s.cph.keys.get [] k) else none
    if on ∧ (s.fld (F.CPH_KP_STATE_KIND k) ≠ 3 ∨ s.fld (F.CPH_KP_STATE_OWNER k) ≠ 0) then .next s
    else .next ((({ s with eth := { s.eth with saKeys := s.eth.saKeys.set none (saSlot p tx idx) key } }).setFld (saInUse p tx idx)
      (ofBool on)).updSaRefs k)

/-! ## The checks of a received frame, in accounting order (R142 to R161) -/

/-- An address of a version: the low 32 bits for IPv4. -/
def addrOf (v6 : Bool) (a : Nat) : Nat := if v6 then a else a % 2 ^ 32

/-- A multicast group. -/
def isGroup (v6 : Bool) (a : Nat) : Bool := if v6 then a / 2 ^ 120 == 0xFF else a / 2 ^ 28 % 16 == 0xE

/-- The multicast MAC of a group (R145). -/
def groupMac (v6 : Bool) (a : Nat) : Nat := if v6 then 0x3333 * 2 ^ 32 + a % 2 ^ 32 else 0x01005E * 2 ^ 24 + a % 2 ^ 23

/-- The groups of the valid filter entries of a port, with their version. -/
def State.groups (s : State) (p : Nat) : List (Bool × Nat) :=
  ((s.portFilters p).map (fun i => (s.on (F.CAP_FLT_IPV6 i), addrOf (s.on (F.CAP_FLT_IPV6 i)) (s.fld (F.CAP_FLT_DST_IP i))))).filter
    (fun g => isGroup g.1 g.2)

/-- The destination MAC is accepted (R145). Whether a protected frame carries ARP or ND shows only in its verified contents; the manual does not
say how the check stands where they fail: DESIGN CHOICE, the frame passes it and counts in its MACsec counter (log entry 87). -/
def State.daOk (s : State) (p j : Nat) (f : Frame) : Bool :=
  let mac := s.fld (F.ETH_SP_MAC_MAC p j)
  let da := f.dstMac
  let k := (s.shown p j f).map pktOf
  if mac ≠ 0 ∧ da = mac then true
  else if da = 0x0180C2000001 then f.macCtrl
  else if da = 0xFFFFFFFFFFFF then (match k with | some k => k.arp | none => true)
  else
    ((match k with | some k => k.nd | none => true) && (s.ip6s p j).any (fun a => da == 0x3333FF * 2 ^ 24 + a % 2 ^ 24))
      || (s.groups p).any (fun g => groupMac g.1 g.2 == da)

/-- The VLAN check (VLAN_EN). -/
def State.vlanOk (s : State) (p j : Nat) (k : Pkt) : Bool :=
  if s.on (F.ETH_SP_CFG_VLAN_EN p j) then k.tags == 1 && k.vlan == s.fld (F.ETH_SP_CFG_VLAN_ID p j) else k.tags == 0

/-- A request that management firmware answers (R160). -/
def State.forMgmt (s : State) (p j : Nat) (k : Pkt) : Bool :=
  k.request && (if k.arp then s.on (F.ETH_SP_CFG_ARP_EN p j) && (s.ip4s p j).contains k.target
    else s.on (F.ETH_SP_CFG_ND_EN p j) && (s.ip6s p j).contains k.target)

/-- The destination IP is accepted (R144). -/
def State.dipOk (s : State) (p j : Nat) (k : Pkt) : Bool :=
  (if k.v6 then s.ip6s p j else s.ip4s p j).contains k.dstIp || (isGroup k.v6 k.dstIp && (s.groups p).contains (k.v6, k.dstIp))

/-- The UDP checksum is accepted (R144). -/
def State.csumAccepted (s : State) (p j : Nat) (k : Pkt) : Bool :=
  !s.on (F.ETH_SP_CFG_CSUM_CHK p j) || (if k.csumZero then !k.v6 || s.on (F.ETH_SP_CFG_ZERO6_OK p j) else k.csumOk)

/-- The frame matches filter entry i (R70). -/
def State.matchFlt (s : State) (p : Nat) (f : Frame) (k : Pkt) (i : Nat) : Bool :=
  s.on (F.CAP_FLT_VALID i) && bit (s.fld (F.CAP_FLT_PORT_MASK i)) p && s.on (F.CAP_FLT_IPV6 i) == k.v6
    && s.fld (F.CAP_FLT_SRC_MAC i) == f.srcMac
    && addrOf k.v6 (s.fld (F.CAP_FLT_SRC_IP i)) == k.srcIp && addrOf k.v6 (s.fld (F.CAP_FLT_DST_IP i)) == k.dstIp
    && s.fld (F.CAP_FLT_UDP_DST i) == k.udpDst && (s.on (F.CAP_FLT_ANY_SRC_PORT i) || s.fld (F.CAP_FLT_UDP_SRC i) == k.udpSrc)
    && (!s.on (F.CAP_FLT_MACSEC_REQ i) || (f.secTag && s.reg (R.CAP_FLT i + 48) == f.sciOf))

/-- The filter entry that admits a frame: the lowest-numbered that matches (R71). -/
def State.admitting (s : State) (p : Nat) (f : Frame) (k : Pkt) : Option Nat := firstBelow 512 (s.matchFlt p f k)

/-- A stranger latched, or counted in LATER while one is latched (R157). -/
def State.stranger (s : State) (p j : Nat) (f : Frame) (k : Pkt) : State :=
  let s := s.ethCause p 3
  if s.on (F.ETH_STRANGER_VALID p) then s.satFld (F.ETH_STRANGER_LATER p) 1
  else
    s.setWords (R.ETH_STRANGER p) 8
      (2 ^ 32 * k.dstIp + 2 ^ 160 * k.srcIp + 2 ^ 288 * f.srcMac + 2 ^ 352 * k.udpDst + 2 ^ 368 * k.udpSrc
        + 2 ^ 384 * (if f.secTag then f.sciOf.toNat else 0) + 2 ^ 504 * (j % 4) + 2 ^ 509 * ofBool f.secTag
        + 2 ^ 510 * ofBool k.v6 + 2 ^ 511)

/-- The frame passes the filter with cells for its payload: it is staged, and its header goes to the cluster (R158, R162). A stream that is not
Running now drops the datagram when it gets there (R65, R66). -/
def State.admitFrame (s : State) (p j i : Nat) (f : Frame) (k : Pkt) : State :=
  let g : Dgram := { stream := s.fld (F.CAP_FLT_STREAM i), filt := i, port := p, sub := j, time := BitVec.ofNat 64 s.time.ftc
                     macsec := f.secTag, ipv6 := k.v6, payload := k.payload, cells := k.cells
                     dead := decide (s.strState (s.fld (F.CAP_FLT_STREAM i)) ≠ 1) }
  let t := ((s.count (R.ETH_N_ADMITTED p j) 1).addFld (F.CAP_FLT_HITS i) 1).takeRecv p j k.cells
  t.setRing p (t.ur.rings.get [] p ++ [g])

/-- A destructive march test runs on staging bank `b`: it allocates no cells (R365). -/
def State.marching (s : State) (b : Nat) : Bool :=
  s.fld F.SRB_MARCH_STATUS_STATE == 1 && !s.buf.marchKeep && s.buf.marchOn.contains b

/-- Cells for the payload can be reserved (R158, R365). -/
def State.cellsFree (s : State) (p j : Nat) (k : Pkt) : Bool := !s.marching (p / 2) && decide (k.cells ≤ s.freeCells p j)

/-- A frame that fails its FCS or MACsec after its UDP header was complete: the cells it reserved there are freed again (R76, R158). The port knows
no more of it then than its headers. -/
def State.unstage (s : State) (p j : Nat) (f : Frame) : State :=
  match (s.streamed p j f).map pktOf with
  | none => s
  | some k =>
    if k.tags < 2 ∧ s.vlanOk p j k ∧ k.isUdp ∧ k.hdrOk ∧ 8 ≤ k.seg.length ∧ k.udpLenOk ∧ s.dipOk p j k ∧ (s.admitting p f k).isSome ∧ s.cellsFree p j k then
      (s.takeRecv p j k.cells).freeRecv p j k.cells
    else s

/-- The IP and UDP checks, the filter and the staging decision (R144, R156, R158). -/
def State.receiveUdp (s : State) (p j : Nat) (f : Frame) (k : Pkt) : State :=
  if !k.isUdp then s.count (R.ETH_N_NOT_UDP p j) 1
  else if !k.hdrOk ∨ !k.fits ∨ !k.udpLenOk then s.count (R.ETH_N_IP_ERR p j) 1
  else if !s.dipOk p j k then s.count (R.ETH_N_DIP_MISS p j) 1
  else if !s.csumAccepted p j k then s.count (R.ETH_N_UDP_CSUM p j) 1
  else
    match s.admitting p f k with
    | none => (s.count (R.ETH_N_STRANGER p j) 1).stranger p j f k
    | some i => if s.cellsFree p j k then s.admitFrame p j i f k else (s.count (R.ETH_N_NO_BUF p j) 1).ethCause p 2

/-- ARP and ICMPv6 frames: handed over while the bucket holds a token (R160). -/
def State.receiveMgmt (s : State) (p j : Nat) (f : Frame) (k : Pkt) : State :=
  let x := 4 * p + j
  if !s.forMgmt p j k then s.count (R.ETH_N_MGMT_DROP p j) 1
  else if 4096 ≤ s.eth.tokensUsed.get 0 x then (s.count (R.ETH_N_MGMT_DROP p j) 1).ethCause p 7
  else
    let r : MgmtReq := { port := p, sub := j, ipv6 := !k.arp, target := k.target, mac := f.srcMac, ip := k.sender }
    ({ s with eth := { s.eth with tokensUsed := s.eth.tokensUsed.set 0 x (s.eth.tokensUsed.get 0 x + 1), requests := s.eth.requests ++ [r] } }).count
      (R.ETH_N_TO_MGMT p j) 1

/-- The checks after MACsec, on the contents `k` (R144, R161). -/
def State.receiveClear (s : State) (p j : Nat) (f : Frame) (k : Pkt) : State :=
  if !s.vlanOk p j k then s.count (R.ETH_N_VLAN_MISS p j) 1
  else if k.arp ∨ k.icmp6 then s.receiveMgmt p j f k
  else s.receiveUdp p j f k

/-- The MACsec checks (R147 to R152). A frame's SecTAG is parsed and checked in one step, so no change of its SA falls between (R151). -/
def State.receiveMacsec (s : State) (p j : Nat) (f : Frame) : State :=
  if !f.secTag then
    if s.on (F.ETH_SP_CFG_MACSEC_ONLY p j) then s.count (R.ETH_N_MACSEC_UNTAG p j) 1 else s.receiveClear p j f (pktOf f.wire)
  else
    match (if s.part.macsec then s.rxSa p j f else none) with
    | none => s.count (R.ETH_N_MACSEC_NOSA p j) 1
    | some i =>
      match s.verified p i f with
      | none => (((s.count (R.ETH_N_MACSEC_BAD p j) 1).count (R.ETH_RXSA p i f.an + 16) 1).ethCause p 4).unstage p j f
      | some c =>
        if s.isLate p i f then (((s.count (R.ETH_N_MACSEC_LATE p j) 1).count (R.ETH_RXSA p i f.an + 8) 1).ethCause p 4).unstage p j f
        else (s.passSa p i f).receiveClear p j f (pktOf c)

/-- A frame's reception ends: it is counted in RX_FRAMES and in exactly one counter of the accounting order (R161). -/
def State.receive (s : State) (p j : Nat) (f : Frame) : State :=
  let s := ((s.count (R.ETH_N_RX_FRAMES p j) 1).count (R.ETH_N_RX_OCTETS p j) f.octets).count (R.ETH_N_FEC_CORR p j) f.fecCorr
    |>.count (R.ETH_N_FEC_UNCORR p j) f.fecUncorr
  if f.fcsErr then (s.count (R.ETH_N_FCS_ERR p j) 1).unstage p j f
  else if 4 * s.fld (F.ETH_SP_CFG_MAX_FRAME p j) < f.octets then s.count (R.ETH_N_OVERSIZE p j) 1
  else if !s.daOk p j f then s.count (R.ETH_N_DA_MISS p j) 1
  else if f.macCtrl then s.count (R.ETH_N_MAC_CTRL p j) 1
  else s.receiveMacsec p j f

/-- ETH_FRAME_RECEIVE: a frame reaches a port. While its domain is Gated or Off it counts in PWR.SLEEP_FRAMES alone (R484); on a sub-port that is
not enabled or whose link is down it counts nowhere (R143). -/
def execEthFrameReceive (p j : Nat) (f : Frame) (s : State) : Res :=
  if s.part.ports ≤ p ∨ 4 ≤ j ∨ s.power.phase = .off ∨ s.power.phase = .held then .next s
  else if s.dom (21 + p) ≠ 2 then .next (s.count R.PWR_SLEEP_FRAMES 1)
  else if s.subOn p j ∧ s.linkUp p j then .next (s.receive p j f)
  else .next s

/-- LINK_DOWN: alignment is lost or a local fault is received or detected; the frame in progress counts in FCS_ERR (R142, R143). -/
def execLinkDown (p j : Nat) (cut : Option Frame) (s : State) : Res :=
  if s.live ∧ p < s.part.ports ∧ j < 4 ∧ s.dom (21 + p) ≠ 0 then
    let t := match cut with
      | some f => if s.dom (21 + p) = 2 ∧ s.linkUp p j then s.receive p j { f with cutByLink := true } else s
      | none => s
    .next ((t.setBit (F.ETH_STATUS_LOCAL_FAULT p) j true).dropLink p j)
  else .next s

/-- STRANGER_REARM: ETHp.STRANGER.VALID written 1 (R157). -/
def execStrangerRearm (p : Nat) (s : State) : Res :=
  if s.live ∧ p < s.part.ports ∧ s.dom (21 + p) ≠ 0 then .next (s.setFld (F.ETH_STRANGER_VALID p) 0) else .next s

/-- XOFF_REPEAT: while free space stays below XOFF_FREE + 128 (R159). -/
def execXoffRepeat (p j : Nat) (s : State) : Res :=
  if (s.xoffOf p j).isSome ∧ s.pauseEligible p ∧ s.below p j (s.fld (F.ETH_PAUSE_XOFF_FREE p) + 128) ∧ s.fld (F.ETH_PAUSE_QUANTA p) ≠ 0 then
    .next (s.sendXoff p j)
  else .next s

end Sys2Proof.Machine
end

