-- ==== Sys2Proof/Machine/Cipher.lean ====
section
/-! DEFINITION. The cipher engine's controls, key pages and the tamper alarm (Cipher Engine and Key Pages). -/

namespace Sys2Proof.Machine

/-- CIPHER_LOCK: CPH.CTRL.LOCK written 1 (R392). -/
def execCipherLock (s : State) : Res := if s.live ∧ s.part.cipher then .next (s.setFld F.CPH_CTRL_LOCK 1) else .next s

/-- RNG_HEALTH_FAIL: the random source fails its health test (R393). -/
def execRngHealthFail (s : State) : Res :=
  if s.live ∧ s.part.cipher then .next ((s.setFld F.CPH_STATUS_RNG_FAIL 1).cphCause 5) else .next s

/-- RNG_HEALTH_PASS (R393). -/
def execRngHealthPass (s : State) : Res :=
  if s.live ∧ s.part.cipher then .next (s.setFld F.CPH_STATUS_RNG_FAIL 0) else .next s

/-- KEY_PAGE_OWNER_WRITE: by the physical function while the page is Empty (R410). Functions are numbered under R169; the part stores the five
bits written. -/
def execKeyPageOwnerWrite (f k owner : Nat) (s : State) : Res :=
  if s.live ∧ s.part.cipher ∧ f = 0 ∧ k < 256 ∧ s.fld (F.CPH_KP_STATE_STATE k) = 0 then .next (s.setFld (F.CPH_KP_STATE_OWNER k) owner)
  else .next s

/-! ## KEY PAGE INSTALL (R413 to R415) -/

/-- The bytes of a record of a kind (R413, check 01h). -/
def keyRecordLen : Nat → Nat
  | 0 => 16
  | 1 => 80
  | _ => 48

/-- The key check value: the first 3 bytes of AES-256 of a zero block under Key1 (R409). -/
def kcvOf (key : Bytes) : Nat := Bytes.le (Crypto.aes256 (key.take 32) (zeros 16)) 0 3

/-- The references of a key page (R412). -/
def State.keyRefs (s : State) (k : Nat) : Nat :=
  s.fld (F.CPH_KP_STATE_NS_REFS k) + s.fld (F.CPH_KP_STATE_SQ_REFS k) + s.fld (F.CPH_KP_STATE_SA_REFS k)

/-- The code of the first check of R414 a record fails; 0 for none. -/
def State.keyCheck (s : State) (f k len : Nat) (d : Bytes) : Nat :=
  let kind := Bytes.le d 6 1
  let owner := s.fld (F.CPH_KP_STATE_OWNER k)
  if Bytes.le d 0 4 ≠ 0x3147504B ∨ Bytes.le d 4 2 ≠ 1 ∨ Bytes.le d 7 1 ≠ 0 ∨ 3 < kind ∨ len ≠ keyRecordLen kind then 1
  else if owner ≠ f ∧ !(f == 0 && kind == 0) then 2
  else if kind = 3 ∧ f ≠ 0 then 3
  else if kind = 1 ∧ (d.drop 16).take 32 = (d.drop 48).take 32 then 4
  else if kind ≠ 0 ∧ s.fld (F.CPH_KP_STATE_STATE k) = 2 ∧ (kind ≠ s.fld (F.CPH_KP_STATE_KIND k) ∨ Bytes.le d 8 8 ≠ s.fld (F.CPH_KP_KEYID_KEYID k)
      ∨ kcvOf (d.drop 16) ≠ s.fld (F.CPH_KP_STATE_KCV k)) then 5
  else 0

/-- A page's key erased: it is Empty, its owner stays, and its entry in the persistence die is rewritten (R415). -/
def State.erasePage (s : State) (k : Nat) : State :=
  let t := { s with cph := { s.cph with keys := s.cph.keys.set [] k [], sebKeys := s.cph.sebKeys.set [] k [], limits := s.cph.limits.set 0 k 0
                                        missing := s.cph.missing.filter (· != k) } }
  t.setFld (F.CPH_KP_STATE_STATE k) 0 |>.setFld (F.CPH_KP_STATE_KIND k) 0 |>.setFld (F.CPH_KP_STATE_KCV k) 0
    |>.setFld (F.CPH_KP_STATE_EXHAUSTED k) 0 |>.setReg (R.CPH_KP_KEYID k) 0 |>.setReg (R.CPH_KP_INVOC k) 0 |>.gcmWrite k

/-- A page takes a key: from Awaiting it keeps its count, else the count is 0 (R415). -/
def State.loadPage (s : State) (k kind keyId : Nat) (key : Bytes) : State :=
  let fresh := s.fld (F.CPH_KP_STATE_STATE k) != 2
  let s := if fresh then s.erasePage k else s
  let t := { s with cph := { s.cph with keys := s.cph.keys.set [] k key, sebKeys := s.cph.sebKeys.set [] k key, missing := s.cph.missing.filter (· != k) } }
  t.setFld (F.CPH_KP_STATE_STATE k) 1 |>.setFld (F.CPH_KP_STATE_KIND k) kind |>.setFld (F.CPH_KP_STATE_KCV k) (kcvOf key)
    |>.setFld (F.CPH_KP_KEYID_KEYID k) keyId |>.gcmWrite k

/-- KEY_PAGE_INSTALL: KEY PAGE INSTALL (C9h) (R194, R413 to R415, R7). -/
def execKeyPageInstall (f : Nat) (c : Sqe) (d : Bytes) (s : State) : Res :=
  s.adminRun f c 0xC9 (fun s =>
    let k := bits c.cdw10.toNat 0 8
    let len := c.cdw11.toNat
    let r := fit len d
    let kind := Bytes.le r 6 1
    if !s.part.cipher ∨ (kind = 3 ∧ !s.part.macsec) then .next (s.admin f c St.absent)
    else match c.stray (1 :: vendorDws) [(10, 0xFF), (11, 0xFFFFFFFF)] with
      | some x => .next (s.badField f c x.1 x.2)
      | none =>
        if 2097152 < len then .next (s.badField f c 11 0)
        else
          let code := s.keyCheck f k len r
          if code ≠ 0 then .next (s.admin f c St.invalidField code (if code = 2 then ploc 10 0 else 0xFFFF))
          else
            let st := s.fld (F.CPH_KP_STATE_STATE k)
            if s.keyRefs k ≠ 0 ∧ (if kind = 0 then st ≠ 0 else st = 1) then .next (s.admin f c St.sequenceError)
            else if kind = 0 then .next (((s.erasePage k).cphCause 6).admin f c St.ok 0)
            else .next (((s.loadPage k kind (Bytes.le r 8 8) (r.drop 16)).cphCause 6).admin f c St.ok (kcvOf (r.drop 16))))

/-! ## The alarm (R419, R515, R516) -/

/-- Every key, key copy and SA copy zeroed; Loaded pages wait for their key; data that waits in the write buffer under such a page is lost
(R417, R419). -/
def State.zeroKeys (s : State) : State :=
  let gone := fun (k : Option Nat) => match k with | some p => s.fld (F.CPH_KP_STATE_STATE p) == 1 | none => false
  let cw : Tbl (Option CapWrite) := s.ftl.capWrites.map (fun e => (e.1, e.2.map (fun (w : CapWrite) =>
    { w with lost := w.lost || (w.charged && gone (match s.ns w.nsid with | some n => n.keyPage | none => none)) })))
  let t := { s with ftl := { s.ftl with wbuf := s.ftl.wbuf.map (fun (w : WbEntry) => { w with lost := w.lost || gone w.keyPage }), capWrites := cw } }
  let t := { t with cph := { t.cph with keys := [], sebKeys := [] } }
  let t := t.over s.eth.saKeys (fun u e => u.setFld (saInUse (e.1 / 512) (decide (256 ≤ e.1 % 512)) (e.1 % 256)) 0)
  let t := { t with eth := { t.eth with saKeys := [] } }
  let t := t.over ((List.range 256).filter (fun k => s.fld (F.CPH_KP_STATE_STATE k) == 1 || s.fld (F.CPH_KP_STATE_SA_REFS k) != 0))
    (fun u k => (if u.fld (F.CPH_KP_STATE_STATE k) = 1 then u.setFld (F.CPH_KP_STATE_STATE k) 2 else u).setFld (F.CPH_KP_STATE_SA_REFS k) 0)
  if s.part.cipher then (t.setFld F.CPH_STATUS_ZEROIZED 1).cphCause 3 else t

/-- TAMPER_ALARM: active in every lifecycle state but Blank and in every power state but Off (R515). Keys are zeroed, SEB is wiped, every grant
ends, and a type 0020h record is written (R516, R526). -/
def execTamperAlarm (src : Nat) (s : State) : Res :=
  if s.power.phase = .off ∨ s.fld F.SEC_LC_STATE = 0 ∨ 5 ≤ src then .next s
  else
    let had := s.fld F.DBG_STATUS_SCOPE != 0
    let t := ((s.zeroKeys.startWipe).endGrant 2).setFld F.SEC_STATUS_TAMPER 1
    let t := (t.setFld ⟨R.SEC_TAMPER, src, 1⟩ 1).secCause src
    .next (t.record 0x0020 (leBytes 2 (2 ^ src) ++ [byteOf (if s.power.phase = .brumation then 4 else s.fld F.PWR_STATE_CUR), byteOf (s.fld F.SEC_LC_STATE), byteOf (ofBool had)] ++ zeros 11))

end Sys2Proof.Machine
end

