-- ==== Sys2Proof/Machine/Admin.lean ====
section
/-! DEFINITION. Admin commands that report: log pages, Identify, features, asynchronous events, MAP HINT EXPORT and EVENT RECORD READ (Host
Interface). -/

namespace Sys2Proof.Machine

/-- Byte strings laid over `bs` at their offsets. -/
def patch (bs : Bytes) (parts : List (Nat × Bytes)) : Bytes :=
  parts.foldl (fun b p => b.take p.1 ++ p.2 ++ b.drop (p.1 + p.2.length)) bs

/-- `n` free bytes drawn. -/
def State.drawBytes (s : State) (n : Nat) : State × Bytes := ({ s with free := s.free + n }, freeBytes s.free n)

/-- A register as 8 little-endian bytes. -/
def State.regBytes (s : State) (off : Nat) : Bytes := leBytes 8 (s.reg off).toNat

/-! ## Log pages (R175, R200, R221) -/

/-- The status field as a completion entry and the Error Information log hold it (NVM Express 2.0, PRESUMED): the phase bit, SC, SCT, DNR. -/
def logStatus (v : Nat) : Nat := 2 * bits v 0 8 + 512 * bits v 8 3 + 32768 * bits v 14 1

/-- An entry of the Error Information log. -/
def ErrEntry.bytes (e : ErrEntry) : Bytes :=
  fit 64 (leBytes 8 e.count ++ leBytes 2 e.sqid ++ leBytes 2 e.cid.toNat ++ leBytes 2 (logStatus e.status) ++ leBytes 2 e.ploc
    ++ leBytes 8 e.lba ++ leBytes 4 e.nsid)

/-- The highest temperature the stacks report, in °C. -/
def State.stackTemp (s : State) : Nat := ((List.range s.part.stacks).map (fun k => s.fld (F.HBM_STATUS_TEMP k))).foldl max 0

/-- SMART / Health Information (02h; layout of NVM Express 2.0, PRESUMED): the critical warnings, the composite temperature, the spare (R262)
and the power cycles. The other counters have no rule and are free values. The junction sensors' highest reading is free. -/
def State.logSmart (s : State) : State × Bytes :=
  let r := s.fld F.FTL_SPARE_RESERVE_BLK
  let x := s.drawBytes 512
  let kelvin := max (Config.freeNat s.free % 65536) (s.stackTemp + 273)
  (x.1, patch (zeros 512)
    [(0, [byteOf s.nvme.critical]), (1, leBytes 2 kelvin), (3, [byteOf (min 100 (25 * s.spare.toNat / r))]), (4, [50#8]),
     (5, x.2.take 1), (32, (x.2.drop 32).take 80), (112, leBytes 16 s.time.powerOns), (128, (x.2.drop 128).take 48)])

/-- The firmware revision of a slot's image (R503). -/
def State.slotRev (s : State) (n : Nat) : Bytes := fit 8 ((s.slot n).fw.drop 0x10)

/-- Firmware Slot Information (03h; layout of NVM Express 2.0, PRESUMED; R508): NVMe slots 1 and 2 are slots 0 and 1. -/
def State.logFirmware (s : State) : Bytes :=
  patch (zeros 512)
    [(0, [byteOf (s.fld F.SEC_STATUS_RUN_SLOT + 1 + 16 * (match s.sec.activation with | some n => n + 1 | none => 0))]),
     (8, s.slotRev 0), (16, s.slotRev 1)]

/-- Lane log (C0h). -/
def State.logLanes (s : State) (f : Nat) : Bytes :=
  let ls := s.owned f
  fit 16 (leBytes 2 ls.length) ++ ls.flatMap (fun l =>
    fit 64 ([byteOf l, byteOf (s.fld (F.LANE_STATUS_STATE l))] ++ leBytes 2 (s.fld (F.LANE_STATUS_SQID l)) ++ leBytes 2 (s.fld (F.LANE_STATUS_CQID l))
      ++ zeros 2 ++ s.regBytes (R.LANE_TAGS l) ++ s.regBytes (R.LANE_FREEZE l) ++ leBytes 8 (s.lane l).freezes
      ++ s.regBytes (R.LANE_FETCHED l) ++ leBytes 8 (s.lane l).errAt))

/-- Stream statistics (C1h). -/
def State.logStreams (s : State) : Bytes :=
  (List.range 64).flatMap (fun n =>
    patch (zeros 1536)
      [(0, [byteOf n, byteOf (s.strState n)]), (8, s.regBytes (R.CAP_S_PROG_ID n)), (16, leBytes 4 (s.fld (F.CAP_S_PROG_VER_PROG_VER n))),
       (32, (List.range 19).flatMap (fun i => s.regBytes (R.CAP_S_RX_DGRAMS n + 8 * i))),
       (256, (List.range 16).flatMap (fun k => s.regBytes (R.CAP_S_UCNT n k))),
       (512, (List.range 128).flatMap (fun r => leBytes 8 ((s.str n).drops.get 0 r)))])

/-- Health and wear (C2h). -/
def State.logHealth (s : State) : Bytes :=
  let l := (List.range 16).flatMap (fun g => s.groupCounts g true)
  let quar := ((List.range 1024).filter (fun i => s.fld (F.CH_DIE_STATE (i / 16) (i % 16)) == 2)).length
  patch (zeros 512)
    [(0, leBytes 4 (least l)), (4, leBytes 4 (l.foldl max 0)), (8, leBytes 4 (l.foldl (· + ·) 0 / l.length)),
     (12, leBytes 4 (s.fld F.FTL_CFG_WL_LIMIT)), (16, leBytes 8 s.spare.toNat), (24, leBytes 8 (s.fld F.FTL_SPARE_RESERVE_BLK)),
     (32, leBytes 8 s.ftl.retired.length), (40, leBytes 8 s.ftl.progFails), (48, leBytes 8 s.ftl.eraseFails), (56, leBytes 4 quar),
     (64, s.regBytes R.PST_RETRIES), (72, leBytes 4 (s.reg R.PST_REMAPPED).toNat), (76, leBytes 4 (s.fld F.PST_STATUS_SPARE_LEFT)),
     (80, leBytes 4 (s.fld F.CFL_ERASE_MAX_SLOT0)), (84, leBytes 4 (s.fld F.CFL_ERASE_MAX_SLOT1)), (88, [byteOf (s.fld F.CFL_STATUS_SLOT_BAD)])]

/-- Event recorder summary (C3h). The records counted are those of the circulating area. -/
def State.logRecorder (s : State) : Bytes :=
  patch (zeros 64)
    [(0, leBytes 4 s.evt.fixed.length), (8, leBytes 4 s.evt.oldest), (12, leBytes 4 (s.fld F.EVT_REC_SEQ_NEWEST)),
     (16, leBytes 8 ((s.evt.circ.getLast?.map Record.time).getD 0)), (24, leBytes 4 (s.evt.circ.filter (fun r => r.bridged)).length)]

/-- Hold-up and protected window (C4h). -/
def State.logHoldUp (s : State) : Bytes :=
  patch (zeros 128)
    [(0, leBytes 4 (s.fld F.PWR_HU_CAP_C_M)), (4, leBytes 4 (s.fld F.PWR_HU_CFG_CEIL)), (8, leBytes 4 s.hu.energyAt),
     (12, leBytes 4 (s.fld F.PWR_HU_STATUS_VBANK)), (16, leBytes 8 (4096 * s.fld F.PWR_HU_WIN_LIMIT)),
     (24, leBytes 8 (4096 * s.fld F.PWR_HU_WIN_IN_USE)), (32, leBytes 8 (s.fld F.PWR_HU_HELD_HELD)), (40, leBytes 8 s.hu.lastMeas),
     (48, leBytes 8 s.hu.nextMeas),
     (56, [byteOf (s.fld F.PWR_HU_STATUS_MEAS_FAIL + 2 * ofBool (s.fld F.PWR_HU_WIN_LIMIT == 0))])]

/-- The page a log identifier names; none where the function may not read it. -/
def State.logPage (s : State) (f lid : Nat) : Option (State × Bytes) :=
  match lid with
  | 0x01 => some (s, fit 4096 ((s.fn f).errLog.flatMap ErrEntry.bytes))
  | 0x02 => some s.logSmart
  | 0x03 => some (s, s.logFirmware)
  | 0xC0 => some (s, s.logLanes f)
  | 0xC1 => if f = 0 then some (s, s.logStreams) else none
  | 0xC2 => if f = 0 then some (s, s.logHealth) else none
  | 0xC3 => if f = 0 then some (s, s.logRecorder) else none
  | 0xC4 => if f = 0 then some (s, s.logHoldUp) else none
  | _ => none

/-- GET_LOG_PAGE (R175, R200). -/
def execGetLogPage (f : Nat) (c : Sqe) (s : State) : Res :=
  s.adminRun f c 0x02 (fun s => match s.logPage f (bits c.cdw10.toNat 0 8) with
    | none => .next (s.admin f c St.invalidLog 0 (ploc 10 0))
    | some x =>
      let n := 4 * (bits c.cdw10.toNat 16 16 + 65536 * bits c.cdw11.toNat 0 16 + 1)
      let off := c.cdw12.toNat + 2 ^ 32 * c.cdw13.toNat
      if 2097152 < n then .next (s.badField f c 10 16)
      else if off % 4 ≠ 0 ∨ x.2.length < off then .next (s.badField f c 12 0)
      else .next ((x.1.give f c 0 (fit n (x.2.drop off))).admin f c St.ok))

/-! ## Identify (R168, R174, R178, R477, R555) -/

/-- A nibble as an uppercase hexadecimal digit. -/
def hexDigit (n : Nat) : Byte := byteOf (if n < 10 then 48 + n else 55 + n)

/-- SN as shipped (R555): calibration bytes 0x008 to 0x00F, little-endian, as 16 digits and four spaces. -/
def serialNumber : Bytes :=
  let v := leNat ((List.range 8).map (fun i => calByte (8 + i)))
  ((List.range 16).reverse.map (fun i => hexDigit (bits v (4 * i) 4))) ++ List.replicate 4 0x20#8

/-- The part name. -/
def Part.name : Part → Bytes
  | .qk1600 => beBytes 6 0x514B31363030
  | .qk1600n => beBytes 8 0x514B313630302D4E
  | .qk800 => beBytes 5 0x514B383030
  | .qk800c => beBytes 7 0x514B3830302D43

/-- MN as shipped (R555). -/
def Part.model (p : Part) : Bytes := (beBytes 10 0x537472656C7761756720 ++ p.name ++ List.replicate 40 0x20#8).take 40

/-- A power state descriptor (R477): power in 0.01 W, whether it is non-operational, its latencies in µs, its relative figures. -/
def powerState (mp : Nat) (nops : Bool) (en ex rel : Nat) : Bytes :=
  fit 32 (leBytes 2 mp ++ [0, byteOf (2 * ofBool nops)] ++ leBytes 4 en ++ leBytes 4 ex ++ List.replicate 4 (byteOf rel))

/-- The PCI device ID (R555). -/
def State.deviceId (s : State) : Nat := s.cfl.ident.did.getD s.part.code

/-- The PCI subsystem ID (R555). -/
def State.subsystemId (s : State) : Nat := s.cfl.ident.ssid.getD 0

/-- Identify Controller (CNS 01h): R174's and R555's values at the offsets of NVM Express 2.0 (PRESUMED). Total and unallocated capacity have no rule
and are free values; what no rule names reads zero. -/
def State.idController (s : State) (f : Nat) : State × Bytes :=
  let x := s.drawBytes 32
  let cap := 1000 * s.fld F.PWR_ENTRY_DELAY_CAP
  let i := s.cfl.ident
  (x.1, patch (zeros 4096)
    [(0, leBytes 2 (i.vid.getD 0xF57E) ++ leBytes 2 (i.ssvid.getD 0xF57E)), (4, fit 20 (i.sn.getD serialNumber)), (24, fit 40 (i.mn.getD s.part.model)),
     (64, s.slotRev (s.fld F.SEC_STATUS_RUN_SLOT)),
     (77, [9#8]), (78, leBytes 2 f), (80, leBytes 4 0x20000), (92, leBytes 4 0x300), (111, [1#8]), (256, leBytes 2 0x0E), (258, [3#8, 3#8, 0x14#8, 4#8, 63#8, 4#8]),
     (265, [1#8]), (270, leBytes 2 10), (280, x.2), (512, [0x66#8, 0x44#8]), (516, leBytes 4 256), (520, leBytes 2 0x4C), (525, [7#8]),
     (2048, powerState 18000 false 50 50 0 ++ powerState 12000 false 50 50 1 ++ powerState 6000 false 50 50 2
       ++ powerState 900 true (cap + 1000) 2000 0 ++ powerState 140 true (cap + 5000) 45000 0)])

/-- Identify Namespace (R168, R178); none for what every namespace shares. -/
def idNamespace (n : Option Ns) : Bytes :=
  patch (zeros 4096) ((130, [12#8]) :: (match n with
    | some v =>
      [(0, leBytes 8 v.blocks ++ leBytes 8 v.blocks ++ leBytes 8 v.blocks), (48, leBytes 16 (4096 * v.blocks)),
       (3072, [byteOf (ofBool v.capture), byteOf (ofBool v.auth), byteOf v.keyByte, byteOf (ofBool v.keyPage.isSome)])]
    | none => []))

/-- The NSIDs that name a namespace, ascending. -/
def State.nsids (s : State) : List Nat := s.nvme.nss.map Prod.fst

/-- A controller list (NVM Express 2.0): the identifiers from `lo` on. -/
def ctrlListOf (l : List Nat) (lo : Nat) : Bytes :=
  let m := l.filter (fun x => decide (lo ≤ x))
  leBytes 2 m.length ++ m.flatMap (leBytes 2)

/-- What an Identify returns, or the error it completes with. -/
def State.identify (s : State) (f : Nat) (c : Sqe) : Sum (Status × Nat × Nat) (State × Bytes) :=
  let nsid := c.nsid.toNat
  let cns := bits c.cdw10.toNat 0 8
  let lo := bits c.cdw10.toNat 16 16
  match cns with
  | 0x01 => .inr (s.idController f)
  | 0x00 =>
    if nsid = 0xFFFFFFFF then .inr (s, idNamespace none)
    else if nsid = 0 ∨ 256 < nsid then .inl (St.invalidNamespace, 1, 0)
    else .inr (s, if s.attachedTo nsid f then idNamespace (s.ns nsid) else [])
  | 0x11 =>
    if nsid = 0xFFFFFFFF then .inr (s, idNamespace none)
    else if nsid = 0 ∨ 256 < nsid then .inl (St.invalidNamespace, 1, 0)
    else .inr (s, if (s.ns nsid).isSome then idNamespace (s.ns nsid) else [])
  | 0x02 =>
    if 0xFFFFFFFE ≤ nsid then .inl (St.invalidNamespace, 1, 0)
    else .inr (s, (s.nsids.filter (fun n => decide (nsid < n) && s.attachedTo n f)).flatMap (leBytes 4))
  | 0x10 =>
    if 0xFFFFFFFE ≤ nsid then .inl (St.invalidNamespace, 1, 0)
    else .inr (s, (s.nsids.filter (fun n => decide (nsid < n))).flatMap (leBytes 4))
  | 0x03 => if s.attachedTo nsid f then .inr (s, [4#8, 1#8, 0, 0, 0]) else .inl (St.invalidField, 1, 0)
  | 0x12 =>
    match s.ns nsid with
    | none => .inl (St.invalidNamespace, 1, 0)
    | some n => .inr (s, ctrlListOf n.attached.toList lo)
  | 0x13 => .inr (s, ctrlListOf s.fnList lo)
  | _ => .inl (St.invalidField, 10, 0)

/-- IDENTIFY (R175). -/
def execIdentify (f : Nat) (c : Sqe) (s : State) : Res :=
  s.adminRun f c 0x06 (fun s => match s.identify f c with
    | .inl e => .next (s.admin f c e.1 0 (ploc e.2.1 e.2.2))
    | .inr x => .next ((x.1.give f c 0 (fit 4096 x.2)).admin f c St.ok))

/-! ## Features (R177) -/

/-- Feature Identifier Not Saveable (NVM Express 2.0). -/
def notSaveable : Status := (1, 0x0D)

/-- FID of a Set or Get Features. -/
def Sqe.fid (c : Sqe) : Nat := bits c.cdw10.toNat 0 8

/-- The bits a feature keeps of dword 11; none for a feature that is not honoured or has a row of its own. -/
def featMask (fid : Nat) : Option Nat :=
  match fid with
  | 0x01 => some 0xFFFFFF07
  | 0x04 => some 0xFFFF
  | 0x06 => some 1
  | 0x08 => some 0xFFFF
  | 0x0B => some 0x3FF
  | _ => none

/-- Where a feature's value is kept: an Interrupt Vector Configuration by vector, a Temperature Threshold by its type. -/
def featKey (c : Sqe) : Nat :=
  match c.fid with
  | 0x09 => 0x900 + bits c.cdw11.toNat 0 16
  | 0x04 => if bits c.cdw11.toNat 20 2 = 0 then 0x04 else 0x404
  | n => n

/-- Number of Queues (R177): lanes owned − 1, in both halves; 0 for none. -/
def State.numQueues (s : State) (f : Nat) : Nat := ((s.owned f).length - 1) * 65537

/-- The first field of dword 11 a feature does not take: a vector outside the function's table, or a temperature that is not the composite
one. -/
def State.featErr (f : Nat) (c : Sqe) : Option (Nat × Nat) :=
  if c.fid = 0x09 then (if fnVectors f ≤ bits c.cdw11.toNat 0 16 then some (11, 0) else none)
  else if c.fid = 0x04 then
    (if bits c.cdw11.toNat 16 4 ≠ 0 ∧ bits c.cdw11.toNat 16 4 ≠ 15 then some (11, 16)
     else if 1 < bits c.cdw11.toNat 20 2 then some (11, 20) else none)
  else none

/-- A feature's value stored. -/
def State.setFeat (s : State) (f key v : Nat) : State :=
  s.setFn f { s.fn f with features := (s.fn f).features.set 0 key (BitVec.ofNat 32 v) }

/-- A feature of R177. -/
def honoured (fid : Nat) : Bool := (featMask fid).isSome || [0x02, 0x07, 0x09, 0x0C, 0x0E].contains fid

/-- SET_FEATURES: every feature but 02h, 0Ch and 0Eh, which have rows of their own. A feature the part does not honour comes before its SV bit. -/
def execSetFeatures (f : Nat) (c : Sqe) (_d : Bytes) (s : State) : Res :=
  if c.fid = 0x02 ∨ c.fid = 0x0C ∨ c.fid = 0x0E then .next s
  else s.adminRun f c 0x09 (fun s =>
    if !honoured c.fid then .next (s.badField f c 10 0)
    else if bit c.cdw10.toNat 31 then .next (s.admin f c notSaveable 0 (ploc 10 31))
    else match State.featErr f c with
    | some x => .next (s.badField f c x.1 x.2)
    | none =>
      if c.fid = 0x07 then .next (s.admin f c St.ok (s.numQueues f))
      else if c.fid = 0x09 then .next ((s.setFeat f (featKey c) (c.cdw11.toNat &&& 0x10000)).admin f c St.ok)
      else .next ((s.setFeat f (featKey c) (c.cdw11.toNat &&& (featMask c.fid).getD 0)).admin f c St.ok))

/-- The current value of a feature that completes in dword 0: the part's own power state and APST from any function (R478). -/
def State.getFeat (s : State) (f : Nat) (c : Sqe) : Option Nat :=
  match c.fid with
  | 0x02 => some (s.fld F.PWR_STATE_CUR)
  | 0x07 => some (s.numQueues f)
  | 0x09 => some (bits c.cdw11.toNat 0 16 + ((s.fn f).features.get 0 (featKey c)).toNat)
  | 0x0C => some ((s.fn 0).features.get 0 0x0C).toNat
  | 0x0E => some 0
  | n => (featMask n).map (fun _ => ((s.fn f).features.get 0 (featKey c)).toNat)

/-- The data of a feature: the APST table (R478), the Timestamp (R463), whose format TMR.CAL has. -/
def State.featData (s : State) (fid : Nat) (dflt : Bool) : Bytes :=
  if fid = 0x0C then (if dflt then zeros 256 else fit 256 (s.fn 0).apst)
  else if fid = 0x0E then leBytes 8 s.cal.toNat else []

/-- GET_FEATURES: SEL 0 the current value, 1 and 2 the default, which a feature that cannot be saved also shows as saved, and 3 the
capabilities: changeable, not saveable (NVM Express 2.0). -/
def execGetFeatures (f : Nat) (c : Sqe) (s : State) : Res :=
  s.adminRun f c 0x0A (fun s =>
    let sel := bits c.cdw10.toNat 8 3
    match s.getFeat f c with
    | none => .next (s.badField f c 10 0)
    | some v =>
      if 3 < sel then .next (s.badField f c 10 8)
      else if sel = 3 then .next (s.admin f c St.ok 4)
      else match State.featErr f c with
        | some x => .next (s.badField f c x.1 x.2)
        | none =>
          let dflt := sel != 0
          let v := if dflt then (if c.fid = 0x07 then v else if c.fid = 0x09 then v % 65536 else 0) else v
          .next ((s.give f c 0 (s.featData c.fid dflt)).admin f c St.ok v))

/-- SET_FEATURES_TIMESTAMP: by the physical function (R463). The recorder takes a type 0004h record, and TMR.EVCAUSE.TIME_SET is set (R460,
R474). -/
def execSetFeaturesTimestamp (f : Nat) (c : Sqe) (d : Bytes) (s : State) : Res :=
  if c.fid ≠ 0x0E then .next s
  else s.adminRun f c 0x09 (fun s => if f ≠ 0 then .next (s.badField f c 10 0)
  else if bit c.cdw10.toNat 31 then .next (s.admin f c notSaveable 0 (ploc 10 31))
  else
    let t := { s with time := { s.time with base := Bytes.le d 0 6, rtcBase := (s.reg R.TMR_RTC).toNat } }
    let t := (t.setFld F.TMR_CAL_ORIGIN 1).setFld F.TMR_CAL_SYNCH 0
    .next (((t.record 0x0004 (leBytes 8 s.cal.toNat ++ leBytes 8 t.cal.toNat)).tmrCause 2).admin f c St.ok))

/-- ASYNC_EVENT_REQUEST: up to four wait (R174, AERL); a notice that waits completes the request at once. -/
def execAsyncEventRequest (f : Nat) (c : Sqe) (s : State) : Res :=
  s.adminRun f c 0x0C (fun s =>
    let v := s.fn f
    if 4 ≤ v.aers.length then .next (s.admin f c St.aerLimit)
    else match v.notices with
      | n :: rest => .next ((s.setFn f { v with notices := rest }).admin f c St.ok n)
      | [] => .next (s.setFn f { v with aers := v.aers ++ [c.cid] }))

/-! ## MAP HINT EXPORT and EVENT RECORD READ (R195, R197, R247) -/

/-- A record of MAP HINT EXPORT (R195). -/
def State.hint (s : State) (nsid x : Nat) : Bytes :=
  let on := s.capLanded nsid x && s.capLoc nsid x != noLoc
  leBytes 8 x ++ (if on then leBytes 4 (s.capLoc nsid x) ++ leBytes 2 (s.capGen nsid x) ++ [1#8, 0] else zeros 8)

/-- MAP_HINT_EXPORT: MAP HINT EXPORT (C2h). -/
def execMapHintExport (f : Nat) (c : Sqe) (s : State) : Res :=
  s.adminRun f c 0xC2 (fun s => if f ≠ 0 then .next (s.admin f c St.invalidOpcode 0 (ploc 0 0))
  else match c.stray (1 :: vendorDws) [(1, 0xFFFFFFFF), (10, 0xFFFFFFFF), (11, 0xFFFFFFFF), (12, 0x1FFFF)] with
  | some x => .next (s.badField f c x.1 x.2)
  | none =>
    let nsid := c.nsid.toNat
    let first := c.cdw10.toNat + 2 ^ 32 * c.cdw11.toNat
    let n := bits c.cdw12.toNat 0 17 + 1
    if !s.attachedTo nsid f ∨ !s.isCapture nsid then .next (s.admin f c St.invalidNamespace 0 (ploc 1 0))
    else if s.on F.FTL_STATUS_REBUILDING then .next (s.admin f c St.notReady)
    else if s.nsSize nsid / 256 < first + n then .next (s.admin f c St.lbaRange 0 (ploc 10 0))
    else .next ((s.give f c 0 ((List.range n).flatMap (fun i => s.hint nsid (first + i)))).admin f c St.ok n))

/-- The records of an area from recorder sequence `first` on: from the oldest where that one is gone, none where it is not yet written. -/
def recordsFrom (l : List Record) (first : Nat) : List Record :=
  match l.getLast? with
  | none => []
  | some newest =>
    if l.any (fun r => r.seq == first) then l.dropWhile (fun r => r.seq != first)
    else if first ≠ 0 ∧ (first + 2 ^ 32 - newest.seq) % 2 ^ 32 < 2 ^ 31 then []
    else l

/-- The whole records at the front of a list that fit in `room` bytes. -/
def fitting : Nat → List Record → List Record
  | _, [] => []
  | room, r :: t => if r.len ≤ room then r :: fitting (room - r.len) t else []

/-- EVENT_RECORD_READ: EVENT RECORD READ (CAh) (R194, R197). Pad records are skipped (R459). -/
def execEventRecordRead (f : Nat) (c : Sqe) (s : State) : Res :=
  s.adminRun f c 0xCA (fun s => if f ≠ 0 then .next (s.admin f c St.invalidOpcode 0 (ploc 0 0))
  else match c.stray (1 :: vendorDws) [(10, 1), (11, 0xFFFFFFFF), (12, 0xFFFFFFFF)] with
  | some x => .next (s.badField f c x.1 x.2)
  | none =>
    let len := c.cdw12.toNat
    if len % 16 ≠ 0 ∨ 2097152 < len then .next (s.badField f c 12 0)
    else
      let area := if bit c.cdw10.toNat 0 then s.evt.circ.filter (fun r => r.seq != 0) else s.evt.fixed
      let rs := fitting len (recordsFrom area c.cdw11.toNat)
      .next ((s.give f c 0 (rs.flatMap Record.bytes)).admin f c St.ok rs.length))

end Sys2Proof.Machine
end

