-- ==== Sys2Proof/Machine/Flash.lean ====
section
/-! DEFINITION. The channel engines: bus phases, the ends of operations, dies and their discovery (Flash Channels, Dies and the Channel Control
Store). -/

namespace Sys2Proof.Machine

/-! ## Operations that run (R300 to R304) -/

/-- A die of a channel is claimed by a customer profile. -/
def State.claimed (s : State) (c k : Nat) : Bool := s.on (F.CH_DIE_CLAIMED c k)

/-- Phases an operation takes: its commands and addresses, then its codewords (R302). -/
def NandOp.phaseCount (o : NandOp) : Nat := match o.kind with | .read => 1 + o.units.length | .program => 1 + o.units.length | _ => 1

/-- An operation of a list may start: no earlier operation of its die is left but a suspended erase, beside which the reads of the suspension
run (R301, R304). -/
def mayStart (o : NandOp) (before : List NandOp) : Bool :=
  let mine := before.filter (fun p => p.die == o.die)
  if o.early then mine.all (fun p => p.kind == .erase && p.susp) else mine.isEmpty

/-- A program writes a dump group block. -/
def State.ofDump (s : State) (c : Nat) (o : NandOp) : Bool := (s.gb (gbKey (c / 4) o.block)).use == .dump

/-- A customer's routine runs an operation: its cycles move what the operation moves, and its DONE ends it (R327). -/
def State.inRoutine (s : State) (c : Nat) (o : NandOp) : Bool :=
  match (s.chan c).seq with
  | some q => o.started && q.die == o.die && q.kind == o.kind
  | none => false

/-- A routine holds the bus (R326). -/
def Chan.busHeld (v : Chan) : Bool := match v.seq with | some q => q.bus | none => false

/-- Every phase of an operation has run, so that the die or the decoder can end it; one that a routine runs ends in the routine. -/
def State.phasesRun (s : State) (c : Nat) (o : NandOp) : Bool := decide (o.phaseCount ≤ o.phases) && !s.inRoutine c o

/-- The operations of a queue with a phase ready, by place. A die that a customer profile drives starts one only while the sequencer is
free, and its routine moves the rest. While the part is entering Basking or Brumation no program and no erase starts, and once the group's agent has accepted nothing does
(R321, R486); in a dump no program starts but the dump's (R278). -/
def State.readyOps (s : State) (c : Nat) : List (Nat × NandOp) :=
  let ops := (s.chan c).ops
  (List.zip (List.range ops.length) ops).filter (fun x =>
    if x.2.started then decide (x.2.phases < x.2.phaseCount) && !x.2.susp && !s.inRoutine c x.2
    else mayStart x.2 (ops.take x.1) && !(s.claimed c x.2.die && (s.chan c).seq.isSome)
      && !(s.accepted (5 + c / 4)) && !(s.entering && (x.2.kind == .program || x.2.kind == .erase))
      && !(s.ftl.dumping && x.2.kind == .program && !s.ofDump c x.2))

/-- Reads win over programs, programs over erases, erases over all others (R302). -/
def OpKind.prio : OpKind → Nat
  | .read => 0 | .program => 1 | .erase => 2 | _ => 3

/-- `x` is granted before `y`: queued earlier; in the same cycle, by kind, then by die (R302). -/
def grantedFirst (x y : Nat × NandOp) : Bool :=
  if x.2.queuedAt ≠ y.2.queuedAt then decide (x.2.queuedAt < y.2.queuedAt)
  else if x.2.kind.prio ≠ y.2.kind.prio then decide (x.2.kind.prio < y.2.kind.prio)
  else if x.2.die ≠ y.2.die then decide (x.2.die < y.2.die) else decide (x.1 < y.1)

/-- Programs of an overhang go ahead of every other program (R275). -/
def overhangAhead (l : List (Nat × NandOp)) : List (Nat × NandOp) :=
  if l.any (fun x => x.2.kind == .program && x.2.urgent) then l.filter (fun x => x.2.kind != .program || x.2.urgent) else l

/-- The first of a list by an order. -/
def firstOf : List (Nat × NandOp) → Option (Nat × NandOp)
  | [] => none
  | x :: t => some (t.foldl (fun m y => if grantedFirst y m then y else m) x)

/-- The operation whose phase the bus is granted to. -/
def pickPhase (l : List (Nat × NandOp)) : Option (Nat × NandOp) := firstOf (overhangAhead l)

/-- The entry point of a kind among those of R312, and the operation code of m0 (R327); none for the kinds no routine serves. -/
def OpKind.entry : OpKind → Option (Nat × Nat)
  | .read => some (1, 1) | .program => some (3, 3) | .erase => some (4, 4) | .setFeatures => some (7, 7)
  | .reset => some (0, 10) | .getFeatures => none | .readId => none

/-- The history level of a die for a mode (R315). -/
def State.histLevel (s : State) (c k : Nat) (slc : Bool) : Nat := s.fld (if slc then F.CH_DIE_HIST_SLC c k else F.CH_DIE_HIST_NAT c k)

/-- The plane mask, the column and the codewords of an operation as a routine finds them (R297, R299, R327); for the kinds that move no
codeword, the plane mask of an erase is every plane's and the others are free values. -/
def State.routineArgs (s : State) (c : Nat) (o : NandOp) : Nat × Nat × Nat :=
  let g := c / 4
  let n := s.planes g (16 * (c % 4) + o.die)
  match o.units with
  | [] => (if o.kind = .erase then 2 ^ n - 1 else Config.freeNat (s.free + 4), Config.freeNat (s.free + 3), Config.freeNat (s.free + 5))
  | k :: _ =>
    let first := unitIdx k % 4
    ((((o.units.map (fun x => s.pageRow g (unitGb x) (unitIdx x / 4) % n)).foldl addOnce []).map (fun i => 2 ^ i)).foldl (· + ·) 0,
      4608 * first, o.units.length % 256 + 256 * first)

/-- The sequencer as a customer routine finds it (R327). The row address comes from the engine in a form the die needs: a free value. -/
def State.enterRoutine (s : State) (c : Nat) (o : NandOp) : State :=
  match s.dieProfile (c / 4) (16 * (c % 4) + o.die), o.kind.entry with
  | some p, some e =>
    if s.claimed c o.die then
      let m : Tbl W32 := [(0, BitVec.ofNat 32 e.2), (1, BitVec.ofNat 32 o.die), (6, BitVec.ofNat 32 (s.histLevel c o.die o.slc)), (7, BitVec.ofNat 32 (ofBool o.slc))]
      let a := s.routineArgs c o
      let m := [(2, Config.freeNat (s.free + 2)), (3, a.2.1), (4, a.1), (5, a.2.2)].foldl (fun (t : Tbl W32) x => t.set 0 x.1 (BitVec.ofNat 32 x.2))
        (m.foldl (fun t x => t.set 0 x.1 x.2) [])
      { s with free := s.free + 6 }.setChan c { s.chan c with seq := some { pc := p.entries.getD e.1 0, m := m, die := o.die, kind := o.kind } }
    else s
  | _, _ => s

/-- An operation starts: it is counted, and takes the values of CFG and RECLAIM that then stand (R334). -/
def State.startOp (s : State) (c i : Nat) (o : NandOp) : State :=
  let o' := { o with started := true, phases := 1, since := s.time.ftc, cfg := (s.reg (R.CH_CFG c)).toNat, rclm := (s.reg (R.CH_RECLAIM c)).toNat }
  let t := s.setChan c { s.chan c with ops := (s.chan c).ops.set i o' }
  let t := match o.kind with
    | .read => t.count (R.CH_N_READS c) 1
    | .program => t.count (R.CH_N_PROGRAMS c) 1
    | .erase => t.count (R.CH_N_ERASES c) 1
    | _ => t
  if o.kind = .reset then (t.enterRoutine c o').emit (.nandReset c o.die) else t.enterRoutine c o'

/-! ## The ends of operations -/

/-- The engine of a channel works: the part is in a Run state or dumps, the channel is present and not halted. -/
def State.engineOn (s : State) (c : Nat) : Bool :=
  (s.inRun || s.ftl.dumping) && decide (c < s.part.channels) && !s.on (F.CH_STATUS_HALTED c)

/-- An operation that runs may end: the part has its supply and is not reset, and the engine is not halted. -/
def State.engineEnds (s : State) (c : Nat) : Bool := (s.live || s.ftl.dumping) && !s.on (F.CH_STATUS_HALTED c)

/-- The first operation of a die that runs and satisfies `p`, by place. -/
def State.runningOp (s : State) (c k : Nat) (p : NandOp → Bool) : Option (Nat × NandOp) :=
  let ops := (s.chan c).ops
  (List.zip (List.range ops.length) ops).find? (fun x => x.2.die == k && x.2.started && !x.2.susp && p x.2)

/-- An operation leaves the queue, with the routine that ran it. -/
def State.endOp (s : State) (c i : Nat) : State :=
  let v := s.chan c
  let seq := match v.seq, v.ops[i]? with
    | some q, some o => if q.die = o.die ∧ q.kind = o.kind then none else some q
    | q, _ => q
  (s.setChan c { v with ops := v.ops.eraseIdx i, seq := seq }).refill c

/-- Data units of the item a collection has in hand could not be read (R255). -/
def State.gcLost (s : State) (g : Nat) (units : List Nat) : State :=
  match s.ftl.gcs.get none g with
  | some c => match c.todo with
    | i :: _ => s.setGc g (some { c with bad := ((List.range (itemUnits i).length).filter (fun j => units.contains ((itemUnits i).getD j 0))).foldl addOnce c.bad })
    | [] => s
  | none => s

/-- A read ends uncorrectable, `units` its data units that could not be read (R316): the command that waits for it completes with Unrecovered Read
Error and the first block in error; a collection notes the units (R255). A dump posts no completion (R278). -/
def State.readLost (s : State) (c : Nat) (o : NandOp) (units : List Nat) : State :=
  let t := s.chCause c 0
  match o.reader with
  | some (.cmd l tg) =>
    if t.ftl.dumping then t
    else (t.unread (fun x => x == (l, tg))).finish l tg St.unrecovered 0 0xFFFF ((units.head?.bind t.unitLba).getD 0)
  | some (.gc g) => t.gcLost g units
  | none => t

/-- A program fails (R318); one of the dump is programmed again elsewhere (R254). -/
def State.progLost (s : State) (c : Nat) (o : NandOp) : State :=
  let t := (s.count (R.CH_N_PROG_FAIL c) 1).chCause c 1
  if t.ftl.dumping && t.ofDump c o then t.redump (c / 4) (16 * (c % 4) + o.die) o.block o.units else t

/-- An erase fails (R318). -/
def State.eraseLost (s : State) (c : Nat) : State := (s.count (R.CH_N_ERASE_FAIL c) 1).chCause c 2

/-- An operation ends with the failure status of its kind. -/
def State.opLost (s : State) (c : Nat) (o : NandOp) : State :=
  match o.kind with
  | .read => s.readLost c o o.units
  | .program => s.progLost c o
  | .erase => s.eraseLost c
  | _ => s

/-- An operation ends with status 00h: an erased block counts (R251). -/
def State.opDone (s : State) (c : Nat) (o : NandOp) : State :=
  if o.kind = .erase then s.blockErased (c / 4) (16 * (c % 4) + o.die) o.block else s

/-- The count of a die's expiries in a row set. -/
def State.setTimeouts (s : State) (c k n : Nat) : State := s.setChan c { s.chan c with timeouts := (s.chan c).timeouts.set 0 k n }

/-- One codeword of a read: its counters, the history level, and whether it asks for a reclaim hint and decoded (R313 to R317). Every re-read, and
each of the three and the five reads of the soft steps, moves the codeword again (R314). -/
def State.decodeCw (s : State) (c : Nat) (o : NandOp) (d : DecodeStep) : State × Bool × Bool :=
  let bitsMin := bits o.rclm 16 8
  let level := bits o.rclm 12 4
  let soft := bit o.rclm 8
  let corr := fun (u : State) (n : Nat) => if n = 0 then u else (u.count (R.CH_N_CW_CORRECTED c) 1).count (R.CH_N_BITS_CORRECTED c) n
  let tried := fun (u : State) (n soft : Nat) => ((((u.count (R.CH_N_CW_DECODED c) (1 + n)).count (R.CH_N_RETRIES c) n).count (R.CH_N_SOFT c) (min soft 2)).count
    (R.CH_N_BUS_BYTES c) (4608 * (n + [0, 3, 8].getD soft 0)))
  match d with
  | .hard0 n => (corr (tried s 0 0) n, decide (bitsMin ≤ n), true)
  | .retry lv n tries =>
    ((corr (tried s tries 0) n).setFld (if o.slc then F.CH_DIE_HIST_SLC c o.die else F.CH_DIE_HIST_NAT c o.die) lv,
      decide (bitsMin ≤ n ∨ level ≤ lv), true)
  | .soft3 n tries => ((corr (tried s tries 1) n).chCause c 3, soft || decide (bitsMin ≤ n), true)
  | .soft5 n tries => ((corr (tried s tries 2) n).chCause c 3, soft || decide (bitsMin ≤ n), true)
  | .fail tries => (((tried s tries 2).count (R.CH_N_UNCORR c) 1).chCause c 3, false, false)

/-- The codewords of a read in turn, each with its data unit: the state, whether one raised a reclaim hint, and the units whose codeword is
uncorrectable. -/
def State.decodeAll (s : State) (c : Nat) (o : NandOp) : List (Nat × DecodeStep) → State × Bool × List Nat
  | [] => (s, false, [])
  | (k, d) :: ds =>
    let x := s.decodeCw c o d
    let y := x.1.decodeAll c o ds
    (y.1, x.2.1 || y.2.1, if x.2.2 then y.2.2 else k :: y.2.2)

/-- A reclaim hint (R317): the valid units of the NAND block move elsewhere, as those of a failing one, and the block stays in service. -/
def State.reclaim (s : State) (c : Nat) (o : NandOp) (lost : List Nat) : State :=
  let t := s.chCause c 10
  if t.live then t.evacuate (c / 4) (16 * (c % 4) + o.die) o.block none lost else t

/-- NAND_READ_DONE: the codewords of a read are decoded, one outcome for each data unit it moves; an uncorrectable one ends the read with status 02h
(R313 to R317). `lost` are data units of the group block, by index, that a relocation it asks for cannot read (R255). -/
def execNandReadDone (ch die : Nat) (cws : List DecodeStep) (lost : List Nat) (s : State) : Res :=
  match s.runningOp ch die (fun o => o.kind == .read && s.phasesRun ch o) with
  | some (i, o) =>
    if s.engineEnds ch then
      let x := s.decodeAll ch o ((List.zip (List.range o.units.length) o.units).map (fun y => (y.2, cws.getD y.1 (.hard0 0))))
      let t := (x.1.endOp ch i).setTimeouts ch die 0
      let t := if x.2.1 then t.reclaim ch o ((x.2.2.map unitIdx).foldl addOnce lost) else t
      .next (if x.2.2.isEmpty then t else t.readLost ch o x.2.2)
    else .next s
  | none => .next s

/-- NAND_PROGRAM_DONE (R318). -/
def execNandProgramDone (ch die : Nat) (ok slow : Bool) (s : State) : Res :=
  match s.runningOp ch die (fun o => o.kind == .program && s.phasesRun ch o) with
  | some (i, o) =>
    if s.engineEnds ch then
      let t := (s.endOp ch i).setTimeouts ch die 0
      let t := if slow then t.chCause ch 12 else t
      .next (if ok then t else t.progLost ch o)
    else .next s
  | none => .next s

/-- NAND_ERASE_DONE (R318). -/
def execNandEraseDone (ch die : Nat) (ok slow : Bool) (s : State) : Res :=
  match s.runningOp ch die (fun o => o.kind == .erase && s.phasesRun ch o) with
  | some (i, o) =>
    if s.engineEnds ch then
      let t := (s.endOp ch i).setTimeouts ch die 0
      .next (if !ok then t.eraseLost ch else (if slow then t.chCause ch 11 else t).opDone ch o)
    else .next s
  | none => .next s

/-- ERASE_RESUME: the reads of a suspension have run (R304). Reads that wait behind may suspend the erase again. -/
def execEraseResume (ch die : Nat) (s : State) : Res :=
  let v := s.chan ch
  if s.engineOn ch ∧ v.ops.any (fun o => o.die == die && o.susp) ∧ !v.ops.any (fun o => o.die == die && o.early) then
    .next ((s.setChan ch { v with ops := v.ops.map (fun o =>
      if o.die == die && o.susp then { o with susp := false, since := s.time.ftc - o.since } else o) }).trySuspend ch die)
  else .next s

/-- The bus type of a profile (R295): 0 ONFI NV-DDR3, 1 ONFI NV-LPDDR4, 2 Toggle DDR. -/
def Profile.busType (p : Profile) : Nat := if p.toggle then 2 else if p.lpddr4 then 1 else 0

/-- The rates of a bus type (R295), with the code of RATE_MAX. -/
def busRates : Nat → List (Nat × Nat)
  | 0 => [(2, 1200), (1, 800), (0, 400)]
  | 1 => [(5, 4800), (4, 2400), (3, 1600)]
  | _ => [(5, 4800), (4, 2400), (3, 1600), (2, 1200), (1, 800), (0, 400)]

/-- The code of a channel's rate: the highest that RATE_MAX, as its discovery took it, and every die in service allow. Where no rate of the bus type lies so low, the channel
stays at the 10 MT/s of discovery, code Fh (DESIGN CHOICE). -/
def State.rateOf (s : State) (c : Nat) (ps : List Profile) : Nat :=
  match ps with
  | [] => 0
  | p :: _ =>
    let m := (s.chan c).rateMax
    match (busRates p.busType).find? (fun r => decide (r.1 ≤ m) && ps.all (fun q => decide (r.2 ≤ q.rate))) with
    | some r => r.1
    | none => 15

/-- CHc.STATUS.RATE and BUS for the dies in service (R295). -/
def State.showRate (s : State) (c : Nat) : State :=
  let ps := (List.range 16).filterMap (fun k => s.dieProfile (c / 4) (16 * (c % 4) + k))
  (s.setFld (F.CH_STATUS_RATE c) (s.rateOf c ps)).setFld (F.CH_STATUS_BUS c) (match ps with | [] => 0 | p :: _ => if p.toggle then 2 else 1)

/-- A die leaves service: its bit, its channel's rate, its group, the spare. -/
def State.dieOut (s : State) (c k : Nat) : State :=
  (((s.setFld ⟨R.CH_STATUS c, k, 1⟩ 0).showRate c).updGroup (c / 4)).checkSpare

/-- A die fails (R311): its operations end with the failure status of their kind. -/
def State.failDie (s : State) (c k : Nat) : State :=
  let v := s.chan c
  let gone := (v.ops ++ v.backlog).filter (fun o => o.die == k)
  let seq := match v.seq with | some q => if q.die = k then none else some q | none => none
  let t := s.setChan c { v with ops := v.ops.filter (fun o => o.die != k), backlog := v.backlog.filter (fun o => o.die != k), seq := seq }
  let t := ((t.setFld (F.CH_DIE_STATE c k) 3).setFld (F.CH_DIE_CAUSE c k) 8).chCause c 5
  (t.over gone (fun u o => u.opLost c o)).dieOut c k

/-- An operation ends with status 03h: the die's volume is reset; a read is tried once more; the third expiry of a die in a row fails it (R311,
R319). -/
def State.timeOutOp (s : State) (ch die i : Nat) (o : NandOp) : State :=
  let n := (s.chan ch).timeouts.get 0 die + 1
  let t := ((s.count (R.CH_N_TIMEOUTS ch) 1).chCause ch 4).emit (.nandReset ch die)
  let t := t.setTimeouts ch die n
  let t := if o.kind = .read ∧ !o.again then
      let u := t.endOp ch i
      u.setChan ch { u.chan ch with ops := (u.chan ch).ops.take i ++ [{ o with again := true, started := false, phases := 0 }] ++ (u.chan ch).ops.drop i }
    else (t.endOp ch i).opLost ch o
  if 3 ≤ n then t.failDie ch die else t

/-- NAND_OP_TIMEOUT: the limit of an operation expires (R319). `ready`: the die reports ready in the same cycle, so the limit does nothing and the
operation ends normally (R305). -/
def execNandOpTimeout (ch die : Nat) (ready : Bool) (s : State) : Res :=
  match s.runningOp ch die (fun _ => true) with
  | some (i, o) => if s.engineEnds ch ∧ !ready then .next (s.timeOutOp ch die i o) else .next s
  | none => .next s

/-! ## Bus phases (R297, R302, R303) -/

/-- The next codeword of an operation on the bus, as the die holds it. -/
def State.moveCw (s : State) (c : Nat) (o : NandOp) : State :=
  match (o.units[o.phases - 1]?).bind s.mediaCodeword with
  | some w => s.emit (.codeword c o.die (o.kind == .program) w)
  | none => s

/-- A kind that a quarantined die still receives (R309). -/
def OpKind.probes : OpKind → Bool
  | .reset => true | .readId => true | _ => false

/-- The first operation of a queue that its die does not receive: it is not in service, and not a quarantined die that is probed. -/
def State.strayOp (s : State) (c : Nat) : Option (Nat × NandOp) :=
  let ops := (s.chan c).ops
  (List.zip (List.range ops.length) ops).find? (fun x => !s.on ⟨R.CH_STATUS c, x.2.die, 1⟩ && s.fld (F.CH_DIE_STATE c x.2.die) != 1
    && !(x.2.kind.probes && s.fld (F.CH_DIE_STATE c x.2.die) == 2))

/-- BUS_PHASE: the granted phase runs to its end (R302, R303): the first of an operation starts it, the others move one codeword each. An
operation for a die that is not in service ends at once with the failure status of its kind (R309, R311). A routine that holds the bus keeps it (R326).
A status poll changes nothing the manual names: the phases of the model are those of commands and codewords. -/
def execBusPhase (ch : Nat) (s : State) : Res :=
  if s.engineOn ch then
    match s.strayOp ch with
    | some (i, o) => .next ((s.endOp ch i).opLost ch o)
    | none =>
      match if (s.chan ch).busHeld then none else pickPhase (s.readyOps ch) with
      | none => .next s
      | some (i, o) =>
        if o.started then
          .next (((s.setChan ch { s.chan ch with ops := (s.chan ch).ops.set i { o with phases := o.phases + 1 } }).count (R.CH_N_BUS_BYTES ch) 4608).moveCw ch o)
        else .next (s.startOp ch i o)
  else .next s

/-- The first operation of a die that has started, a suspended erase included, by place. -/
def State.startedOp (s : State) (c k : Nat) : Option (Nat × NandOp) :=
  let ops := (s.chan c).ops
  (List.zip (List.range ops.length) ops).find? (fun x => x.2.die == k && x.2.started)

/-- Every operation in flight of a channel ends with status 03h (R469): of a die, the one that runs and the erase suspended for it. -/
def State.timeOutCh (s : State) (ch : Nat) : State :=
  s.over ((List.range 16).flatMap (fun k => [k, k])) (fun u die => match u.startedOp ch die with
    | some (i, o) => u.timeOutOp ch die i o
    | none => u)

/-! ## A die given up (R310) -/

/-- The units of a clutch at `loc` that lie on die i of its group. -/
def State.unitsOn (s : State) (loc i : Nat) : List Nat :=
  (List.range 256).filter (fun u => s.pageDie (loc / 2 ^ 28) (loc / 2 ^ 14 % 2 ^ 14) (64 * (loc % 2 ^ 14) + u / 4) == i)

/-- What lay on die i of group g is lost. -/
def State.loseDie (s : State) (g i : Nat) : State :=
  let hit := fun (b : Nat) => (s.dieSet g b).contains i
  let cl : Tbl (Option Clutch) := s.ftl.clutches.map (fun e => (e.1, e.2.map (fun (c : Clutch) =>
    if e.1 / 2 ^ 28 = g ∧ hit (e.1 / 2 ^ 14 % 2 ^ 14) then { c with lostUnits := (s.unitsOn e.1 i).foldl addOnce c.lostUnits } else c)))
  let un : Tbl (Option FUnit) := s.ftl.units.map (fun e => (e.1, e.2.map (fun (u : FUnit) =>
    if e.1 / 2 ^ 46 = g ∧ hit (e.1 / 2 ^ 32 % 2 ^ 14) ∧ s.pageDie g (e.1 / 2 ^ 32 % 2 ^ 14) (e.1 % 2 ^ 32 / 4) = i then { u with lost := true } else u)))
  s.setFtl { s.ftl with clutches := cl, units := un }

/-- DIE_FORGET: CHc.DIEk.FORGET written 1 while the die is quarantined or failed (R310). -/
def execDieForget (ch die : Nat) (s : State) : Res :=
  let st := s.fld (F.CH_DIE_STATE ch die)
  if s.live ∧ ch < s.part.channels ∧ die < 16 ∧ (st = 2 ∨ st = 3) then
    let t := s.loseDie (ch / 4) (16 * (ch % 4) + die)
    let t := { t with nand := { t.nand with waitDies := t.nand.waitDies.filter (· != 16 * ch + die) } }
    .next ((t.setFld (F.CH_DIE_STATE ch die) 4).dieOut ch die)
  else .next s

/-! ## Discovery and qualification (R295, R306 to R310, R332) -/

/-- A profile matches a die: the ID bytes under the mask and, where it asks, the parameter page CRC (R306). -/
def Profile.matchesDie (p : Profile) (d : DieFound) : Bool :=
  (d.id &&& p.idMask) == (p.idBytes &&& p.idMask) && (!p.cmpCrc || (d.ppOk && d.ppCrc == p.ppCrc))

/-- The entry a die matches: a table entry, or a customer profile of its channel; and whether it is a customer's (R306, R332). -/
def Nand.matchDie (n : Nand) (c : Nat) (d : DieFound) : Option (Nat × Bool) :=
  match n.table.findIdx? (fun p => p.matchesDie d) with
  | some i => some (i, false)
  | none =>
    if n.custCh.1 ≤ c ∧ c ≤ n.custCh.2 then (n.cust.findIdx? (fun p => p.matchesDie d)).map (fun i => (i, true)) else none

/-- The profile a match names. -/
def Nand.profileAt (n : Nand) (m : Nat × Bool) : Profile := ((if m.2 then n.cust else n.table)[m.1]?).getD { idBytes := 0, idMask := 0 }

/-- The first check of R308 that a die fails; `first` is the bus type of the lowest-numbered die that passed check 1h. -/
def State.quarantine (s : State) (c : Nat) (d : DieFound) (first : Option Nat) : Nat :=
  match s.nand.matchDie c d with
  | none => 1
  | some m =>
    let p := s.nand.profileAt m
    if !d.ppOk then 2
    else if first ≠ some p.busType then 3
    else if s.ftl.unitBits ≠ 0 ∧ 2 ^ s.ftl.unitBits < 4 * 64 * p.pages then 4
    else if p.rate < 400 then 5
    else if !d.trained then 6
    else 0

/-- A die is a Toggle die without volume addressing: it takes its whole CE line (R294). -/
def Nand.wholeLine (n : Nand) (c : Nat) (d : DieFound) : Bool :=
  match n.matchDie c d with
  | some m => (n.profileAt m).toggle && !(n.profileAt m).volume
  | none => false

/-- The dies of a channel as discovery found them, by number. A Toggle die without volume addressing is die 0 or 8, alone on its line (R294). -/
def Nand.diesOf (n : Nand) (c : Nat) : List DieFound :=
  let ds := ((n.found.filter (fun x => x.1 == c && decide (x.2.die < 16))).map Prod.snd).insertionSort (fun a b => a.die ≤ b.die)
  ds.filter (fun d => d.die % 8 == 0 || !(n.wholeLine c d || ds.any (fun e => e.die == d.die / 8 * 8 && n.wholeLine c e)))

/-- A die's registers after discovery. -/
def State.setDie (s : State) (c : Nat) (d : DieFound) (cause : Nat) : State :=
  let t := s.setReg (R.CH_DIE c d.die) d.id
  let t := (t.setReg (R.CH_DIE c d.die + 8) 0).setFld (F.CH_DIE_PP_CRC c d.die) d.ppCrc.toNat
  let t := (t.setFld (F.CH_DIE_STATE c d.die) (if cause = 0 then 1 else 2)).setFld (F.CH_DIE_CAUSE c d.die) cause
  match s.nand.matchDie c d with
  | some m => if cause = 0 then (t.setFld (F.CH_DIE_PROFILE c d.die) m.1).setFld (F.CH_DIE_CLAIMED c d.die) (ofBool m.2) else t
  | none => t

/-- A die held NAND blocks of a group block at the newest checkpoint (R310). -/
def State.held (s : State) (c k : Nat) : Bool :=
  match s.ftl.ckpt with
  | some v => v.gbs.any (fun e => e.1 / 2 ^ 14 == c / 4 && e.2.state != .free && (s.media e.1).dies.contains (16 * (c % 4) + k))
  | none => false

/-- A channel discovers its dies. -/
def State.discoverCh (s : State) (c : Nat) : State :=
  let ds := s.nand.diesOf c
  let first := (ds.findSome? (fun d => s.nand.matchDie c d)).map (fun m => (s.nand.profileAt m).busType)
  let t := s.setChan c { s.chan c with rateMax := s.fld (F.CH_CFG_RATE_MAX c) }
  let t := t.over ds (fun u d => u.setDie c d (s.quarantine c d first))
  let good := ds.filter (fun d => s.quarantine c d first == 0)
  let t := ((t.setFld (F.CH_STATUS_IN_SERVICE c) ((good.map (fun d => 2 ^ d.die)).foldl (· + ·) 0)).showRate c).setFld (F.CH_STATUS_DISCOVERED c) 1
  let t := t.chCause c 8
  let t := if good.length < ds.length then t.chCause c 9 else t
  let t := if good.any (fun d => match s.nand.matchDie c d with | some m => m.2 | none => false) then t.chCause c 13 else t
  let wait := (ds.filter (fun d => s.quarantine c d first != 0 && s.held c d.die)).map (fun d => 16 * c + d.die)
  { t with nand := { t.nand with waitDies := wait.foldl addOnce t.nand.waitDies } }

/-- Discovery on every channel present, of the dies that answer (R306); FLc_WP_N rises (R535). -/
def State.discover (s : State) (dies : List (Nat × DieFound)) : State :=
  let t := { s with nand := { s.nand with found := dies, waitDies := [], wpLow := false } }
  t.over (List.range s.part.channels) (fun u c => u.discoverCh c)

end Sys2Proof.Machine
end

