-- ==== Sys2Proof/Machine/Ccs.lean ====
section
/-! DEFINITION. The channel control store: its words as a sequencer runs them, its faults, and the load of the customer region (R322 to
R332). -/

namespace Sys2Proof.Machine

/-! ## Word format (R324) -/

namespace Cw
/-- Bits [lo + len - 1 : lo] of a word. -/
def fld (w : BitVec 192) (lo len : Nat) : Nat := bits w.toNat lo len
def seq (w : BitVec 192) : Nat := fld w 188 4
def cnd (w : BitVec 192) : Nat := fld w 182 6
def tgt (w : BitVec 192) : Nat := fld w 169 13
def bus (w : BitVec 192) : Nat := fld w 160 4
def byte (w : BitVec 192) : Nat := fld w 152 8
def adsrc (w : BitVec 192) : Nat := fld w 148 4
def asel (w : BitVec 192) : Nat := fld w 144 4
def len (w : BitVec 192) : Nat := fld w 128 16
def tsel (w : BitVec 192) : Nat := fld w 124 4
def timer (w : BitVec 192) : Nat := fld w 108 16
def tscale (w : BitVec 192) : Nat := fld w 104 4
def smask (w : BitVec 192) : Nat := fld w 96 8
def sval (w : BitVec 192) : Nat := fld w 88 8
def alu (w : BitVec 192) : Nat := fld w 84 4
def adst (w : BitVec 192) : Nat := fld w 80 4
def asrc (w : BitVec 192) : Nat := fld w 76 4
def dpath (w : BitVec 192) : Nat := fld w 72 4
def stat (w : BitVec 192) : Nat := fld w 64 8
def imm (w : BitVec 192) : Nat := fld w 32 32
end Cw

/-- The first word of the customer region, and the words of a store. -/
def custBase : Nat := 6144
def storeWords : Nat := 8192

/-! ## A word's parts (R326) -/

/-- A scratch register of the sequencer. -/
def Useq.reg (q : Useq) (i : Nat) : Nat := (q.m.get 0 i).toNat

/-- A scratch register set. -/
def Useq.setReg (q : Useq) (i v : Nat) : Useq := { q with m := q.m.set 0 i (BitVec.ofNat 32 v) }

/-- The ALU part of a word. -/
def Useq.alu (q : Useq) (w : BitVec 192) : Useq :=
  let a := q.reg (Cw.asrc w)
  let i := Cw.imm w
  match Cw.alu w with
  | 1 => q.setReg (Cw.adst w) i
  | 2 => q.setReg (Cw.adst w) (a + i)
  | 3 => q.setReg (Cw.adst w) (a &&& i)
  | 4 => q.setReg (Cw.adst w) (a ||| i)
  | 5 => q.setReg (Cw.adst w) (a <<< (i % 32))
  | 6 => q.setReg (Cw.adst w) (a >>> (i % 32))
  | 7 => q.setReg (Cw.adst w) a
  | 8 => { q with lc := BitVec.ofNat 32 a }
  | 9 => q.setReg (Cw.adst w) q.sr.toNat
  | _ => q

/-- The byte an ADDR cycle sends. -/
def Useq.adByte (q : Useq) (w : BitVec 192) : Nat :=
  match Cw.adsrc w with
  | 0 => Cw.byte w
  | 1 => bits (q.reg 3) 0 8
  | 2 => bits (q.reg 3) 8 8
  | 3 => bits (q.reg 2) 0 8
  | 4 => bits (q.reg 2) 8 8
  | 5 => bits (q.reg 2) 16 8
  | 6 => bits (q.reg 2) 24 8
  | _ => bits (q.reg (Cw.asel w)) 0 8

/-- A sequencer at a channel. -/
def State.setSeq (s : State) (c : Nat) (q : Option Useq) : State := s.setChan c { s.chan c with seq := q }

/-- The bytes a DIN or DOUT moves in one grant: at most a codeword (R303, R326). -/
def Useq.piece (q : Useq) (w : BitVec 192) : Nat := min 4608 (Cw.len w - q.sent)

/-- A DIN or DOUT after a grant: done with its data cycle, or the bus let go with the rest still to move. -/
def Useq.sentOn (q : Useq) (w : BitVec 192) : Useq :=
  if q.sent + q.piece w < Cw.len w then { q with sent := q.sent + q.piece w, bus := false } else { q with sent := 0, bus := true, xferDone := true }

/-- The bus cycle of a word with the transfer its DPATH names; a data cycle longer than a codeword moves one codeword. What the die answers, and whether a decode passes, come from outside: free
values. -/
def State.busCycle (s : State) (c : Nat) (q : Useq) (w : BitVec 192) : State × Useq :=
  let free := Config.freeNat s.free
  let b := Cw.bus w
  let held := { q with bus := b != 0 && b != 7 || (q.bus && b != 7) }
  let moved := fun (u : State) => if Cw.dpath w = 1 ∨ Cw.dpath w = 2 ∨ Cw.dpath w = 3 then u.count (R.CH_N_BUS_BYTES c) (q.piece w) else u
  match b with
  | 1 => (s.emit (.bus c 1 (Cw.byte w)), held)
  | 2 => (s.emit (.bus c 2 (q.adByte w)), held)
  | 3 => (moved (s.emit (.bus c 3 (q.piece w))), q.sentOn w)
  | 4 =>
    let t := (moved (s.emit (.bus c 4 (q.piece w)))).draw
    let h := q.sentOn w
    if Cw.dpath w = 2 then (t.count (R.CH_N_CW_DECODED c) 1, { h with passed := free % 2 == 1 })
    else if Cw.dpath w = 4 then (t, h.setReg (Cw.adst w) (free % 2 ^ (8 * min 4 (Cw.len w))))
    else (t, h)
  | 5 => ((s.emit (.bus c 5 0)).draw, { held with sr := byteOf free })
  | 6 => (s.emit (.bus c 6 (q.reg 1)), held)
  | _ => (s, held)

/-- The bus and data-path parts of a word: the bus cycle, and the soft decoding that DPATH 6 starts, whose outcome is a free value. -/
def State.busPart (s : State) (c : Nat) (q : Useq) (w : BitVec 192) : State × Useq :=
  let x := s.busCycle c q w
  if Cw.dpath w = 6 ∧ x.2.sent = 0 then ((x.1.count (R.CH_N_SOFT c) 1).draw, { x.2 with passed := Config.freeNat x.1.free % 2 == 1 }) else x

/-- A condition (R325). Engine cycles are not counted: a timer that runs may or may not have reached zero. -/
def State.seqCond (s : State) (c : Nat) (q : Useq) (w : BitVec 192) : State × Bool :=
  match Cw.cnd w with
  | 0 => (s, true)
  | 1 => (s, bit q.sr.toNat 6)
  | 2 => if q.timer = 0 then (s, true) else (s.draw, Config.freeNat s.free % 2 == 1)
  | 3 => (s, q.sr.toNat &&& Cw.smask w == Cw.sval w)
  | 4 => (s, q.lc == 0)
  | 5 => (s, q.reg (Cw.asrc w) == 0)
  | 6 => (s, q.passed)
  | 7 => (s, !q.passed)
  | 8 => (s, q.xferDone)
  | 9 => (s, (s.chan c).ops.any (fun o => o.die == q.die && o.susp))
  | _ => (s, false)

/-- Everything of a word before SEQ: the ALU, the bus cycle, the timer load (R326). A word whose WAIT holds does not act again, and one whose data
cycle was split resumes with that cycle. -/
def State.wordPart (s : State) (c : Nat) (q : Useq) (w : BitVec 192) : State × Useq :=
  if q.waiting then (s, q)
  else
    let x := s.busPart c (if q.sent = 0 then q.alu w else q) w
    (x.1, if Cw.timer w = 0 ∨ x.2.sent ≠ 0 then x.2 else { x.2 with timer := Cw.timer w * 2 ^ Cw.tscale w })

/-- The operation a routine serves, by place. -/
def State.seqOp (s : State) (c : Nat) (q : Useq) : Option (Nat × NandOp) := s.runningOp c q.die (fun o => o.kind == q.kind)

/-- The routine of an operation ends with a status (R327): 00h done, 02h uncorrectable, the others a failure of its kind. -/
def State.seqEnd (s : State) (c : Nat) (q : Useq) (st : Nat) : State :=
  let t := s.setSeq c none
  let t := if 0x10 ≤ st ∧ st < 0x80 then (t.setFld (F.CH_LASTCODE_CODE c) st).setFld (F.CH_LASTCODE_DIE c) q.die else t
  match t.seqOp c q with
  | some (i, o) =>
    let u := t.endOp c i
    if st = 0 then (u.setTimeouts c q.die 0).opDone c o else u.opLost c o
  | none => t

/-- One word of a channel's sequencer whose SEQ code is `code`, then `next` of the word; the row of another code is not enabled. Only the words
of the customer region are known; the vendor's never read back (R322). -/
def State.runWord (s : State) (c code : Nat) (next : State → Useq → BitVec 192 → State) : Res :=
  match (s.chan c).seq with
  | none => .next s
  | some q =>
    let w := (s.chan c).store.get 0 q.pc
    if s.engineOn c ∧ custBase ≤ q.pc ∧ q.pc < storeWords ∧ Cw.seq w = code then
      let x := s.wordPart c q w
      .next (if x.2.sent = 0 then next x.1 x.2 w else x.1.setSeq c (some x.2))
    else .next s

/-- The sequencer goes to word `a`. -/
def State.goSeq (s : State) (c : Nat) (q : Useq) (a : Nat) : State := s.setSeq c (some { q with pc := a, waiting := false })

/-- NEXT. -/
def execWNext (ch : Nat) (s : State) : Res := s.runWord ch 0 (fun u q _ => u.goSeq ch q (q.pc + 1))

/-- JUMP. -/
def execWJump (ch : Nat) (s : State) : Res := s.runWord ch 1 (fun u q w => u.goSeq ch q (Cw.tgt w))

/-- A call of the export table: the vendor's entry runs whole; the status register and the decode it leaves come from outside (R328). -/
def State.exportCall (s : State) (c : Nat) (q : Useq) : State :=
  let n := Config.freeNat s.free
  s.draw.goSeq c { q with sr := byteOf n, passed := n / 256 % 2 == 1, xferDone := true } (q.pc + 1)

/-- CALL: a fifth level ends the operation with status 03h (R326). -/
def execWCall (ch : Nat) (s : State) : Res :=
  s.runWord ch 2 (fun u q w =>
    if 4 ≤ q.stack.length then u.seqEnd ch q 3
    else if Cw.tgt w < custBase then u.exportCall ch q
    else u.goSeq ch { q with stack := (q.pc + 1) :: q.stack } (Cw.tgt w))

/-- RET: with an empty stack the operation ends with status 03h (R326). -/
def execWRet (ch : Nat) (s : State) : Res :=
  s.runWord ch 3 (fun u q _ => match q.stack with
    | [] => u.seqEnd ch q 3
    | a :: t => u.goSeq ch { q with stack := t } a)

/-- BRT. -/
def execWBrt (ch : Nat) (s : State) : Res :=
  s.runWord ch 4 (fun u q w => let x := u.seqCond ch q w; x.1.goSeq ch q (if x.2 then Cw.tgt w else q.pc + 1))

/-- BRF. -/
def execWBrf (ch : Nat) (s : State) : Res :=
  s.runWord ch 5 (fun u q w => let x := u.seqCond ch q w; x.1.goSeq ch q (if x.2 then q.pc + 1 else Cw.tgt w))

/-- WAIT: it releases the bus; the word's other parts act once. -/
def execWWait (ch : Nat) (s : State) : Res :=
  s.runWord ch 6 (fun u q w =>
    let x := u.seqCond ch q w
    if x.2 then x.1.goSeq ch { q with bus := false } (q.pc + 1) else x.1.setSeq ch (some { q with waiting := true, bus := false }))

/-- LOOP: if LC ≠ 0, LC ← LC − 1 and go to TGT. -/
def execWLoop (ch : Nat) (s : State) : Res :=
  s.runWord ch 7 (fun u q w => if q.lc = 0 then u.goSeq ch q (q.pc + 1) else u.goSeq ch { q with lc := q.lc - 1 } (Cw.tgt w))

/-- DONE: the operation ends with status STAT (R327). -/
def execWDone (ch : Nat) (s : State) : Res := s.runWord ch 8 (fun u q w => u.seqEnd ch q (Cw.stat w))

/-! ## Faults of the store (R323) -/

/-- CCS_FAULT: the engine stops. -/
def execCcsFault (ch : Nat) (s : State) : Res :=
  if s.inRun ∧ ch < s.part.channels then .next ((s.chCause ch 14).setFld (F.CH_STATUS_HALTED ch) 1) else .next s

/-- The operation in progress: the one the sequencer runs, else the first that runs. -/
def State.inProgress (s : State) (c : Nat) : Option (Nat × NandOp) :=
  match (s.chan c).seq with
  | some q => s.seqOp c q
  | none =>
    let ops := (s.chan c).ops
    (List.zip (List.range ops.length) ops).find? (fun x => x.2.started && !x.2.susp)

/-- CCS_REWRITE_DONE: the operation in progress ends with status 03h and the engine resumes with its queue intact. -/
def execCcsRewriteDone (ch : Nat) (s : State) : Res :=
  if s.on (F.CH_STATUS_HALTED ch) then
    let t := s.setFld (F.CH_STATUS_HALTED ch) 0
    .next (match s.inProgress ch with
      | some (i, o) => ((t.endOp ch i).opLost ch o).setSeq ch none
      | none => t.setSeq ch none)
  else .next s

/-! ## The customer region (R329 to R332) -/

/-- The profile of 128 bytes (R312). -/
def profileOf (d : Bytes) : Profile :=
  let f := Bytes.le d 18 1
  { idBytes := BitVec.ofNat 64 (Bytes.le d 0 8), idMask := BitVec.ofNat 64 (Bytes.le d 8 8), ppCrc := BitVec.ofNat 16 (Bytes.le d 16 2)
    cmpCrc := bit f 0, suspend := bit f 1, toggle := bit f 2, volume := bit f 3, lpddr4 := bit f 4
    planes := Bytes.le d 19 1, blocks := Bytes.le d 20 2, pages := Bytes.le d 24 4, pagesSlc := Bytes.le d 28 4, rate := Bytes.le d 32 2
    tMp := Bytes.le d 34 2, cycles := Bytes.le d 36 4, cyclesSlc := Bytes.le d 40 4, levels := Bytes.le d 44 1
    timing := (List.range 12).map (fun i => Bytes.le d (48 + 2 * i) 2), times := (List.range 6).map (fun i => Bytes.le d (72 + 2 * i) 2)
    entries := (List.range 10).map (fun i => Bytes.le d (84 + 2 * i) 2) }

/-- Word i of an image with p profiles. -/
def imgWord (d : Bytes) (p i : Nat) : BitVec 192 := BitVec.ofNat 192 (Bytes.le d (0x80 + 128 * p + 24 * i) 24)

/-- A status a customer word may give (R327). -/
def statOk (st : Nat) : Bool := st == 0 || st == 1 || st == 2 || st == 4 || decide (0x10 ≤ st ∧ st < 0x80)

/-- Only defined codes, and zero in reserved bits (check 07h). -/
def wordOk (w : BitVec 192) : Bool :=
  decide (Cw.seq w ≤ 8 ∧ Cw.cnd w ≤ 9 ∧ Cw.fld w 164 5 = 0 ∧ Cw.bus w ≤ 7 ∧ Cw.adsrc w ≤ 7 ∧ Cw.tsel w ≤ 12 ∧ Cw.alu w ≤ 9 ∧ Cw.dpath w ≤ 6 ∧
    Cw.fld w 0 32 = 0 ∧ ((Cw.bus w = 3 ∨ Cw.bus w = 4) → Cw.len w ≠ 0)) && statOk (Cw.stat w)

/-- A target within R328 (check 08h). -/
def targetOk (w : BitVec 192) : Bool :=
  match Cw.seq w with
  | 1 => decide (custBase ≤ Cw.tgt w)
  | 2 => decide (custBase ≤ Cw.tgt w ∨ Cw.tgt w < 32)
  | 4 => decide (custBase ≤ Cw.tgt w)
  | 5 => decide (custBase ≤ Cw.tgt w)
  | 7 => decide (custBase ≤ Cw.tgt w)
  | _ => true

/-- A profile within check 09h; n words. -/
def profileOk (d : Bytes) (n : Nat) : Bool :=
  let p := profileOf d
  p.entries.all (fun e => decide (custBase ≤ e ∧ e < custBase + n)) && [1, 2, 4].contains p.planes
    && decide (p.pages % p.planes = 0 ∧ p.pagesSlc % p.planes = 0)
    && p.timing.all (· != 0) && p.times.all (· != 0) && decide (Bytes.le d 18 1 < 32)
    && Bytes.le d 22 2 == 0 && Bytes.le d 45 3 == 0 && ((d.drop 104).take 24).all (· == 0)

/-- The profiles of an image. -/
def imgProfiles (d : Bytes) (p : Nat) : List Bytes := (List.range p).map (fun i => (d.drop (0x80 + 128 * i)).take 128)

/-- The first check of R330 an image of `len` bytes fails, with the index of the failing word or profile. -/
def State.mcCheck (s : State) (d : Bytes) (len : Nat) : Option (Nat × Nat) :=
  let n := Bytes.le d 8 4
  let p := Bytes.le d 0xC 2
  let pub := (d.drop 0x20).take 96
  let ws := (List.range n).map (imgWord d p)
  if Bytes.le d 0 4 ≠ 0x4D435551 ∨ Bytes.le d 4 2 ≠ 1 then some (1, 0xFFFF)
  else if n = 0 ∨ 2048 < n ∨ 16 < p ∨ Bytes.le d 0xE 2 ≠ 0 ∨ Bytes.le d 0x1C 4 ≠ 0 ∨ len ≠ 0x80 + 128 * p + 24 * n + 96 then some (2, 0xFFFF)
  else if s.cfl.opt.key.isEmpty then some (3, 0xFFFF)
  else if Crypto.sha384 pub ≠ fit 48 s.cfl.opt.key then some (4, 0xFFFF)
  else if !Crypto.ecdsaOk pub (d.take (len - 96)) (d.drop (len - 96)) then some (5, 0xFFFF)
  else if Bytes.le d 6 2 ≠ s.nand.exportV then some (6, 0xFFFF)
  else match ws.findIdx? (fun w => !wordOk w) with
  | some i => some (7, i)
  | none => match ws.findIdx? (fun w => !targetOk w) with
    | some i => some (8, i)
    | none => ((imgProfiles d p).findIdx? (fun x => !profileOk x n)).map (fun i => (9, i))

/-- The words written into the customer region of the channels first to last, and every customer region locked (R331, R332). -/
def State.loadRegion (s : State) (first last : Nat) (ws : List (BitVec 192)) : State :=
  let t := s.over ((List.range s.part.channels).filter (fun c => decide (first ≤ c ∧ c ≤ last))) (fun u c =>
    let put := fun (m : Tbl (BitVec 192)) (x : Nat × BitVec 192) => m.set 0 (custBase + x.1) x.2
    u.setChan c { u.chan c with store := (List.zip (List.range ws.length) ws).foldl put (u.chan c).store })
  t.setReg R.CCS_LOCK (BitVec.ofNat 64 (2 ^ s.part.channels - 1))

/-- The registers of CCS.KEPT for a kept image. -/
def State.showKept (s : State) : State :=
  match s.nand.kept with
  | some k => (s.setReg R.CCS_KEPT 0).setFld F.CCS_KEPT_PRESENT 1 |>.setFld F.CCS_KEPT_FIRST_CH k.first |>.setFld F.CCS_KEPT_LAST_CH k.last
      |>.setFld F.CCS_KEPT_VERSION k.version.toNat
  | none => s.setReg R.CCS_KEPT 0

/-- The bus type a die that would join a channel must have: that of the dies in service (R295), else that of the lowest-numbered die that passed
check 1h (R308). -/
def State.claimBus (s : State) (c : Nat) (ds : List DieFound) : Option Nat :=
  let busOf := fun (d : DieFound) => (s.nand.matchDie c d).map (fun m => (s.nand.profileAt m).busType)
  match ds.find? (fun d => s.fld (F.CH_DIE_STATE c d.die) == 1) with
  | some d => busOf d
  | none => ds.findSome? busOf

/-- The quarantined dies of cause 1h of a channel matched against the new profiles (R306, R308, R331); the count of those claimed. -/
def State.claimCh (s : State) (c : Nat) : State × Nat :=
  let ds := s.nand.diesOf c
  let cand := ds.filter (fun d => s.fld (F.CH_DIE_STATE c d.die) == 2 && s.fld (F.CH_DIE_CAUSE c d.die) == 1)
  let first := s.claimBus c ds
  let t := s.over cand (fun u d => u.setDie c d (s.quarantine c d first))
  let won := cand.filter (fun d => s.quarantine c d first == 0)
  if won.isEmpty then (t, 0)
  else
    let t := t.over won (fun u d => u.setFld ⟨R.CH_STATUS c, d.die, 1⟩ 1)
    let t := t.showRate c
    let t := { t with nand := { t.nand with waitDies := t.nand.waitDies.filter (fun x => !(won.map (fun (d : DieFound) => 16 * c + d.die)).contains x) } }
    (((t.chCause c 13).updGroup (c / 4)).checkSpare, won.length)

/-- Every channel of a range claims its dies. -/
def State.claimAll (s : State) (first last : Nat) : State × Nat :=
  ((List.range s.part.channels).filter (fun c => decide (first ≤ c ∧ c ≤ last))).foldl
    (fun x c => let y := x.1.claimCh c; (y.1, x.2 + y.2)) (s, 0)

/-- MICROCODE_LOAD: MICROCODE LOAD (C5h) (R194, R198, R329 to R331). `keepOk` tells whether the code flash took the kept image (R446). -/
def execMicrocodeLoad (f : Nat) (c : Sqe) (d : Bytes) (keepOk : Bool) (s : State) : Res :=
  s.adminRun f c 0xC5 (fun s =>
    let first := bits c.cdw10.toNat 0 6
    let last := bits c.cdw10.toNat 8 6
    let len := c.cdw11.toNat
    let img := fit len d
    let lock := (s.reg R.CCS_LOCK).toNat
    if f ≠ 0 then .next (s.admin f c St.invalidOpcode 0 (ploc 0 0))
    else match c.stray (1 :: vendorDws) [(10, 0x3F3F), (11, 0xFFFFFFFF)] with
    | some x => .next (s.badField f c x.1 x.2)
    | none =>
      if last < first then .next (s.badField f c 10 0)
      else if s.part.channels ≤ last then .next (s.badField f c 10 8)
      else if 2097152 < len then .next (s.badField f c 11 0)
      else if (List.range 64).any (fun x => decide (first ≤ x ∧ x ≤ last) && bit lock x) then .next (s.admin f c St.sequenceError)
      else match s.mcCheck img len with
      | some (code, i) => .next (s.admin f c St.invalidField (code + i * 65536))
      | none =>
        let n := Bytes.le img 8 4
        let p := Bytes.le img 0xC 2
        let keep := keepOk && !s.cfl.bad.contains 3
        let ws := (List.range n).map (imgWord img p)
        let k : Kept := { first := first, last := last, version := BitVec.ofNat 32 (Bytes.le img 0x18 4)
                          profiles := (imgProfiles img p).map profileOf, words := ws, image := img }
        let t := { s with nand := { s.nand with kept := if keep then some k else none, cust := k.profiles, custCh := (first, last) } }
        let t := if keep then t.showKept else (if s.cfl.bad.contains 3 then t else t.sectorBad 3).showKept
        let x := (t.loadRegion first last ws).claimAll first last
        .next (x.1.admin f c St.ok (x.2 % 65536 + (if keep then 0 else 2 ^ 31))))

/-- KEPT_DISCARD: CCS.KEPT.DISCARD written 1: the kept image is erased at the next start (R332). -/
def execKeptDiscard (s : State) : Res := if s.live then .next (s.setFld F.CCS_KEPT_PENDING 1) else .next s

/-- The vendor regions loaded from the bundle that runs, and every customer region empty (R322). -/
def State.loadVendor (s : State) : State :=
  s.over (List.range s.part.channels) (fun u c => u.setChan c { u.chan c with vendor := true, store := [] })

/-- The kept image at a start or a Brumation exit (R332): discarded where that was asked, else loaded; every customer region is then locked. -/
def State.loadKept (s : State) (start : Bool) : State :=
  let s := if start ∧ s.on F.CCS_KEPT_PENDING then { s with nand := { s.nand with kept := none } }.showKept else s
  match s.nand.kept with
  | none => { s with nand := { s.nand with cust := [] } }
  | some k => ({ s with nand := { s.nand with cust := k.profiles, custCh := (k.first, k.last) } }).loadRegion k.first k.last k.words

end Sys2Proof.Machine
end

