-- ==== Sys2Proof/Machine/Debug.lean ====
section
/-! DEFINITION. Debug: grants, the access matrix, core debug, the observation multiplexer (Boot, Firmware Images, Lifecycle and Debug). -/

namespace Sys2Proof.Machine

/-! ## The matrix (R524) -/

/-- The security unit's part of the state. -/
def State.setSec (s : State) (v : Sec) : State := { s with sec := v }

/-- A scope bit is granted. -/
def State.granted (s : State) (b : Nat) : Bool := bit (s.fld F.DBG_STATUS_SCOPE) b

/-- The option debug lock byte opens what the matrix calls open. -/
def State.lockOpen (s : State) : Bool := s.cfl.opt.lock == 0

/-- Core debug (scope bit 0) or OBS (scope bit 1) is open in a Run state. In Blank no option area is written yet, so nothing locks. -/
def State.debugOpen (s : State) (b : Nat) : Bool :=
  match s.fld F.SEC_LC_STATE with
  | 0 => true
  | 1 => s.lockOpen || s.granted b
  | 2 => s.granted b
  | 3 => s.lockOpen || s.granted b
  | _ => false

/-- The part is in a state in which its debug access can act: it runs, or it stands in Blank after step 4, where the test access port answers
(R502, R524). -/
def State.debugUp (s : State) : Bool := s.power.phase == .run && (s.power.booted || s.power.stopped)

/-- Factory test is open in a Run state. -/
def State.factoryOpen (s : State) : Bool :=
  match s.fld F.SEC_LC_STATE with
  | 0 => true
  | 1 => s.lockOpen
  | 3 => s.granted 2
  | _ => false

/-! ## Grants (R519 to R521) -/

/-- The 34 bytes of R519: challenge, scope, lifecycle code, unique die identifier. -/
def State.grantMessage (s : State) (scope : Nat) : Bytes :=
  leBytes 16 (s.fld F.DBG_CHAL_CHAL) ++ [byteOf scope, byteOf (s.fld F.SEC_LC_STATE)] ++ (List.range 16).map (fun i => calByte (8 + i))

/-- The scope bits that may be granted in the lifecycle state: CORE, OBS and RETURN in Provisioned, FACTORY in Field-Return. -/
def grantable : Nat → Nat
  | 2 => 0xB | 3 => 0x4 | _ => 0

/-- The code of the first check of R520 that fails; 0 for none. -/
def State.grantCheck (s : State) (scope : Nat) (response : Bytes) : Nat :=
  if scope = 0 ∨ 16 ≤ scope then 1
  else if outside scope (grantable (s.fld F.SEC_LC_STATE)) ≠ 0 then 2
  else if s.on F.SEC_STATUS_TAMPER then 3
  else if (match s.sec.lastGrant with | some at_ => decide (s.time.aonNs < at_ + 1000000000) | none => false) then 4
  else if Crypto.cmac ((List.range 32).map Config.debugKey) (s.grantMessage scope) ≠ response then 5
  else 0

/-- DEBUG_GRANT: CCh with SCOPE in CDW10 and the response in CDW12 to CDW15. The challenge is renewed whatever the outcome; success adds the
scope (R520). -/
def execDebugGrant (f : Nat) (c : Sqe) (newChal : BitVec 128) (s : State) : Res :=
  s.adminRun f c 0xCC (fun s => if f ≠ 0 then .next (s.admin f c St.invalidOpcode 0 (ploc 0 0))
  else
    let t := (s.setSec { s.sec with lastGrant := some s.time.aonNs }).setFld F.DBG_CHAL_CHAL newChal.toNat
    match c.stray vendorDws [(10, 0xFF), (12, 0xFFFFFFFF), (13, 0xFFFFFFFF), (14, 0xFFFFFFFF), (15, 0xFFFFFFFF)] with
    | some x => .next (t.badField f c x.1 x.2)
    | none =>
      let scope := bits c.cdw10.toNat 0 8
      let response := leBytes 4 c.cdw12.toNat ++ leBytes 4 c.cdw13.toNat ++ leBytes 4 c.cdw14.toNat ++ leBytes 4 c.cdw15.toNat
      let code := s.grantCheck scope response
      let held := if code = 0 then Nat.lor (s.fld F.DBG_STATUS_SCOPE) scope else s.fld F.DBG_STATUS_SCOPE
      let u := (t.setFld F.DBG_STATUS_SCOPE held).record 0x0021 ([byteOf scope, byteOf code, byteOf held] ++ zeros 13)
      if code = 0 then .next ((u.secCause 5).admin f c St.ok held)
      else .next ((u.secCause 6).admin f c St.invalidField code (if code < 3 then ploc 10 0 else if code = 5 then ploc 12 0 else 0xFFFF)))

/-- DEBUG_REVOKE: DBG.CTRL.REVOKE written 1 (R521). -/
def execDebugRevoke (s : State) : Res := if s.live then .next (s.endGrant 4) else .next s

/-! ## Core debug (R522, R525) -/

/-- DBG.STATUS.ATTACHED: a core is halted, a session is open, or OBS_CTRL.EN is 1 (R522). -/
def State.attach (s : State) : State :=
  s.setFld F.DBG_STATUS_ATTACHED (ofBool (s.fld F.DBG_STATUS_HALTED != 0 || !s.sec.session.isEmpty || s.on F.DBG_OBS_CTRL_EN))

/-- Core `k` is halted and its core debug session is open. -/
def State.haltCore (s : State) (k : Nat) : State :=
  ((s.setSec { s.sec with session := addOnce s.sec.session k }).setFld ⟨R.DBG_STATUS, 23 + k, 1⟩ 1).attach

/-- Debug requests wait until the exit: the part is in Basking, or the debug agent has accepted an entry (R524, R525). -/
def State.debugHeld (s : State) : Bool := s.basking || s.accepted 63

/-- What a core debug read returns: zeros of SEB, of the key-page store and of the cipher lanes (R518); of the other banks and of a stack their bytes.
What a core's registers hold the spec does not say: free bytes (log entry 95). -/
def State.debugRead (s : State) (a : DbgAcc) : Bytes :=
  match a.target with
  | .coreReg n => (List.range a.len).map (fun i => Config.freeByte (s.free + n + i))
  | .bank b => if b = 9 then zeros a.len else (s.bank b).read a.addr a.len
  | .stack k => Mem.readD (fun _ => 0) (s.stk k).mem a.addr a.len
  | .keyStore => zeros a.len
  | .cipherLane _ => zeros a.len

/-- A core debug write: discarded for SEB, the key-page store and the cipher lanes (R518). The model holds no registers of the cores. -/
def State.debugWrite (s : State) (a : DbgAcc) (bs : Bytes) : State :=
  match a.target with
  | .bank b => if b = 9 ∨ !s.part.bank b then s else s.setBank b ((s.bank b).write a.addr bs)
  | .stack k => if k < s.part.stacks then s.setStk k { s.stk k with mem := (s.stk k).mem.write a.addr bs } else s
  | .coreReg _ => s
  | .keyStore => s
  | .cipherLane _ => s

/-- One core debug access. -/
def State.debugAccess (s : State) (core : Nat) (a : DbgAcc) : State :=
  match a.write with
  | some bs => s.debugWrite a bs
  | none => (s.emit (.debug core (s.debugRead a))).draw

/-- A core is halted and the accesses of its session are done. -/
def State.debugCore (s : State) (x : Nat × List DbgAcc) : State := (s.haltCore x.1).over x.2 (fun u a => u.debugAccess x.1 a)

/-- CORE_HALT: a halt request under an open or granted scope, with the core debug accesses made while the core is halted; held in Basking, none in
Brumation (R518, R522, R524, R525). -/
def execCoreHalt (core : Nat) (acc : List DbgAcc) (s : State) : Res :=
  if s.debugUp ∧ core < 4 ∧ s.debugOpen 0 then
    if s.debugHeld then .next (s.setSec { s.sec with held := addOnce s.sec.held (core, acc) }) else .next (s.debugCore (core, acc))
  else .next s

/-- CORE_DEBUG_RESUME: a core resumes, and its session closes where `close` says so (R522). -/
def execCoreDebugResume (core : Nat) (close : Bool) (s : State) : Res :=
  if s.debugUp ∧ core < 4 then
    let t := s.setFld ⟨R.DBG_STATUS, 23 + core, 1⟩ 0
    let t := if close then t.setSec { t.sec with session := t.sec.session.filter (· != core) } else t
    .next t.attach
  else .next s

/-! ## The observation multiplexer (R523) -/

/-- The reserved bits of DBG.OBS_CTRL read 0. -/
def obsMask : Nat := 0xE0FFFF03

/-- OBS and OBS_CLK driven, as DBG.OBS_CTRL says. -/
def State.obsDrive (s : State) (v : W32) : State :=
  let t := s.setReg R.DBG_OBS_CTRL (BitVec.ofNat 64 (v.toNat &&& obsMask))
  let on := t.on F.DBG_OBS_CTRL_EN
  ((t.setSec { t.sec with obsOut := on }).setFld F.DBG_STATUS_OBS_ON (ofBool on)).attach

/-- OBS_ENABLE: DBG.OBS_CTRL written with EN = 1: ignored unless the matrix opens OBS, held in Basking (R523, R524). -/
def execObsEnable (v : W32) (s : State) : Res :=
  if s.debugUp ∧ bit v.toNat 31 ∧ s.debugOpen 1 then
    if s.debugHeld then .next (s.setSec { s.sec with obsHeld := some v }) else .next (s.obsDrive v)
  else .next s

/-- What was held is served after a Basking exit, as far as it is still open (R525). -/
def State.serveHeld (s : State) : State :=
  let t := s.setSec { s.sec with held := [], obsHeld := none }
  let t := if s.debugOpen 0 then t.over s.sec.held (fun u x => u.debugCore x) else t
  match s.sec.obsHeld with
  | some v => if s.debugOpen 1 then t.obsDrive v else t
  | none => t

/-- The cause register of instance `i` of the unit at `u` × 0x8_0000; instance 1 of PWR is its hold-up part (PRESUMED, log entry 92). -/
def obsCause : Nat → Nat → Option Nat
  | 8, i => if i < 64 then some (R.CAP_S_EVCAUSE i) else none
  | 24, i => if i < 8 then some (R.ETH_EVCAUSE i) else none
  | 32, i => if i < 64 then some (R.CH_EVCAUSE i) else none
  | 36, 0 => some R.FTL_EVCAUSE
  | 38, i => if i < 4 then some (R.HBM_EVCAUSE i) else none
  | 40, i => if i < 64 then some (R.DMA_EVCAUSE i) else none
  | 44, 0 => some R.PST_EVCAUSE
  | 45, 0 => some R.CFL_EVCAUSE
  | 47, 0 => some R.TMR_EVCAUSE
  | 48, 0 => some R.PWR_EVCAUSE
  | 48, 1 => some R.PWR_HU_EVCAUSE
  | _, _ => none

/-- The first STATE field of the instance's status register; none where that register has no such field. -/
def obsState : Nat → Nat → Option Field
  | 4, i => if i < 96 then some (F.LANE_STATUS_STATE i) else none
  | 8, i => if i < 64 then some (F.CAP_S_STATUS_STATE i) else none
  | 38, i => if i < 4 then some (F.HBM_STATUS_STATE i) else none
  | 39, i => if i < 11 then some (F.SRB_B_STATUS_PSTATE i) else none
  | 40, i => if i < 64 then some (F.DMA_STATUS_STATE i) else none
  | 48, 1 => some F.PWR_HU_STATUS_STATE
  | _, _ => none

/-- The domain whose group watchdog watches the instance. -/
def obsDomain : Nat → Nat → Option Nat
  | 8, _ => some 49
  | 16, _ => some 49
  | 24, i => some (21 + i)
  | 32, i => some (5 + i / 4)
  | 38, i => some (30 + i)
  | 40, _ => some 50
  | _, _ => none

/-- OBS[7:0] in this OBS_CLK period (R523): zeros for CPH, for SEC/DBG and for a unit that is absent. Of view 3, what ends a unit of work and the
fabric's grants are free values: the model holds no arbitration (log entry 92). -/
def State.obs (s : State) : Nat :=
  let u := s.fld F.DBG_OBS_CTRL_UNIT
  let i := s.fld F.DBG_OBS_CTRL_INSTANCE
  if !s.on F.DBG_OBS_CTRL_EN ∨ u = 42 ∨ u = 50 ∨ s.part.absentAt (u * 0x80000) then 0
  else match s.fld F.DBG_OBS_CTRL_VIEW with
    | 2 => match obsState u i with | some f => if s.part.absentAt f.off then 0 else s.fld f % 256 | none => 0
    | 3 =>
      let seen := fun p => ofBool (s.evt.pulses.contains p)
      (match obsDomain u i with | some d => seen (.restart d) | none => 0) + 2 * bits (Config.freeNat s.free) 0 3 + 16 * seen (.access u)
    | v => match obsCause u i with
      | some off => if s.part.absentAt off then 0
          else (List.range 8).foldl (fun a k => a + ofBool (s.evt.pulses.contains (.cause off (8 * v + k))) * 2 ^ k) 0
      | none => 0

/-- An OBS_CLK period, 2.5 ns at DIV = 0 and twice as long for each step, ends in the nanosecond after `ns` (R523). -/
def State.obsEdge (s : State) (ns : Nat) : Bool :=
  let p := 5 * 2 ^ s.fld F.DBG_OBS_CTRL_DIV
  (2 * ns + 2) / p != 2 * ns / p

/-- The period ends: OBS[7:0] as they stood leave the part, and the pulses are over. -/
def State.obsClock (s : State) : State :=
  { s.emit (.obs s.obs) with evt := { s.evt with pulses := [] } }.draw

end Sys2Proof.Machine
end

