-- ==== Sys2Proof/Machine/Events.lean ====
section
/-! DEFINITION. Software events, the management cores' part in the event fabric, the crystal monitor and the watchdogs (Events, Recorder, Time
and Watchdogs). -/

namespace Sys2Proof.Machine

/-- EVENT_RAISE: EVT.RAISEw written, w = 28 to 31; the bit of source 896 is ignored (R453). -/
def execEventRaise (w : Nat) (v : W32) (s : State) : Res :=
  if s.live ∧ 28 ≤ w ∧ w < 32 then
    .next (s.over ((List.range 32).filter (fun i => bit v.toNat i && 32 * w + i != 896)) (fun u i => u.raise (32 * w + i)))
  else .next s

/-- EVENT_TAKEN_BY_CORE: management firmware takes a source delivered to a core: a type 0002h record, then the flag cleared (R452). `again`: the
source is set in the cycle of the clear, so the flag stays 1 and is not delivered again (R450). -/
def execEventTakenByCore (src : Nat) (again : Bool) (s : State) : Res :=
  if s.inRun ∧ s.evt.cores.contains src then
    let t := s.record 0x0002 (leBytes 2 src ++ zeros 14)
    .next ({ t with evt := { t.evt with cores := t.evt.cores.filter (· != src) } }.setFld ⟨R.EVT_STATUS (src / 32), src % 32, 1⟩ (ofBool again))
  else .next s

/-- RTC_STOP: the crystal stopped for longer than 100 µs (R464). -/
def execRtcStop (s : State) : Res := if s.power.phase = .off then .next s else .next ((s.setFld F.TMR_CAL_SYNCH 1).tmrCause 3)

/-! ## Watchdogs (R467 to R475) -/

/-- The domains a group watchdog watches (R468). -/
def watched (d : Nat) : Bool := decide ((5 ≤ d ∧ d ≤ 37) ∨ (49 ≤ d ∧ d ≤ 52))

/-- A port restarts: its links retrain (R469). -/
def State.restartPort (s : State) (p : Nat) : State :=
  s.over (List.range 4) (fun u j => if u.linkUp p j then (u.setBit (F.ETH_STATUS_LOCAL_FAULT p) j true).dropLink p j else u)

/-- Every running run ends in fault 80h (R469). -/
def State.restartEngines (s : State) : State :=
  s.over (List.range 128) (fun u t => match u.thread t with | some th => if th.accepted then u else u.endFault t th 0x80 | none => u)

/-- A group has work, as far as the model holds it: operations queued at a channel group, threads or datagrams at the stream engines, a DMA channel
that moves (R468). The work of the other groups is not held: that they have some is taken as given. -/
def State.groupWork (s : State) (d : Nat) : Bool :=
  if 5 ≤ d ∧ d ≤ 20 then !(s.groupOps (d - 5)).isEmpty
  else if d = 49 then (List.range 128).any (fun t => (s.thread t).isSome) || !s.ur.waiting.isEmpty
  else if d = 50 then (List.range 64).any (fun n => [1, 2, 4, 6].contains (s.fld (F.DMA_STATUS_STATE n)))
  else true

/-- GROUP_WATCHDOG_EXPIRY: the group's bit, the cause, a type 0007h record, and the outcome of the group (R469, R471). A group without work
does not count (R468). `served`: a restart falls
in the cycle of the expiry and wins (R472). -/
def execGroupWatchdogExpiry (d : Nat) (served : Bool) (s : State) : Res :=
  if s.live ∧ !served ∧ watched d ∧ s.dom d = 2 ∧ s.groupWork d then
    let n := s.time.gwdgN.get 0 d + 1
    let t := { s with time := { s.time with gwdgN := s.time.gwdgN.set 0 d n } }
    let t := ((t.setFld ⟨R.TMR_GWDG, d, 1⟩ 1).tmrCause 0).record 0x0007 ([4#8, byteOf d, 0, 0] ++ leBytes 4 n ++ zeros 8)
    let t := t.pulse (.restart d)
    .next (if d ≤ 20 then t.over (List.range 4) (fun u i => u.timeOutCh (4 * (d - 5) + i))
      else if d ≤ 28 then t.restartPort (d - 21)
      else if d = 49 then t.restartEngines
      else t.resetAndRun 5 d)
  else .next s

/-- The cores whose domain is on (R470). -/
def State.coresOn (s : State) : List Nat := (List.range 4).filter (fun k => s.dom (1 + k) == 2)

/-- DIE_WATCHDOG_SERVICE: the watchdog restarts when the last core that is on has serviced it (R470). -/
def execDieWatchdogService (core : Nat) (s : State) : Res :=
  if s.live ∧ s.coresOn.contains core then
    let l := addOnce s.time.serviced core
    .next { s with time := if s.coresOn.all (fun k => l.contains k) then { s.time with serviced := [], dieNs := 0 } else { s.time with serviced := l } }
  else .next s

/-- The controller-die and package watchdogs count: the part runs outside Basking, or an entry or exit is under way, and no core is held halted
(R471). -/
def State.watchdogsCount (s : State) : Bool :=
  s.power.phase == .run && s.power.booted && (!s.basking || s.power.exiting) && s.fld F.DBG_STATUS_HALTED == 0

/-- The outcome of the watchdogs that expire in one cycle: each expiry counts; the package reset is taken, with cause 4, else the reset of the part
with cause 3 (R470, R472). -/
def State.watchdogReset (s : State) (die pkg : Bool) : State :=
  let t := if die then s.satFld F.TMR_WDG_DIE_EXP 1 else s
  if pkg then (t.satFld F.TMR_WDG_PKG_EXP 1).resetAndRun 4 0 else t.resetAndRun 3 0

/-- DIE_WATCHDOG_EXPIRY: 100 ms without the service of every core: a reset of the part, cause 3. `served`: a service or a restart falls in that cycle
and wins; `pkg`: the package watchdog expires in it too (R472). -/
def execDieWatchdogExpiry (served pkg : Bool) (s : State) : Res :=
  if s.watchdogsCount ∧ !served then .next (s.watchdogReset true pkg) else .next s

/-- PACKAGE_WATCHDOG_SERVICE (R470). -/
def execPackageWatchdogService (s : State) : Res := if s.live then .next { s with time := { s.time with pkgNs := 0 } } else .next s

/-- PACKAGE_WATCHDOG_EXPIRY: 2 s without service: the package resets, cause 4; the part then starts as from power-on. `served` as above;
`die`: the controller-die watchdog expires in the same cycle (R472). -/
def execPackageWatchdogExpiry (served die : Bool) (s : State) : Res :=
  if s.watchdogsCount ∧ !served then .next (s.watchdogReset die true) else .next s

end Sys2Proof.Machine
end

