-- ==== Sys2Proof/Machine/Namespaces.lean ====
section
/-! DEFINITION. Namespace Management, Namespace Attachment and Format NVM (R168, R178 to R180, R225, R405, R411). -/

namespace Sys2Proof.Machine

/-- Namespace Is Private (NVM Express 2.0): the namespace is attached to another controller, and NMIC is 0 (R168). -/
def nsPrivate : Status := (1, 0x19)

/-- The namespace attribute notice (dword 0 of NVM Express 2.0, PRESUMED) to a controller that enables it in feature 0Bh. -/
def State.nsNotice (s : State) (f : Nat) : State :=
  if bit ((s.fn f).features.get 0 0x0B).toNat 8 then s.notice f 0x040002 else s

/-- SEL of a Namespace Management or Attachment command. -/
def Sqe.sel (c : Sqe) : Nat := bits c.cdw10.toNat 0 4

/-! ## Create (R178, R179, R238, R261, R411) -/

/-- The blocks of every general namespace. -/
def State.generalBlocks (s : State) : Nat :=
  (s.nvme.nss.map (fun e => match e.2 with | some n => if n.capture then 0 else n.blocks | none => 0)).foldl (· + ·) 0

/-- The dies of the smallest group that has one in service. -/
def State.leastDies (s : State) : Nat :=
  least (((List.range 16).map (fun g => ((List.range 64).filter (fun i => (s.dieProfile g i).isSome)).length)).filter (· != 0))

/-- The handles address `blocks` general blocks and the reserve, which collecting them needs (R238). -/
def State.handlesReach (s : State) (blocks : Nat) : Bool :=
  decide (blocks + 4 * s.leastPages false * s.fld F.FTL_SPARE_RESERVE_BLK ≤ 2 ^ (32 - s.ftl.unitBits) * (4 * s.leastDies * s.leastPages false))

/-- A creation of `blocks` blocks fits: the general namespaces' limit and handles, and the spare left (R179, R238, R261). -/
def State.nsFits (s : State) (capture : Bool) (blocks : Nat) : Bool :=
  s.leastPages false != 0 &&
  (capture || (decide (s.generalBlocks + blocks ≤ 3906250000) && s.handlesReach (s.generalBlocks + blocks))) &&
  decide (2 * (s.fld F.FTL_SPARE_RESERVE_BLK : Int) ≤ s.spare - (s.nsBlocks blocks : Int))

/-- The namespace a create structure describes. -/
def nsOf (d : Bytes) : Ns :=
  { capture := Bytes.le d 3072 1 == 1, auth := bit (Bytes.le d 3073 1) 0
    keyPage := if bit (Bytes.le d 3075 1) 0 then some (Bytes.le d 3074 1) else none, keyByte := Bytes.le d 3074 1, blocks := Bytes.le d 0 8 }

/-- The default key page of a creation is owned by the creating function and has the kind the namespace needs (R411). -/
def State.nsPageOk (s : State) (f : Nat) (n : Ns) : Bool :=
  match n.keyPage with
  | none => !n.auth
  | some k => s.fld (F.CPH_KP_STATE_OWNER k) == f && s.fld (F.CPH_KP_STATE_KIND k) == (if n.auth then 2 else 1)

/-- The first check a create structure fails. -/
def State.createErr (s : State) (f : Nat) (d : Bytes) : Option Status :=
  let n := nsOf d
  if (n.auth || n.keyPage.isSome) && !s.part.cipher then some St.absent
  else if Bytes.le d 26 1 &&& 0x6F ≠ 0 then some St.invalidFormat
  else if Bytes.le d 29 1 ≠ 0 ∨ bit (Bytes.le d 30 1) 0 then some St.invalidField
  else if 1 < Bytes.le d 3072 1 ∨ 1 < Bytes.le d 3073 1 ∨ 1 < Bytes.le d 3075 1 ∨ (n.auth && !n.capture) then some St.invalidField
  else if !s.nsPageOk f n then some St.invalidField
  else if n.blocks = 0 ∨ (n.capture && n.blocks % 256 != 0) then some St.invalidField
  else if !s.nsFits n.capture n.blocks ∨ s.fld F.SEC_LC_STATE = 4 then some St.nsCapacity
  else none

/-- One NS reference more or less of a key page (R412). -/
def State.refNs (s : State) (k : Option Nat) (up : Bool) : State :=
  match k with
  | some p => if up then s.addFld (F.CPH_KP_STATE_NS_REFS p) 1 else s.subFld (F.CPH_KP_STATE_NS_REFS p) 1
  | none => s

/-- NAMESPACE_CREATE: Namespace Management, SEL 0h: the lowest free NSID (R178). -/
def execNamespaceCreate (f : Nat) (c : Sqe) (d : Bytes) (s : State) : Res :=
  if c.sel = 1 then .next s
  else s.adminRun f c 0x0D (fun s => if c.sel ≠ 0 then .next (s.badField f c 10 0)
  else match s.createErr f d with
    | some e => .next (s.admin f c e)
    | none =>
      match firstBelow 256 (fun i => (s.ns (i + 1)).isNone) with
      | none => .next (s.admin f c St.nsidUnavailable)
      | some i =>
        let n := nsOf d
        let t := (s.journal (.namespaceOp (i + 1) 0 (ofBool n.capture) n.blocks)).setNs (i + 1) (some n)
        .next (((t.refNs n.keyPage true).checkSpare).admin f c St.ok (i + 1)))

/-! ## Delete, format and attach -/

/-- A capture namespace is in use: a stream that names it is not Idle, or a span that names it is not Free (R180). -/
def State.nsBusy (s : State) (nsid : Nat) : Bool :=
  s.isCapture nsid &&
    ((List.range 64).any (fun n => s.strState n != 0 && s.fld (F.CAP_S_NS_NSID n) == nsid) ||
      s.spansUsed.any (fun k => s.fld (F.CAP_SP_NSID k) == nsid))

/-- A new window, or a namespace gone: CURSOR and LANDED are 0 and the earlier window is left (CAP.Sn_WIN, R180). -/
def State.newWindow (s : State) (n : Nat) : State :=
  (((s.setFld (F.CAP_S_CURSOR_CURSOR n) 0).setFld (F.CAP_S_LANDED_LANDED n) 0)).drainAway n (s.fld (F.CAP_S_NS_NSID n))

/-- The Idle streams that name a namespace lose their place (R180). -/
def State.streamsLose (s : State) (nsid : Nat) : State :=
  let t := s.over ((List.range 64).filter (fun n => s.fld (F.CAP_S_NS_NSID n) == nsid)) (fun u n =>
    let v := (u.newWindow n).setFld (F.CAP_S_SEQHIGH_VALID n) 0
    v.setStr n { v.str n with marks := [] })
  t.setDrains (t.cap.drains.filter (fun d => d.nsid != nsid))

/-- Everything a namespace holds is discarded: map and gap entries, units and clutches, and what waits in the write buffer and the capture
pool, whose charges end. -/
def State.purge (s : State) (nsid : Nat) : State :=
  let t := s.over (s.ftl.wbuf.filter (fun w => w.nsid == nsid && w.dealloc == 0)) (fun u w => u.unbuffer nsid w.lba)
  let t := t.over (t.ftl.capWrites.filter (fun e => e.1 / 2 ^ 32 == nsid)) (fun u e => match e.2 with
    | some w => if w.charged then u.releaseExtent nsid w.ext else u
    | none => u)
  let t := t.over (t.ftl.capMap.filter (fun e => e.1 / 2 ^ 32 == nsid)) (fun u e =>
    if u.capLanded nsid (e.1 % 2 ^ 32) then u.clearCap nsid (e.1 % 2 ^ 32) else u)
  t.setFtl { t.ftl with
    capWrites := t.ftl.capWrites.filter (fun e => e.1 / 2 ^ 32 != nsid)
    gens := t.ftl.gens.filter (fun e => e.1 / 2 ^ 48 != nsid)
    gaps := t.ftl.gaps.filter (fun e => e.1 / 2 ^ 32 != nsid)
    clutches := t.ftl.clutches.filter (fun e => match e.2 with | some k => k.nsid != nsid | none => false)
    units := t.ftl.units.filter (fun e => match e.2 with
      | some u => !(u.nsid == nsid && u.kind == 1) && !(u.kind == 5 && u.laddr / 2 ^ 27 == nsid)
      | none => false)
    placed := t.ftl.placed.filter (fun e => !(e.1 / 2 ^ 64 == 5 && e.1 % 2 ^ 64 / 2 ^ 27 == nsid)) }

/-- One namespace deleted. -/
def State.deleteNs (s : State) (nsid : Nat) : State :=
  match s.ns nsid with
  | none => s
  | some n =>
    let t := (s.journal (.namespaceOp nsid 1 (ofBool n.capture) n.blocks)).purge nsid
    let t := ((t.setNs nsid none).refNs n.keyPage false).streamsLose nsid
    let t := match n.attached with | some g => t.nsNotice g | none => t
    t.checkSpare

/-- NAMESPACE_DELETE: Namespace Management, SEL 1h; NSID FFFFFFFFh names every namespace. -/
def execNamespaceDelete (f : Nat) (c : Sqe) (s : State) : Res :=
  if c.sel ≠ 1 then .next s
  else s.adminRun f c 0x0D (fun s =>
    let nsid := c.nsid.toNat
    let ids := if nsid = 0xFFFFFFFF then s.nsids else [nsid]
    if nsid ≠ 0xFFFFFFFF ∧ (s.ns nsid).isNone then .next (s.admin f c St.invalidNamespace 0 (ploc 1 0))
    else if ids.any s.nsBusy then .next (s.admin f c St.sequenceError)
    else .next ((s.over ids (fun u n => u.deleteNs n)).admin f c St.ok))

/-- NAMESPACE_ATTACHMENT: a controller list of one entry (R168, R175, R180, R411). -/
def execNamespaceAttachment (f : Nat) (c : Sqe) (d : Bytes) (s : State) : Res :=
  s.adminRun f c 0x15 (fun s =>
    let nsid := c.nsid.toNat
    let g := Bytes.le d 2 2
    match s.ns nsid with
    | none => .next (s.admin f c St.invalidNamespace 0 (ploc 1 0))
    | some n =>
      if 1 < c.sel then .next (s.badField f c 10 0)
      else if Bytes.le d 0 2 ≠ 1 ∨ !s.fnExists g ∨ 31 < g then .next (s.admin f c St.ctrlList)
      else if c.sel = 0 then
        if n.attached = some g then .next (s.admin f c St.alreadyAttached)
        else if n.attached.isSome then .next (s.admin f c nsPrivate)
        else if (match n.keyPage with | some k => s.fld (F.CPH_KP_STATE_OWNER k) != g | none => false) then .next (s.admin f c St.invalidField)
        else .next (((s.setNs nsid (some { n with attached := some g })).nsNotice g).admin f c St.ok)
      else if n.attached ≠ some g then .next (s.admin f c St.notAttached)
      else if s.nsBusy nsid then .next (s.admin f c St.sequenceError)
      else .next (((s.setNs nsid (some { n with attached := none })).nsNotice g).admin f c St.ok))

/-- One namespace formatted; with SES 010b its default key page is erased (R405). -/
def State.formatNs (s : State) (nsid ses : Nat) : State :=
  match s.ns nsid with
  | none => s
  | some n =>
    let t := ((s.journal (.namespaceOp nsid 2 (ofBool n.capture) n.blocks)).purge nsid).streamsLose nsid
    match n.keyPage with
    | some k => if ses = 2 then (t.erasePage k).cphCause 6 else t
    | none => t

/-- A Format NVM that its checks admit (R175, R180, R225): its namespaces are Namespace Not Ready from now on. -/
def State.startFormat (s : State) (f : Nat) (c : Sqe) (ids : List Nat) (ses : Nat) : State :=
  let t := s.over ids (fun u n => match u.ns n with | some v => u.setNs n (some { v with notReady := true }) | none => u)
  { t with nvme := { t.nvme with formats := t.nvme.formats ++ [{ fn := f, cid := c.cid, nss := ids, ses := ses }] } }

/-- A format ends: its namespaces are formatted and ready, and the command completes where no reset has forgotten it (R225). -/
def State.endFormat (s : State) (x : Formatting) : State :=
  let t := { s with nvme := { s.nvme with formats := s.nvme.formats.erase x } }
  let t := t.over x.nss (fun u n => u.formatNs n x.ses)
  let t := t.over x.nss (fun u n => match u.ns n with | some v => u.setNs n (some { v with notReady := false }) | none => u)
  if x.asked then t.admin x.fn { opc := 0x80, cid := x.cid } St.ok else t

/-- The format under way of a function's command. -/
def State.formatOf (s : State) (f : Nat) (c : Sqe) : Option Formatting := s.nvme.formats.find? (fun x => x.fn == f && x.cid == c.cid)

/-- FORMAT_NVM: LBAF 0, PI 0, SES 000b, 001b or 010b; NSID FFFFFFFFh names every namespace attached to the controller (R175, R180, R225). The format
takes two steps, its start and its end (R225: "once started, runs to its end"): the row comes once more when it ends. -/
def execFormatNvm (f : Nat) (c : Sqe) (s : State) : Res :=
  match s.formatOf f c with
  | some x => if s.live then .next (s.endFormat x) else .next s
  | none => s.adminRun f c 0x80 (fun s =>
    let v := c.cdw10.toNat
    let ses := bits v 9 3
    let nsid := c.nsid.toNat
    let ids := if nsid = 0xFFFFFFFF then s.nsids.filter (fun n => s.attachedTo n f) else [nsid]
    if ses = 2 ∧ !s.part.cipher then .next (s.admin f c St.absent)
    else if nsid ≠ 0xFFFFFFFF ∧ !s.attachedTo nsid f then .next (s.admin f c St.invalidNamespace 0 (ploc 1 0))
    else if bits v 0 9 ≠ 0 then .next (s.admin f c St.invalidFormat 0 (ploc 10 (lowBit (bits v 0 9))))
    else if bits v 12 2 ≠ 0 then .next (s.admin f c St.invalidFormat 0 (ploc 10 (12 + lowBit (bits v 12 2))))
    else if 2 < ses then .next (s.badField f c 10 9)
    else if ids.any s.nsBusy then .next (s.admin f c St.sequenceError)
    else .next (s.startFormat f c ids ses))

end Sys2Proof.Machine
end

