-- ==== Sys2Proof/Machine/Firmware.lean ====
section
/-! DEFINITION. Firmware images, Firmware Commit, the slot write and the molt (R227 to R229, R503, R507 to R510). -/

namespace Sys2Proof.Machine

/-! ## Images (R503) -/

namespace Img
def kind (d : Bytes) : Nat := Bytes.le d 6 1
def svn (d : Bytes) : Nat := Bytes.le d 7 1
def version (d : Bytes) : Nat := Bytes.le d 8 4
def len (d : Bytes) : Nat := Bytes.le d 0xC 4
def raiseSvn (d : Bytes) : Bool := bit (Bytes.le d 0x18 2) 0
def exportV (d : Bytes) : Nat := Bytes.le d 0x1A 2
def entries (d : Bytes) : Nat := Bytes.le d 0x1C 2
end Img

/-- Magic, format version, kind, zero fields and length of an image of kind `k` (check 02h of R508). -/
def imgForm (d : Bytes) (k : Nat) : Bool :=
  let fw := k == 1
  let m := Img.entries d
  Bytes.le d 0 4 == 0x474D4951 && Bytes.le d 4 2 == 1 && Img.kind d == k && (k == 1 || k == 2) && decide (Img.svn d ≤ if fw then 64 else 0)
    && decide (0x20 + 8 * m + 96 ≤ Img.len d ∧ Img.len d ≤ if fw then 10485760 else 2097152) && decide (Bytes.le d 0x18 2 ≤ if fw then 1 else 0)
    && (!fw || Img.exportV d == 0) && (if fw then decide (1 ≤ m ∧ m ≤ 64) else m == 0) && Bytes.le d 0x1E 2 == 0
    && (List.range m).all (fun i => Bytes.le d (0x23 + 8 * i) 1 == 0)

/-- The firmware's manifest holds an entry equal to this part, its stepping and the bundle's version: a tested pair (R503). -/
def State.tested (s : State) (fw bundle : Bytes) : Bool :=
  (List.range (Img.entries fw)).any (fun i =>
    Bytes.le fw (0x20 + 8 * i) 2 == s.part.code && Bytes.le fw (0x22 + 8 * i) 1 == s.fld F.ID_PART_STEPPING
      && Bytes.le fw (0x24 + 8 * i) 4 == Img.version bundle)

/-! ## Download and commit -/

/-- FIRMWARE_IMAGE_DOWNLOAD: a piece of the one image that is staged; offset 0 begins a new image (R175, R503). -/
def execFirmwareImageDownload (f : Nat) (c : Sqe) (d : Bytes) (s : State) : Res :=
  s.adminRun f c 0x11 (fun s =>
    let n := 4 * (c.cdw10.toNat + 1)
    let off := 4 * c.cdw11.toNat
    if 2097152 < n then .next (s.badField f c 10 0)
    else
      let old := if off = 0 then [] else s.sec.staged
      .next ({ s with sec := { s.sec with staged := patch (fit (max off old.length) old) [(off, fit n d)], stagedOk := true, stagedBy := f } }.admin f c St.ok))

/-- The images the slot will hold after a commit, firmware first. -/
def State.willHold (s : State) (slot ca : Nat) : Bytes × Bytes :=
  let v := s.slot slot
  if ca = 2 then (v.fw, v.bundle)
  else if Img.kind s.sec.staged = 1 then (s.sec.staged, v.bundle) else (v.fw, s.sec.staged)

/-- A die table claims every die in service (check 06h). -/
def State.tableClaims (s : State) (table : List Profile) : Bool :=
  s.nand.found.all (fun e => s.fld (F.CH_DIE_STATE e.1 e.2.die) != 1 || table.any (fun p => p.matchesDie e.2))

/-- The code of the first check of R508 that fails; 0 for none. `sigOk` tells whether the signatures of the images checked verify under the image
key of the boot ROM. -/
def State.commitCheck (s : State) (slot ca : Nat) (sigOk : Bool) (table : List Profile) : Nat :=
  let h := s.willHold slot ca
  let d := s.sec.staged
  if ca ≠ 2 ∧ (!s.sec.stagedOk ∨ d.length ≠ Img.len d) then 1
  else if (if ca = 2 then !imgForm h.1 1 || !imgForm h.2 2 else !(imgForm d 1 || imgForm d 2)) then 2
  else if !sigOk then 3
  else if (ca = 2 ∨ Img.kind d = 1) ∧ Img.svn h.1 < s.fld F.SEC_STATUS_MIN_SVN then 4
  else if ca ≠ 0 ∧ !s.tested h.1 h.2 then 5
  else if ca = 3 ∧ !s.tableClaims table then 6
  else 0

/-- An update runs: a slot write or a molt. -/
def State.updating (s : State) : Bool := s.sec.slotWrite.isSome || s.nvme.molting.isSome

/-- FIRMWARE_COMMIT (R507, R508). A Commit that finds an earlier one unfinished waits. -/
def execFirmwareCommit (f : Nat) (c : Sqe) (sigOk : Bool) (table : List Profile) (s : State) : Res :=
  if s.updating then .next s
  else s.adminRun f c 0x10 (fun s =>
    let fs := bits c.cdw10.toNat 0 3
    let ca := bits c.cdw10.toNat 3 3
    let run := s.fld F.SEC_STATUS_RUN_SLOT
    let slot := if fs = 0 then 1 - run else fs - 1
    if 3 < ca then .next (s.badField f c 10 3)
    else if 2 < fs ∨ (ca ≠ 2 ∧ slot = run) ∨ (s.slot slot).bad then .next (s.admin f c St.invalidSlot 0 (ploc 10 0))
    else
      let code := s.commitCheck slot ca sigOk table
      if code ≠ 0 then .next (s.admin f c St.invalidImage code)
      else if ca = 2 then .next ({ s with sec := { s.sec with activation := some slot } }.admin f c St.ok)
      else
        let w : SlotWrite := { slot := slot, bundle := Img.kind s.sec.staged == 2, sector := 0, ca := ca, image := s.sec.staged
                               cmd := some (f, c.cid), table := table }
        .next (({ s with sec := { s.sec with slotWrite := some w } }.setFld F.SEC_STATUS_UPDATING 1).startErase (slotSector slot w.bundle)))

/-! ## The slot write (R509, R510) -/

/-- The Commit of a slot write completes; none after a reset. -/
def State.endCommit (s : State) (w : SlotWrite) (st : Status) (dw0 : Nat) : State :=
  match w.cmd with
  | some x => s.admin x.1 { opc := 0x10, cid := x.2 } st dw0
  | none => s

/-- The slot write is over. -/
def State.dropWrite (s : State) : State := { s with sec := { s.sec with slotWrite := none } }.setFld F.SEC_STATUS_UPDATING 0

/-- A sector of the image written into the slot. -/
def State.slotPut (s : State) (w : SlotWrite) : State :=
  s.setSlot w.slot ((s.slot w.slot).put ((if w.bundle then 10485760 else 0) + 65536 * w.sector) ((w.image.drop (65536 * w.sector)).take 65536))

/-- The last sector is verified: activation record, type 0025h record, and what follows for CA 011b (R508, R509). -/
def State.finishWrite (s : State) (w : SlotWrite) : State :=
  let t := s.slotPut w
  let t := if w.bundle then t.setSlot w.slot { t.slot w.slot with bundle := w.image } else t.setSlot w.slot { t.slot w.slot with fw := w.image }
  let same := Img.version (t.slot w.slot).bundle == s.fld F.SEC_FWVER_BUNDLE_VER
  let act := w.ca == 1 || (w.ca == 3 && !same)
  let t := if act then { t with sec := { t.sec with activation := some w.slot } } else t
  let t := t.dropWrite.record 0x0025 ([byteOf w.slot, byteOf (Img.kind w.image), byteOf w.ca, byteOf (ofBool w.resumed)] ++ leBytes 4 (Img.version w.image) ++ zeros 8)
  if w.ca = 3 ∧ same ∧ w.cmd.isSome then
    { t with nvme := { t.nvme with molting := w.cmd }, sec := { t.sec with moltTo := some (w.slot, w.table) } }
  else if w.ca = 3 ∧ !same then t.endCommit w St.needsReset 0
  else t.endCommit w St.ok 0

/-- SLOT_WRITE_SECTOR: erase, program, verify and progress record of one sector. A failure takes the slot out of service (R446); `sigOk` is the
signature check after the last sector. -/
def execSlotWriteSector (eraseOk progOk sigOk : Bool) (s : State) : Res :=
  match s.sec.slotWrite with
  | none => .next s
  | some w =>
    let sec := slotSector w.slot w.bundle + w.sector
    if !s.live ∨ !s.cflAt sec then .next s
    else
      if !eraseOk ∨ !progOk ∨ s.cfl.bad.contains sec then .next ((((s.sectorBad sec).cflFree).dropWrite).endCommit w St.invalidSlot 0)
      else
        let t := (s.eraseDone sec).cflFree
        if ceilDiv w.image.length 65536 ≤ w.sector + 1 then
          if sigOk then .next (t.finishWrite w) else .next ((t.slotPut w).dropWrite.endCommit w St.invalidImage 3)
        else
          let u := t.slotPut w
          .next (({ u with sec := { u.sec with slotWrite := some { w with sector := w.sector + 1 } } }).startErase (sec + 1))

/-! ## The molt (R227 to R229) -/

/-- Every die in service matched against the new table (R307). -/
def State.rematch (s : State) : State :=
  s.over (s.nand.found.filter (fun e => s.fld (F.CH_DIE_STATE e.1 e.2.die) == 1)) (fun u e => match s.nand.matchDie e.1 e.2 with
    | some m => (u.setFld (F.CH_DIE_PROFILE e.1 e.2.die) m.1).setFld (F.CH_DIE_CLAIMED e.1 e.2.die) (ofBool m.2)
    | none => u)

/-- Every fetched command but the molt's Commit has completed (R227): those of the lanes, and the admin commands held. -/
def State.lanesQuiet (s : State) : Bool :=
  (List.range 96).all (fun l => (s.busyTags l).isEmpty && (s.lane l).fetches.isEmpty)
    && s.fnList.all (fun f => s.adminHeld f == ofBool (s.nvme.molting.map Prod.fst == some f))

/-- MOLT: the wait for the fetched commands ends in time and the new image runs, or it takes longer than 500 ms. Outstanding Asynchronous Event
Requests, which complete only with an event, are not waited for. -/
def execMolt (inTime : Bool) (s : State) : Res :=
  match s.nvme.molting, s.sec.moltTo with
  | some x, some m =>
    let t := { s with nvme := { s.nvme with molting := none }, sec := { s.sec with moltTo := none } }
    let c : Sqe := { opc := 0x10, cid := x.2 }
    if !inTime then .next (t.admin x.1 c St.maxTime)
    else if !s.lanesQuiet then .next s
    else
      let u := ({ t with nand := { t.nand with table := m.2 } }.rematch.setFld F.SEC_STATUS_RUN_SLOT m.1).setFld F.SEC_FWVER_FW_VER
        (Img.version (s.slot m.1).fw)
      let u := u.admin x.1 c St.ok
      .next (u.over u.fnList (fun v f => if bit ((v.fn f).features.get 0 0x0B).toNat 9 then v.notice f 0x030102 else v))
  | _, _ => .next s

end Sys2Proof.Machine
end

