-- ==== Sys2Proof/Machine/Power.lean ====
section
/-! DEFINITION. Power states and domains: the entry handshake, the agents' answers, Basking and Brumation, wakes and exits (Power States and
Domains). -/

namespace Sys2Proof.Machine

/-! ## Domains (R482) -/

/-- The state of domain `d` in device state `st` (PS0 to PS2, 3 Basking, 4 Brumation), coded as PWR.DOMSTATE0: 0 Off, 1 Gated, 2 On,
3 Retention. -/
def State.domIn (s : State) (st d : Nat) : Nat :=
  if !s.part.domain d then 0
  else if d = 0 then 2
  else if st = 4 then (if d = 46 ∨ d = 47 then 3 else 0)
  else if d = 29 ∧ s.power.linkL2 then 0
  else if 21 ≤ d ∧ d ≤ 28 then
    (if st = 3 then (if s.fld (F.ETH_CTRL_SP_EN (d - 21)) = 0 then 0 else 1)
      else if s.fld (F.ETH_CTRL_SP_EN (d - 21)) = 0 ∨ (st = 2 ∧ 25 ≤ d) then 1 else 2)
  else if st = 3 then (if 38 ≤ d ∧ d ≤ 47 then 3 else 1)
  else 2

/-- Every domain in the state that device state `st` gives it. -/
def State.setDoms (s : State) (st : Nat) : State := s.over (List.range 53) (fun u d => u.setDom d (s.domIn st d))

/-- The order of domain states from high to low: On, Gated, Retention, Off (R485). -/
def domRank : Nat → Nat
  | 2 => 3 | 1 => 2 | 3 => 1 | _ => 0

/-- The agents an entry to device state `target` asks, lowest domain first; 63 is the debug agent (R485). -/
def State.agentsAsked (s : State) (target : Nat) : List Nat :=
  if target < 3 then
    (if target = 2 ∧ s.fld F.PWR_STATE_CUR ≠ 2 then [25, 26, 27, 28].filter (fun d => decide (domRank (s.domIn 2 d) < domRank (s.dom d))) else [])
  else (List.range 53).filter (fun d => d != 0 && s.part.domain d && decide (domRank (s.domIn target d) < domRank (s.dom d))) ++ [63]

/-! ## The agents (R490) -/

/-- Work of the cores that Brumation waits for: the window in use, held writes, cached capture writes, a checkpoint. -/
def State.coresBusy (s : State) : Bool :=
  s.fld F.PWR_HU_WIN_IN_USE != 0 || !s.ftl.held.isEmpty ||
  s.ftl.capWrites.any (fun e => match e.2 with | some w => w.cached | none => false) || s.ftl.ckptRun.isSome

/-- A channel group holds a program, an erase not suspended, or a queued read (R321). -/
def State.groupBusy (s : State) (g : Nat) : Bool :=
  (List.range 4).any (fun i => (s.chan (4 * g + i)).ops.any (fun o => o.kind == .read || (o.started && !o.susp)))

/-- A command is fetched and not completed, the Set Features that asked for the entry apart. Asynchronous Event Requests, which wait for an event, do not count (DEDUCED: R478 and R490 would
else keep every host that follows NVM Express out of PS3). -/
def State.commandsPending (s : State) : Bool :=
  !{ s with power := { s.power with entry := none } }.lanesQuiet || s.nvme.molting.isSome || (match s.sec.slotWrite with | some w => w.cmd.isSome | none => false) ||
  (List.range 96).any (fun l => !(s.lane l).resume.isEmpty)

/-- What the agent of domain `d` answers now to an entry to `target`, with its reason: refuse, delay, or accept (R490). The fabric and the
persistence-die interface, whose crossings end within 1 µs, accept. -/
def State.agentAnswer (s : State) (target d : Nat) : Answer × Nat :=
  if 1 ≤ d ∧ d ≤ 4 then (if target = 4 ∧ s.coresBusy then .delay else .accept, 8)
  else if 5 ≤ d ∧ d ≤ 20 then (if s.groupBusy (d - 5) then .delay else .accept, 1)
  else if 21 ≤ d ∧ d ≤ 28 then (if target = 2 ∧ s.fld (F.ETH_CTRL_SP_EN (d - 21)) ≠ 0 then .refuse else .accept, 0xA)
  else if 30 ≤ d ∧ d ≤ 33 then (if (s.stk (d - 30)).queues.any (fun e => !e.2.reqs.isEmpty) then .delay else .accept, 9)
  else if d = 29 then (if s.commandsPending then .delay else .accept, 7)
  else if d = 47 then (if s.on (F.SRB_B_STATUS_WIPING 9) then .delay else .accept, 9)
  else if d = 48 then (if s.cfl.op.isSome then .delay else .accept, 5)
  else if d = 49 then
    (if !s.busyStreams.isEmpty then (.refuse, 2)
      else if target = 4 ∧ s.spansUsed.any (fun k => let st := s.spState k
        st == 1 || st == 2 || st == 4 || st == 6 || (st == 3 && s.fld (F.CAP_SP_MEDIUM k) == 0)) then (.refuse, 3)
      else (.accept, 9))
  else if d = 50 then
    (if (List.range 64).any (fun n => let st := s.dmaState n; st == 1 || st == 2 || st == 4 || st == 6) then (.delay, 4)
      else if target = 4 ∧ (List.range 64).any (fun n => let st := s.dmaState n; st == 3 || st == 5) then (.refuse, 4)
      else (.accept, 4))
  else if d = 63 then (if s.on F.DBG_STATUS_ATTACHED then .refuse else .accept, 6)
  else (.accept, 9)

/-! ## Body bias and SRAM assist (R499) -/

/-- The forward bias of a domain in PS0 and PS1, in mV: its trim of 0 to 80, mid-range without a good calibration row (R437, R438). How the row codes
the trims no rule says. -/
def State.biasTrim (s : State) (d : Nat) : Nat := if s.on F.CFL_STATUS_CAL_BAD then 40 else Config.biasTrim d % 81

/-- Bias and assist set for device state `st` (PS0 to PS2, 3 Basking, 4 Brumation), the domains standing as they do in it. What a domain that is On,
retained or Off has in Basking or Brumation the rule does not say: it keeps its bias (DESIGN CHOICE, log entry 93). -/
def State.setBias (s : State) (st : Nat) : State :=
  let old := s.power.bias
  let mv := fun (d : Nat) =>
    if st < 2 then (s.biasTrim d : Int) else if st = 2 then 0
    else if (st = 3 ∧ s.dom d = 1) ∨ (st = 4 ∧ d = 0) then -300 else old.logic.get 0 d
  { s with power := { s.power with bias :=
      { logic := (List.range 53).foldl (fun (t : Tbl Int) d => t.set 0 d (mv d)) []
        writeA := decide (st < 3), readA := decide (st < 2) && Config.readAssist
        low := if st = 3 then (List.range 11).filter s.part.bank else if st = 4 then [8, 9, 10] else [] } } }

/-! ## The entry (R485 to R489) -/

/-- The power controller's part of the state. -/
def State.setPower (s : State) (v : Power) : State := { s with power := v }

/-- The erases in flight on dies that support it are suspended, for the entry (R321). -/
def State.suspendErases (s : State) : State :=
  s.over (List.range s.part.channels) (fun u c =>
    let hit := fun (o : NandOp) => o.kind == .erase && o.started && !o.susp && s.canSuspend c o.die
    if (u.chan c).ops.any hit then
      u.setChan c { u.chan c with ops := (u.chan c).ops.map (fun o => if hit o then { o with susp := true, since := o.ran s.time.ftc } else o) }
    else u)

/-- The suspended erases that no read waits out run on (R321, R488). -/
def State.resumeErases (s : State) : State :=
  s.over (List.range s.part.channels) (fun u c =>
    let ops := (u.chan c).ops
    let hit := fun (o : NandOp) => o.susp && !ops.any (fun q => q.die == o.die && q.early)
    if ops.any hit then
      u.setChan c { u.chan c with ops := ops.map (fun o => if hit o then { o with susp := false, since := s.time.ftc - o.since } else o) }
    else u)

/-- The Set Features that asked for the entry completes. -/
def State.endAsked (s : State) (a : Option (Nat × BitVec 16)) (st : Status) : State :=
  match a with
  | some (f, cid) => s.admin f { opc := 9, cid := cid } st
  | none => s

/-- Every agent asked has accepted: sequencing begins, and the Set Features that asked completes. Toward a higher Run state the bias changes now, before
the limits lift (R499). For Brumation every grant ends (R521), the
counter and the RTC count are sampled, and a type 0005h record is written (R465). -/
def State.entryAccepted (s : State) (e : Entry) : State :=
  let t := ((s.setPower { s.power with entry := some { e with delays := [], asked := none } }).setFld F.PWR_STATE_PHASE 2).endAsked e.asked St.ok
  let t := if e.target < t.fld F.PWR_STATE_CUR then t.setBias e.target else t
  if e.target = 4 then
    let u := t.endGrant 1
    let rtc := (u.reg R.TMR_RTC).toNat
    { u with time := { u.time with entryFtc := u.time.ftc, entryRtc := rtc } }.record 0x0005 (leBytes 8 rtc ++ zeros 8)
  else t

/-- One piece of held work done. -/
def State.doWork (s : State) (w : HeldWork) : State :=
  match (match w with
    | .stream n => execStreamStart n s
    | .dmaStart n => execDmaStart n s
    | .dmaResume n => execDmaResume n s
    | .hbm k a n wr sev => execHbmRequest k a n wr sev s) with
  | .next t => t
  | .fault _ => s
  | .refused _ => s

/-- Held work is done, in the order it came (R488). -/
def State.resumeWork (s : State) : State := (s.setPower { s.power with work := [] }).over s.power.work State.doWork

/-- A refusal abandons the entry: held work is done (R488), and halt requests held since the debug agent accepted are served (R525). A refused Brumation leaves the part in Basking with the PCIe domain Off (R491). -/
def State.abandon (s : State) (e : Entry) (d reason : Nat) : State :=
  let t := (((s.setFld F.PWR_REFUSE_DOMAIN d).setFld F.PWR_REFUSE_REASON reason).setFld F.PWR_REFUSE_TARGET e.target).addFld F.PWR_REFUSE_COUNT 1
  let t := (t.setPower { t.power with entry := none }).pwrCause 2
  let t := ((t.setFld F.PWR_STATE_TARGET 0).setFld F.PWR_STATE_PHASE 0).resumeErases.endAsked e.asked St.sequenceError
  if e.target = 4 then t.setDom 29 (t.domIn 3 29) else t.serveHeld.resumeWork

/-- An entry starts: the agents asked answer (R485, R486). The flash agents have suspended their erases, the SRAM agents ended a march test (R321,
R366). A refusal abandons the entry, the lowest domain's the one that is recorded; those that delay answer again. -/
def State.startEntry (s : State) (target : Nat) (asked : Option (Nat × BitVec 16)) (brum : Bool) : State :=
  let t := if 3 ≤ target then s.suspendErases.marchAbort [] else s
  let ds := t.agentsAsked target
  let e : Entry := { target := target, delays := ds.filter (fun d => (t.agentAnswer target d).1 == .delay), asked := asked, brum := brum }
  let t := ((t.setPower { t.power with entry := some e }).setFld F.PWR_STATE_TARGET target).setFld F.PWR_STATE_PHASE 1
  match ds.find? (fun d => (t.agentAnswer target d).1 == .refuse) with
  | some d => t.abandon e d (t.agentAnswer target d).2
  | none => if e.delays.isEmpty then t.entryAccepted e else t

/-- The agent of domain `d` answers (R486). -/
def State.answerOf (s : State) (e : Entry) (d : Nat) : State :=
  match s.agentAnswer e.target d with
  | (.accept, _) =>
    let rest := e.delays.filter (· != d)
    if rest.isEmpty then s.entryAccepted e else s.setPower { s.power with entry := some { e with delays := rest } }
  | (.refuse, r) => s.abandon e d r
  | (.delay, _) => s

/-- AGENT_ANSWER: the agent of domain `d` answers Accept or Refuse; while its condition for Delay holds, it goes on delaying (R486, R490). -/
def execAgentAnswer (d : Nat) (s : State) : Res :=
  match s.power.entry with
  | some e => if s.live ∧ e.delays.contains d then .next (s.answerOf e d) else .next s
  | none => .next s

/-- DELAY_CAP_EXPIRY: DELAY_CAP has passed; the agents still in Delay refuse with their reasons, the lowest domain first (R487). -/
def execDelayCapExpiry (s : State) : Res :=
  match s.power.entry with
  | some e =>
    match e.delays.find? (fun d => (s.agentAnswer e.target d).1 == .delay) with
    | some d => if s.live then .next (s.abandon e d (s.agentAnswer e.target d).2) else .next s
    | none => .next s
  | none => .next s

/-! ## What Brumation keeps (R497) -/

/-- Registers management firmware saves in MGB at Brumation entry: EVT enables and routes, ETHp.CTRL, PAUSE and sub-port blocks, CHc.CFG, OPWDG
and RECLAIM, HBMs.CFG, FTL.CFG and GC, SRB.Bb_CFG, DMA.HWINs and CPH.CTRL. -/
def savedReg (off : Nat) : Bool :=
  decide (0x1700080 ≤ off ∧ off < 0x1700100) || decide (0x1701000 ≤ off ∧ off < 0x1702000) ||
  (decide (0xC00000 ≤ off ∧ off < 0xC80000) && (off % 0x10000 == 0 || off % 0x10000 == 0x10 || decide (0x100 ≤ off % 0x10000 ∧ off % 0x10000 < 0x200))) ||
  (decide (0x1000000 ≤ off ∧ off < 0x1100000) && (off % 0x4000 == 0 || off % 0x4000 == 0x10 || off % 0x4000 == 0x14)) ||
  (decide (0x1300000 ≤ off ∧ off < 0x1380000) && off % 0x20000 == 0) ||
  off == R.FTL_CFG || off == R.FTL_GC ||
  (decide (0x1380000 ≤ off ∧ off < 0x13802C0) && off % 0x40 == 0) ||
  decide (0x1408000 ≤ off ∧ off < 0x1408010) || off == R.CPH_CTRL

/-- Registers whose domain keeps its power, or whose value lies in the persistence die, a retained bank or a fuse: the AON units, what a reset of the
part keeps, the key pages, the stacks' and the code flash's status, the status of MB, SEB and MGB, and the flags of sources 544 to 639. -/
def keptInBrumation (off : Nat) : Bool :=
  decide (0x1780000 ≤ off ∧ off < 0x2000000) || keptRegs.contains off || decide (0x1508000 ≤ off ∧ off < 0x1510000) ||
  [R.CFL_STATUS, R.CPH_STATUS, R.SRB_B_STATUS 8, R.SRB_B_STATUS 9, R.SRB_B_STATUS 10, R.EVT_STATUS 17, R.EVT_STATUS 18, R.EVT_STATUS 19,
    R.HBM_STATUS 0, R.HBM_STATUS 1, R.HBM_STATUS 2, R.HBM_STATUS 3].contains off

/-- The part in Brumation: what R497 calls lost is lost. Blocks whose erase was suspended are suspect. -/
def State.brumate (s : State) : State :=
  { s with
    regs := s.regs.filter (fun e => keptInBrumation e.1)
    ur := {}, cap := {}, eth := {}, dma := []
    nvme := { nss := s.nvme.nss.map (fun e => (e.1, e.2.map (fun n => { n with notReady := true }))), critical := s.nvme.critical
              linkUp := false, perstLow := s.nvme.perstLow, posted := s.nvme.posted }
    ftl := { s.ftl with spanTab := s.spanTable, suspect := s.cutErases.foldl addOnce s.ftl.suspect }
    nand := { s.nand with chans := [], found := [], waitDies := [] }
    buf := { s.buf with stack := s.buf.stack.map (fun e => (e.1, { e.2 with rows := [], queues := [] }))
                        banks := (s.buf.banks.filter (fun e => decide (8 ≤ e.1))).map (fun e => (e.1, { e.2 with grants := [] })), marchOn := [] }
    cph := { s.cph with keys := [] }
    cfl := { s.cfl with prefetch := [], branch := [], stage := [], auth := [] }
    evt := { s.evt with cores := s.evt.cores.filter (fun x => decide (544 ≤ x ∧ x < 640)) }
    power := { s.power with phase := .brumation, work := [], saved := s.regs.filter (fun e => savedReg e.1) } }

/-! ## Wakes and the start of an exit (R492, R493) -/

/-- LAST_WAKE.SOURCE of a wake. -/
def WakeSrc.code : WakeSrc → Nat
  | .doorbell => 1 | .heldWork => 2 | .perst => 3 | .ethMgmt => 4 | .ethFilter => 5 | .trig => 6 | .rtc => 7

/-- The wake ends device state `st` (3 Basking, 4 Brumation): R492 with the enables of PWR.WAKE_EN. -/
def State.wakes (s : State) (src : WakeSrc) (st : Nat) : Bool :=
  match src with
  | .doorbell => st == 3
  | .heldWork => st == 3 && !s.power.work.isEmpty
  | .perst => st == 4
  | .ethMgmt => st == 3 && s.on F.PWR_WAKE_EN_ETH_MGMT
  | .ethFilter => st == 3 && s.on F.PWR_WAKE_EN_ETH_FILTER
  | .trig => s.on F.PWR_WAKE_EN_TRIG
  | .rtc => s.on F.PWR_WAKE_EN_RTC && s.reg R.PWR_WAKE_RTC != 0 && decide ((s.reg R.PWR_WAKE_RTC).toNat ≤ (s.reg R.TMR_RTC).toNat)

/-- The exit starts (R492, R493, R471): the watchdogs restart from zero; from Basking the banks begin to leave Retention; from Brumation WAKE_N is
asserted for an internal wake. -/
def State.startExit (s : State) (src : WakeSrc) (st : Nat) (during : Bool) : State :=
  let t := ((s.setFld F.PWR_LAST_WAKE_SOURCE src.code).setFld F.PWR_LAST_WAKE_FROM st).setFld F.PWR_LAST_WAKE_DURING_ENTRY (ofBool during)
  let t := (t.setPower { t.power with exiting := true }).setFld F.PWR_STATE_PHASE 3
  let t := ({ t with time := { t.time with dieNs := 0, pkgNs := 0, serviced := [] } }.pwrCause 3)
  let t := if during then t.pwrCause 4 else t
  if st = 3 then t.over ((List.range 11).filter t.part.bank) (fun u b => u.setFld (F.SRB_B_STATUS_PSTATE b) 3)
  else if src = .perst then t
  else (t.setPower { t.power with wakeN := true }).emit .wakeN

/-- WAKE: a wake of R492. One that arrives during an entry waits for its end (R493); the first is the one that counts. -/
def execWake (src : WakeSrc) (s : State) : Res :=
  if s.power.phase = .brumation then
    if !s.power.exiting ∧ s.wakes src 4 then .next (s.startExit src 4 false) else .next s
  else if s.live then
    match s.power.entry with
    | some e =>
      if 3 ≤ e.target ∧ s.wakes src e.target ∧ e.woke.isNone then .next (s.setPower { s.power with entry := some { e with woke := some src } })
      else .next s
    | none => if s.basking ∧ !s.power.exiting ∧ s.wakes src 3 then .next (s.startExit src 3 false) else .next s
  else .next s

/-- Port `p`, whose domain goes Off, keeps nothing (R483): its registers read their reset values when it is On again, and its SAs give up their
copies of keys. -/
def State.losePort (s : State) (p : Nat) : State :=
  let keys := (s.eth.saKeys.filter (fun e => e.1 / 512 == p)).filterMap (fun e => e.2.map Prod.fst)
  let t := { s with regs := s.regs.filter (fun e => !decide (0xC00000 + 0x10000 * p ≤ e.1 ∧ e.1 < 0xC10000 + 0x10000 * p))
                    eth := { s.eth with saKeys := s.eth.saKeys.filter (fun e => e.1 / 512 != p) } }
  t.over keys (fun u k => u.updSaRefs k)

/-- Basking is reached: ports with no sub-port enabled Off, banks in Retention, stacks in self-refresh (R482, R361, R353). -/
def State.bask (s : State) (e : Entry) : State :=
  let t := s.setPower { s.power with prior := s.fld F.PWR_STATE_CUR }
  let t := ((t.setFld F.PWR_STATE_CUR 3).setFld F.PWR_STATE_BRUM_WAIT (ofBool e.brum)).setDoms 3
  let t := t.over ((List.range t.part.ports).filter (fun p => t.dom (21 + p) == 0)) (fun u p => u.losePort p)
  let t := t.over ((List.range 11).filter t.part.bank) (fun u b => u.setFld (F.SRB_B_STATUS_PSTATE b) 1)
  t.over ((List.range t.part.stacks).filter (fun k => t.fld (F.HBM_STATUS_STATE k) == 1)) (fun u k =>
    (u.setStk k { u.stk k with rows := [] }).setFld (F.HBM_STATUS_STATE k) 2)

/-- POWER_STATE_REACHED: the sequencing ends and the state is reached (R489). A wake that waited starts the exit at once (R493). -/
def execPowerStateReached (s : State) : Res :=
  match s.power.entry with
  | none => .next s
  | some e =>
    if s.live ∧ s.fld F.PWR_STATE_PHASE = 2 then
      let t := ((s.setPower { s.power with entry := none }).setFld F.PWR_STATE_PHASE 0).setFld F.PWR_STATE_TARGET 0
      let t :=
        if e.target < 3 then ((t.setFld F.PWR_STATE_CUR e.target).setDoms e.target).setBias e.target
        else if e.target = 3 then (t.bask e).setBias 3
        else ((t.setDoms 4).brumate).setBias 4
      let t := t.pwrCause 0
      .next (match e.woke with
        | some src => if e.target < 3 then t else t.startExit src e.target true
        | none => t)
    else .next s

/-! ## What starts an entry (R478, R485, R491) -/

/-- No entry and no exit is under way in a Run state. -/
def State.steady (s : State) : Bool := s.inRun && s.power.entry.isNone && !s.power.exiting

/-- SET_FEATURES_POWER_MGMT: the physical function chooses the device state (R478). The state the part is in completes at once. -/
def execSetFeaturesPowerMgmt (f : Nat) (c : Sqe) (s : State) : Res :=
  let ps := bits c.cdw11.toNat 0 5
  if c.fid ≠ 0x02 ∨ !s.steady then .next s
  else s.adminRun f c 0x09 (fun s => if f ≠ 0 then .next (s.badField f c 10 0)
  else if bit c.cdw10.toNat 31 then .next (s.admin f c notSaveable 0 (ploc 10 31))
  else if 4 < ps then .next (s.badField f c 11 0)
  else if ps = s.fld F.PWR_STATE_CUR then .next (s.admin f c St.ok)
  else .next (s.startEntry (min ps 3) (some (f, c.cid)) (ps == 4)))

/-- SET_FEATURES_APST: autonomous transitions and their table, the physical function's alone (R478). -/
def execSetFeaturesApst (f : Nat) (c : Sqe) (d : Bytes) (s : State) : Res :=
  if c.fid ≠ 0x0C then .next s
  else s.adminRun f c 0x09 (fun s => if f ≠ 0 then .next (s.badField f c 10 0)
  else if bit c.cdw10.toNat 31 then .next (s.admin f c notSaveable 0 (ploc 10 31))
  else
    let v := s.fn 0
    .next ((s.setFn 0 { v with features := v.features.set 0 0x0C (c.cdw11 &&& 1), apst := fit 256 d }).admin f c St.ok))

/-- APST_TRANSITION: nothing was outstanding for the ITPT of the current state's entry (R478); in Basking an entry for PS4 selects it (R491). -/
def execApstTransition (s : State) : Res :=
  let e := Bytes.le (s.fn 0).apst (8 * s.fld F.PWR_STATE_CUR) 8
  let ps := bits e 3 5
  if s.live ∧ (s.fn 0).features.get 0 0x0C = 1 ∧ s.power.entry.isNone ∧ !s.power.exiting ∧ !s.commandsPending ∧ bits e 8 24 ≠ 0 then
    if s.basking then
      if ps = 4 then .next (s.setFld F.PWR_STATE_BRUM_WAIT 1) else .next s
    else if ps = 3 ∨ ps = 4 then .next (s.startEntry 3 none (ps == 4)) else .next s
  else .next s

/-- The conditions of R491 for a Brumation entry hold. -/
def State.brumDue (s : State) : Bool :=
  s.live && s.basking && s.on F.PWR_STATE_BRUM_WAIT && s.power.linkL2 && s.power.entry.isNone && !s.power.exiting

/-- PCIE_LINK_L2: the link reached L2 through PME_Turn_Off and PME_TO_Ack: with BRUM_WAIT the Brumation entry starts; else the PCIe domain alone goes
off (R491). -/
def execPcieLinkL2 (s : State) : Res :=
  if s.live ∧ s.nvme.linkUp then
    let t := (s.setPower { s.power with linkL2 := true }).pwrCause 5
    let t := { t with nvme := { t.nvme with linkUp := false } }
    if t.brumDue then .next (t.startEntry 4 none true) else .next (t.setDom 29 0)
  else .next s

/-- BRUMATION_RETRY: a refused Brumation entry is tried again every 100 ms while the link stays in L2 (R491). -/
def execBrumationRetry (s : State) : Res := if s.brumDue then .next (s.startEntry 4 none true) else .next s

/-- PERST_RELEASE: PERST_N rises and the link can train (R541); in Brumation it is a wake (R492), and the link trains after the exit. WAKE_N is
released when the link trains. -/
def execPerstRelease (s : State) : Res :=
  if !s.nvme.perstLow then .next s
  else
    let t := { s with nvme := { s.nvme with perstLow := false } }
    if s.power.phase = .brumation then
      if !s.power.exiting ∧ s.wakes .perst 4 then .next (t.startExit .perst 4 false) else .next t
    else if s.power.phase = .run then
      let u := { t with nvme := { t.nvme with linkUp := true }, power := { t.power with linkL2 := false, wakeN := false } }
      .next (u.setDom 29 (u.domIn (u.fld F.PWR_STATE_CUR) 29))
    else .next t

/-! ## Exits (R479, R498) -/

/-- BASKING_EXIT_DONE: the part is back in the operational state it held (R479): domains on, banks Active, stacks Ready. Held halts are served
(R525), announcements due are sent (R160). -/
def execBaskingExitDone (s : State) : Res :=
  if s.live ∧ s.basking ∧ s.power.exiting then
    let p := s.power.prior
    let t := s.setPower { s.power with exiting := false }
    let t := ((t.setFld F.PWR_STATE_CUR p).setFld F.PWR_STATE_PHASE 0).setFld F.PWR_STATE_BRUM_WAIT 0
    let t := t.setDoms p
    let t := t.over ((List.range 11).filter t.part.bank) (fun u b => u.setFld (F.SRB_B_STATUS_PSTATE b) 0)
    let t := t.over ((List.range t.part.stacks).filter (fun k => t.fld (F.HBM_STATUS_STATE k) == 2)) (fun u k =>
      (u.setFld (F.HBM_STATUS_STATE k) 1).hbmCause k 7)
    let t := t.serveHeld
    .next (((t.setBias p).pwrCause 1).resumeErases.announceDue.resumeWork)
  else .next s

/-- The start-up test of a list of banks (R363): every word zero; a bank that fails is Failed and recorded, and one that is not among SB0 to SB3
stops the part from becoming ready. -/
def State.startMarch (s : State) (banks bad : List Nat) : State :=
  let t := s.over banks (fun u b => (u.setBank b {}).setFld (F.SRB_B_STATUS_PSTATE b) 0)
  t.over (banks.filter (fun b => bad.contains b)) (fun u b =>
    let v := (u.setFld (F.SRB_B_STATUS_FAILED b) 1).recordFailure 2 b 1 0
    if b < 4 then v else v.fatal)

/-- The keys restored from SEB into the store; a Loaded page without a copy is Awaiting key, and no SQ or SA refers to a page (R416, R496). -/
def State.restoreKeys (s : State) : State :=
  let t := { s with cph := { s.cph with keys := s.cph.sebKeys } }
  t.over (List.range 256) (fun u k =>
    if u.reg (R.CPH_KP_STATE k) = 0 then u
    else
      let v := (u.setFld (F.CPH_KP_STATE_SQ_REFS k) 0).setFld (F.CPH_KP_STATE_SA_REFS k) 0
      if v.fld (F.CPH_KP_STATE_STATE k) = 1 ∧ (v.cph.sebKeys.find k).isNone then v.setFld (F.CPH_KP_STATE_STATE k) 2 else v)

/-- The counter bridged over the sleep (R465), the type 0006h record, and the records that waited (R461). -/
def State.bridge (s : State) : State :=
  let rtc := (s.reg R.TMR_RTC).toNat
  let adv := (rtc - s.time.entryRtc) * 1000000000 / 32768
  let t := { s with time := { s.time with ftc := (s.time.entryFtc + adv) % 2 ^ 64 }, evt := { s.evt with bridged := true, queued := [] } }
  let t := ((t.tmrCause 4).satFld F.TMR_BRIDGE_COUNT 1).record 0x0006 (leBytes 8 rtc ++ leBytes 8 adv)
  t.over s.evt.queued (fun u r => u.record r.1 r.2)

/-- The translation layer at a Brumation exit: its registers show what it holds, the spans are restored and the namespaces ready (R497, R498). The
erases that the sleep cut are asked for again (R256, R321). -/
def State.ftlResume (s : State) : State :=
  let t := (s.setFld F.FTL_SPARE_RESERVE_BLK s.ftl.reserveBlk).setReg R.FTL_WSEQ (BitVec.ofNat 64 s.ftl.nextSeq)
  let t := (t.setFld F.FTL_REGROW_PENDING (ofBool t.ftl.regrow)).restoreSpans.returnPool
  let t := t.setFtl { t.ftl with gcs := t.ftl.gcs.map (fun e => (e.1, e.2.map (fun c => { c with unasked := c.left }))) }
  let t := t.updGroups.updErase.checkSpare
  let nss : Tbl (Option Ns) := t.nvme.nss.map (fun e => (e.1, e.2.map (fun n => { n with notReady := false })))
  { t with nvme := { t.nvme with nss := nss } }

/-- BRUMATION_EXIT: steps 2 to 7 of R498; `facts` tells what discovery, the march test and the stacks met, and the new challenge. -/
def execBrumationExit (facts : StartFacts) (s : State) : Res :=
  if s.power.phase = .brumation ∧ s.power.exiting then
    let t := { s with regs := s.power.saved.foldl (fun (r : Tbl W64) (e : Nat × W64) => r.set (resetValue e.1) e.1 e.2) s.regs
                      power := { s.power with phase := .run, exiting := false, saved := [], prior := 0, linkL2 := s.power.linkL2 && s.nvme.perstLow
                                              wakeN := s.power.wakeN && s.nvme.perstLow }
                      nvme := { s.nvme with linkUp := !s.nvme.perstLow } }
    let t := (((t.setFld F.PWR_STATE_CUR 0).setFld F.PWR_STATE_PHASE 0).setFld F.PWR_STATE_BRUM_WAIT 0).setDoms 0
    let t := t.bridge.setFld F.DBG_CHAL_CHAL facts.challenge.toNat
    let t := { t with sec := { t.sec with held := [], obsHeld := none } }
    let t := t.startMarch ((List.range 8).filter t.part.bank) facts.badBanks
    let t := t.over [8, 9, 10] (fun u b => u.setFld (F.SRB_B_STATUS_PSTATE b) 0)
    let t := t.over ((List.range t.part.stacks).filter (fun k => t.fld (F.HBM_STATUS_STATE k) == 2)) (fun u k =>
      (u.setFld (F.HBM_STATUS_STATE k) 1).hbmCause k 7)
    let t := t.over ((facts.retrained ++ facts.badStacks.map Prod.fst).filter (fun k => decide (k < t.part.stacks))) (fun u k =>
      (u.count (R.HBM_N_RETRAINS k) 1).hbmCause k 4)
    let t := t.over (facts.badStacks.filter (fun x => decide (x.1 < t.part.stacks))) (fun u (x : Nat × Nat) => u.failStack x.1 2 x.2)
    let t := ((t.restoreKeys.loadVendor).loadKept false).discover facts.dies
    .next ((t.setBias 0).ftlResume.pwrCause 1)
  else .next s

/-- DOMAIN_FAULT: in an exit from Brumation a domain did not reach On within 5 ms (R498): a reset of the part, cause 7. -/
def execDomainFault (d : Nat) (s : State) : Res :=
  if s.power.phase = .brumation ∧ s.power.exiting ∧ s.part.domain d then .next ((s.pwrCause 6).resetAndRun 7 0) else .next s

/-! ## The temperature limit (R481) -/

/-- THERMAL_LIMIT_ON: a junction sensor exceeds 110 °C: the PS2 limits apply. -/
def execThermalLimitOn (s : State) : Res :=
  if s.live ∧ !s.on F.PWR_STATE_LIMITED then .next ((s.setFld F.PWR_STATE_LIMITED 1).pwrCause 7) else .next s

/-- THERMAL_LIMIT_OFF: every sensor is below 100 °C again. -/
def execThermalLimitOff (s : State) : Res :=
  if s.live ∧ s.on F.PWR_STATE_LIMITED then .next ((s.setFld F.PWR_STATE_LIMITED 0).pwrCause 7) else .next s

end Sys2Proof.Machine
end

