-- ==== Sys2Proof/Machine/Boot.lean ====
section
/-! DEFINITION. The start of the part, the choice of a firmware slot, and the lifecycle (Boot, Firmware Images, Lifecycle and Debug). -/

namespace Sys2Proof.Machine

/-! ## Step 1 and the records of a start (R435, R460, R475) -/

/-- The option area taken by the reset sequencer: its values, CFL.STATUS, and the energy ceiling default (R435, R268). -/
def State.takeOptions (s : State) : State :=
  let o := s.cfl.chosen
  let t := { s with cfl := { s.cfl with opt := o.1 } }
  (t.setFld F.CFL_STATUS_OPT_COPY o.2.1 |>.setFld F.CFL_STATUS_OPT_BAD (ofBool o.2.2)).setFld F.PWR_HU_CFG_CEIL (min 20000 o.1.ceil)

/-- A type 0003h record: the cause of the reset, its power domain, the power-on count, the calendar time. -/
def State.recordStart (s : State) : State :=
  s.record 0x0003 ([byteOf (s.fld F.TMR_WDG_LAST_CAUSE), byteOf (s.fld F.TMR_WDG_LAST_DOMAIN), 0, 0] ++ leBytes 4 s.time.powerOns ++ leBytes 8 s.cal.toNat)

/-! ## The calibration row (R437, R438) -/

/-- The row's magic, version and CRC are good. -/
def calGood : Bool :=
  let row := (List.range 0x3FC).map calByte
  (List.range 4).map (fun i => calByte (0x3FC + i)) == leBytes 4 (crc32c row).toNat

/-- Step 2: a bad row sets CAL_BAD, is recorded, and sets CSTS.CFS (R438); else the device salt is taken. -/
def State.takeCal (s : State) : State :=
  if calGood then s.setFld F.CPH_SALT_SALT (Bytes.le ((List.range 3).map (fun i => calByte (0x18 + i))) 0 3)
  else ((s.setFld F.CFL_STATUS_CAL_BAD 1).recordFailure 3 0 1 0).fatal

/-- Step 3: every unfinished code-flash erase is finished (R443). -/
def State.finishCflErases (s : State) : State := s.over s.cfl.intents (fun u sec => ((u.beginErase sec).eraseDone sec).setCflOp none)

/-! ## Choosing a slot (R505) -/

/-- What the boot ROM chose. -/
inductive Pick where
  | normal (slot : Nat)
  | restricted (slot : Nat)
  | none
  deriving DecidableEq, Repr

/-- BOOT_OVR names slot `n` in a state that honours it. -/
def State.overrides (s : State) (n : Nat) : Bool :=
  s.on F.SEC_BOOT_OVR_EN && (s.fld F.SEC_LC_STATE == 1 || s.fld F.SEC_LC_STATE == 3) && s.fld F.SEC_BOOT_OVR_SLOT == n

/-- The slot the option preference names. -/
def State.preferred (s : State) : Nat :=
  if s.cfl.opt.pref = 0 then 0
  else if s.cfl.opt.pref = 1 then 1
  else if Img.version (s.slot 0).fw < Img.version (s.slot 1).fw then 1 else 0

/-- The first candidate. -/
def State.firstSlot (s : State) : Nat :=
  if s.overrides 0 then 0
  else if s.overrides 1 then 1
  else match s.sec.activation with
    | some n => if n < 2 ∧ !(s.slot n).bad then n else s.preferred
    | none => s.preferred

/-- The slot is not bad, no update to it is unfinished, and its images verify. -/
def State.bootable (s : State) (facts : StartFacts) (n : Nat) : Bool :=
  let v := s.slot n
  let sigs := if n = 0 then facts.slot0Ok && facts.bundle0Ok else facts.slot1Ok && facts.bundle1Ok
  !v.bad && (match s.sec.slotWrite with | some w => w.slot != n | none => true) && imgForm v.fw 1 && imgForm v.bundle 2
    && v.fw.length == Img.len v.fw && v.bundle.length == Img.len v.bundle && sigs && decide (s.fld F.SEC_STATUS_MIN_SVN ≤ Img.svn v.fw)

/-- The pair in the slot is tested, or the override names the slot. -/
def State.mayRun (s : State) (n : Nat) : Bool := s.tested (s.slot n).fw (s.slot n).bundle || s.overrides n

/-- The choice. -/
def State.chooseSlot (s : State) (facts : StartFacts) : Pick :=
  let a := s.firstSlot
  let ok := [a, 1 - a].filter (s.bootable facts)
  match ok.find? s.mayRun, ok with
  | some n, _ => .normal n
  | none, n :: _ => .restricted n
  | none, [] => .none

/-- A type 0024h record; the modes are coded in the row's order (PRESUMED): 0 normal, 1 fallback, 2 Restricted, 3 override, 4 none. -/
def State.recordBoot (s : State) (slot mode fw bundle : Nat) : State :=
  s.record 0x0024 ([byteOf slot, byteOf mode, 0, 0] ++ leBytes 4 fw ++ leBytes 4 bundle ++ zeros 4)

/-- Step 5: the slot runs: SEC.STATUS, SEC.FWVER, the die table and the export version (R504 to R506). -/
def State.runSlot (s : State) (facts : StartFacts) (n : Nat) (restricted : Bool) : State :=
  let v := s.slot n
  let second := n != s.firstSlot
  let t := (s.setFld F.SEC_STATUS_RUN_SLOT n).setFld F.SEC_STATUS_FALLBACK (ofBool second)
  let t := (t.setFld F.SEC_STATUS_OVERRIDE (ofBool (s.overrides n))).setFld F.SEC_STATUS_RESTRICTED (ofBool restricted)
  let t := (t.setFld F.SEC_FWVER_FW_VER (Img.version v.fw)).setFld F.SEC_FWVER_BUNDLE_VER (Img.version v.bundle)
  let t := if second then t.secCause 10 else t
  let t := if restricted then t.secCause 9 else t
  let t := if !restricted ∧ Img.raiseSvn v.fw then t.setFld F.SEC_STATUS_MIN_SVN (max (t.fld F.SEC_STATUS_MIN_SVN) (Img.svn v.fw)) else t
  { t with nand := { t.nand with table := facts.tables.getD n [], exportV := Img.exportV v.bundle } }

/-- The mode of a boot as its record codes it. -/
def State.bootMode (s : State) : Nat :=
  if s.on F.SEC_STATUS_RESTRICTED then 2
  else if s.on F.SEC_STATUS_OVERRIDE then 3
  else ofBool (s.on F.SEC_STATUS_FALLBACK)

/-- Step 6: the stacks train in the order that CFG.ORDER asks for (R339, R348); the kept image is loaded (R332). -/
def State.trainStacks (s : State) (bad : List (Nat × Nat)) : State :=
  let t := s.over (List.range s.part.stacks) (fun u k =>
    (u.setFld (F.HBM_STATUS_ORDER_ACTIVE k) (u.fld (F.HBM_CFG_ORDER k))).setFld (F.HBM_STATUS_STATE k) 1)
  t.over (bad.filter (fun x => decide (x.1 < t.part.stacks))) (fun u (x : Nat × Nat) => u.failStack x.1 1 x.2)

/-! ## Lifecycle (R511 to R514) -/

/-- Step 4 of R514: the copy not in use is written with the new lock byte, and a key hash of zero for Field-Return and Retired. -/
def State.lcOptions (s : State) (lc : Nat) : State :=
  let o := s.cfl.opt
  let n := { o with gen := o.gen + 1, lock := if lc = 1 ∨ lc = 3 then 0 else 0xA5, key := if 3 ≤ lc then [] else o.key }
  if s.optTarget = 0 then { s with cfl := { s.cfl with copyA := some n } } else { s with cfl := { s.cfl with copyB := some n } }

/-- Step 5 of R514 for Field-Return and Retired: every NAND block in service erased, every namespace deleted, the journal, the ledger, the span
table and the GCM counter reservations zeroed. -/
def State.lcErase (s : State) : State :=
  let t := s.over s.nsids (fun u n => u.deleteNs n)
  let t := t.over (List.range 16) (fun u g => u.over (u.gbList g) (fun v b => ((v.countErase g b (v.usable g b)).wipeGb g b).releaseGb g b))
  let t := t.setFtl { t.ftl with journal := [], ledger := [], spanTab := [], ckpt := none, ckptRun := none, gcs := [], moves := [], suspect := [] }
  { t with cap := { t.cap with spans := [] }, cph := { t.cph with limits := [] }, pst := { t.pst with gcm := [] } }

/-- Steps 3 to 6 of R514: the fuses, the option area, the erase, and a reset with cause 7. -/
def State.finishTransition (s : State) (src dst : Nat) : State :=
  let t := (s.setFld F.SEC_LC_STATE dst).lcOptions dst
  let t := if 3 ≤ dst then t.lcErase else t
  let t := ({ t with sec := { t.sec with transition := none } }.setFld F.SEC_LC_CTRL_RUNNING 0).secCause 8
  (t.record 0x0023 ([byteOf src, byteOf dst] ++ zeros 14)).resetAndRun 7 0

/-- Steps 1 and 2 of R514: the intent, the keys zeroed, SEB wiped, every grant ended. -/
def State.beginTransition (s : State) (dst : Nat) : State :=
  let t := { s with sec := { s.sec with transition := some (s.fld F.SEC_LC_STATE, dst, false) } }
  ((t.zeroKeys.startWipe).endGrant 3).setFld F.SEC_LC_CTRL_RUNNING 1

/-- A copy of the option area is valid. -/
def State.optValid (s : State) : Bool := s.cfl.copyA.isSome || s.cfl.copyB.isSome

/-- The code of R513: the first cause that keeps a transition from starting. Manufacture to Provisioned without a valid option copy is not a
transition of R512 (DEDUCED). -/
def State.lcRefusal (s : State) (confirm dst : Nat) : Nat :=
  let lc := s.fld F.SEC_LC_STATE
  if confirm ≠ 0x4C43 ∨ !((lc == 1 && dst == 2 && s.optValid) || (lc == 2 && dst == 3) || (decide (1 ≤ lc ∧ lc ≤ 3) && dst == 4)) then 1
  else if lc = 2 ∧ dst = 3 ∧ !s.granted 3 then 2
  else if s.fnList.any (fun f => (s.fn f).sqs.any (fun e => e.2.isSome)) then 3
  else if !s.busyStreams.isEmpty then 4
  else if s.updating ∨ s.on F.CFL_OPT_CTRL_RUNNING then 5
  else 0

/-- LIFECYCLE_TRANSITION: SEC.LC_CTRL written by the physical function (R512, R513). A write while a transition runs changes nothing. -/
def execLifecycleTransition (confirm target : Nat) (s : State) : Res :=
  if !s.live ∨ s.sec.transition.isSome then .next s
  else
    let code := s.lcRefusal confirm target
    let t := s.setFld F.SEC_LC_CTRL_RESULT code
    .next (if code = 0 then t.beginTransition target else t)

/-- LIFECYCLE_TRANSITION_DONE: the fuses are programmed and the remaining steps run (R514). -/
def execLifecycleTransitionDone (s : State) : Res :=
  match s.sec.transition with
  | some (a, b, _) => if s.power.phase = .run ∧ (s.power.booted ∨ s.power.stopped) then .next (s.finishTransition a b) else .next s
  | none => .next s

/-- FACTORY_TEST_INSTRUCTION: Blank to Manufacture with a valid calibration row, Manufacture to Provisioned with a valid option copy, where the matrix
opens factory test (R512, R524). -/
def execFactoryTestInstruction (target : Nat) (s : State) : Res :=
  let lc := s.fld F.SEC_LC_STATE
  if s.power.phase = .run ∧ (s.power.booted ∨ s.power.stopped) ∧ !s.basking ∧ s.sec.transition.isNone ∧ s.factoryOpen
      ∧ ((lc = 0 ∧ target = 1 ∧ calGood) ∨ (lc = 1 ∧ target = 2 ∧ s.optValid)) then .next (s.beginTransition target)
  else .next s

/-! ## The start (R501) -/

/-- Steps 6 to 9 for a slot that runs: stacks, images, discovery, unfinished work, the boot record, and the restart that begins. A slot write that a
reset cut is resumed at its sector (R510). -/
def State.startFirmware (s : State) (facts : StartFacts) (n : Nat) : State :=
  let t := ((s.trainStacks facts.badStacks).loadVendor).loadKept true
  let t := t.discover facts.dies
  let t := match t.sec.slotWrite with
    | some w => (({ t with sec := { t.sec with slotWrite := some { w with resumed := true, cmd := none } } }).setFld F.SEC_STATUS_UPDATING 1).startErase
        (slotSector w.slot w.bundle + w.sector)
    | none => t
  let t := t.recordBoot n t.bootMode (Img.version (t.slot n).fw) (Img.version (t.slot n).bundle)
  let t := (t.setFtl { t.ftl with regrow := t.ftl.regrow || facts.journalBad, spanBad := facts.spanBad }).journal (.powerOn t.time.powerOns t.calMs)
  t.setFld F.FTL_STATUS_REBUILDING 1

/-- No slot can run: no firmware, CSTS.CFS, and a boot record (R505). -/
def State.startBare (s : State) : State := s.fatal.recordBoot 0 4 0 0

/-- Step 1 reads the lifecycle fuses. Of a transition that a reset cut, `sec.transition` does not tell whether its fuses were programmed, unless an
earlier start found them so: a free value. Before that commit point the intent is discarded, after it the new state stands (R514). -/
def State.readFuses (s : State) : State :=
  match s.sec.transition with
  | some (a, b, false) =>
    let t := s.draw
    if Config.freeNat s.free % 2 = 0 then { t with sec := { t.sec with transition := none } }
    else { t with sec := { t.sec with transition := some (a, b, true) } }.setFld F.SEC_LC_STATE b
  | _ => s

/-- Steps 1 to 4: fuses, options, the reset's record, the calibration row, erases, and the march test of every bank present, which clears SEB. -/
def State.startRom (s : State) (facts : StartFacts) : State :=
  let s := s.readFuses
  let first := s.fld F.TMR_WDG_LAST_CAUSE == 1
  let t := if first then { s with time := { s.time with powerOns := s.time.powerOns + 1 } } else s
  let t := (t.takeOptions).recordStart
  let t := if [3, 4, 5].contains (t.fld F.TMR_WDG_LAST_CAUSE) then t.tmrCause 5 else t
  let t := t.takeCal.finishCflErases
  let t := t.startMarch ((List.range 11).filter t.part.bank) facts.badBanks
  let t := { t with cph := { t.cph with keys := [], sebKeys := [] } }
  (((t.setFld F.DBG_CHAL_CHAL facts.challenge.toNat).sampleGate facts.gateOk).setDoms 0).setBias 0

/-- Step 8 finishes a transition past its commit point, before any namespace is offered (R514). -/
def State.resumeTransition (s : State) : State :=
  match s.sec.transition with
  | some (a, b, true) => s.finishTransition a b
  | _ => s

/-- The part has started: steps 6 to 9 for the slot that runs. BOOT_OVR is cleared, since the start has read it (R505). -/
def State.startSlot (s : State) (facts : StartFacts) (n : Nat) (restricted : Bool) : State :=
  let t := (s.runSlot facts n restricted).startFirmware facts n
  let t := (t.setReg R.SEC_BOOT_OVR 0).setPower { t.power with booted := true }
  t.resumeTransition

/-- PART_START: the start sequence, from the reset's end to the begin of the map restart; in Blank it stops after step 4 (R501, R502). -/
def execPartStart (facts : StartFacts) (s : State) : Res :=
  if s.power.phase = .run ∧ !s.power.booted ∧ !s.power.stopped then
    let t := s.startRom facts
    if t.fld F.SEC_LC_STATE = 0 then .next (t.setPower { t.power with stopped := true })
    else
      match t.chooseSlot facts with
      | .none => .next (((t.startBare).setReg R.SEC_BOOT_OVR 0).setPower { t.power with booted := true })
      | .normal n => .next (t.startSlot facts n false)
      | .restricted n => .next (t.startSlot facts n true)
  else .next s

/-! ## Power, the reset ball (R538 to R542) -/

/-- POWER_ON: AON first receives power: its time, latches and causes are lost, cause 1 is latched (R464, R475, R538). The PHY of each
quadrant senses VDDQ_FLq, true for 1.20 V, and sets its drivers to match (R537). The part starts once nothing holds it in reset. -/
def execPowerOn (vddq : List Bool) (s : State) : Res :=
  if s.power.phase = .off then
    let t := { s with time := { powerOns := s.time.powerOns } }
    let t := ((t.setReg R.TMR_CAL 0).setReg R.TMR_RTC 0).setReg R.SEC_BOOT_OVR 0
    let t := (((t.setReg R.CFL_ERASE_MAX 0).setSec { t.sec with lastGrant := none, tapIr := 1, tapCells := [] }).partReset 1 0)
    let why : List HoldWhy := if t.power.ballLow then [.ball] else []
    let t := { t with nand := { t.nand with drivers := vddq.take t.part.stacks } }
    .next { t with power := { t.power with phase := if t.power.ballLow then .held else .run, heldBy := why } }
  else .next s

/-- A reset of the part that ends a run, held by `why` (R517, R540): with charged units the dump comes first; the rest stops at once. -/
def State.ballReset (s : State) (why : HoldWhy) : State :=
  match s.power.phase with
  | .off => s
  | .held => s.setPower { s.power with heldBy := addOnce s.power.heldBy why }
  | _ =>
    if s.fld F.PWR_HU_WIN_IN_USE = 0 then
      let t := s.partReset 2 0
      t.setPower { t.power with phase := .held, heldBy := [why] }
    else
      (s.setPower { s.power with phase := .held, heldBy := [why, .dump], entry := none }).beginDump

/-- One reason less holds the part in reset; with none left it starts. -/
def State.letGo (s : State) (why : HoldWhy) : State :=
  let rest := s.power.heldBy.filter (· != why)
  if s.power.phase = .held ∧ s.power.heldBy.contains why ∧ rest.isEmpty then s.setPower { s.power with phase := .run, heldBy := [] }
  else s.setPower { s.power with heldBy := rest }

/-- RESET_BALL_ASSERT: RESET_N goes low (R540). -/
def execResetBallAssert (s : State) : Res :=
  if s.power.ballLow then .next s
  else
    let t := s.setPower { s.power with ballLow := true }
    .next (t.ballReset .ball)

/-- RESET_BALL_RELEASE: RESET_N goes high; the start follows once the dump has ended (R540). -/
def execResetBallRelease (s : State) : Res :=
  if s.power.ballLow then
    let t := s.setPower { s.power with ballLow := false }
    .next (t.letGo .ball)
  else .next s

/-- SUPPLIES_OFF: the part is Off (R542); what is not on flash, in the persistence die, in the code flash or in fuses is lost at the next power-on. -/
def execSuppliesOff (s : State) : Res :=
  if s.power.phase = .off then .next s
  else
    let t := s.partReset 1 0
    .next (t.setPower { t.power with phase := .off, heldBy := [] })

/-! ## The test access port (R517, R524, R549) -/

/-- The port answers: not in Off. -/
def State.tapOn (s : State) : Bool := s.power.phase != .off

/-- Only IDCODE and BYPASS act: Basking and Brumation, outside Blank (R524). -/
def State.tapIdOnly (s : State) : Bool := s.power.phase == .brumation || (s.live && s.basking)

/-- The instruction register loaded. -/
def State.tapLoad (s : State) (code : Nat) : State := s.setSec { s.sec with tapIr := code }

/-- EXTEST, CLAMP and HIGHZ act as the reset ball, and the part stays in reset until Test-Logic-Reset (R517). -/
def State.tapHold (s : State) (code : Nat) : State :=
  if s.tapOn ∧ !s.tapIdOnly then (s.tapLoad code).ballReset .tap else s

/-- TAP_EXTEST. -/
def execTapExtest (s : State) : Res := .next (s.tapHold 0x00)
/-- TAP_CLAMP. -/
def execTapClamp (s : State) : Res := .next (s.tapHold 0x04)
/-- TAP_HIGHZ. -/
def execTapHighz (s : State) : Res := .next (s.tapHold 0x05)

/-- The identification register: stepping nibble, part code, manufacturer 0x5E3, and 1. -/
def State.idcode (s : State) : Nat := bits (s.fld F.ID_PART_STEPPING) 4 4 * 2 ^ 28 + s.part.code * 2 ^ 12 + 0x5E3 * 2 + 1

/-- TAP_IDCODE: the identification register is shifted out. -/
def execTapIdcode (s : State) : Res := if s.tapOn then .next ((s.tapLoad 0x01).emit (.tdo s.idcode)) else .next s

/-- TAP_BYPASS: BYPASS, a private code that is not open, or in Basking and Brumation any code but IDCODE's; the bypass register captures 0. -/
def execTapBypass (code : Nat) (s : State) : Res :=
  if s.tapOn ∧ code < 256 ∧ (!([0, 1, 2, 4, 5].contains code) ∨ (s.tapIdOnly ∧ code ≠ 1)) then .next ((s.tapLoad code).emit (.tdo 0)) else .next s

/-- Boundary cells (R549). -/
def tapCellCount : Nat := 3488

/-- The sampled boundary register, cell 0 in bit 0: the balls' levels are free values, but for HU_GATE and HU_DIS_EN, which the part drives (R549). -/
def State.sampled (s : State) : Nat :=
  putBits (putBits (Config.freeNat s.free % 2 ^ tapCellCount) 3479 1 (s.fld F.PWR_HU_STATUS_GATE_ON)) 3480 1 (ofBool s.hu.disEn)

/-- TAP_SAMPLE_PRELOAD: the balls' levels are sampled, and the boundary register is preloaded. -/
def execTapSamplePreload (cells : List Bool) (s : State) : Res :=
  if s.tapOn ∧ !s.tapIdOnly ∧ cells.length = tapCellCount then
    .next ((((s.tapLoad 0x02).setSec { s.sec with tapIr := 2, tapCells := cells }).emit (.tdo s.sampled)).draw)
  else .next s

/-- TAP_TEST_LOGIC_RESET: the port passes through Test-Logic-Reset; IDCODE is loaded (IEEE 1149.1), and a reset the port held ends (R517). -/
def execTapTestLogicReset (s : State) : Res := if s.tapOn then .next ((s.tapLoad 0x01).letGo .tap) else .next s

end Sys2Proof.Machine
end

