-- ==== Sys2Proof/Machine/Programs.lean ====
section
/-! DEFINITION. The load of a stream program: the checks of its words and its place in the program store (The Urette Instruction Set). -/

namespace Sys2Proof.Machine

/-- What an instruction's word may hold (R45, R47): its opcode, whether it uses d, a and b, the immediate bits and flags it uses, and the
number of codes its m field admits. -/
structure UForm where
  op   : Nat
  d    : Bool := false
  a    : Bool := false
  b    : Bool := false
  imm  : Nat := 0
  f    : Nat := 0
  m    : Nat := 1
  deriving DecidableEq, Repr

/-- A three-register form, and a form with d, a and an immediate. -/
def form3 (op : Nat) : UForm := { op := op, d := true, a := true, b := true }
def formI (op imm : Nat) : UForm := { op := op, d := true, a := true, imm := imm }

/-- The forms of R47. -/
def uForms : List UForm :=
  [{ op := 0x00 }, form3 0x10, form3 0x11, form3 0x12, form3 0x13, form3 0x14, form3 0x15, form3 0x16, form3 0x17, form3 0x18, form3 0x19,
   form3 0x1A, form3 0x1B,
   formI 0x20 0xFFFFFFFF, formI 0x22 0xFFFFFFFF, formI 0x23 0xFFFFFFFF, formI 0x24 0xFFFFFFFF, formI 0x25 0x3F, formI 0x26 0x3F,
   formI 0x27 0x3F, formI 0x28 0xFFFFFFFF, { op := 0x2C, d := true, imm := 0xFFFFFFFF }, formI 0x2D 0xFFFFFFFF]
  ++
  [{ form3 0x30 with m := 10 }, { formI 0x31 0xFFFFFFFF with m := 10 }, { form3 0x32 with m := 32 }, formI 0x33 0x3F3F,
   { formI 0x40 0xFF with m := 32, f := 3 }, { formI 0x41 0x7FF with m := 32 }, formI 0x42 0x1FFFF,
   { op := 0x50, d := true, imm := 0xF }, { op := 0x51, a := true, imm := 0xF }, formI 0x52 0xF, { formI 0x53 0xF with m := 2 },
   { form3 0x54 with imm := 0xF }, formI 0x58 0,
   { op := 0x60, imm := 0xFFFF }, { op := 0x61, a := true, b := true, imm := 0xFFFF, m := 10 }, { op := 0x62, a := true, imm := 0xFFFFFFFF, m := 10 },
   { formI 0x68 0x1F1F with f := 1 }, { op := 0x70, a := true, f := 1, m := 2 }, { op := 0x71, a := true, imm := 0xFFFF000F }, { op := 0x72 },
   { op := 0x73, imm := 0x7F }, { op := 0x78, a := true, b := true, imm := 0xFFFF }, { op := 0x79, imm := 0xFF }, { op := 0x7A, a := true, imm := 3 }]

/-- The form of a word's opcode. -/
def uForm (w : W64) : Option UForm := uForms.find? (fun x => x.op == Uw.op w)

/-- Every unused field is zero, and the m code is defined (R45, check 07h). The XB width is left to check 0Ch. -/
def formOk (w : W64) : Bool :=
  match uForm w with
  | none => true
  | some x =>
    (x.d || Uw.d w == 0) && (x.a || Uw.a w == 0) && (x.b || Uw.b w == 0) && outside (Uw.imm w 0 32) x.imm == 0
      && outside (bits w.toNat 32 4) x.f == 0 && decide (Uw.m w < x.m)
      && (x.op != 0x68 || (if Uw.f w 0 then Uw.imm w 0 5 == 0 else Uw.a w == 0))

/-- A branch at index i of a program of n words stays inside it, and so does a REPEAT body (R49, R50, check 08h). -/
def reachOk (n i : Nat) (w : W64) : Bool :=
  match Uw.op w with
  | 0x60 => decide (1 ≤ Uw.imm w 0 16 ∧ i + Uw.imm w 0 16 < n)
  | 0x61 => decide (1 ≤ Uw.imm w 0 16 ∧ i + Uw.imm w 0 16 < n)
  | 0x62 => decide (1 ≤ Uw.imm w 0 16 ∧ i + Uw.imm w 0 16 < n)
  | 0x68 => decide (i + Uw.imm w 8 5 < n)
  | _ => true

/-- An outcome. -/
def isOutcome (w : W64) : Bool := [0x78, 0x79, 0x7A].contains (Uw.op w)

/-- A word a REPEAT body may hold (R50). -/
def inBody (w : W64) : Bool := !isOutcome w && !([0x58, 0x60, 0x61, 0x62, 0x68].contains (Uw.op w))

/-- The first forbidden word of a REPEAT body, by index (check 09h); `i` is the index of the list's first word. -/
def badBody : Nat → List W64 → Option Nat
  | _, [] => none
  | i, w :: ws =>
    match (if Uw.op w = 0x68 then (ws.take (Uw.imm w 8 5)).findIdx? (fun x => !inBody x) else none) with
    | some j => some (i + 1 + j)
    | none => badBody (i + 1) ws

/-- Immediate ranges: the HCRC length, the REPEAT count and body, the XB width (check 0Ch). -/
def rangeOk (w : W64) : Bool :=
  match Uw.op w with
  | 0x42 => decide (1 ≤ Uw.imm w 8 9 ∧ Uw.imm w 8 9 ≤ 256)
  | 0x68 => decide (1 ≤ Uw.imm w 8 5 ∧ Uw.imm w 8 5 ≤ 16 ∧ (Uw.f w 0 = true ∨ (1 ≤ Uw.imm w 0 5 ∧ Uw.imm w 0 5 ≤ 16)))
  | 0x40 => decide (Uw.m w < 4)
  | _ => true

/-- The first check from 06h on that the words fail, with the failing word's index (R56). -/
def wordCheck (ws : List W64) : Option (Nat × Nat) :=
  let n := ws.length
  match ws.findIdx? (fun w => (uForm w).isNone) with
  | some i => some (6, i)
  | none => match ws.findIdx? (fun w => !formOk w) with
  | some i => some (7, i)
  | none => match (List.zip (List.range n) ws).find? (fun x => !reachOk n x.1 x.2) with
  | some x => some (8, x.1)
  | none => match badBody 0 ws with
  | some i => some (9, i)
  | none =>
    if !isOutcome (ws.getLastD 0) then some (10, n - 1)
    else match ws.findIdx? (fun w => Uw.op w == 0x79 && decide (0x80 ≤ Uw.imm w 0 8)) with
    | some i => some (11, i)
    | none => (ws.findIdx? (fun w => !rangeOk w)).map (fun i => (12, i))

/-- The slots of the longest path from each word of a program on, the outcome's included (R51, R57). -/
def pathCosts : List W64 → List Nat
  | [] => []
  | w :: ws =>
    let cs := pathCosts ws
    let at_ := fun k => cs.getD (k - 1) 0
    let c := Uw.cost w
    let v :=
      if isOutcome w then c
      else match Uw.op w with
      | 0x60 => c + at_ (Uw.imm w 0 16)
      | 0x61 => c + max (at_ 1) (at_ (Uw.imm w 0 16))
      | 0x62 => c + max (at_ 1) (at_ (Uw.imm w 0 16))
      | 0x68 =>
        c + (if Uw.f w 0 then 16 else Uw.imm w 0 5) * ((ws.take (Uw.imm w 8 5)).map Uw.cost).foldl (· + ·) 0 + at_ (1 + Uw.imm w 8 5)
      | _ => c + at_ 1
    v :: cs

/-- The words of an image. -/
def imgWords (d : Bytes) (n : Nat) : List W64 := (List.range n).map (fun i => BitVec.ofNat 64 (Bytes.le d (0x80 + 8 * i) 8))

/-- The first check of R56 an image of `len` bytes fails. -/
def State.progCheck (s : State) (d : Bytes) (len : Nat) : Option (Nat × Nat) :=
  let n := Bytes.le d 8 4
  let pub := (d.drop 0x20).take 96
  if Bytes.le d 0 4 ≠ 0x54455255 ∨ Bytes.le d 4 2 ≠ 1 then some (1, 0xFFFF)
  else if n = 0 ∨ 4096 < n ∨ 1 < Bytes.le d 6 2 ∨ Bytes.le d 0xC 4 ≠ 0 ∨ Bytes.le d 0x1C 4 ≠ 0 ∨ len ≠ 0x80 + 8 * n + 96 then some (2, 0xFFFF)
  else if s.cfl.opt.key.isEmpty then some (3, 0xFFFF)
  else if Crypto.sha384 pub ≠ fit 48 s.cfl.opt.key then some (4, 0xFFFF)
  else if !Crypto.ecdsaOk pub (d.take (len - 96)) (d.drop (len - 96)) then some (5, 0xFFFF)
  else wordCheck (imgWords d n)

/-- The lowest-numbered free run of `k` granules (R57). -/
def State.firstRun (s : State) (k : Nat) : Option Nat :=
  firstBelow 1024 (fun g => decide (g + k ≤ 1024) && (List.range k).all (fun i => s.granFree (g + i)))

/-- The stream switches to a program placed at granule g (R58). -/
def State.placeProg (s : State) (n g : Nat) (d : Bytes) (ws : List W64) : State :=
  let old := s.ur.progs.filterMap (fun p =>
    if p.stream = some n then (if s.runs p.gran then some { p with stream := none } else none) else some p)
  let store := (List.zip (List.range ws.length) ws).foldl (fun (m : Tbl W64) x => m.set 0 (64 * g + x.1) x.2) s.ur.store
  let bad := s.ur.eccBad.filter (fun a => decide (a < 64 * g ∨ 64 * g + ws.length ≤ a))
  let t := { s with ur := { s.ur with store := store, eccBad := bad } }
  let t := t.setProgs (old ++ [{ gran := g, grans := ceilDiv ws.length 64, words := ws.length, stream := some n }])
  let t := (t.setFld (F.CAP_S_STATUS_PROG_LOADED n) 1).setReg (R.CAP_S_PROG_ID n) (BitVec.ofNat 64 (Bytes.le d 0x10 8))
    |>.setReg (R.CAP_S_PROG_VER n) (BitVec.ofNat 64 (Bytes.le d 0x18 4)) |>.setReg (R.CAP_S_PROG_INFO n) 0
    |>.setFld (F.CAP_S_PROG_INFO_WORDS n) ws.length |>.setFld (F.CAP_S_PROG_INFO_FIRST_GRAN n) g
  if bit (Bytes.le d 6 2) 0 then t.over (List.range 16) (fun u k => u.setReg (R.CAP_S_CTX n k) 0) else t

/-- STREAM_PROGRAM_LOAD: STREAM PROGRAM LOAD (C1h) (R55 to R58, R194). -/
def execStreamProgramLoad (f : Nat) (c : Sqe) (d : Bytes) (s : State) : Res :=
  s.adminRun f c 0xC1 (fun s => if f ≠ 0 then .next (s.admin f c St.invalidOpcode 0 (ploc 0 0))
  else match c.stray (1 :: vendorDws) [(10, 0x3F), (11, 0xFFFFFFFF)] with
  | some x => .next (s.badField f c x.1 x.2)
  | none =>
    let len := c.cdw11.toNat
    let img := fit (min len 2097152) d
    match s.progCheck img len with
    | some (code, i) => .next (s.admin f c St.invalidField (code + i * 65536))
    | none =>
      let ws := imgWords img (Bytes.le img 8 4)
      match s.firstRun (ceilDiv ws.length 64) with
      | none => .next (s.admin f c St.capacity (s.fld F.UEN_STORE_LARGEST_RUN))
      | some g =>
        .next ((s.placeProg (bits c.cdw10.toNat 0 6) g img ws).admin f c St.ok (min 0xFFFF ((pathCosts ws).headD 0) + g * 65536)))

end Sys2Proof.Machine
end

