-- ==== Sys2Proof/Machine/Registers.lean ====
section
/-! DEFINITION. Register writes that have no command of their own (R9 to R12, R33, R34 and the register tables of every chapter), and the
value a register reads as. -/

namespace Sys2Proof.Machine

/-! ## The shape of BAR0 (R9, R13, R14, R166) -/

/-- Bytes of the function's BAR0: 32 MiB for the physical function (R13), 64 KiB for a virtual one (R166). -/
def barBytes (f : Nat) : Nat := if f = 0 then 0x2000000 else 0x10000

/-- The windows of 64-bit words that the register map does not list one by one: engine headers, the program window, the control store
window, the option staging area and authorization, and the code flash window. -/
def windows : List (Nat × Nat) :=
  [(0x801000, 0x802000), (0x880000, 0x900000), (0x1140000, 0x1180000), (0x1681000, 0x1682000), (0x1682000, 0x16820C0),
   (0x1690000, 0x16A0000)]

/-- Where the register that function `f` sees at `off` lies in the map of the physical function; the standard controller registers and
the two windows of a virtual function keep their shapes (R14, R166). -/
def viewOff (f off : Nat) : Nat :=
  if f = 0 then off
  else if off < 0x4000 then off
  else if off < 0x8000 then 0x200000 + (off - 0x4000) % 0x100
  else 0x1508000 + (off - 0x8000) % 0x80

/-- A 64-bit register lies at the 8-byte aligned offset `b`, of the physical function's map. -/
def wideReg (b : Nat) : Bool :=
  if b < 0x100000 then b == 0 || b == 0x28 || b == 0x30
  else windows.any (fun w => decide (w.1 ≤ b ∧ b < w.2)) || (match regRow b with | some r => r.wide | none => false)

/-- A write of `width` bits at `off` is narrower than its register (R10). -/
def narrow (f off width : Nat) : Bool := decide (width < 32) || (width == 32 && wideReg (viewOff f (off / 8 * 8)))

/-! ## What a full-width write stores -/

/-- The word after a plain write: RW bits take the written value, written ones clear W1C bits but those of `race`, which the part sets in
the very cycle of the write (R12), and the others stay. -/
def RegRow.merge (r : RegRow) (old v race : W64) : W64 :=
  let rw := BitVec.ofNat 64 r.rw
  let w1c := BitVec.ofNat 64 r.w1c
  (old &&& ~~~(rw ||| w1c)) ||| (v &&& rw) ||| (old &&& w1c &&& ~~~(v &&& ~~~race))

/-- The fields `fs` of `t` as they stand in `s`. -/
def State.keeping (t s : State) (fs : List Field) : State := t.over fs (fun u f => u.setFld f (s.fld f))

/-- A field stored within lo to hi: another value is stored as the nearer bound. -/
def State.clamp (s : State) (f : Field) (lo hi : Nat) : State := s.setFld f (min hi (max lo (s.fld f)))

/-- The pause frames that a change of eligibility or of the levels owes on every sub-port (R159). -/
def State.pauseAll (s : State) : State :=
  s.over ((List.range s.part.ports).flatMap (fun p => (List.range 4).map (fun j => (p, j)))) (fun u x => u.pauseCheck x.1 x.2)

/-! ## The units' own rules. `g` is the state after the plain write, `off` the register, `v` the word written. -/

/-- A stream's registers (CAP, R63, R114); SEQHIGH, DIVq and the bits RUN, DETACH and DIV_EN of CTRL have their own commands. -/
def State.writeStream (s g : State) (off : Nat) : State :=
  let n := (off - 0x400000) / 0x1000
  let r := off % 0x1000
  let idle := s.strState n == 0
  if r = 0 then
    let t := g.keeping s ([F.CAP_S_CTRL_RUN n, F.CAP_S_CTRL_DETACH n, F.CAP_S_CTRL_DIV_EN n] ++ (if idle then [] else [F.CAP_S_CTRL_PROV n]))
    (t.clamp (F.CAP_S_CTRL_BUDGET n) 0x0F 0xFF).pauseAll
  else if r = 0x10 then (if idle then g.newWindow n else s)
  else if r = 0x08 then
    if !idle then s
    else if g.fld (F.CAP_S_NS_NSID n) = s.fld (F.CAP_S_NS_NSID n) then g
    else g.drainAway n (s.fld (F.CAP_S_NS_NSID n))
  else if r = 0x0C ∨ r = 0x20 ∨ r = 0x30 ∨ r = 0x50 ∨ r = 0x58 then (if idle then g else s)
  else if r = 0x28 ∨ (0x300 ≤ r ∧ r < 0x380) then s
  else g

/-- A filter entry (R72): while VALID is 1 only VALID is written. -/
def State.writeFilter (s g : State) (off : Nat) (v : W64) : State :=
  let i := (off - 0x440000) / 0x40
  if s.on (F.CAP_FLT_VALID i) then
    if off % 0x40 = 0x38 then (s.setFld (F.CAP_FLT_VALID i) (ofBool (v.getLsbD 63))).pauseAll else s
  else g.pauseAll

/-- ETHp.CTRL: MODE and SP_EN (R141, R154), which PS2 (R480), Restricted mode (R506) and a failed staging bank (R363) hold back. The
port's domain follows SP_EN (R482), and a sub-port that is disabled loses its link (R143). -/
def State.writePortCtrl (s : State) (p : Nat) (v : W64) : State :=
  let old := s.fld (F.ETH_CTRL_SP_EN p)
  let m := bits v.toNat 4 2
  let t := if old = 0 ∧ m ≠ 3 then s.setFld (F.ETH_CTRL_MODE p) m else s
  let barred := (s.fld F.PWR_STATE_CUR == 2 && decide (4 ≤ p)) || s.on F.SEC_STATUS_RESTRICTED || s.on (F.SRB_B_STATUS_FAILED (p / 2))
  let asked := v.toNat % 2 ^ t.subs p
  let en := if barred then asked &&& old else asked
  let t := t.over ((List.range 4).filter (fun j => bit old j && !bit en j)) (fun u j => u.dropLink p j)
  let t := t.setFld (F.ETH_CTRL_SP_EN p) en
  t.setDom (21 + p) (t.domIn (t.fld F.PWR_STATE_CUR) (21 + p))

/-- A sub-port's registers (R152, R154). -/
def State.writeSub (s g : State) (p j q : Nat) : State :=
  let on := bit (s.fld (F.ETH_CTRL_SP_EN p)) j
  if q = 8 then
    let t := if on then g.keeping s [F.ETH_SP_CFG_MACSEC_ONLY p j, F.ETH_SP_CFG_VLAN_EN p j, F.ETH_SP_CFG_VLAN_ID p j] else g
    let t := t.clamp (F.ETH_SP_CFG_MAX_FRAME p j) 16 2400
    if s.part.macsec then t else (t.setFld (F.ETH_SP_CFG_MACSEC_ONLY p j) 0).setFld (F.ETH_SP_CFG_TX_PROTECT p j) 0
  else if on then s else g

/-- A write to the NEXT_PN of an SA in use stores the larger value (R151); one that takes a transmit SA's past its threshold sets the port's PN
cause (R153). -/
def State.raisePn (s : State) (sa : Nat) (v : W64) : State :=
  let p := (sa - 0xC00000) / 0x10000
  let r := sa % 0x10000
  let old := (s.reg (sa + 32)).toNat
  let t := if old < v.toNat then s.setReg (sa + 32) v else s
  if 0xC000 ≤ r then t.passPn p ((r - 0xC000) / 0x40) old else t

/-- A security association's word at `q`, of the SA whose first word is at `sa` (R151): while it is in use, NEXT_PN takes the larger value
and XPN, KEY_PAGE, SSCI and SALT stay; IN_USE has its own command. -/
def State.writeSa (s g : State) (sa q : Nat) (v : W64) : State :=
  let inUse : Field := ⟨sa + 56, 63, 1⟩
  if s.on inUse then
    if q = 0x20 then s.raisePn sa v
    else if q = 0x28 ∨ q = 0x30 then s
    else if q = 0x38 then g.keeping s [inUse, ⟨sa + 56, 62, 1⟩, ⟨sa + 56, 32, 8⟩, ⟨sa + 56, 0, 32⟩]
    else g
  else if q = 0x20 ∧ 0xC000 ≤ sa % 0x10000 then g.passPn ((sa - 0xC00000) / 0x10000) ((sa % 0x10000 - 0xC000) / 0x40) (s.reg (sa + 32)).toNat
  else g.keeping s [inUse]

/-- A port's registers; those of a port whose domain is Off are not reached (R34). -/
def State.writePort (s g : State) (off : Nat) (v : W64) : State :=
  let p := (off - 0xC00000) / 0x10000
  let r := off % 0x10000
  if s.dom (21 + p) = 0 then s
  else if r = 0 then s.writePortCtrl p v
  else if r = 0x10 then g.over (List.range 4) (fun u j => u.pauseCheck p j)
  else if 0x100 ≤ r ∧ r < 0x200 then s.writeSub g p ((r - 0x100) / 0x40) (r % 0x40)
  else if 0x4000 ≤ r ∧ !s.part.macsec then s
  else if 0x4000 ≤ r ∧ r < 0x4400 then
    let i := (r - 0x4000) / 0x10
    if s.on (F.ETH_RXSC_VALID p i) then (if r % 0x10 = 8 then s.setFld (F.ETH_RXSC_VALID p i) (ofBool (v.getLsbD 63)) else s) else g
  else if 0x8000 ≤ r then s.writeSa g (off / 0x40 * 0x40) (r % 0x40) v
  else if r = 0x2038 then s
  else g

/-- A channel's registers: CFG and OPWDG store the nearest values they allow (R299, R311). -/
def State.writeChannel (g : State) (off : Nat) : State :=
  let c := (off - 0x1000000) / 0x4000
  let r := off % 0x4000
  if r = 0 then (if 5 < g.fld (F.CH_CFG_RATE_MAX c) then g.setFld (F.CH_CFG_RATE_MAX c) 5 else g)
  else if r = 0x10 then
    ((g.clamp (F.CH_OPWDG_ERASE_MS c) 1 255).clamp (F.CH_OPWDG_PROG_MS c) 1 255).clamp (F.CH_OPWDG_READ_MS c) 1 255
  else g

/-- The translation layer's registers: FTL.CFG and FTL.GC (R258, R260, R265). -/
def State.writeFtl (s g : State) (off : Nat) : State :=
  if off = R.FTL_CFG then
    ((((g.clamp F.FTL_CFG_WL_LIMIT 50 4000).clamp F.FTL_CFG_WL_SHARE 1 32).clamp F.FTL_CFG_RESERVE 8 100).takeReserve).checkSpare
  else if off = R.FTL_GC then
    let u := g.fld F.FTL_GC_GC_URGENT
    let a := g.fld F.FTL_GC_GC_START
    let z := g.fld F.FTL_GC_GC_STOP
    if 1 ≤ u ∧ u < a ∧ a < z ∧ z ≤ 64 then g else s
  else g

/-- A stack's registers (R339, R344, R345); ERRADDR.VALID has its own command. -/
def State.writeStack (s g : State) (off : Nat) : State :=
  let k := (off - 0x1300000) / 0x20000
  let r := off % 0x20000
  if r = 0 then
    let lo := g.fld (F.HBM_CFG_WR_LO k)
    let hi := g.fld (F.HBM_CFG_WR_HI k)
    if hi ≤ lo ∨ 64 < hi then s
    else
      let t := if g.fld (F.HBM_CFG_ORDER k) = 3 then g.setFld (F.HBM_CFG_ORDER k) (s.fld (F.HBM_CFG_ORDER k)) else g
      let t := t.clamp (F.HBM_CFG_AGE_MAX k) 1 255
      if t.on (F.HBM_CFG_REF_2X k) then t.setFld (F.HBM_STATUS_REF_FAST k) 1
      else if t.fld (F.HBM_STATUS_TEMP k) < 80 then t.setFld (F.HBM_STATUS_REF_FAST k) 0
      else t
  else if r = 0x10 then s
  else g

/-- The SRAM unit's registers (R360); START and ABORT of MARCH_CTRL have their own commands. -/
def State.writeSram (s g : State) (off : Nat) : State :=
  if off < R.SRB_MARCH_CTRL then
    let b := (off - 0x1380000) / 0x40
    if g.fld (F.SRB_B_CFG_ROT_MODE b) = 3 then s else g
  else g

/-- The DMA unit's registers (R369, R372, R386); the action bits of CHn_CTRL have their own commands. -/
def State.writeDma (s g : State) (off : Nat) : State :=
  if off < 0x1408000 then
    let n := (off - 0x1400000) / 0x100
    let idle := s.fld (F.DMA_STATUS_STATE n) == 0
    if 48 ≤ n then s
    else if off % 0x100 = 0 then
      (if idle then g else g.keeping s [F.DMA_CTRL_DESC_FUNC n, F.DMA_CTRL_DESC_SPACE n]).clamp (F.DMA_CTRL_MAX_OUT n) 1 16
    else if off % 0x100 = 8 then (if idle then g else s)
    else g
  else if (List.range 48).all (fun n => s.fld (F.DMA_STATUS_STATE n) == 0) then g.clamp (F.DMA_HWIN_SIZE ((off - 0x1408000) / 4)) 0 256
  else s

/-- The cipher's registers (R392); LOCK and the owner of a key page have their own commands. -/
def State.writeCipher (s g : State) (off : Nat) : State :=
  if off = R.CPH_CTRL then (if s.on F.CPH_CTRL_LOCK then s else g)
  else if 0x1508000 ≤ off then s
  else g

/-- The event unit's registers (R5, R451). -/
def State.writeEvents (s g : State) (off : Nat) : State :=
  if 0x1700080 ≤ off ∧ off < 0x1700100 then
    let w := (off - 0x1700080) / 4
    g.over ((List.range 32).filter (fun i => s.part.srcAbsent (32 * w + i))) (fun u i => u.setFld ⟨off, i, 1⟩ 0)
  else if 0x1701000 ≤ off then
    let i := (off - 0x1701000) / 4
    if s.part.srcAbsent i then s
    else if 252 ≤ g.fld (F.EVT_ROUTE_VECTOR i) then g.setFld (F.EVT_ROUTE_VECTOR i) (s.fld (F.EVT_ROUTE_VECTOR i))
    else g
  else g

/-- The power controller's registers, those of the hold-up bank among them (R268, R269, R485). -/
def State.writePower (g : State) (off : Nat) : State :=
  if off = R.PWR_ENTRY then g.clamp F.PWR_ENTRY_DELAY_CAP 1 100
  else if off = R.PWR_HU_CFG then
    (((g.clamp F.PWR_HU_CFG_CEIL 0 20000).clamp F.PWR_HU_CFG_EFF 50 98).clamp F.PWR_HU_CFG_ILIM 5 80).huWritten
  else if off = R.PWR_HU_VLIM ∨ off = R.PWR_HU_CTRL then g.huWritten
  else g

/-- The security unit's registers (R505, R523). DBG.OBS_CTRL with EN = 1 has its own command; with EN = 0 it stops the outputs. -/
def State.writeSec (s g : State) (off : Nat) (v : W64) : State :=
  if off = R.SEC_BOOT_OVR then (if s.fld F.SEC_LC_STATE = 2 ∨ s.fld F.SEC_LC_STATE = 4 then s else g)
  else if off = R.DBG_OBS_CTRL then (if v.getLsbD 31 then s else s.obsDrive (v.setWidth 32))
  else g

/-- The option staging area and its authorization (R436), 8 bytes from `off` on. -/
def State.writeStage (s : State) (off : Nat) (v : W64) : State :=
  let bs := leBytes 8 v.toNat
  if s.on F.CFL_OPT_CTRL_RUNNING ∧ off < 0x1682000 then s
  else if off < 0x1682000 then { s with cfl := { s.cfl with stage := s.cfl.stage.write (off - 0x1681000) bs } }
  else { s with cfl := { s.cfl with auth := s.cfl.auth.write (off - 0x1682000) bs } }

/-- A full-width write of the word `v` to the register at `off` of the physical function's BAR0, above the standard controller registers.
An absent unit and an offset with no register ignore it (R4, R11). -/
def State.writePf (s : State) (off : Nat) (v race : W64) : State :=
  if 0x1681000 ≤ off ∧ off < 0x16820C0 then s.writeStage off v
  else if s.part.absentAt off then s
  else match regRow off with
    | none => s
    | some r =>
      let g := s.setReg off (r.merge (s.reg off) v race)
      if off < 0x400000 then s
      else if off < 0x440000 then s.writeStream g off
      else if off < 0x4C0000 then s.writeFilter g off v
      else if off = R.CAP_SPAN_POOL then s
      else if off < 0x800000 then g
      else if off < 0xC00000 then s
      else if off < 0x1000000 then s.writePort g off v
      else if off < 0x1100000 then g.writeChannel off
      else if off < 0x1200000 then g
      else if off < 0x1300000 then s.writeFtl g off
      else if off < 0x1380000 then s.writeStack g off
      else if off < 0x1400000 then s.writeSram g off
      else if off < 0x1500000 then s.writeDma g off
      else if off < 0x1600000 then s.writeCipher g off
      else if off = R.PST_CFG then g.clamp F.PST_CFG_REMAP_AT 1 7
      else if off < 0x1700000 then g
      else if off < 0x1780000 then s.writeEvents g off
      else if off < 0x1800000 then g
      else if off < 0x1900000 then g.writePower off
      else s.writeSec g off v

/-- A write to the standard controller registers of function `f`: CC with EN unchanged, AQA, ASQ and ACQ; a change of EN and the
doorbells have their own commands. -/
def State.writeNvme (s : State) (f off : Nat) (v : W64) : State :=
  if off = 0x14 then
    if v.getLsbD 0 ≠ s.on (Nv.EN f) then s
    else if v.getLsbD 0 then
      (if bits v.toNat 14 2 = 0 then s else ((s.setFld (Nv.SHN f) (bits v.toNat 14 2)).setFld (Nv.SHST f) 2).setFtl { s.ftl with ckptAsked := true })
    else s.setReg (Nv.CC f) v
  else if off = 0x24 then s.setReg (Nv.AQA f) (v &&& 0x0FFF0FFF)
  else if off = 0x28 then s.setReg (Nv.ASQ f) (v &&& 0xFFFFFFFFFFFFF000)
  else if off = 0x30 then s.setReg (Nv.ACQ f) (v &&& 0xFFFFFFFFFFFFF000)
  else s

/-- A full-width write by function `f` to one register. A virtual function's lane and key-page windows hold nothing it may write. -/
def State.writeOne (s : State) (f off : Nat) (v race : W64) : State :=
  if off < 0x4000 ∨ (f = 0 ∧ off < 0x100000) then s.writeNvme f off v
  else if f = 0 then s.writePf off v race
  else s

/-- A naturally aligned write of full width: two 32-bit registers under a 64-bit write are written in turn, the lower first (R9). -/
def State.writeFull (s : State) (f off width : Nat) (v race : W64) : State :=
  if width = 32 ∨ wideReg (viewOff f off) then s.writeOne f off (if width = 32 then v &&& 0xFFFFFFFF else v) race
  else (s.writeOne f off (v &&& 0xFFFFFFFF) (race &&& 0xFFFFFFFF)).writeOne f (off + 4) (v >>> 32) (race >>> 32)

/-- A write of `width` bits at `off` is naturally aligned. -/
def aligned (off width : Nat) : Bool := (width == 8 || width == 16 || width == 32 || width == 64) && off % (width / 8) == 0

/-- One doubleword of a 64-bit write that is aligned to 4 bytes only: narrower than a 64-bit register, of full width for a 32-bit one. -/
def State.writeDword (s : State) (full : Bool) (f off : Nat) (v race : W64) : State :=
  if narrow f off 32 then s.raise 896 else if full ∧ off < barBytes f then s.writeOne f off v race else s

/-- What a host write to BAR0 does: `full` says whether the command stands for a full-width write, the other kind is R10's. A write that is
not naturally aligned covers no register it touches as a whole, and is narrower than it (R10); 64 bits aligned to 4 bytes are two doublewords,
the lower first (DEDUCED, log entry 10). -/
def State.barWrite (s : State) (full : Bool) (f off width : Nat) (v race : W64) : Res :=
  if barBytes f ≤ off then .fault .outsideBar0
  else if !s.live ∨ !s.fnExists f then .next s
  else if width = 64 ∧ off % 8 = 4 then
    .next ((s.writeDword full f off (v &&& 0xFFFFFFFF) (race &&& 0xFFFFFFFF)).writeDword full f (off + 4) (v >>> 32) (race >>> 32))
  else if narrow f off width ∨ !aligned off width then .next (s.raise 896)
  else if full then .next ((s.pulse (.access (off / 0x80000))).writeFull f off width v race)
  else .next s

/-- REGISTER_WRITE: a naturally aligned host write of full width (R9). A narrower one acts as R10 says. `race` names the W1C flags that the
part sets in the cycle in which the write takes effect (R12). -/
def execRegisterWrite (f off width : Nat) (val race : W64) (s : State) : Res := s.barWrite true f off width val race

/-- NARROW_WRITE_DISCARD: a write narrower than its register is discarded, completes and sets event source 896 (R10). -/
def execNarrowWriteDiscard (f off width : Nat) (val : W64) (s : State) : Res := s.barWrite false f off width val 0

/-! ## Reads -/

/-- Word i (8 bytes from 8i on) of the header window latched with the fault of engine `e`; it is defined only while VALID is 1 (R60), and free
otherwise. -/
def State.hdrWord (s : State) (e i : Nat) : W64 :=
  if s.on (F.UEN_ENG_FAULT_VALID e) then BitVec.ofNat 64 (Bytes.le (s.ur.hdrs.get [] e) (8 * i) 8)
  else BitVec.ofNat 64 (Config.freeNat (s.free + 32 * e + i))

/-- Word j of the four that show word `w` of the control store of the channel CCS.SEL names; the vendor region reads zero (R322, R335). -/
def State.ccsWord (s : State) (w j : Nat) : W64 :=
  if w < 6144 then 0 else BitVec.ofNat 64 (((s.chan (s.fld F.CCS_SEL_CH)).store.get 0 w).toNat / 2 ^ (64 * j))

/-- The bits of PWR.DOMSTATE0 (`hi` false) or 1 that belong to domains this part has; those of an absent unit report Off (R6). -/
def Part.domMask (p : Part) (hi : Bool) : Nat :=
  ((List.range 32).map (fun i => if p.domain (i + (if hi then 32 else 0)) then 3 * 4 ^ i else 0)).foldl (· + ·) 0

/-- What the physical function reads at `off`, above the standard controller registers: the register file, with the identity (R1, R2), the
summary, the counters and the windows computed. A port whose domain is Off reads zero (R34). -/
def State.readPf (s : State) (off : Nat) : W64 :=
  if s.part.absentAt off then 0
  else if 0xC00000 ≤ off ∧ off < 0xC80000 ∧ s.dom (21 + (off - 0xC00000) / 0x10000) = 0 then 0
  else if off = R.ID_PART then BitVec.ofNat 64 (putBits (s.reg off).toNat 16 16 s.part.code)
  else if off = R.ID_CAPS0 then BitVec.ofNat 64 s.part.caps0
  else if off = R.EVT_SUMMARY then
    BitVec.ofNat 64 (((List.range 32).map (fun w => if s.reg (R.EVT_STATUS w) = 0 then 0 else 2 ^ w)).foldl (· + ·) 0)
  else if off = R.EVT_FTC then BitVec.ofNat 64 s.time.ftc
  else if off = R.TMR_CAL then s.cal
  else if off = R.PWR_DOMSTATE0 then s.reg off &&& BitVec.ofNat 64 (s.part.domMask false)
  else if off = R.PWR_DOMSTATE1 then s.reg off &&& BitVec.ofNat 64 (s.part.domMask true)
  else if 0x801000 ≤ off ∧ off < 0x802000 then s.hdrWord ((off - 0x801000) / 0x100) (off % 0x100 / 8)
  else if 0x1140000 ≤ off ∧ off < 0x1180000 then s.ccsWord ((off - 0x1140000) / 0x20) (off % 0x20 / 8)
  else if 0x880000 ≤ off ∧ off < 0x900000 then s.ur.store.get 0 ((off - 0x880000) / 8)
  else if 0x1681000 ≤ off ∧ off < 0x1682000 then BitVec.ofNat 64 (leNat (s.cfl.stage.read (off - 0x1681000) 8))
  else if 0x1682000 ≤ off ∧ off < 0x16820C0 then BitVec.ofNat 64 (leNat (s.cfl.auth.read (off - 0x1682000) 8))
  else if 0x1690000 ≤ off ∧ off < 0x16A0000 then
    BitVec.ofNat 64 (leNat ((List.range 8).map (fun i => s.cflByte (s.fld F.CFL_WIN_SEL_SECTOR) (off - 0x1690000 + i))))
  else s.reg off

/-- The value function `f` reads in the register at `off` of its BAR0 (R14, R166, R172). A virtual function sees its owned lanes in turn,
and of the key pages those it owns. -/
def State.readReg (s : State) (f off : Nat) : W64 :=
  if off = 0 then 0x000000201401FFFF
  else if off = 8 then 0x00020000
  else if off < 0x4000 then s.reg (fnBase f + off)
  else if f = 0 then s.readPf off
  else if off < 0x8000 then
    match (s.owned f)[(off - 0x4000) / 0x100]? with
    | some l => s.readPf (R.LANE_CFG l + off % 0x100)
    | none => 0
  else
    let k := (off - 0x8000) / 0x80
    if s.fld (F.CPH_KP_STATE_OWNER k) = f then s.readPf (R.CPH_KP_STATE k + off % 0x80) else 0

/-- What a naturally aligned read of `width` bits at `off` returns: the addressed bytes of the register, or those of the two 32-bit registers
that 64 bits cover (R9). No register of the part is cleared by a read. -/
def State.barRead (s : State) (f off width : Nat) : Nat :=
  let b := off / 8 * 8
  let word := if wideReg (viewOff f b) then (s.readReg f b).toNat
    else (s.readReg f b).toNat % 2 ^ 32 + 2 ^ 32 * ((s.readReg f (b + 4)).toNat % 2 ^ 32)
  word / 2 ^ (8 * (off % 8)) % 2 ^ width

end Sys2Proof.Machine
end

