-- ==== Sys2Proof/Machine/Dispatch.lean ====
section
/-! DEFINITION. One arm per command: each a direct call of its meaning. -/

namespace Sys2Proof.Machine

open Sys2Proof

/-- The effect of a command on everything but the queue. -/
def exec (i : Instr) (s : State) : Host.Outcome State Fault Refusal :=
  match i with
  | .registerWrite fn off width val race => Sys2Proof.Machine.execRegisterWrite fn off width val race s
  | .narrowWriteDiscard fn off width val => Sys2Proof.Machine.execNarrowWriteDiscard fn off width val s
  | .bufferGrantIssue bank master lo hi dir => Sys2Proof.Machine.execBufferGrantIssue bank master lo hi dir s
  | .bufferGrantRetire bank idx => Sys2Proof.Machine.execBufferGrantRetire bank idx s
  | .datagramArrival port => Sys2Proof.Machine.execDatagramArrival port s
  | .datagramDispatch => Sys2Proof.Machine.execDatagramDispatch s
  | .dispatchWaitExpiry idx => Sys2Proof.Machine.execDispatchWaitExpiry idx s
  | .uNop t bad => Sys2Proof.Machine.execUNop t bad s
  | .uAdd t => Sys2Proof.Machine.execUAdd t s
  | .uSub t => Sys2Proof.Machine.execUSub t s
  | .uAnd t => Sys2Proof.Machine.execUAnd t s
  | .uOr t => Sys2Proof.Machine.execUOr t s
  | .uXor t => Sys2Proof.Machine.execUXor t s
  | .uShl t => Sys2Proof.Machine.execUShl t s
  | .uShr t => Sys2Proof.Machine.execUShr t s
  | .uSar t => Sys2Proof.Machine.execUSar t s
  | .uMul t => Sys2Proof.Machine.execUMul t s
  | .uMulhu t => Sys2Proof.Machine.execUMulhu t s
  | .uMinu t => Sys2Proof.Machine.execUMinu t s
  | .uMaxu t => Sys2Proof.Machine.execUMaxu t s
  | .uAddi t => Sys2Proof.Machine.execUAddi t s
  | .uAndi t => Sys2Proof.Machine.execUAndi t s
  | .uOri t => Sys2Proof.Machine.execUOri t s
  | .uXori t => Sys2Proof.Machine.execUXori t s
  | .uShli t => Sys2Proof.Machine.execUShli t s
  | .uShri t => Sys2Proof.Machine.execUShri t s
  | .uSari t => Sys2Proof.Machine.execUSari t s
  | .uMuli t => Sys2Proof.Machine.execUMuli t s
  | .uLi t => Sys2Proof.Machine.execULi t s
  | .uLih t => Sys2Proof.Machine.execULih t s
  | .uCmp t => Sys2Proof.Machine.execUCmp t s
  | .uCmpi t => Sys2Proof.Machine.execUCmpi t s
  | .uSel t => Sys2Proof.Machine.execUSel t s
  | .uBfx t => Sys2Proof.Machine.execUBfx t s
  | .uXb t => Sys2Proof.Machine.execUXb t s
  | .uXbit t => Sys2Proof.Machine.execUXbit t s
  | .uHcrc t => Sys2Proof.Machine.execUHcrc t s
  | .uCld t => Sys2Proof.Machine.execUCld t s
  | .uCst t => Sys2Proof.Machine.execUCst t s
  | .uCadd t => Sys2Proof.Machine.execUCadd t s
  | .uCmax t => Sys2Proof.Machine.execUCmax t s
  | .uCcas t => Sys2Proof.Machine.execUCcas t s
  | .uSeq t => Sys2Proof.Machine.execUSeq t s
  | .uBr t => Sys2Proof.Machine.execUBr t s
  | .uBc t => Sys2Proof.Machine.execUBc t s
  | .uBci t => Sys2Proof.Machine.execUBci t s
  | .uRepeat t => Sys2Proof.Machine.execURepeat t s
  | .uTrigger t => Sys2Proof.Machine.execUTrigger t s
  | .uCount t => Sys2Proof.Machine.execUCount t s
  | .uStamp t => Sys2Proof.Machine.execUStamp t s
  | .uEvent t => Sys2Proof.Machine.execUEvent t s
  | .uPlace t => Sys2Proof.Machine.execUPlace t s
  | .uDrop t => Sys2Proof.Machine.execUDrop t s
  | .uDivert t => Sys2Proof.Machine.execUDivert t s
  | .budgetExhausted t => Sys2Proof.Machine.execBudgetExhausted t s
  | .sideEffectRelease t => Sys2Proof.Machine.execSideEffectRelease t s
  | .streamProgramLoad fn c img => Sys2Proof.Machine.execStreamProgramLoad fn c img s
  | .oldProgramRelease gran => Sys2Proof.Machine.execOldProgramRelease gran s
  | .engFaultRearm eng => Sys2Proof.Machine.execEngFaultRearm eng s
  | .streamStart st => Sys2Proof.Machine.execStreamStart st s
  | .streamStop st => Sys2Proof.Machine.execStreamStop st s
  | .streamStopped st => Sys2Proof.Machine.execStreamStopped st s
  | .detach st => Sys2Proof.Machine.execDetach st s
  | .forceSeal st => Sys2Proof.Machine.execForceSeal st s
  | .idleSealExpiry st ext => Sys2Proof.Machine.execIdleSealExpiry st ext s
  | .seqhighWrite st v => Sys2Proof.Machine.execSeqhighWrite st v s
  | .extentOpen st ext => Sys2Proof.Machine.execExtentOpen st ext s
  | .placementApply st => Sys2Proof.Machine.execPlacementApply st s
  | .extentLand nsid ext poison => Sys2Proof.Machine.execExtentLand nsid ext poison s
  | .divertEntryWrite st q n => Sys2Proof.Machine.execDivertEntryWrite st q n s
  | .divHeadWrite st q v => Sys2Proof.Machine.execDivHeadWrite st q v s
  | .divEnWrite st q on => Sys2Proof.Machine.execDivEnWrite st q on s
  | .divQueueConfig st q isBase v => Sys2Proof.Machine.execDivQueueConfig st q isBase v s
  | .busMasterDisable value => Sys2Proof.Machine.execBusMasterDisable value s
  | .trigEdge pin => Sys2Proof.Machine.execTrigEdge pin s
  | .captureCommit lane tag => Sys2Proof.Machine.execCaptureCommit lane tag s
  | .captureDiscard lane tag => Sys2Proof.Machine.execCaptureDiscard lane tag s
  | .spanCommitInstant k => Sys2Proof.Machine.execSpanCommitInstant k s
  | .spanDiscarded k => Sys2Proof.Machine.execSpanDiscarded k s
  | .spanTimeout k => Sys2Proof.Machine.execSpanTimeout k s
  | .poolStore st ext => Sys2Proof.Machine.execPoolStore st ext s
  | .spanFree k => Sys2Proof.Machine.execSpanFree k s
  | .poolConfig v => Sys2Proof.Machine.execPoolConfig v s
  | .provisionalRead lane tag poison => Sys2Proof.Machine.execProvisionalRead lane tag poison s
  | .linkUp port sub => Sys2Proof.Machine.execLinkUp port sub s
  | .linkDown port sub cut => Sys2Proof.Machine.execLinkDown port sub cut s
  | .ethFrameReceive port sub f => Sys2Proof.Machine.execEthFrameReceive port sub f s
  | .strangerRearm port => Sys2Proof.Machine.execStrangerRearm port s
  | .arpReply port sub => Sys2Proof.Machine.execArpReply port sub s
  | .mgmtTokenRefill port sub => Sys2Proof.Machine.execMgmtTokenRefill port sub s
  | .xoffRepeat port sub => Sys2Proof.Machine.execXoffRepeat port sub s
  | .fecSerWindow port sub errors corr uncorr => Sys2Proof.Machine.execFecSerWindow port sub errors corr uncorr s
  | .saInUseWrite port tx idx on => Sys2Proof.Machine.execSaInUseWrite port tx idx on s
  | .sqTailDoorbell fn qid tail => Sys2Proof.Machine.execSqTailDoorbell fn qid tail s
  | .laneFetch => Sys2Proof.Machine.execLaneFetch s
  | .fetchComplete lane es => Sys2Proof.Machine.execFetchComplete lane es s
  | .commandStart lane tag => Sys2Proof.Machine.execCommandStart lane tag s
  | .ccEnable fn cc => Sys2Proof.Machine.execCcEnable fn cc s
  | .controllerReady fn => Sys2Proof.Machine.execControllerReady fn s
  | .controllerReset fn => Sys2Proof.Machine.execControllerReset fn s
  | .functionLevelReset fn => Sys2Proof.Machine.execFunctionLevelReset fn s
  | .pcieConventionalReset => Sys2Proof.Machine.execPcieConventionalReset s
  | .perstRelease => Sys2Proof.Machine.execPerstRelease s
  | .vfEnable on numVfs => Sys2Proof.Machine.execVfEnable on numVfs s
  | .laneOwnerWrite lane owner => Sys2Proof.Machine.execLaneOwnerWrite lane owner s
  | .deleteIoSq fn c => Sys2Proof.Machine.execDeleteIoSq fn c s
  | .createIoSq fn c => Sys2Proof.Machine.execCreateIoSq fn c s
  | .deleteIoCq fn c => Sys2Proof.Machine.execDeleteIoCq fn c s
  | .createIoCq fn c => Sys2Proof.Machine.execCreateIoCq fn c s
  | .getLogPage fn c => Sys2Proof.Machine.execGetLogPage fn c s
  | .identify fn c => Sys2Proof.Machine.execIdentify fn c s
  | .abort fn c others => Sys2Proof.Machine.execAbort fn c others s
  | .setFeatures fn c d => Sys2Proof.Machine.execSetFeatures fn c d s
  | .setFeaturesPowerMgmt fn c => Sys2Proof.Machine.execSetFeaturesPowerMgmt fn c s
  | .setFeaturesApst fn c d => Sys2Proof.Machine.execSetFeaturesApst fn c d s
  | .setFeaturesTimestamp fn c d => Sys2Proof.Machine.execSetFeaturesTimestamp fn c d s
  | .getFeatures fn c => Sys2Proof.Machine.execGetFeatures fn c s
  | .asyncEventRequest fn c => Sys2Proof.Machine.execAsyncEventRequest fn c s
  | .namespaceCreate fn c d => Sys2Proof.Machine.execNamespaceCreate fn c d s
  | .namespaceDelete fn c => Sys2Proof.Machine.execNamespaceDelete fn c s
  | .namespaceAttachment fn c d => Sys2Proof.Machine.execNamespaceAttachment fn c d s
  | .formatNvm fn c => Sys2Proof.Machine.execFormatNvm fn c s
  | .firmwareImageDownload fn c d => Sys2Proof.Machine.execFirmwareImageDownload fn c d s
  | .firmwareCommit fn c sigOk table => Sys2Proof.Machine.execFirmwareCommit fn c sigOk table s
  | .slotWriteSector eraseOk progOk sigOk => Sys2Proof.Machine.execSlotWriteSector eraseOk progOk sigOk s
  | .molt inTime => Sys2Proof.Machine.execMolt inTime s
  | .mapHintExport fn c => Sys2Proof.Machine.execMapHintExport fn c s
  | .laneResume fn c => Sys2Proof.Machine.execLaneResume fn c s
  | .microcodeLoad fn c d keepOk => Sys2Proof.Machine.execMicrocodeLoad fn c d keepOk s
  | .keyPageInstall fn c d => Sys2Proof.Machine.execKeyPageInstall fn c d s
  | .eventRecordRead fn c => Sys2Proof.Machine.execEventRecordRead fn c s
  | .debugGrant fn c newChal => Sys2Proof.Machine.execDebugGrant fn c newChal s
  | .flush lane tag => Sys2Proof.Machine.execFlush lane tag s
  | .write lane tag => Sys2Proof.Machine.execWrite lane tag s
  | .heldWriteAdmit => Sys2Proof.Machine.execHeldWriteAdmit s
  | .writeComplete lane tag => Sys2Proof.Machine.execWriteComplete lane tag s
  | .read lane tag poison => Sys2Proof.Machine.execRead lane tag poison s
  | .writeZeroes lane tag => Sys2Proof.Machine.execWriteZeroes lane tag s
  | .datasetManagement lane tag => Sys2Proof.Machine.execDatasetManagement lane tag s
  | .locatedRead lane tag poison => Sys2Proof.Machine.execLocatedRead lane tag poison s
  | .gapMapRead lane tag => Sys2Proof.Machine.execGapMapRead lane tag s
  | .captureWriteIdleExpiry nsid ext => Sys2Proof.Machine.execCaptureWriteIdleExpiry nsid ext s
  | .gcStart g => Sys2Proof.Machine.execGcStart g s
  | .gcCopyVerified g lost => Sys2Proof.Machine.execGcCopyVerified g lost s
  | .gcEraseDone g => Sys2Proof.Machine.execGcEraseDone g s
  | .wlStart g => Sys2Proof.Machine.execWlStart g s
  | .unitProgramVerified g poison => Sys2Proof.Machine.execUnitProgramVerified g poison s
  | .programFail g die block page lost => Sys2Proof.Machine.execProgramFail g die block page lost s
  | .eraseFail g die block => Sys2Proof.Machine.execEraseFail g die block s
  | .checkpointStart => Sys2Proof.Machine.execCheckpointStart s
  | .checkpointComplete => Sys2Proof.Machine.execCheckpointComplete s
  | .powerFailDetect => Sys2Proof.Machine.execPowerFailDetect s
  | .dumpEnd vcut => Sys2Proof.Machine.execDumpEnd vcut s
  | .chargeTargetReached vbank => Sys2Proof.Machine.execChargeTargetReached vbank s
  | .chargeResume vbank => Sys2Proof.Machine.execChargeResume vbank s
  | .huFault vbank => Sys2Proof.Machine.execHuFault vbank s
  | .measure => Sys2Proof.Machine.execMeasure s
  | .measureDue => Sys2Proof.Machine.execMeasureDue s
  | .measurePostpone => Sys2Proof.Machine.execMeasurePostpone s
  | .measurementDone time vbank gate => Sys2Proof.Machine.execMeasurementDone time vbank gate s
  | .measureRetryExpiry => Sys2Proof.Machine.execMeasureRetryExpiry s
  | .windowRecompute vbank gate => Sys2Proof.Machine.execWindowRecompute vbank gate s
  | .regrowRequest => Sys2Proof.Machine.execRegrowRequest s
  | .mapRebuild facts => Sys2Proof.Machine.execMapRebuild facts s
  | .regrowth facts => Sys2Proof.Machine.execRegrowth facts s
  | .busPhase ch => Sys2Proof.Machine.execBusPhase ch s
  | .eraseResume ch die => Sys2Proof.Machine.execEraseResume ch die s
  | .nandReadDone ch die cws lost => Sys2Proof.Machine.execNandReadDone ch die cws lost s
  | .nandProgramDone ch die ok slow => Sys2Proof.Machine.execNandProgramDone ch die ok slow s
  | .nandEraseDone ch die ok slow => Sys2Proof.Machine.execNandEraseDone ch die ok slow s
  | .nandOpTimeout ch die ready => Sys2Proof.Machine.execNandOpTimeout ch die ready s
  | .dieForget ch die => Sys2Proof.Machine.execDieForget ch die s
  | .ccsFault ch => Sys2Proof.Machine.execCcsFault ch s
  | .ccsRewriteDone ch => Sys2Proof.Machine.execCcsRewriteDone ch s
  | .keptDiscard => Sys2Proof.Machine.execKeptDiscard s
  | .wNext ch => Sys2Proof.Machine.execWNext ch s
  | .wJump ch => Sys2Proof.Machine.execWJump ch s
  | .wCall ch => Sys2Proof.Machine.execWCall ch s
  | .wRet ch => Sys2Proof.Machine.execWRet ch s
  | .wBrt ch => Sys2Proof.Machine.execWBrt ch s
  | .wBrf ch => Sys2Proof.Machine.execWBrf ch s
  | .wWait ch => Sys2Proof.Machine.execWWait ch s
  | .wLoop ch => Sys2Proof.Machine.execWLoop ch s
  | .wDone ch => Sys2Proof.Machine.execWDone ch s
  | .hbmRequest stack addr len wr sev => Sys2Proof.Machine.execHbmRequest stack addr len wr sev s
  | .hbmRefresh stack pc => Sys2Proof.Machine.execHbmRefresh stack pc s
  | .hbmTimingCheck stack channel ok retrainOk => Sys2Proof.Machine.execHbmTimingCheck stack channel ok retrainOk s
  | .hbmTempHot stack temp => Sys2Proof.Machine.execHbmTempHot stack temp s
  | .hbmTempOk stack temp => Sys2Proof.Machine.execHbmTempOk stack temp s
  | .hbmErraddrRearm stack => Sys2Proof.Machine.execHbmErraddrRearm stack s
  | .bankWake bank => Sys2Proof.Machine.execBankWake bank s
  | .sebWipeDone badWord => Sys2Proof.Machine.execSebWipeDone badWord s
  | .marchStart preserve banks => Sys2Proof.Machine.execMarchStart preserve banks s
  | .marchAbort fails => Sys2Proof.Machine.execMarchAbort fails s
  | .marchDone fails => Sys2Proof.Machine.execMarchDone fails s
  | .dmaStart n => Sys2Proof.Machine.execDmaStart n s
  | .dmaPause n => Sys2Proof.Machine.execDmaPause n s
  | .dmaResume n => Sys2Proof.Machine.execDmaResume n s
  | .dmaTaildrop n => Sys2Proof.Machine.execDmaTaildrop n s
  | .dmaDescriptorFetch n desc => Sys2Proof.Machine.execDmaDescriptorFetch n desc s
  | .dmaBurst n reads host srcOk dstOk sev dsev => Sys2Proof.Machine.execDmaBurst n reads host srcOk dstOk sev dsev s
  | .dmaDescriptorComplete n readOk writeOk sev => Sys2Proof.Machine.execDmaDescriptorComplete n readOk writeOk sev s
  | .cipherLock => Sys2Proof.Machine.execCipherLock s
  | .rngHealthFail => Sys2Proof.Machine.execRngHealthFail s
  | .rngHealthPass => Sys2Proof.Machine.execRngHealthPass s
  | .keyPageOwnerWrite fn page owner => Sys2Proof.Machine.execKeyPageOwnerWrite fn page owner s
  | .tamperAlarm src => Sys2Proof.Machine.execTamperAlarm src s
  | .pstLineWrite line data retries ok => Sys2Proof.Machine.execPstLineWrite line data retries ok s
  | .optionCommit => Sys2Proof.Machine.execOptionCommit s
  | .optionCommitDone ok => Sys2Proof.Machine.execOptionCommitDone ok s
  | .cflRead core sector offset nonSeq => Sys2Proof.Machine.execCflRead core sector offset nonSeq s
  | .cflEraseResume => Sys2Proof.Machine.execCflEraseResume s
  | .cflProgramDone ok => Sys2Proof.Machine.execCflProgramDone ok s
  | .cflEraseDone ok micros => Sys2Proof.Machine.execCflEraseDone ok micros s
  | .eventRaise w v => Sys2Proof.Machine.execEventRaise w v s
  | .eventTakenByCore src again => Sys2Proof.Machine.execEventTakenByCore src again s
  | .rtcStop => Sys2Proof.Machine.execRtcStop s
  | .groupWatchdogExpiry domain served => Sys2Proof.Machine.execGroupWatchdogExpiry domain served s
  | .dieWatchdogService core => Sys2Proof.Machine.execDieWatchdogService core s
  | .dieWatchdogExpiry served pkg => Sys2Proof.Machine.execDieWatchdogExpiry served pkg s
  | .packageWatchdogService => Sys2Proof.Machine.execPackageWatchdogService s
  | .packageWatchdogExpiry served die => Sys2Proof.Machine.execPackageWatchdogExpiry served die s
  | .apstTransition => Sys2Proof.Machine.execApstTransition s
  | .agentAnswer domain => Sys2Proof.Machine.execAgentAnswer domain s
  | .delayCapExpiry => Sys2Proof.Machine.execDelayCapExpiry s
  | .powerStateReached => Sys2Proof.Machine.execPowerStateReached s
  | .pcieLinkL2 => Sys2Proof.Machine.execPcieLinkL2 s
  | .brumationRetry => Sys2Proof.Machine.execBrumationRetry s
  | .wake src => Sys2Proof.Machine.execWake src s
  | .baskingExitDone => Sys2Proof.Machine.execBaskingExitDone s
  | .brumationExit facts => Sys2Proof.Machine.execBrumationExit facts s
  | .domainFault domain => Sys2Proof.Machine.execDomainFault domain s
  | .thermalLimitOn => Sys2Proof.Machine.execThermalLimitOn s
  | .thermalLimitOff => Sys2Proof.Machine.execThermalLimitOff s
  | .partStart facts => Sys2Proof.Machine.execPartStart facts s
  | .lifecycleTransition confirm target => Sys2Proof.Machine.execLifecycleTransition confirm target s
  | .lifecycleTransitionDone => Sys2Proof.Machine.execLifecycleTransitionDone s
  | .debugRevoke => Sys2Proof.Machine.execDebugRevoke s
  | .obsEnable v => Sys2Proof.Machine.execObsEnable v s
  | .coreHalt core acc => Sys2Proof.Machine.execCoreHalt core acc s
  | .tapExtest => Sys2Proof.Machine.execTapExtest s
  | .tapClamp => Sys2Proof.Machine.execTapClamp s
  | .tapHighz => Sys2Proof.Machine.execTapHighz s
  | .tapIdcode => Sys2Proof.Machine.execTapIdcode s
  | .tapBypass code => Sys2Proof.Machine.execTapBypass code s
  | .tapSamplePreload cells => Sys2Proof.Machine.execTapSamplePreload cells s
  | .tapTestLogicReset => Sys2Proof.Machine.execTapTestLogicReset s
  | .powerOn vddq => Sys2Proof.Machine.execPowerOn vddq s
  | .resetBallAssert => Sys2Proof.Machine.execResetBallAssert s
  | .resetBallRelease => Sys2Proof.Machine.execResetBallRelease s
  | .suppliesOff => Sys2Proof.Machine.execSuppliesOff s
  | .coreDebugResume core close => Sys2Proof.Machine.execCoreDebugResume core close s
  | .factoryTestInstruction target => Sys2Proof.Machine.execFactoryTestInstruction target s
  | .msixUnmask what => Sys2Proof.Machine.execMsixUnmask what s
  | .interruptCoalescingTime fn cqid => Sys2Proof.Machine.execInterruptCoalescingTime fn cqid s
  | .remoteFault port sub on => Sys2Proof.Machine.execRemoteFault port sub on s

end Sys2Proof.Machine
end

