-- ==== Sys2Proof/Machine/Tick.lean ====
section
/-! DEFINITION. The passing of time when no command waits. -/

namespace Sys2Proof.Machine

/-- A controller cycle of the HBM controllers, 1.25 ns at 800 MHz, ends in the nanosecond after fabric time `t`. -/
def hbmEdge (t : Nat) : Bool := (t + 1) * 4 / 5 != t * 4 / 5

/-- One nanosecond with no command (DESIGN CHOICE: the table has no row for a tick). The fabric time counter counts in Run and
in Basking, there 40 ns every AON cycle, and stops in Brumation (R462); the RTC count, 32,768 a second, rises in every phase but Off (R463, R538); the watchdog
and wait times that AON keeps rise with it. In Run the HBM controllers pick (R341);
while the observation multiplexer is on, its balls change at the end of each OBS_CLK period (R523). -/
def State.tick (s : State) : State :=
  match s.power.phase with
  | .off => s
  | p =>
    let ns := s.time.aonNs + 1
    let t : Time := { s.time with
      aonNs := ns
      ftc := if p == .run then (if !s.basking then (s.time.ftc + 1) % 2 ^ 64 else if ns % 40 = 0 then (s.time.ftc + 40) % 2 ^ 64 else s.time.ftc)
        else s.time.ftc
      dieNs := if p == .run then s.time.dieNs + 1 else s.time.dieNs
      pkgNs := if p == .run then s.time.pkgNs + 1 else s.time.pkgNs }
    let u := { s with time := t }.setReg R.TMR_RTC (BitVec.ofNat 64 (ns * 32768 / 1000000000))
    let u := if s.sec.obsOut && u.obsEdge s.time.aonNs then u.obsClock else u
    if s.inRun && hbmEdge s.time.ftc then u.hbmCycles else u

end Sys2Proof.Machine
end

