-- ==== Sys2Proof/WellFormed.lean ====
section
/-! DEFINITION. Which commands can be sent at all: every operand within the range the spec gives it. -/

namespace Sys2Proof

/-- A function: the physical one or VF 1 to 31 (R166). -/
def okFn (fn : Nat) : Bool := decide (fn < 32)
/-- An access of 8, 16, 32 or 64 bits inside the function's BAR0 (R9, R10, R13, R166). -/
def okAccess (fn off width : Nat) : Bool := [8, 16, 32, 64].contains width && decide (off < (if fn = 0 then 0x2000000 else 0x10000))
/-- An SRAM bank (R25). -/
def okBank (bank : Nat) : Bool := decide (bank < 11)
/-- A range of at least one byte. -/
def okRange (lo hi : Nat) : Bool := decide (lo < hi)
/-- The bits of MARCH_CTRL.BANKS. -/
def okBanks (banks : Nat) : Bool := decide (banks < 2 ^ 11)
/-- An Ethernet port (R18). -/
def okPort (port : Nat) : Bool := decide (port < 8)
/-- A sub-port (R141). -/
def okSub (sub : Nat) : Bool := decide (sub < 4)
/-- A security association: transmit 0 to 3, receive 0 to 255. -/
def okSa (tx : Bool) (idx : Nat) : Bool := decide (idx < if tx then 4 else 256)
/-- A stream engine (R37). -/
def okEngine (eng : Nat) : Bool := decide (eng < 16)
/-- A thread of the cluster (R37). -/
def okThread (t : Nat) : Bool := decide (t < 128)
/-- A granule of the program store (R54). -/
def okGranule (gran : Nat) : Bool := decide (gran < 1024)
/-- A stream (The Urette Instruction Set). -/
def okStream (st : Nat) : Bool := decide (st < 64)
/-- An extent index. -/
def okExtent (ext : Nat) : Bool := decide (ext < 2 ^ 32)
/-- A namespace identifier. -/
def okNsid (nsid : Nat) : Bool := decide (nsid < 2 ^ 32)
/-- A divert queue (R98). -/
def okQueue (q : Nat) : Bool := decide (q < 4)
/-- A trigger pin. -/
def okPin (pin : Nat) : Bool := decide (pin < 4)
/-- A span descriptor. -/
def okSpan (k : Nat) : Bool := decide (k < 4096)
/-- A tagged lane (R183). -/
def okLane (lane : Nat) : Bool := decide (lane < 96)
/-- A tag of a lane (R186). -/
def okTag (tag : Nat) : Bool := decide (tag < 32)
/-- A 16-bit number: a queue identifier, a doorbell value, the confirmation of a lifecycle transition. -/
def okWord (n : Nat) : Bool := decide (n < 65536)
/-- A channel group (R15). -/
def okGroup (g : Nat) : Bool := decide (g < 16)
/-- A die of a channel group: 16 on each of its four channels. -/
def okGroupDie (die : Nat) : Bool := decide (die < 64)
/-- A flash channel. -/
def okChannel (ch : Nat) : Bool := decide (ch < 64)
/-- A die of a channel. -/
def okDie (die : Nat) : Bool := decide (die < 16)
/-- An HBM stack. -/
def okStack (stack : Nat) : Bool := decide (stack < 4)
/-- A transfer of at least one byte within the 36-bit addresses of a stack. -/
def okStackRange (addr len : Nat) : Bool := decide (0 < len ∧ addr + len ≤ 2 ^ 36)
/-- A pseudo-channel of a stack. -/
def okPseudo (pc : Nat) : Bool := decide (pc < 32)
/-- A channel of a stack. -/
def okHbmChannel (channel : Nat) : Bool := decide (channel < 16)
/-- A DMA channel (R369). -/
def okDma (n : Nat) : Bool := decide (n < 64)
/-- A key page. -/
def okPage (page : Nat) : Bool := decide (page < 256)
/-- A tamper sensor (R515). -/
def okTamper (src : Nat) : Bool := decide (src < 5)
/-- A management core. -/
def okCore (core : Nat) : Bool := decide (core < 4)
/-- A reader of the code flash: a core, or the register window. -/
def okReader (core : Nat) : Bool := decide (core < 5)
/-- A power domain (R482). -/
def okDomain (domain : Nat) : Bool := decide (domain < 53)
/-- An event source (R448). -/
def okSource (src : Nat) : Bool := decide (src < 1024)
/-- A word of EVT.RAISE. -/
def okRaise (w : Nat) : Bool := decide (28 ≤ w ∧ w < 32)
/-- A line of the persistence die. -/
def okLine (line : Nat) : Bool := decide (line < 2 ^ 24)
/-- The bytes of a line. -/
def okLineData (data : Bytes) : Bool := data.length == 64
/-- A sector of the code flash. -/
def okSector (sector : Nat) : Bool := decide (sector < 512)
/-- A byte of a sector. -/
def okOffset (offset : Nat) : Bool := decide (offset < 65536)
/-- A lifecycle state (R511). -/
def okLife (target : Nat) : Bool := decide (target < 8)
/-- An instruction of the test access port, of 8 bits (R549). -/
def okTapCode (code : Nat) : Bool := decide (code < 256)
/-- A load of the boundary register (R549). -/
def okCells (cells : List Bool) : Bool := cells.length == 3488

/-- A level for each flash quadrant's supply (R537). -/
def okLevels (levels : List Bool) : Bool := levels.length == 4

/-- A command whose operands are all within range. -/
def Instr.wf : Instr → Bool
  | .registerWrite fn off width _ _ => okFn fn && okAccess fn off width
  | .narrowWriteDiscard fn off width _ => okFn fn && okAccess fn off width
  | .bufferGrantIssue bank _ lo hi _ => okBank bank && okRange lo hi
  | .bufferGrantRetire bank _ => okBank bank
  | .datagramArrival port => okPort port
  | .datagramDispatch => true
  | .dispatchWaitExpiry _ => true
  | .uNop t _ => okThread t
  | .uAdd t => okThread t
  | .uSub t => okThread t
  | .uAnd t => okThread t
  | .uOr t => okThread t
  | .uXor t => okThread t
  | .uShl t => okThread t
  | .uShr t => okThread t
  | .uSar t => okThread t
  | .uMul t => okThread t
  | .uMulhu t => okThread t
  | .uMinu t => okThread t
  | .uMaxu t => okThread t
  | .uAddi t => okThread t
  | .uAndi t => okThread t
  | .uOri t => okThread t
  | .uXori t => okThread t
  | .uShli t => okThread t
  | .uShri t => okThread t
  | .uSari t => okThread t
  | .uMuli t => okThread t
  | .uLi t => okThread t
  | .uLih t => okThread t
  | .uCmp t => okThread t
  | .uCmpi t => okThread t
  | .uSel t => okThread t
  | .uBfx t => okThread t
  | .uXb t => okThread t
  | .uXbit t => okThread t
  | .uHcrc t => okThread t
  | .uCld t => okThread t
  | .uCst t => okThread t
  | .uCadd t => okThread t
  | .uCmax t => okThread t
  | .uCcas t => okThread t
  | .uSeq t => okThread t
  | .uBr t => okThread t
  | .uBc t => okThread t
  | .uBci t => okThread t
  | .uRepeat t => okThread t
  | .uTrigger t => okThread t
  | .uCount t => okThread t
  | .uStamp t => okThread t
  | .uEvent t => okThread t
  | .uPlace t => okThread t
  | .uDrop t => okThread t
  | .uDivert t => okThread t
  | .budgetExhausted t => okThread t
  | .sideEffectRelease t => okThread t
  | .streamProgramLoad fn _ _ => okFn fn
  | .oldProgramRelease gran => okGranule gran
  | .engFaultRearm eng => okEngine eng
  | .streamStart st => okStream st
  | .streamStop st => okStream st
  | .streamStopped st => okStream st
  | .detach st => okStream st
  | .forceSeal st => okStream st
  | .idleSealExpiry st ext => okStream st && okExtent ext
  | .seqhighWrite st _ => okStream st
  | .extentOpen st ext => okStream st && okExtent ext
  | .placementApply st => okStream st
  | .extentLand nsid ext _ => okNsid nsid && okExtent ext
  | .divertEntryWrite st q _ => okStream st && okQueue q
  | .divHeadWrite st q _ => okStream st && okQueue q
  | .divEnWrite st q _ => okStream st && okQueue q
  | .divQueueConfig st q _ _ => okStream st && okQueue q
  | .busMasterDisable _ => true
  | .trigEdge pin => okPin pin
  | .captureCommit lane tag => okLane lane && okTag tag
  | .captureDiscard lane tag => okLane lane && okTag tag
  | .spanCommitInstant k => okSpan k
  | .spanDiscarded k => okSpan k
  | .spanTimeout k => okSpan k
  | .poolStore st ext => okStream st && okExtent ext
  | .spanFree k => okSpan k
  | .poolConfig _ => true
  | .provisionalRead lane tag _ => okLane lane && okTag tag
  | .linkUp port sub => okPort port && okSub sub
  | .linkDown port sub _ => okPort port && okSub sub
  | .ethFrameReceive port sub _ => okPort port && okSub sub
  | .strangerRearm port => okPort port
  | .arpReply port sub => okPort port && okSub sub
  | .mgmtTokenRefill port sub => okPort port && okSub sub
  | .xoffRepeat port sub => okPort port && okSub sub
  | .fecSerWindow port sub _ _ _ => okPort port && okSub sub
  | .saInUseWrite port tx idx _ => okPort port && okSa tx idx
  | .sqTailDoorbell fn qid tail => okFn fn && okWord qid && okWord tail
  | .laneFetch => true
  | .fetchComplete lane _ => okLane lane
  | .commandStart lane tag => okLane lane && okTag tag
  | .ccEnable fn _ => okFn fn
  | .controllerReady fn => okFn fn
  | .controllerReset fn => okFn fn
  | .functionLevelReset fn => okFn fn
  | .pcieConventionalReset => true
  | .perstRelease => true
  | .vfEnable _ numVfs => okFn numVfs
  | .laneOwnerWrite lane owner => okLane lane && okFn owner
  | .deleteIoSq fn _ => okFn fn
  | .createIoSq fn _ => okFn fn
  | .deleteIoCq fn _ => okFn fn
  | .createIoCq fn _ => okFn fn
  | .getLogPage fn _ => okFn fn
  | .identify fn _ => okFn fn
  | .abort fn _ _ => okFn fn
  | .setFeatures fn _ _ => okFn fn
  | .setFeaturesPowerMgmt fn _ => okFn fn
  | .setFeaturesApst fn _ _ => okFn fn
  | .setFeaturesTimestamp fn _ _ => okFn fn
  | .getFeatures fn _ => okFn fn
  | .asyncEventRequest fn _ => okFn fn
  | .namespaceCreate fn _ _ => okFn fn
  | .namespaceDelete fn _ => okFn fn
  | .namespaceAttachment fn _ _ => okFn fn
  | .formatNvm fn _ => okFn fn
  | .firmwareImageDownload fn _ _ => okFn fn
  | .firmwareCommit fn _ _ _ => okFn fn
  | .slotWriteSector _ _ _ => true
  | .molt _ => true
  | .mapHintExport fn _ => okFn fn
  | .laneResume fn _ => okFn fn
  | .microcodeLoad fn _ _ _ => okFn fn
  | .keyPageInstall fn _ _ => okFn fn
  | .eventRecordRead fn _ => okFn fn
  | .debugGrant fn _ _ => okFn fn
  | .flush lane tag => okLane lane && okTag tag
  | .write lane tag => okLane lane && okTag tag
  | .heldWriteAdmit => true
  | .writeComplete lane tag => okLane lane && okTag tag
  | .read lane tag _ => okLane lane && okTag tag
  | .writeZeroes lane tag => okLane lane && okTag tag
  | .datasetManagement lane tag => okLane lane && okTag tag
  | .locatedRead lane tag _ => okLane lane && okTag tag
  | .gapMapRead lane tag => okLane lane && okTag tag
  | .captureWriteIdleExpiry nsid ext => okNsid nsid && okExtent ext
  | .gcStart g => okGroup g
  | .gcCopyVerified g _ => okGroup g
  | .gcEraseDone g => okGroup g
  | .wlStart g => okGroup g
  | .unitProgramVerified g _ => okGroup g
  | .programFail g die _ _ _ => okGroup g && okGroupDie die
  | .eraseFail g die _ => okGroup g && okGroupDie die
  | .checkpointStart => true
  | .checkpointComplete => true
  | .powerFailDetect => true
  | .dumpEnd _ => true
  | .chargeTargetReached _ => true
  | .chargeResume _ => true
  | .huFault _ => true
  | .measure => true
  | .measureDue => true
  | .measurePostpone => true
  | .measurementDone _ _ _ => true
  | .measureRetryExpiry => true
  | .windowRecompute _ _ => true
  | .regrowRequest => true
  | .mapRebuild _ => true
  | .regrowth _ => true
  | .busPhase ch => okChannel ch
  | .eraseResume ch die => okChannel ch && okDie die
  | .nandReadDone ch die _ _ => okChannel ch && okDie die
  | .nandProgramDone ch die _ _ => okChannel ch && okDie die
  | .nandEraseDone ch die _ _ => okChannel ch && okDie die
  | .nandOpTimeout ch die _ => okChannel ch && okDie die
  | .dieForget ch die => okChannel ch && okDie die
  | .ccsFault ch => okChannel ch
  | .ccsRewriteDone ch => okChannel ch
  | .keptDiscard => true
  | .wNext ch => okChannel ch
  | .wJump ch => okChannel ch
  | .wCall ch => okChannel ch
  | .wRet ch => okChannel ch
  | .wBrt ch => okChannel ch
  | .wBrf ch => okChannel ch
  | .wWait ch => okChannel ch
  | .wLoop ch => okChannel ch
  | .wDone ch => okChannel ch
  | .hbmRequest stack addr len _ _ => okStack stack && okStackRange addr len
  | .hbmRefresh stack pc => okStack stack && okPseudo pc
  | .hbmTimingCheck stack channel _ _ => okStack stack && okHbmChannel channel
  | .hbmTempHot stack _ => okStack stack
  | .hbmTempOk stack _ => okStack stack
  | .hbmErraddrRearm stack => okStack stack
  | .bankWake bank => okBank bank
  | .sebWipeDone _ => true
  | .marchStart _ banks => okBanks banks
  | .marchAbort _ => true
  | .marchDone _ => true
  | .dmaStart n => okDma n
  | .dmaPause n => okDma n
  | .dmaResume n => okDma n
  | .dmaTaildrop n => okDma n
  | .dmaDescriptorFetch n _ => okDma n
  | .dmaBurst n _ _ _ _ _ _ => okDma n
  | .dmaDescriptorComplete n _ _ _ => okDma n
  | .cipherLock => true
  | .rngHealthFail => true
  | .rngHealthPass => true
  | .keyPageOwnerWrite fn page owner => okFn fn && okPage page && okFn owner
  | .tamperAlarm src => okTamper src
  | .pstLineWrite line data _ _ => okLine line && okLineData data
  | .optionCommit => true
  | .optionCommitDone _ => true
  | .cflRead core sector offset _ => okReader core && okSector sector && okOffset offset
  | .cflEraseResume => true
  | .cflProgramDone _ => true
  | .cflEraseDone _ _ => true
  | .eventRaise w _ => okRaise w
  | .eventTakenByCore src _ => okSource src
  | .rtcStop => true
  | .groupWatchdogExpiry domain _ => okDomain domain
  | .dieWatchdogService core => okCore core
  | .dieWatchdogExpiry _ _ => true
  | .packageWatchdogService => true
  | .packageWatchdogExpiry _ _ => true
  | .apstTransition => true
  | .agentAnswer domain => okDomain domain
  | .delayCapExpiry => true
  | .powerStateReached => true
  | .pcieLinkL2 => true
  | .brumationRetry => true
  | .wake _ => true
  | .baskingExitDone => true
  | .brumationExit _ => true
  | .domainFault domain => okDomain domain
  | .thermalLimitOn => true
  | .thermalLimitOff => true
  | .partStart _ => true
  | .lifecycleTransition confirm target => okWord confirm && okLife target
  | .lifecycleTransitionDone => true
  | .debugRevoke => true
  | .obsEnable _ => true
  | .coreHalt core _ => okCore core
  | .tapExtest => true
  | .tapClamp => true
  | .tapHighz => true
  | .tapIdcode => true
  | .tapBypass code => okTapCode code
  | .tapSamplePreload cells => okCells cells
  | .tapTestLogicReset => true
  | .powerOn vddq => okLevels vddq
  | .resetBallAssert => true
  | .resetBallRelease => true
  | .suppliesOff => true
  | .coreDebugResume core _ => okCore core
  | .factoryTestInstruction target => okLife target
  | .msixUnmask _ => true
  | .interruptCoalescingTime fn cqid => okFn fn && okWord cqid
  | .remoteFault port sub _ => okPort port && okSub sub

end Sys2Proof
end

