-- ==== Sys2Proof/Safety.lean ====
section
/-! DEFINITION. What counts as a safe run: the part answers every well-formed command with a next state. The canonical form of the
register file, and what every command leaves of the state's frame. -/

namespace Sys2Proof.Machine

/-- The step answers a next state. -/
def goesOn (r : Host.Outcome State Fault Refusal) : Bool :=
  match r with
  | .next _ => true
  | .fault _ => false
  | .refused _ => false

/-- Keys strictly rising, all at or above `lo`. -/
def Tbl.risingFrom {α : Type} : Nat → Tbl α → Prop
  | _, [] => True
  | lo, e :: t => lo ≤ e.1 ∧ Tbl.risingFrom (e.1 + 1) t

/-- The canonical form of the register file: offsets strictly rising, and no offset listed with its reset value. -/
def State.regsWf (s : State) : Prop :=
  Tbl.risingFrom 0 s.regs ∧ ∀ e ∈ s.regs, e.2 ≠ resetValue e.1

/-- What every command leaves of the state's frame: the part's code and the queue stand, and what was sent stays sent. -/
structure State.Frame (s t : State) : Prop where
  part : t.part = s.part
  pending : t.pending = s.pending
  out : s.out <+: t.out
  free : s.free ≤ t.free

/-- Every command that waits is well formed. -/
def State.queueWf (s : State) : Bool := s.pending.all Instr.wf

/-- `n` steps of the part, the first stop ending the run. -/
def runFor : Nat → State → Host.Outcome State Fault Refusal
  | 0, s => .next s
  | n + 1, s =>
    match step s with
    | .next t => runFor n t
    | .fault f => .fault f
    | .refused r => .refused r

/-- A run of `n` steps never stops. -/
def safeFor (n : Nat) (s : State) : Prop := goesOn (runFor n s) = true

end Sys2Proof.Machine
end

