-- ==== Sys2Proof/Certificates/Slice0/Obligations.lean ====
section
/-! DEFINITION. The statements for the provers, and the vocabulary they share: what stands outside an effect, and the tables of the
instruction set as the spec prints them. -/

open Sys2Proof Sys2Proof.Machine

namespace Sys2Proof.Claim

/-! ## Frames -/

/-- From `s` to `u` nothing changed but registers at offsets that satisfy `p`. -/
def OnlyRegs (s u : State) (p : Nat → Prop) : Prop :=
  (∀ x, ¬p x → u.reg x = s.reg x) ∧ { u with regs := s.regs } = s

/-- The same, and an event source may have been set: flags of EVT.STATUS, the cores' list, pending vectors, and a message sent. -/
def OnlyRegsAndEvents (s u : State) (p : Nat → Prop) : Prop :=
  (∀ x, ¬p x → (∀ k, k < 32 → x ≠ R.EVT_STATUS k) → u.reg x = s.reg x) ∧
  { u with regs := s.regs, out := s.out, nvme := { u.nvme with vecPend := s.nvme.vecPend }, evt := { u.evt with cores := s.evt.cores, pulses := s.evt.pulses } } = s

/-- `u` without what the observation multiplexer saw of it (R523). -/
def unseen (s u : State) : State := { u with evt := { u.evt with pulses := s.evt.pulses } }

/-- Field `f` lies in one register and shares no bit with a field of `fs`. -/
def Apart (f : Field) (fs : List Field) : Prop :=
  f.lo + f.len ≤ 64 ∧ ∀ g ∈ fs, f.off = g.off → f.lo + f.len ≤ g.lo ∨ g.lo + g.len ≤ f.lo

/-- From `s` to `u` every register bit outside the fields `fs` stands. -/
def FieldsStand (s u : State) (fs : List Field) : Prop := ∀ f, Apart f fs → u.fld f = s.fld f

/-- From `s` to `u` every register bit outside the fields `fs` stands, but for flags of EVT.STATUS. -/
def FieldsStandButFlags (s u : State) (fs : List Field) : Prop :=
  ∀ f, Apart f fs → (∀ k, k < 32 → f.off ≠ R.EVT_STATUS k) → u.fld f = s.fld f

/-- From `s` to `u` nothing changed but the register fields `fs`. -/
def OnlyFields (s u : State) (fs : List Field) : Prop := FieldsStand s u fs ∧ { u with regs := s.regs } = s

/-- `u` without what an event source that was set leaves behind: vectors that wait, the cores' list, a message sent. -/
def lessEvents (s u : State) : State :=
  { u with out := s.out, nvme := { u.nvme with vecPend := s.nvme.vecPend }, evt := { u.evt with cores := s.evt.cores, pulses := s.evt.pulses } }

/-- From `s` to `u` nothing changed but the register fields `fs` and what an event source that was set leaves behind. -/
def OnlyFieldsAndEvents (s u : State) (fs : List Field) : Prop :=
  FieldsStandButFlags s u fs ∧ { lessEvents s u with regs := s.regs } = s

/-- What lies behind the registers of stream `n`, and nothing else behind registers, may have changed. -/
def OnlyStream (s u : State) (n : Nat) : Prop :=
  (∀ m, m ≠ n → u.str m = s.str m) ∧ { u with regs := s.regs, cap := { u.cap with streams := s.cap.streams } } = s

/-- What lies behind the registers of span `k`, and nothing else behind registers, may have changed. -/
def OnlySpan (s u : State) (k : Nat) : Prop :=
  (∀ j, j ≠ k → u.span j = s.span j) ∧ { u with regs := s.regs, cap := { u.cap with spans := s.cap.spans } } = s

/-- Extent `x` of stream `n`, which was `e`, was sealed by a cause other than completion (R84, R87); nothing else changed but CURSOR, which did
not fall. -/
def SealedNow (s u : State) (n x : Nat) (e : Extent) : Prop :=
  (u.str n).exts.get none x = some { e with isSealed := true, byComplete := false, byOther := true } ∧
  (∀ y, y ≠ x → (u.str n).exts.get none y = (s.str n).exts.get none y) ∧ { u.str n with exts := (s.str n).exts } = s.str n ∧
  u.reg (R.CAP_S_EXT_SEALED n) = s.reg (R.CAP_S_EXT_SEALED n) + 1 ∧
  u.reg (R.CAP_S_BLK_MISSING n) = s.reg (R.CAP_S_BLK_MISSING n) +
    BitVec.ofNat 64 ((List.range 256).filter (fun b => e.counts.get 0 b = 0)).length ∧
  u.reg (R.CAP_S_BLK_PARTIAL n) = s.reg (R.CAP_S_BLK_PARTIAL n) +
    BitVec.ofNat 64 ((List.range 256).filter (fun b => 0 < e.counts.get 0 b ∧ e.counts.get 0 b < 4096)).length ∧
  u.fld (F.CAP_S_STATUS_OPEN_EXT n) = s.fld (F.CAP_S_STATUS_OPEN_EXT n) - 1 ∧
  s.fld (F.CAP_S_CURSOR_CURSOR n) ≤ u.fld (F.CAP_S_CURSOR_CURSOR n) ∧
  FieldsStand s u [F.CAP_S_STATUS_OPEN_EXT n, F.CAP_S_CURSOR_CURSOR n, ⟨R.CAP_S_EXT_SEALED n, 0, 64⟩, ⟨R.CAP_S_BLK_MISSING n, 0, 64⟩,
    ⟨R.CAP_S_BLK_PARTIAL n, 0, 64⟩] ∧
  OnlyStream s u n

/-! ## Completions -/

/-- What was sent from `s` to `u`, messages of vectors apart. -/
def sent (s u : State) : List Out :=
  (u.out.drop s.out.length).filter (fun o => match o with | .msix _ => false | _ => true)

/-- The admin command `c` of function `f` completed: after the outputs `data` its completion entry was posted with status `st` and dword 0
`dw0`, and nothing else was sent but messages. -/
def Answered (s u : State) (f : Nat) (c : Sqe) (st : Status) (dw0 : Nat) (data : List Out) : Prop :=
  s.out <+: u.out ∧ sent s u = data ++ [.cqe f 0 0 c.cid (statusField st) dw0] ∧ u.nvme.posted = s.nvme.posted + 1

/-- `u` without what an answer to a command leaves behind: outputs, the count of entries posted, vectors that wait, the functions' queues. -/
def lessAnswer (s u : State) : State :=
  { u with out := s.out, nvme := { u.nvme with posted := s.nvme.posted, vecPend := s.nvme.vecPend, fns := s.nvme.fns } }

/-- Of the functions only `f` changed, and of it only completion queue `cqid` and the Error Information log. -/
def FnStands (s u : State) (f cqid : Nat) : Prop :=
  (∀ g, g ≠ f → u.fn g = s.fn g) ∧ (∀ k, k ≠ cqid → (u.fn f).cqs.get none k = (s.fn f).cqs.get none k) ∧
  { u.fn f with cqs := (s.fn f).cqs, errLog := (s.fn f).errLog, errCount := (s.fn f).errCount } = s.fn f

/-- Nothing changed but that an admin command of function `f` was fetched, and what its answer leaves behind. -/
def OnlyAnswered (s u : State) (f : Nat) : Prop := FnStands (s.adminFetched f) u f 0 ∧ lessAnswer s u = s

/-- The I/O command `g` in tag `t` of lane `l` completed: after the outputs `data` its completion entry was posted with status `st` and dword 0
`dw0`, nothing else was sent but messages, and its tag is free. -/
def IoAnswered (s u : State) (l t : Nat) (g : Tag) (st : Status) (dw0 : Nat) (data : List Out) : Prop :=
  s.out <+: u.out ∧ sent s u = data ++ [.cqe (s.owner l) (s.fld (F.LANE_STATUS_CQID l)) (s.fld (F.LANE_STATUS_SQID l)) g.cmd.sqe.cid (statusField st) dw0] ∧
  u.nvme.posted = s.nvme.posted + 1 ∧ u.tag l t = none

/-- Tag `t` of lane `l` holds the command `g`; its completion queue is `q`; its queue is not being deleted and no LANE RESUME waits. -/
abbrev PlainLane (s : State) (l t : Nat) (g : Tag) (q : Cq) : Prop :=
  l < 96 ∧ t < 32 ∧ s.tag l t = some g ∧ (s.fn (s.owner l)).cqs.get none (s.fld (F.LANE_STATUS_CQID l)) = some q ∧
  (s.laneSq l).all (fun x => x.deleting.isNone) = true ∧ (s.lane l).resume = []

/-- The command `g` waits in tag `t` of the Running lane `l`, and no command fetched before it that shares a block with it has its blocks still to
take (R201, R202): it may start. -/
abbrev Starts (s : State) (l t : Nat) (g : Tag) : Prop :=
  l < 96 ∧ t < 32 ∧ s.live = true ∧ s.tag l t = some g ∧ g.stage = .waiting ∧ s.fld (F.LANE_STATUS_STATE l) = 1 ∧
  ∀ x ∈ s.busyTags l, x.2.order < g.order → x.2.stage = .reserved ∨ x.2.taken = true ∨ x.2.cmd.overlaps g.cmd = false

/-- Nothing changed but what the completion of the command in tag `t` of lane `l` leaves behind. -/
def OnlyIoAnswered (s u : State) (l t : Nat) : Prop :=
  FnStands s u (s.owner l) (s.fld (F.LANE_STATUS_CQID l)) ∧ (∀ m, m ≠ l → u.lane m = s.lane m) ∧ (∀ j, j ≠ t → u.tag l j = s.tag l j) ∧
  { u.lane l with tags := (s.lane l).tags } = s.lane l ∧ FieldsStand s u [⟨R.LANE_TAGS l, t, 1⟩, ⟨R.LANE_TAGS l, 32 + t, 1⟩] ∧
  { lessAnswer s u with regs := s.regs, nvme := { (lessAnswer s u).nvme with lanes := s.nvme.lanes } } = s

/-- Span `k` was decided (R119): who decided, the pin and the time stand in its descriptor; a commit takes the next place in the order of
commits, and a discard is journalled. -/
def Decided (s u : State) (k : Nat) (commit : Bool) (by_ pin : Nat) : Prop :=
  u.spState k = (if commit then 4 else 6) ∧ u.fld (F.CAP_SP_DECIDED_BY k) = by_ ∧ u.fld (F.CAP_SP_PIN k) = pin ∧
  u.fld (F.CAP_SP_DECIDE_TIME k) = s.time.ftc % 2 ^ 64 ∧
  u.span k = (s.span k).map (fun v => { v with cutAt := some s.ur.placeNo, order := s.cap.orderNo }) ∧
  u.cap.orderNo = s.cap.orderNo + (if commit then 1 else 0) ∧
  u.ftl.journal = s.ftl.journal ++ (if commit then [] else [.discard (s.spHandle k) (s.fld (F.CAP_SP_NSID k))]) ∧
  (if commit then u.ftl = s.ftl else { u.ftl with journal := s.ftl.journal, journalPos := s.ftl.journalPos } = s.ftl) ∧
  OnlySpan s { u with cap := { u.cap with orderNo := s.cap.orderNo }, ftl := s.ftl } k

/-- Function `f` was reset (R223): CC and CSTS are 0, its queues, features, requests and notices are gone, its lanes are Unbound and empty. -/
def ResetFn (s u : State) (f : Nat) : Prop :=
  u.reg (Nv.CC f) = 0 ∧ u.reg (Nv.CSTS f) = 0 ∧
  { u.fn f with errLog := [], errCount := 0, msixEn := false, msixMask := false } = {} ∧
  ∀ l, l < 96 → s.owner l = f → u.fld (F.LANE_STATUS_STATE l) = 0 ∧ u.lane l = {} ∧ u.reg (R.LANE_TAGS l) = 0 ∧ u.reg (R.LANE_FREEZE l) = 0

/-- The outputs from `s` to `u` end with the completion entry of admin command `c` of function `f`, with status `st` and dword 0 `dw0`. -/
def EndsWith (s u : State) (f : Nat) (c : Sqe) (st : Status) (dw0 : Nat) : Prop :=
  s.out <+: u.out ∧ (sent s u).getLast? = some (.cqe f 0 0 c.cid (statusField st) dw0)

/-- No extent of namespace `nsid` is landed or has a gap record, and none of its blocks is mapped. -/
def HoldsNothing (u : State) (nsid : Nat) : Prop :=
  (∀ x, x < 2 ^ 32 → u.capLanded nsid x = false ∧ u.gap nsid x = none) ∧ ∀ lba, lba < 2 ^ 48 → u.gen1 nsid lba = noLoc

/-! ## Channels -/

/-- The sequencer of channel `ch`, which works, stands at the word `w` of the customer region with SEQ code `code`; the word has no bus cycle, no
data path and no timer load, and its parts have still to act (R324, R326). -/
abbrev AtCode (s : State) (ch code : Nat) (q : Useq) (w : BitVec 192) : Prop :=
  s.engineOn ch = true ∧ (s.chan ch).seq = some q ∧ (s.chan ch).store.get 0 q.pc = w ∧ 6144 ≤ q.pc ∧ q.pc < 8192 ∧ w.toNat / 2 ^ 188 = code ∧
  q.waiting = false ∧ q.sent = 0 ∧ w.toNat / 2 ^ 160 % 16 = 0 ∧ w.toNat / 2 ^ 72 % 16 = 0 ∧ w.toNat / 2 ^ 108 % 65536 = 0

/-- Nothing changed but the sequencer of channel `ch`, which is `q`. -/
def Seqs (s u : State) (ch : Nat) (q : Useq) : Prop :=
  (u.chan ch).seq = some q ∧ { u.chan ch with seq := (s.chan ch).seq } = s.chan ch ∧ (∀ c, c ≠ ch → u.chan c = s.chan c) ∧
  FieldsStand s u [F.CH_STATUS_QUEUED ch] ∧ { u with regs := s.regs, nand := { u.nand with chans := s.nand.chans } } = s

/-- Operation `i` of channel `ch` ended: the others stand, and where some are held back for want of room the first of them may have taken its
place (R300). -/
def OpGone (s u : State) (ch i : Nat) : Prop :=
  ((s.chan ch).backlog = [] → (u.chan ch).ops = (s.chan ch).ops.eraseIdx i) ∧
  ((u.chan ch).ops ++ (u.chan ch).backlog).length + 1 = ((s.chan ch).ops ++ (s.chan ch).backlog).length ∧
  (u.chan ch).store = (s.chan ch).store ∧ (∀ c, c ≠ ch → u.chan c = s.chan c)

/-- The conditions of R325 on the sequencer and the word, but for a timer that runs. -/
def seqHolds (s : State) (ch : Nat) (q : Useq) (w : BitVec 192) : Bool :=
  match w.toNat / 2 ^ 182 % 64 with
  | 0 => true
  | 1 => q.sr.getLsbD 6
  | 3 => q.sr &&& BitVec.ofNat 8 (w.toNat / 2 ^ 96) == BitVec.ofNat 8 (w.toNat / 2 ^ 88)
  | 4 => q.lc == 0
  | 5 => q.m.get 0 (w.toNat / 2 ^ 76 % 16) == 0
  | 6 => q.passed
  | 7 => !q.passed
  | 8 => q.xferDone
  | 9 => (s.chan ch).ops.any (fun o => o.die == q.die && o.susp)
  | _ => false

/-- What the ALU writes, by code, from the source register and the immediate (R326). -/
def aluOps : List (Nat × (W32 → W32 → W32)) :=
  [(1, fun _ i => i), (2, fun a i => BitVec.ofNat 32 ((a.toNat + i.toNat) % 2 ^ 32)), (3, fun a i => BitVec.ofNat 32 (a.toNat &&& i.toNat)),
   (4, fun a i => BitVec.ofNat 32 (a.toNat ||| i.toNat)), (5, fun a i => BitVec.ofNat 32 (a.toNat * 2 ^ (i.toNat % 32) % 2 ^ 32)),
   (6, fun a i => BitVec.ofNat 32 (a.toNat / 2 ^ (i.toNat % 32))), (7, fun a _ => a)]

/-! ## Power -/

/-- An entry to `target` was given up between `s` and `u`: the agent of domain `d` refused it for `reason`, and held work was done (R488). -/
def EntryRefused (s u : State) (target d reason : Nat) : Prop :=
  { u.power with work := s.power.work, fatal := s.power.fatal } = { s.power with entry := none } ∧ (target ≤ 3 → u.power.work = []) ∧
  u.fld F.PWR_STATE_PHASE = 0 ∧ u.fld F.PWR_STATE_TARGET = 0 ∧ u.fld F.PWR_REFUSE_DOMAIN = d ∧
  u.fld F.PWR_REFUSE_REASON = reason ∧ u.fld F.PWR_REFUSE_TARGET = target ∧ u.fld F.PWR_REFUSE_COUNT = (s.fld F.PWR_REFUSE_COUNT + 1) % 2 ^ 32 ∧
  u.fld F.PWR_EVCAUSE_REFUSED = 1

/-- An entry to `target` started, and the agents asked have answered as they do in `s`: the sequencing has begun, or the entry waits for those that
delay, or it was given up (R485 to R488). -/
def EntryStarted (s u : State) (target : Nat) (asked : Option (Nat × BitVec 16)) (brum : Bool) : Prop :=
  u.fld F.PWR_STATE_CUR = s.fld F.PWR_STATE_CUR ∧
  ((∀ d ∈ s.agentsAsked target, (s.agentAnswer target d).1 = .accept) → u.fld F.PWR_STATE_PHASE = 2 ∧ u.fld F.PWR_STATE_TARGET = target ∧
    { u.power with bias := s.power.bias } = { s.power with entry := some { target := target, delays := [], brum := brum } } ∧
    (target < s.fld F.PWR_STATE_CUR → target < 3 → ∀ d, d < 53 → u.power.bias.logic.get 0 d = if target < 2 then (s.biasTrim d : Int) else 0) ∧
    (target = 4 → u.fld F.DBG_STATUS_SCOPE = 0 ∧ u.time.entryFtc = s.time.ftc ∧ u.time.entryRtc = (s.reg R.TMR_RTC).toNat)) ∧
  ((∀ d ∈ s.agentsAsked target, (s.agentAnswer target d).1 ≠ .refuse) → (∃ d ∈ s.agentsAsked target, (s.agentAnswer target d).1 = .delay) →
    u.fld F.PWR_STATE_PHASE = 1 ∧ u.fld F.PWR_STATE_TARGET = target ∧ u.power = { s.power with entry := some (Entry.mk target
      ((s.agentsAsked target).filter (fun d => decide ((s.agentAnswer target d).1 = .delay))) asked none brum) }) ∧
  ∀ d ∈ s.agentsAsked target, (s.agentAnswer target d).1 = .refuse → (∀ j ∈ s.agentsAsked target, j < d → (s.agentAnswer target j).1 ≠ .refuse) →
    EntryRefused s u target d (s.agentAnswer target d).2

/-- The exit from device state `st` for the wake `src` has started (R492, R493). -/
def ExitStarted (u : State) (src : WakeSrc) (st : Nat) (during : Bool) : Prop :=
  u.power.exiting = true ∧ u.fld F.PWR_STATE_PHASE = 3 ∧ u.fld F.PWR_LAST_WAKE_SOURCE = src.code ∧ u.fld F.PWR_LAST_WAKE_FROM = st ∧
  u.fld F.PWR_LAST_WAKE_DURING_ENTRY = (if during then 1 else 0) ∧ u.fld F.PWR_EVCAUSE_WAKE = 1 ∧ (during = true → u.fld F.PWR_EVCAUSE_WAKE_IN_ENTRY = 1) ∧
  u.time.dieNs = 0 ∧ u.time.pkgNs = 0 ∧ u.time.serviced = []

/-! ## Start, lifecycle and pins -/

/-- A lifecycle transition to `target` has begun (R514 steps 1 and 2): its intent stands, keys are zeroed, SEB is wiped, and no grant is left. -/
def TransitionBegun (s u : State) (target : Nat) : Prop :=
  u.sec.transition = some (s.fld F.SEC_LC_STATE, target, false) ∧ u.fld F.SEC_LC_CTRL_RUNNING = 1 ∧ u.fld F.SEC_LC_STATE = s.fld F.SEC_LC_STATE ∧
  u.cph.keys = [] ∧ u.cph.sebKeys = [] ∧ u.eth.saKeys = [] ∧ u.fld (F.SRB_B_STATUS_WIPING 9) = 1 ∧ u.fld F.DBG_STATUS_SCOPE = 0 ∧ u.sec.held = (if s.fld F.DBG_STATUS_SCOPE = 0 then s.sec.held else []) ∧
  ∀ k, k < 256 → u.fld (F.CPH_KP_STATE_STATE k) = if s.fld (F.CPH_KP_STATE_STATE k) = 1 then 2 else s.fld (F.CPH_KP_STATE_STATE k)

/-- What lies on flash and in the persistence die is the same in `s` and `u`. -/
def KeptOver (s u : State) : Prop :=
  u.ftl.media = s.ftl.media ∧ u.ftl.units = s.ftl.units ∧ u.ftl.clutches = s.ftl.clutches ∧ u.pst = s.pst

/-- A reset held by `why` took a running part (R517, R540): at once with nothing charged, else a dump runs first. -/
def ResetHeld (s u : State) (why : HoldWhy) : Prop :=
  u.power.phase = .held ∧ u.pst = s.pst ∧
  (s.fld F.PWR_HU_WIN_IN_USE = 0 → u.power.heldBy = [why] ∧ u.power.booted = false ∧ u.fld F.TMR_WDG_LAST_CAUSE = 2 ∧ KeptOver s u ∧ u.buf = {} ∧ u.ftl.wbuf = []) ∧
  (s.fld F.PWR_HU_WIN_IN_USE ≠ 0 → u.power.heldBy = [why, .dump] ∧ u.power.entry = none ∧ u.ftl.dumping = true ∧ u.ftl.gens = s.ftl.gens ∧
    u.ftl.wbuf = s.ftl.wbuf ∧ u.ftl.capWrites = s.ftl.capWrites)

/-- `s` without `why` among what holds it in reset: it runs where nothing else is left. -/
def heldLess (s : State) (why : HoldWhy) : State :=
  { s with power := { s.power with
      heldBy := s.power.heldBy.filter (fun w => decide (w ≠ why))
      phase := if s.power.phase = .held ∧ why ∈ s.power.heldBy ∧ (∀ w ∈ s.power.heldBy, w = why) then .run else s.power.phase } }

/-! ## Urette -/

/-- Thread `t` of state `s` is `th`, and it stands at the word `w`, whose opcode is `code`; the word's `cost` slots fit the budget (R36, R51). -/
abbrev Issues (s : State) (t code cost : Nat) (th : Thread) (w : W64) : Prop :=
  s.thread t = some th ∧ s.word th = w ∧ th.accepted = false ∧ s.wordBad th = false ∧ Uw.op w = code ∧ th.slots + cost ≤ th.budget

/-- An issue left everything but thread `t` and the registers that satisfy `p`; the engine's slot counter counts `cost` (R36). -/
def IssueFrame (s u : State) (t cost : Nat) (p : Nat → Prop) : Prop :=
  (∀ j, j ≠ t → u.thread j = s.thread j) ∧ { u.ur with threads := s.ur.threads } = s.ur ∧
  { u with ur := s.ur, regs := s.regs } = s ∧
  (¬p (R.UEN_ENG_SLOTS (t / 8)) → u.reg (R.UEN_ENG_SLOTS (t / 8)) = s.reg (R.UEN_ENG_SLOTS (t / 8)) + BitVec.ofNat 64 cost) ∧
  ∀ x, x ≠ R.UEN_ENG_SLOTS (t / 8) → ¬p x → u.reg x = s.reg x

/-- The thread went on: u[d] holds `v` (u0 stays zero, R39), the other registers stand, the slots are counted, and outside a REPEAT body the next
word is next. Inside one the counter register is the loop's (R50). -/
def Wrote (th th' : Thread) (d : Nat) (v : W64) (cost : Nat) : Prop :=
  ((∀ r, th.rep = some r → r.d ≠ d) → th'.u d = if d = 0 then 0 else v) ∧
  (∀ i, i ≠ d → (∀ r, th.rep = some r → r.d ≠ i) → th'.u i = th.u i) ∧
  th'.slots = th.slots + cost ∧ (th.rep = none → th'.pc = th.pc + 1 ∧ th'.rep = none) ∧
  { th' with regs := th.regs, pc := th.pc, slots := th.slots, rep := th.rep } = th

/-- Thread `t`, which was `th`, ended in the fault `code` (R53): it is free, FAULTS counts, the engine's latch, where it was free, holds the code,
the stream, the thread and the word index (R60), and no other thread, program or stream changed. -/
def Faulted (s u : State) (t : Nat) (th : Thread) (code : Nat) : Prop :=
  u.thread t = none ∧ (∀ j, j ≠ t → u.thread j = s.thread j) ∧
  u.reg (R.CAP_S_FAULTS th.dgram.stream) = s.reg (R.CAP_S_FAULTS th.dgram.stream) + 1 ∧
  (s.fld (F.UEN_ENG_FAULT_VALID (t / 8)) = 0 → u.fld (F.UEN_ENG_FAULT_VALID (t / 8)) = 1 ∧ u.fld (F.UEN_ENG_FAULT_CODE (t / 8)) = code ∧
    u.fld (F.UEN_ENG_FAULT_STREAM (t / 8)) = th.dgram.stream ∧ u.fld (F.UEN_ENG_FAULT_THREAD (t / 8)) = t % 8 ∧
    u.fld (F.UEN_ENG_FAULT_PC (t / 8)) = th.pc % 2 ^ 12) ∧
  (s.fld (F.UEN_ENG_FAULT_VALID (t / 8)) = 1 → u.reg (R.UEN_ENG_FAULT (t / 8)) = s.reg (R.UEN_ENG_FAULT (t / 8))) ∧
  u.cap = s.cap ∧ u.ur.store = s.ur.store ∧ u.ur.progs = s.ur.progs ∧ u.ur.rings = s.ur.rings ∧ u.ur.waiting = s.ur.waiting

/-- A datagram `g` given to the free thread `t` (R37, R39): its program runs from word 0, its registers tell of the datagram, it is counted as
assigned, and no other thread, register or part of the state changed but what `ur'` says of the cluster. -/
def Dispatched (s u : State) (t : Nat) (g : Dgram) (ur' : Urette) : Prop :=
  (∃ th, u.thread t = some th ∧ th.dgram = g ∧ th.pc = 0 ∧ th.slots = 0 ∧ th.queue = [] ∧ th.rep = none ∧ th.accepted = false ∧
    th.seqDone = false ∧ th.base = 64 * s.fld (F.CAP_S_PROG_INFO_FIRST_GRAN g.stream) ∧ th.budget = s.fld (F.CAP_S_CTRL_BUDGET g.stream) + 1 ∧
    th.u 1 = BitVec.ofNat 64 g.payload.length ∧ th.u 2 = BitVec.ofNat 64 g.filt ∧ th.u 3 = BitVec.ofNat 64 (g.port + 16 * g.sub) ∧
    th.u 4 = g.time ∧ th.u 5 = BitVec.ofNat 64 ((if g.macsec then 1 else 0) + 2 * if g.ipv6 then 1 else 0) ∧
    th.u 6 = BitVec.ofNat 64 g.stream ∧ ∀ i, 7 ≤ i ∨ i = 0 → th.u i = 0) ∧
  (∀ j, j ≠ t → u.thread j = s.thread j) ∧ { u.ur with threads := s.ur.threads } = ur' ∧
  u.reg (R.CAP_S_RX_DGRAMS g.stream) = s.reg (R.CAP_S_RX_DGRAMS g.stream) + 1 ∧
  u.reg (R.CAP_S_RX_BYTES g.stream) = s.reg (R.CAP_S_RX_BYTES g.stream) + BitVec.ofNat 64 g.payload.length ∧
  u.fld ⟨R.UEN_ENG_STAT (t / 8), t % 8, 1⟩ = 1 ∧
  FieldsStand s u [⟨R.CAP_S_RX_DGRAMS g.stream, 0, 64⟩, ⟨R.CAP_S_RX_BYTES g.stream, 0, 64⟩, ⟨R.UEN_ENG_STAT (t / 8), t % 8, 1⟩] ∧
  { u with ur := s.ur, regs := s.regs } = s

/-- A datagram `g` ended in hardware drop 94h (R53, R78, R96): it is counted as assigned and in NOTHREAD, whose cause is set, and the threads,
the trackers, the holds and what `ur'` says of the cluster stand. -/
def NoThread (s u : State) (g : Dgram) (ur' : Urette) : Prop :=
  u.ur = ur' ∧ u.cap = s.cap ∧ u.reg (R.CAP_S_RX_DGRAMS g.stream) = s.reg (R.CAP_S_RX_DGRAMS g.stream) + 1 ∧
  u.reg (R.CAP_S_RX_BYTES g.stream) = s.reg (R.CAP_S_RX_BYTES g.stream) + BitVec.ofNat 64 g.payload.length ∧
  u.reg (R.CAP_S_NOTHREAD g.stream) = s.reg (R.CAP_S_NOTHREAD g.stream) + 1 ∧ u.fld (F.CAP_S_EVCAUSE_NOTHREAD g.stream) = 1 ∧
  u.reg (R.CAP_S_IDLE_DROP g.stream) = s.reg (R.CAP_S_IDLE_DROP g.stream)

/-- The two-register instructions of R47, by opcode, on the numbers their operands spell. -/
def registerOps : List ((Nat → Instr) × Nat × (W64 → W64 → W64)) :=
  [(.uAdd, 0x10, fun x y => BitVec.ofNat 64 ((x.toNat + y.toNat) % 2 ^ 64)),
   (.uSub, 0x11, fun x y => BitVec.ofNat 64 ((x.toNat + 2 ^ 64 - y.toNat) % 2 ^ 64)),
   (.uAnd, 0x12, fun x y => BitVec.ofNat 64 (x.toNat &&& y.toNat)),
   (.uOr, 0x13, fun x y => BitVec.ofNat 64 (x.toNat ||| y.toNat)),
   (.uXor, 0x14, fun x y => BitVec.ofNat 64 (x.toNat ^^^ y.toNat)),
   (.uShl, 0x15, fun x y => BitVec.ofNat 64 (x.toNat * 2 ^ (y.toNat % 64) % 2 ^ 64)),
   (.uShr, 0x16, fun x y => BitVec.ofNat 64 (x.toNat / 2 ^ (y.toNat % 64))),
   (.uSar, 0x17, fun x y => BitVec.ofInt 64 (x.toInt / 2 ^ (y.toNat % 64))),
   (.uMul, 0x18, fun x y => BitVec.ofNat 64 (x.toNat * y.toNat % 2 ^ 64)),
   (.uMulhu, 0x19, fun x y => BitVec.ofNat 64 (x.toNat * y.toNat / 2 ^ 64)),
   (.uMinu, 0x1A, fun x y => BitVec.ofNat 64 (min x.toNat y.toNat)),
   (.uMaxu, 0x1B, fun x y => BitVec.ofNat 64 (max x.toNat y.toNat))]

/-- The immediate of a word as a signed number. -/
def simm (w : W64) : Int := (w.setWidth 32 : W32).toInt

/-- The immediate of a word as an unsigned number. -/
def uimm (w : W64) : Nat := w.toNat % 2 ^ 32

/-- The immediate instructions of R47, by opcode, on the value of u[a] and the word. -/
def immediateOps : List ((Nat → Instr) × Nat × (W64 → W64 → W64)) :=
  [(.uAddi, 0x20, fun x w => BitVec.ofInt 64 (x.toNat + simm w)),
   (.uAndi, 0x22, fun x w => BitVec.ofNat 64 (x.toNat &&& uimm w)),
   (.uOri, 0x23, fun x w => BitVec.ofNat 64 (x.toNat ||| uimm w)),
   (.uXori, 0x24, fun x w => BitVec.ofNat 64 (x.toNat ^^^ uimm w)),
   (.uShli, 0x25, fun x w => BitVec.ofNat 64 (x.toNat * 2 ^ (uimm w % 64) % 2 ^ 64)),
   (.uShri, 0x26, fun x w => BitVec.ofNat 64 (x.toNat / 2 ^ (uimm w % 64))),
   (.uSari, 0x27, fun x w => BitVec.ofInt 64 (x.toInt / 2 ^ (uimm w % 64))),
   (.uMuli, 0x28, fun x w => BitVec.ofInt 64 (x.toNat * simm w)),
   (.uLi, 0x2C, fun _ w => BitVec.ofInt 64 (simm w)),
   (.uLih, 0x2D, fun x w => BitVec.ofNat 64 (uimm w * 2 ^ 32 + x.toNat % 2 ^ 32))]

/-- The condition codes of R46 on two values, as numbers. -/
def holds (m : Nat) (x y : W64) : Prop :=
  match m with
  | 0 => x = y
  | 1 => x ≠ y
  | 2 => x.toNat < y.toNat
  | 3 => y.toNat ≤ x.toNat
  | 4 => x.toInt < y.toInt
  | 5 => y.toInt ≤ x.toInt
  | 6 => 0 < (y.toNat + 2 ^ 32 - x.toNat % 2 ^ 32) % 2 ^ 32 ∧ (y.toNat + 2 ^ 32 - x.toNat % 2 ^ 32) % 2 ^ 32 < 2 ^ 31
  | 7 => 0 < (x.toNat + 2 ^ 32 - y.toNat % 2 ^ 32) % 2 ^ 32 ∧ (x.toNat + 2 ^ 32 - y.toNat % 2 ^ 32) % 2 ^ 32 < 2 ^ 31
  | 8 => x.toNat &&& y.toNat ≠ 0
  | 9 => x.toNat &&& y.toNat = 0
  | _ => False

/-- What the COUNT entries of a queue add to user counter `k`. -/
def counted (k : Nat) : List SideEff → W64
  | [] => 0
  | .count i v :: l => (if i = k then v else 0) + counted k l
  | _ :: l => counted k l

/-- The gap records of the landed extents among the `n` from `first` of a capture namespace, in order (R88, R192). -/
def gapRows (s : State) (nsid first n : Nat) : List Bytes :=
  ((List.range n).map (first + ·)).filterMap (fun x => if s.capLanded nsid x then (s.gap nsid x).map (fun r => r.bytes x) else none)

end Sys2Proof.Claim

open Sys2Proof.Claim

/-- For every command c and every state s: the step of s with c at the front of its queue is exec of c on s with the queue's rest. -/
def Obligations.StepRunsFront : Prop :=
  (∀ (c : Instr) (s : State), step { s with pending := c :: s.pending } = exec c s)

/-- On an empty queue the step answers a next state. In phase Off it is the same state. In every other phase the always-on count rises by one and TMR.RTC reads its 32,768th parts of a second. In the Run phase the two watchdogs' counts rise by one too; the fabric time counter rises by one, and in Basking by 40 in each nanosecond that ends an AON cycle of 40 ns; otherwise they stand. While no HBM request waits in a stack's queues and the observation outputs are off, no other register and no other part of the state changes. That a step on an empty queue stands for one nanosecond is the model's choice (log entry 6). -/
def Obligations.StepIdleTick : Prop :=
  (∀ (s : State),
    s.pending = [] →
    s.power.phase = .off →
    step s = .next s) ∧
  (∀ (s : State),
    s.pending = [] →
    s.power.phase = .run →
    s.sec.obsOut = false →
    (∀ e ∈ s.buf.stack, e.2.queues = []) →
    ∃ u, step s = .next u ∧ u.time.aonNs = s.time.aonNs + 1 ∧
      u.time.ftc = (if s.fld F.PWR_STATE_CUR = 3 then (if (s.time.aonNs + 1) % 40 = 0 then (s.time.ftc + 40) % 2 ^ 64 else s.time.ftc)
        else (s.time.ftc + 1) % 2 ^ 64) ∧
      u.time.dieNs = s.time.dieNs + 1 ∧
      u.time.pkgNs = s.time.pkgNs + 1 ∧ u.reg R.TMR_RTC = BitVec.ofNat 64 (u.time.aonNs * 32768 / 1000000000) ∧
      { u.time with aonNs := s.time.aonNs, ftc := s.time.ftc, dieNs := s.time.dieNs, pkgNs := s.time.pkgNs } = s.time ∧
      OnlyRegs s { u with time := s.time } (fun x => x = R.TMR_RTC)) ∧
  (∀ (s : State),
    s.pending = [] →
    s.power.phase ≠ .off →
    s.power.phase ≠ .run →
    s.sec.obsOut = false →
    ∃ u, step s = .next u ∧ u.time = { s.time with aonNs := s.time.aonNs + 1 } ∧
      u.reg R.TMR_RTC = BitVec.ofNat 64 (u.time.aonNs * 32768 / 1000000000) ∧ OnlyRegs s { u with time := s.time } (fun x => x = R.TMR_RTC))

/-- For every state s whose register file lists its offsets strictly rising and lists no offset with the value it has at reset: where the step of s answers a next state, that state's register file has the same form. So two register files that read the same are the same data, whatever commands ran. -/
def Obligations.StepKeepsRegisterFile : Prop :=
  (∀ (s t : State),
    s.regsWf →
    step s = .next t →
    t.regsWf)

/-- The register file of the state after reset lists its offsets strictly rising and no offset with its reset value, and no command waits. -/
def Obligations.ResetRegisterFileCanonical : Prop :=
  (State.reset.regsWf ∧ State.reset.pending = [])

/-- For every command c and state s: where exec of c on s answers a next state t, t is the same part of the family with the same queue, what s had sent stands at the beginning of what t has sent, and t has drawn at least the free values s had drawn. -/
def Obligations.ExecKeepsFrame : Prop :=
  (∀ (c : Instr) (s t : State),
    exec c s = .next t →
    s.Frame t)

/-- For every command c and state s: exec of c on s answers a next state, unless c is REGISTER_WRITE or NARROW_WRITE_DISCARD; those two fault outsideBar0 exactly where the offset lies past the function's BAR0 (32 MiB for the physical function, 64 KiB for a virtual one), and answer a next state everywhere else, at every width and alignment. No command is refused. -/
def Obligations.CommandsNeverStop : Prop :=
  (∀ (c : Instr) (s : State),
    (∀ f o w v r, c ≠ .registerWrite f o w v r) →
    (∀ f o w v, c ≠ .narrowWriteDiscard f o w v) →
    ∃ t, exec c s = .next t) ∧
  (∀ (c : Instr) (s : State) (f o w : Nat) (v r : W64),
    (c = .registerWrite f o w v r ∨ c = .narrowWriteDiscard f o w v) →
    (if (if f = 0 then 0x2000000 else 0x10000) ≤ o then exec c s = .fault .outsideBar0 else ∃ t, exec c s = .next t))

/-- In every state, a read of ID.CAPS0 by the physical function gives 0x00811301 on the QK1600, 0x00801201 on the QK1600-N, 0x00408B01 on the QK800 and 0x00408801 on the QK800-C. -/
def Obligations.CapabilityRegisterPerPart : Prop :=
  (∀ s : State, s.readReg 0 R.ID_CAPS0 = (match s.part with | .qk1600 => 0x00811301 | .qk1600n => 0x00801201 | .qk800 => 0x00408B01 | .qk800c => 0x00408801))

/-- For both write commands on a running part, for an existing function: a write inside BAR0 that is of 8 or 16 bits, at any offset, or of 32 bits within a 64-bit register, answers a next state in which the flag of source 896 is set, whatever its enable; no other register field changes and nothing else but the source's delivery, and with the enable at 0, or the flag set already, nothing else changes at all. This holds at every offset, in a present unit, an absent unit, or where no register lies. -/
def Obligations.NarrowWriteDiscarded : Prop :=
  (∀ (c : Instr) (s : State) (f o w : Nat) (v r : W64),
    (c = .registerWrite f o w v r ∨ c = .narrowWriteDiscard f o w v) →
    s.live = true →
    s.fnExists f = true →
    o < barBytes f →
    (w = 8 ∨ w = 16 ∨ (w = 32 ∧ wideReg (viewOff f (o / 8 * 8)) = true)) →
    ∃ u, exec c s = .next u ∧ u.evFlag 896 = true ∧ OnlyFieldsAndEvents s u [⟨R.EVT_STATUS 28, 0, 1⟩] ∧
      FieldsStand s u [⟨R.EVT_STATUS 28, 0, 1⟩] ∧
      (s.fld ⟨R.EVT_ENABLE 28, 0, 1⟩ = 0 → OnlyFields s u [⟨R.EVT_STATUS 28, 0, 1⟩]) ∧ (s.evFlag 896 = true → u = s))

/-- For a naturally aligned REGISTER_WRITE of the physical function on a running part that is of 32 bits to a 32-bit register, or of 64 bits to a 64-bit one, `race` the W1C flags that the part sets in the same cycle: at an offset of a unit the part lacks, or of a present unit where no register lies, nothing changes; in the timer unit, and in the capture registers without rules of their own (0x4C0000 on, SPAN_POOL apart), each bit that the register's row calls writable takes the written value, each W1C bit written 1 is cleared unless it is set in that cycle, every other bit stands, and so does the rest of the state, but for the access that the observation multiplexer sees while it is on. -/
def Obligations.RegisterWriteStores : Prop :=
  (∀ (s : State) (o w : Nat) (v race : W64),
    s.live = true →
    0x400000 ≤ o ∧ o < 0x1681000 →
    ((w = 32 ∧ o % 4 = 0 ∧ wideReg (o / 8 * 8) = false) ∨ (w = 64 ∧ o % 8 = 0 ∧ wideReg o = true)) →
    (s.part.absentAt o = true ∨ regRow o = none) →
    ∃ u, exec (.registerWrite 0 o w v race) s = .next u ∧ unseen s u = s) ∧
  (∀ (s : State) (o w : Nat) (v race : W64) (r : RegRow),
    s.live = true →
    ((0x1780000 ≤ o ∧ o < 0x1800000) ∨ (0x4C0000 ≤ o ∧ o < 0x800000 ∧ o ≠ R.CAP_SPAN_POOL)) →
    ((w = 32 ∧ o % 4 = 0 ∧ wideReg (o / 8 * 8) = false) ∨ (w = 64 ∧ o % 8 = 0 ∧ wideReg o = true)) →
    regRow o = some r →
    ∃ u, exec (.registerWrite 0 o w v race) s = .next u ∧ OnlyRegs s (unseen s u) (fun x => x = o) ∧
      ∀ i, i < 64 → (u.reg o).getLsbD i =
        (if r.rw.testBit i then (decide (w = 64) || decide (i < 32)) && v.getLsbD i
         else if r.w1c.testBit i then (s.reg o).getLsbD i && (!((decide (w = 64) || decide (i < 32)) && v.getLsbD i) || race.getLsbD i)
         else (s.reg o).getLsbD i))

/-- For every two-register instruction of the arithmetic table (ADD, SUB, AND, OR, XOR, SHL, SHR, SAR, MUL, MULHU, MINU, MAXU): where a thread that holds a datagram stands at a word of its opcode whose slot fits the budget, the command answers a next state in which u[d] holds the row's value (u0 reads zero), every other register of the thread stands, one slot is counted in the thread and in the engine's counter, the pc goes to the next word outside a REPEAT body, and every other thread, register and part of the state is unchanged. -/
def Obligations.UretteRegisterOpsResult : Prop :=
  (∀ (e : (Nat → Instr) × Nat × (W64 → W64 → W64)) (s : State) (t : Nat) (th : Thread) (w : W64),
    e ∈ registerOps →
    Issues s t e.2.1 1 th w →
    ∃ u th', exec (e.1 t) s = .next u ∧ u.thread t = some th' ∧
      Wrote th th' (Uw.d w) (e.2.2 (th.u (Uw.a w)) (th.u (Uw.b w))) 1 ∧ IssueFrame s u t 1 (fun _ => False))

/-- For every immediate instruction of the arithmetic table (ADDI, ANDI, ORI, XORI, SHLI, SHRI, SARI, MULI, LI, LIH): where a thread that holds a datagram stands at a word of its opcode whose slot fits the budget, the command answers a next state in which u[d] holds the row's value of u[a] and the immediate (sign-extended for ADDI, MULI and LI, zero-extended for the logical ones and LIH, six bits for the shifts), every other register of the thread stands, one slot is counted, and every other thread, register and part of the state is unchanged. -/
def Obligations.UretteImmediateOpsResult : Prop :=
  (∀ (e : (Nat → Instr) × Nat × (W64 → W64 → W64)) (s : State) (t : Nat) (th : Thread) (w : W64),
    e ∈ immediateOps →
    Issues s t e.2.1 1 th w →
    ∃ u th', exec (e.1 t) s = .next u ∧ u.thread t = some th' ∧
      Wrote th th' (Uw.d w) (e.2.2 (th.u (Uw.a w)) w) 1 ∧ IssueFrame s u t 1 (fun _ => False))

/-- Where a thread stands at the word and the slot fits: CMP and CMPI write 1 to u[d] when the condition m holds of u[a] and u[b] (or the sign-extended immediate), by the table of condition codes 0 to 9 (SLT32 and SGT32 both false at a distance of exactly 2^31), else 0; SEL writes u[a] if u[m] is not 0, else u[b]; BFX writes the field of imm[13:8] + 1 bits from bit imm[5:0], bits above 63 reading zero. One slot is counted and nothing else changes. -/
def Obligations.UretteCompareSelectResult : Prop :=
  (∀ (s : State) (t : Nat) (th : Thread) (w : W64),
    Issues s t 0x30 1 th w →
    ∃ u th', exec (.uCmp t) s = .next u ∧ u.thread t = some th' ∧ IssueFrame s u t 1 (fun _ => False) ∧
      (holds (Uw.m w) (th.u (Uw.a w)) (th.u (Uw.b w)) → Wrote th th' (Uw.d w) 1 1) ∧
      (¬holds (Uw.m w) (th.u (Uw.a w)) (th.u (Uw.b w)) → Wrote th th' (Uw.d w) 0 1)) ∧
  (∀ (s : State) (t : Nat) (th : Thread) (w : W64),
    Issues s t 0x31 1 th w →
    ∃ u th', exec (.uCmpi t) s = .next u ∧ u.thread t = some th' ∧ IssueFrame s u t 1 (fun _ => False) ∧
      (holds (Uw.m w) (th.u (Uw.a w)) (BitVec.ofInt 64 (simm w)) → Wrote th th' (Uw.d w) 1 1) ∧
      (¬holds (Uw.m w) (th.u (Uw.a w)) (BitVec.ofInt 64 (simm w)) → Wrote th th' (Uw.d w) 0 1)) ∧
  (∀ (s : State) (t : Nat) (th : Thread) (w : W64),
    Issues s t 0x32 1 th w →
    ∃ u th', exec (.uSel t) s = .next u ∧ u.thread t = some th' ∧ IssueFrame s u t 1 (fun _ => False) ∧
      Wrote th th' (Uw.d w) (if (th.u (Uw.m w)).toNat = 0 then th.u (Uw.b w) else th.u (Uw.a w)) 1) ∧
  (∀ (s : State) (t : Nat) (th : Thread) (w : W64),
    Issues s t 0x33 1 th w →
    ∃ u th', exec (.uBfx t) s = .next u ∧ u.thread t = some th' ∧ IssueFrame s u t 1 (fun _ => False) ∧
      Wrote th th' (Uw.d w) (BitVec.ofNat 64 ((th.u (Uw.a w)).toNat / 2 ^ (uimm w % 64) % 2 ^ (uimm w / 256 % 64 + 1))) 1)

/-- Where a thread stands at the word and its slots fit (1 for XB and XBIT, 1 + ⌈len / 32⌉ for HCRC): XB with width code m of 0 to 3 writes the 2^m bytes of H from imm[7:0] + u[a], big-endian unless f[0], sign-extended where f[1]; XBIT writes the m + 1 bits of the window from bit imm[10:0] + u[a]; HCRC writes the CRC-32C of imm[16:8] bytes from imm[7:0] + u[a]. Each changes only its thread and the slot count. Where the range of an XB (of any width code), an XBIT or an HCRC runs past the window, the thread ends in fault 85h: it is freed, FAULTS counts, the engine's free latch takes the code, the stream, the thread and the word index, a latch that is taken stands, and every other thread and every stream's tracker and hold stand. -/
def Obligations.UretteHeaderResult : Prop :=
  (∀ (s : State) (t : Nat) (th : Thread) (w : W64) (off : Nat),
    Issues s t 0x40 1 th w →
    Uw.m w ≤ 3 →
    off = uimm w % 256 + (th.u (Uw.a w)).toNat →
    off + 2 ^ Uw.m w ≤ 256 →
    ∃ u th' v, exec (.uXb t) s = .next u ∧ u.thread t = some th' ∧ IssueFrame s u t 1 (fun _ => False) ∧
      v = (if Uw.f w 0 then leNat ((List.range (2 ^ Uw.m w)).map (fun i => th.dgram.h (off + i)))
        else beNat ((List.range (2 ^ Uw.m w)).map (fun i => th.dgram.h (off + i)))) ∧
      Wrote th th' (Uw.d w) (if Uw.f w 1 ∧ 2 ^ (8 * 2 ^ Uw.m w - 1) ≤ v then BitVec.ofInt 64 ((v : Int) - 2 ^ (8 * 2 ^ Uw.m w)) else BitVec.ofNat 64 v) 1) ∧
  (∀ (s : State) (t : Nat) (th : Thread) (w : W64) (off : Nat),
    Issues s t 0x41 1 th w →
    off = uimm w % 2048 + (th.u (Uw.a w)).toNat →
    off + Uw.m w + 1 ≤ 2048 →
    ∃ u th', exec (.uXbit t) s = .next u ∧ u.thread t = some th' ∧ IssueFrame s u t 1 (fun _ => False) ∧
      Wrote th th' (Uw.d w) (BitVec.ofNat 64 (beNat th.dgram.window / 2 ^ (2048 - off - (Uw.m w + 1)) % 2 ^ (Uw.m w + 1))) 1) ∧
  (∀ (s : State) (t : Nat) (th : Thread) (w : W64) (off len : Nat),
    len = uimm w / 256 % 512 →
    Issues s t 0x42 (1 + (len + 31) / 32) th w →
    off = uimm w % 256 + (th.u (Uw.a w)).toNat →
    off + len ≤ 256 →
    ∃ u th', exec (.uHcrc t) s = .next u ∧ u.thread t = some th' ∧ IssueFrame s u t (1 + (len + 31) / 32) (fun _ => False) ∧
      Wrote th th' (Uw.d w) (BitVec.ofNat 64 (crc32c ((th.dgram.window.drop off).take len)).toNat) (1 + (len + 31) / 32)) ∧
  (∀ (s : State) (t : Nat) (th : Thread) (w : W64),
    Issues s t 0x40 1 th w →
    256 < uimm w % 256 + (th.u (Uw.a w)).toNat + 2 ^ Uw.m w →
    th.dgram.stream < 64 →
    t < 128 →
    ∃ u, exec (.uXb t) s = .next u ∧ Faulted s u t th 0x85) ∧
  (∀ (s : State) (t : Nat) (th : Thread) (w : W64),
    Issues s t 0x41 1 th w →
    2048 < uimm w % 2048 + (th.u (Uw.a w)).toNat + Uw.m w + 1 →
    th.dgram.stream < 64 →
    t < 128 →
    ∃ u, exec (.uXbit t) s = .next u ∧ Faulted s u t th 0x85) ∧
  (∀ (s : State) (t : Nat) (th : Thread) (w : W64),
    Issues s t 0x42 (1 + (uimm w / 256 % 512 + 31) / 32) th w →
    256 < uimm w % 256 + (th.u (Uw.a w)).toNat + uimm w / 256 % 512 →
    th.dgram.stream < 64 →
    t < 128 →
    ∃ u, exec (.uHcrc t) s = .next u ∧ Faulted s u t th 0x85)

/-- Where a thread of stream n (below 64) stands at the word and its slots fit (1 for CST, 2 for the others), with k = imm[3:0]: CLD writes slot k to u[d]; CST writes u[a] to the slot; CADD adds u[a] to the slot, CMAX (m 0 or 1) replaces it by u[a] where u[a] is larger, unsigned for m = 0 and by the serial order of the low 32 bits for m = 1, and CCAS replaces it by u[b] where it equals u[a], each writing the old value to u[d]. No other slot, register, thread or part of the state changes. -/
def Obligations.UretteContextResult : Prop :=
  (∀ (s : State) (t : Nat) (th : Thread) (w : W64),
    Issues s t 0x50 2 th w →
    th.dgram.stream < 64 →
    ∃ u th', exec (.uCld t) s = .next u ∧ u.thread t = some th' ∧ IssueFrame s u t 2 (fun _ => False) ∧
      Wrote th th' (Uw.d w) (s.reg (R.CAP_S_CTX th.dgram.stream (uimm w % 16))) 2) ∧
  (∀ (s : State) (t : Nat) (th : Thread) (w : W64),
    Issues s t 0x51 1 th w →
    th.dgram.stream < 64 →
    t < 128 →
    ∃ u th', exec (.uCst t) s = .next u ∧ u.thread t = some th' ∧ IssueFrame s u t 1 (fun x => x = R.CAP_S_CTX th.dgram.stream (uimm w % 16)) ∧
      u.reg (R.CAP_S_CTX th.dgram.stream (uimm w % 16)) = th.u (Uw.a w) ∧ (∀ i, (∀ r, th.rep = some r → r.d ≠ i) → th'.u i = th.u i)) ∧
  (∀ (s : State) (t : Nat) (th : Thread) (w : W64) (c : Nat),
    Issues s t 0x52 2 th w →
    th.dgram.stream < 64 →
    t < 128 →
    c = R.CAP_S_CTX th.dgram.stream (uimm w % 16) →
    ∃ u th', exec (.uCadd t) s = .next u ∧ u.thread t = some th' ∧ IssueFrame s u t 2 (fun x => x = c) ∧
      u.reg c = s.reg c + th.u (Uw.a w) ∧ Wrote th th' (Uw.d w) (s.reg c) 2) ∧
  (∀ (s : State) (t : Nat) (th : Thread) (w : W64) (c : Nat),
    Issues s t 0x53 2 th w →
    th.dgram.stream < 64 →
    t < 128 →
    c = R.CAP_S_CTX th.dgram.stream (uimm w % 16) →
    Uw.m w ≤ 1 →
    ∃ u th', exec (.uCmax t) s = .next u ∧ u.thread t = some th' ∧ IssueFrame s u t 2 (fun x => x = c) ∧
      (holds (if Uw.m w = 0 then 2 else 7) (if Uw.m w = 0 then s.reg c else th.u (Uw.a w)) (if Uw.m w = 0 then th.u (Uw.a w) else s.reg c) →
        u.reg c = th.u (Uw.a w)) ∧
      (¬holds (if Uw.m w = 0 then 2 else 7) (if Uw.m w = 0 then s.reg c else th.u (Uw.a w)) (if Uw.m w = 0 then th.u (Uw.a w) else s.reg c) →
        u.reg c = s.reg c) ∧ Wrote th th' (Uw.d w) (s.reg c) 2) ∧
  (∀ (s : State) (t : Nat) (th : Thread) (w : W64) (c : Nat),
    Issues s t 0x54 2 th w →
    th.dgram.stream < 64 →
    t < 128 →
    c = R.CAP_S_CTX th.dgram.stream (uimm w % 16) →
    ∃ u th', exec (.uCcas t) s = .next u ∧ u.thread t = some th' ∧ IssueFrame s u t 2 (fun x => x = c) ∧
      u.reg c = (if s.reg c = th.u (Uw.a w) then th.u (Uw.b w) else s.reg c) ∧ Wrote th th' (Uw.d w) (s.reg c) 2)

/-- Where a thread of stream n (below 64) that has issued no SEQ stands at a SEQ word and its 2 slots fit: while the tracker is empty (SEQHIGH.VALID 0) the value, taken modulo the serial-number width, becomes SEQHIGH.HIGH with VALID 1, is the tracker's one mark, and u[d] is 1; where VALID is 1 and the value equals HIGH, the thread ends in hardware drop 90h, which counts in DUP; a second SEQ of the thread ends it in a fault and moves no mark. -/
def Obligations.UretteSeqClasses : Prop :=
  (∀ (s : State) (t : Nat) (th : Thread) (w : W64) (n : Nat),
    Issues s t 0x58 2 th w →
    n = th.dgram.stream →
    n < 64 →
    t < 128 →
    th.seqDone = false →
    s.fld (F.CAP_S_SEQHIGH_VALID n) = 0 →
    ∃ u th', exec (.uSeq t) s = .next u ∧ u.thread t = some th' ∧ Wrote { th with seqDone := true } th' (Uw.d w) 1 2 ∧
      u.fld (F.CAP_S_SEQHIGH_VALID n) = 1 ∧
      u.fld (F.CAP_S_SEQHIGH_HIGH n) = (th.u (Uw.a w)).toNat % 2 ^ seqWidth (s.fld (F.CAP_S_SEQCFG_SEQ_WIDTH n)) ∧
      (u.str n).marks = [(th.u (Uw.a w)).toNat % 2 ^ seqWidth (s.fld (F.CAP_S_SEQCFG_SEQ_WIDTH n))] ∧
      (∀ m, m ≠ n → u.str m = s.str m) ∧ { u with regs := s.regs, ur := s.ur, cap := s.cap } = s) ∧
  (∀ (s : State) (t : Nat) (th : Thread) (w : W64) (n : Nat),
    Issues s t 0x58 2 th w →
    n = th.dgram.stream →
    n < 64 →
    t < 128 →
    th.seqDone = false →
    s.fld (F.CAP_S_SEQHIGH_VALID n) = 1 →
    (th.u (Uw.a w)).toNat % 2 ^ seqWidth (s.fld (F.CAP_S_SEQCFG_SEQ_WIDTH n)) = s.fld (F.CAP_S_SEQHIGH_HIGH n) % 2 ^ seqWidth (s.fld (F.CAP_S_SEQCFG_SEQ_WIDTH n)) →
    ∃ u, exec (.uSeq t) s = .next u ∧ u.thread t = none ∧ u.reg (R.CAP_S_DUP n) = s.reg (R.CAP_S_DUP n) + 1 ∧ u.str n = s.str n) ∧
  (∀ (s : State) (t : Nat) (th : Thread) (w : W64),
    Issues s t 0x58 2 th w →
    th.seqDone = true →
    ∃ u, exec (.uSeq t) s = .next u ∧ u.thread t = none ∧ u.str th.dgram.stream = s.str th.dgram.stream)

/-- Where a thread stands at the word and its slot fits: NOP outside a REPEAT body changes nothing but the pc, which goes to the next word, and the slot counts; BR adds imm[15:0] to the pc; BC and BCI add it where the condition holds of u[a] and u[b] (or the sign-extended imm[31:16]) and go to the next word otherwise. REPEAT takes its count n from imm[4:0], or from u[a] where f[0] is set: n = 0 goes past the imm[12:8] words of the body; n of 1 to 16 writes 0 to u[d], makes those words the body and goes to the first; a greater n ends the thread in fault 87h. NOP at the last word of a body goes back to the first with u[d] counting the pass, until n passes are done, and then to the next word. In each the slot is counted and every other register of the thread, thread and part of the state stands. -/
def Obligations.UretteControlResult : Prop :=
  (∀ (s : State) (t : Nat) (th : Thread) (w : W64),
    Issues s t 0x00 1 th w →
    th.rep = none →
    ∃ u, exec (.uNop t false) s = .next u ∧ u.thread t = some { th with pc := th.pc + 1, slots := th.slots + 1 } ∧ IssueFrame s u t 1 (fun _ => False)) ∧
  (∀ (s : State) (t : Nat) (th : Thread) (w : W64),
    Issues s t 0x60 1 th w →
    ∃ u, exec (.uBr t) s = .next u ∧ u.thread t = some { th with pc := th.pc + uimm w % 65536, slots := th.slots + 1 } ∧
      IssueFrame s u t 1 (fun _ => False)) ∧
  (∀ (s : State) (t : Nat) (th : Thread) (w : W64),
    Issues s t 0x61 1 th w →
    ∃ u pc, exec (.uBc t) s = .next u ∧ u.thread t = some { th with pc := pc, slots := th.slots + 1 } ∧ IssueFrame s u t 1 (fun _ => False) ∧
      (holds (Uw.m w) (th.u (Uw.a w)) (th.u (Uw.b w)) → pc = th.pc + uimm w % 65536) ∧
      (¬holds (Uw.m w) (th.u (Uw.a w)) (th.u (Uw.b w)) → pc = th.pc + 1)) ∧
  (∀ (s : State) (t : Nat) (th : Thread) (w : W64),
    Issues s t 0x62 1 th w →
    ∃ u pc, exec (.uBci t) s = .next u ∧ u.thread t = some { th with pc := pc, slots := th.slots + 1 } ∧ IssueFrame s u t 1 (fun _ => False) ∧
      (holds (Uw.m w) (th.u (Uw.a w)) ((BitVec.ofNat 16 (uimm w / 65536)).signExtend 64) → pc = th.pc + uimm w % 65536) ∧
      (¬holds (Uw.m w) (th.u (Uw.a w)) ((BitVec.ofNat 16 (uimm w / 65536)).signExtend 64) → pc = th.pc + 1)) ∧
  (∀ (s : State) (t : Nat) (th : Thread) (w : W64) (n : Nat),
    Issues s t 0x68 1 th w →
    (n = if Uw.f w 0 then (th.u (Uw.a w)).toNat else uimm w % 32) →
    n ≤ 16 →
    ∃ u th', exec (.uRepeat t) s = .next u ∧ u.thread t = some th' ∧ IssueFrame s u t 1 (fun _ => False) ∧ th'.slots = th.slots + 1 ∧
      (n = 0 → th' = { th with pc := th.pc + 1 + uimm w / 256 % 32, slots := th.slots + 1 }) ∧
      (n ≠ 0 → th'.pc = th.pc + 1 ∧ th'.u (Uw.d w) = 0 ∧ (∀ i, i ≠ Uw.d w → th'.u i = th.u i) ∧
        th'.rep = some { d := Uw.d w, first := th.pc + 1, len := uimm w / 256 % 32, n := n, i := 0 } ∧
        { th' with regs := th.regs, pc := th.pc, slots := th.slots, rep := th.rep } = th)) ∧
  (∀ (s : State) (t : Nat) (th : Thread) (w : W64) (r : Rep),
    Issues s t 0x00 1 th w →
    th.rep = some r →
    th.pc + 1 = r.first + r.len →
    ∃ u th', exec (.uNop t false) s = .next u ∧ u.thread t = some th' ∧ IssueFrame s u t 1 (fun _ => False) ∧ th'.slots = th.slots + 1 ∧
      (∀ i, i ≠ r.d → th'.u i = th.u i) ∧ { th' with regs := th.regs, pc := th.pc, slots := th.slots, rep := th.rep } = th ∧
      (r.i + 1 < r.n → th'.pc = r.first ∧ th'.u r.d = (if r.d = 0 then 0 else BitVec.ofNat 64 (r.i + 1)) ∧ th'.rep = some { r with i := r.i + 1 }) ∧
      (r.n ≤ r.i + 1 → th'.pc = th.pc + 1 ∧ th'.rep = none ∧ th'.regs = th.regs)) ∧
  (∀ (s : State) (t : Nat) (th : Thread) (w : W64),
    Issues s t 0x68 1 th w →
    (16 < if Uw.f w 0 then (th.u (Uw.a w)).toNat else uimm w % 32) →
    th.dgram.stream < 64 →
    t < 128 →
    ∃ u, exec (.uRepeat t) s = .next u ∧ Faulted s u t th 0x87)

/-- Where a thread stands at the word, its slot fits and its side-effect queue holds fewer than 8 entries: COUNT appends user counter imm[3:0] with u[a] + imm[31:16], STAMP a stamp, EVENT source number imm[6:0], and TRIGGER of a provisional stream with f[0] = 0 the stream's current span (none where it has none) with its handle, as a commit for m = 0. The other entries, every register and every other part of the state stand. With 8 entries each of them ends the thread in fault 84h. -/
def Obligations.UretteSideEffectsQueue : Prop :=
  (∀ (s : State) (t : Nat) (th : Thread) (w : W64),
    Issues s t 0x71 1 th w →
    th.queue.length < 8 →
    th.rep = none →
    ∃ u, exec (.uCount t) s = .next u ∧ IssueFrame s u t 1 (fun _ => False) ∧ u.thread t = some { th with pc := th.pc + 1, slots := th.slots + 1, queue := th.queue ++ [.count (uimm w % 16) (th.u (Uw.a w) + BitVec.ofNat 64 (uimm w / 65536))] }) ∧
  (∀ (s : State) (t : Nat) (th : Thread) (w : W64),
    Issues s t 0x72 1 th w →
    th.queue.length < 8 →
    th.rep = none →
    ∃ u, exec (.uStamp t) s = .next u ∧ IssueFrame s u t 1 (fun _ => False) ∧
      u.thread t = some { th with pc := th.pc + 1, slots := th.slots + 1, queue := th.queue ++ [.stamp] }) ∧
  (∀ (s : State) (t : Nat) (th : Thread) (w : W64),
    Issues s t 0x73 1 th w →
    th.queue.length < 8 →
    th.rep = none →
    ∃ u, exec (.uEvent t) s = .next u ∧ IssueFrame s u t 1 (fun _ => False) ∧
      u.thread t = some { th with pc := th.pc + 1, slots := th.slots + 1, queue := th.queue ++ [.event (uimm w % 128)] }) ∧
  (∀ (s : State) (t : Nat) (th : Thread) (w : W64),
    Issues s t 0x70 1 th w →
    th.queue.length < 8 →
    th.rep = none →
    s.prov th.dgram.stream ≠ 0 →
    Uw.f w 0 = false →
    t < 128 →
    ∃ u, exec (.uTrigger t) s = .next u ∧ IssueFrame s u t 1 (fun _ => False) ∧ u.thread t = some { th with pc := th.pc + 1, slots := th.slots + 1, queue := th.queue ++ [.trigger ((s.curSpan th.dgram.stream).map s.spHandle) (decide (Uw.m w = 0)) true] }) ∧
  (∀ (s : State) (t : Nat) (th : Thread) (w : W64),
    Issues s t 0x71 1 th w →
    8 ≤ th.queue.length →
    th.dgram.stream < 64 →
    t < 128 →
    ∃ u, exec (.uCount t) s = .next u ∧ Faulted s u t th 0x84) ∧
  (∀ (s : State) (t : Nat) (th : Thread) (w : W64),
    Issues s t 0x72 1 th w →
    8 ≤ th.queue.length →
    th.dgram.stream < 64 →
    t < 128 →
    ∃ u, exec (.uStamp t) s = .next u ∧ Faulted s u t th 0x84) ∧
  (∀ (s : State) (t : Nat) (th : Thread) (w : W64),
    Issues s t 0x73 1 th w →
    8 ≤ th.queue.length →
    th.dgram.stream < 64 →
    t < 128 →
    ∃ u, exec (.uEvent t) s = .next u ∧ Faulted s u t th 0x84) ∧
  (∀ (s : State) (t : Nat) (th : Thread) (w : W64),
    Issues s t 0x70 1 th w →
    8 ≤ th.queue.length →
    s.prov th.dgram.stream ≠ 0 →
    Uw.f w 0 = false →
    th.dgram.stream < 64 →
    t < 128 →
    ∃ u, exec (.uTrigger t) s = .next u ∧ Faulted s u t th 0x84)

/-- Where a thread of stream n (below 64) stands at the word and its slots fit: PLACE of len = u[b] bytes at u[a], not 0, inside the payload from imm[15:0] on and inside the window, with room in its bank's hold, joins the hold of an ordinary stream with exactly those payload bytes, takes the cells that hold them and counts PLACED and PLACED_BYTES; DROP counts PROG_DROP and its reason; DIVERT to an enabled queue with a free entry reserves the next entry with the tag u[a] and counts DIVERTED. In each the thread waits for its side effects to be released, and its queue stands. -/
def Obligations.UretteOutcomesAccepted : Prop :=
  (∀ (s : State) (t : Nat) (th : Thread) (w : W64) (n off len skip bank cells : Nat),
    Issues s t 0x78 2 th w →
    n = th.dgram.stream →
    n < 64 →
    off = (th.u (Uw.a w)).toNat →
    len = (th.u (Uw.b w)).toNat →
    skip = uimm w % 65536 →
    len ≠ 0 →
    skip + len ≤ th.dgram.payload.length →
    off + len ≤ s.fld (F.CAP_S_WIN_WIN_EXT n) * 1048576 →
    bank = th.dgram.port / 2 →
    cells = (skip + len - 1) / 256 - skip / 256 + 1 →
    s.eth.holdUsed.get 0 bank + cells ≤ 16384 →
    s.prov n = 0 →
    ∃ u th' p, exec (.uPlace t) s = .next u ∧ u.thread t = some th' ∧ th'.accepted = true ∧ th'.queue = th.queue ∧ th'.slots = th.slots + 2 ∧
      (u.str n).hold = (s.str n).hold ++ [p] ∧ p.off = off ∧ p.bytes = (th.dgram.payload.drop skip).take len ∧ p.bank = bank ∧ p.cells = cells ∧
      u.eth.holdUsed.get 0 bank = s.eth.holdUsed.get 0 bank + cells ∧
      u.reg (R.CAP_S_PLACED n) = s.reg (R.CAP_S_PLACED n) + 1 ∧ u.reg (R.CAP_S_PLACED_BYTES n) = s.reg (R.CAP_S_PLACED_BYTES n) + BitVec.ofNat 64 len) ∧
  (∀ (s : State) (t : Nat) (th : Thread) (w : W64) (n : Nat),
    Issues s t 0x79 1 th w →
    n = th.dgram.stream →
    n < 64 →
    t < 128 →
    ∃ u, exec (.uDrop t) s = .next u ∧ u.thread t = some { th with accepted := true, slots := th.slots + 1 } ∧
      u.reg (R.CAP_S_PROG_DROP n) = s.reg (R.CAP_S_PROG_DROP n) + 1 ∧
      (u.str n).drops.get 0 (uimm w % 256) = ((s.str n).drops.get 0 (uimm w % 256) + 1) % 2 ^ 64 ∧
      (∀ r, r ≠ uimm w % 256 → (u.str n).drops.get 0 r = (s.str n).drops.get 0 r) ∧ (∀ m, m ≠ n → u.str m = s.str m) ∧
      { u with regs := s.regs, ur := s.ur, cap := s.cap } = s) ∧
  (∀ (s : State) (t : Nat) (th : Thread) (w : W64) (n q : Nat),
    Issues s t 0x7A 2 th w →
    n = th.dgram.stream →
    n < 64 →
    t < 128 →
    q = uimm w % 4 →
    bit (s.fld (F.CAP_S_CTRL_DIV_EN n)) q = true →
    s.divRoom n q = true →
    ∃ u th' e, exec (.uDivert t) s = .next u ∧ u.thread t = some th' ∧ th'.accepted = true ∧ th'.queue = th.queue ∧ th'.slots = th.slots + 2 ∧
      (u.str n).divPend = (s.str n).divPend ++ [e] ∧ e.q = q ∧ e.n = (s.str n).divRes.get 0 q ∧ e.dgram = th.dgram ∧ e.tag = (th.u (Uw.a w)).setWidth 32 ∧
      (u.str n).divRes.get 0 q = ((s.str n).divRes.get 0 q + 1) % 2 ^ 32 ∧ u.reg (R.CAP_S_DIVERTED n) = s.reg (R.CAP_S_DIVERTED n) + 1)

/-- Where the word a thread of stream n (below 64) stands at would carry its slots above the budget, BUDGET_EXHAUSTED ends the thread, counts FAULTS, and where the engine's latch is free fills it with code 80h, the stream, the thread, the word index and the slots used, all within their fields. A word read with a double-bit error ends the thread in fault 81h and stays spoiled. SIDE_EFFECT_RELEASE of an accepted thread whose queue holds only COUNT entries adds them to the stream's user counters, and of one whose queue holds one EVENT sets the flag of its source; both free the thread and its BUSY bit. Clearing VALID re-arms the latch and changes nothing else. -/
def Obligations.UretteThreadEnds : Prop :=
  (∀ (s : State) (t : Nat) (th : Thread) (n : Nat),
    s.thread t = some th →
    n = th.dgram.stream →
    n < 64 →
    t < 128 →
    th.accepted = false →
    s.wordBad th = false →
    th.budget < th.slots + Uw.cost (s.word th) →
    s.fld (F.UEN_ENG_FAULT_VALID (t / 8)) = 0 →
    ∃ u, exec (.budgetExhausted t) s = .next u ∧ u.thread t = none ∧ u.reg (R.CAP_S_FAULTS n) = s.reg (R.CAP_S_FAULTS n) + 1 ∧
      u.fld (F.UEN_ENG_FAULT_VALID (t / 8)) = 1 ∧ u.fld (F.UEN_ENG_FAULT_CODE (t / 8)) = 0x80 ∧ u.fld (F.UEN_ENG_FAULT_STREAM (t / 8)) = n ∧
      u.fld (F.UEN_ENG_FAULT_THREAD (t / 8)) = t % 8 ∧ u.fld (F.UEN_ENG_FAULT_PC (t / 8)) = th.pc % 2 ^ 12 ∧
      u.fld (F.UEN_ENG_FAULT_SLOTS_USED (t / 8)) = th.slots % 2 ^ 9 ∧ (∀ j, j ≠ t → u.thread j = s.thread j)) ∧
  (∀ (s : State) (t : Nat) (th : Thread),
    s.thread t = some th →
    th.dgram.stream < 64 →
    t < 128 →
    th.accepted = false →
    ∃ u, exec (.uNop t true) s = .next u ∧ Faulted s u t th 0x81 ∧ th.base + th.pc ∈ u.ur.eccBad) ∧
  (∀ (s : State) (t : Nat) (th : Thread) (n : Nat),
    s.thread t = some th →
    n = th.dgram.stream →
    n < 64 →
    t < 128 →
    th.accepted = true →
    (∀ e ∈ th.queue, ∃ k v, e = .count k v ∧ k < 16) →
    ∃ u, exec (.sideEffectRelease t) s = .next u ∧ u.thread t = none ∧ u.fld ⟨R.UEN_ENG_STAT (t / 8), t % 8, 1⟩ = 0 ∧
      (∀ k, k < 16 → u.reg (R.CAP_S_UCNT n k) = s.reg (R.CAP_S_UCNT n k) + counted k th.queue) ∧ (∀ j, j ≠ t → u.thread j = s.thread j)) ∧
  (∀ (s : State) (t : Nat) (th : Thread) (k : Nat),
    s.thread t = some th →
    t < 128 →
    th.accepted = true →
    th.queue = [.event k] →
    k < 128 →
    s.part.srcAbsent (640 + k) = false →
    th.dgram.port < 8 →
    ∃ u, exec (.sideEffectRelease t) s = .next u ∧ u.thread t = none ∧ u.evFlag (640 + k) = true) ∧
  (∀ (s : State) (e : Nat),
    e < 16 →
    ∃ u, exec (.engFaultRearm e) s = .next u ∧ u.fld (F.UEN_ENG_FAULT_VALID e) = 0 ∧ u.fld (F.UEN_ENG_FAULT_CODE e) = s.fld (F.UEN_ENG_FAULT_CODE e) ∧
      OnlyRegs s u (fun x => x = R.UEN_ENG_FAULT e))

/-- The thread the dispatcher picks is free, lies on an engine that receives datagrams with at least as many free threads as every other and more than every lower-numbered one, and is that engine's lowest free thread. DATAGRAM_ARRIVAL of a datagram assigned while its stream was Running, with nothing waiting, gives the oldest datagram of the port's ring to that thread at word 0 with the stream's budget and the registers the datagram gives it; with no free thread it waits behind the others where DISPATCH_WAIT is not 0, and else ends in hardware drop 94h, counted in RX_DGRAMS, RX_BYTES and NOTHREAD. DATAGRAM_DISPATCH gives the earliest waiting datagram to the picked thread. Each dispatch counts RX_DGRAMS and RX_BYTES, sets the thread's BUSY bit and changes nothing else. DISPATCH_WAIT_EXPIRY drops the named waiting datagram with 94h where the free threads are all owed to those before it, and else leaves it waiting. -/
def Obligations.DatagramDispatchRule : Prop :=
  (∀ (s : State) (t : Nat),
    s.pickThread = some t →
    t / 8 < s.enginesOn ∧ s.thread t = none ∧ (∀ j, j < t % 8 → s.thread (8 * (t / 8) + j) ≠ none) ∧
      (∀ e, e < s.enginesOn → (s.freeThreads e).length ≤ (s.freeThreads (t / 8)).length) ∧
      (∀ e, e < t / 8 → (s.freeThreads e).length < (s.freeThreads (t / 8)).length)) ∧
  (∀ (s : State) (p t : Nat) (g : Dgram) (rest : List Dgram),
    s.ur.rings.get [] p = g :: rest →
    g.dead = false →
    g.stream < 64 →
    s.ur.waiting = [] →
    s.pickThread = some t →
    ∃ u, exec (.datagramArrival p) s = .next u ∧ Dispatched s u t g { s.ur with rings := s.ur.rings.set [] p rest }) ∧
  (∀ (s : State) (p : Nat) (g : Dgram) (rest : List Dgram),
    s.ur.rings.get [] p = g :: rest →
    g.dead = false →
    s.pickThread = none →
    s.fld (F.CAP_S_CTRL_DISPATCH_WAIT g.stream) ≠ 0 →
    ∃ u, exec (.datagramArrival p) s = .next u ∧ u.ur = { s.ur with rings := s.ur.rings.set [] p rest, waiting := s.ur.waiting ++ [g] } ∧
      { u with ur := s.ur } = s) ∧
  (∀ (s : State) (p : Nat) (g : Dgram) (rest : List Dgram),
    s.ur.rings.get [] p = g :: rest →
    g.dead = false →
    g.stream < 64 →
    s.pickThread = none →
    s.fld (F.CAP_S_CTRL_DISPATCH_WAIT g.stream) = 0 →
    ∃ u, exec (.datagramArrival p) s = .next u ∧ NoThread s u g { s.ur with rings := s.ur.rings.set [] p rest }) ∧
  (∀ (s : State) (t : Nat) (g : Dgram) (rest : List Dgram),
    s.ur.waiting = g :: rest →
    g.stream < 64 →
    s.pickThread = some t →
    ∃ u, exec .datagramDispatch s = .next u ∧ Dispatched s u t g { s.ur with waiting := rest }) ∧
  (∀ (s : State) (i : Nat) (g : Dgram),
    s.ur.waiting[i]? = some g →
    g.stream < 64 →
    s.freeThreadCount ≤ i →
    ∃ u, exec (.dispatchWaitExpiry i) s = .next u ∧ NoThread s u g { s.ur with waiting := s.ur.waiting.eraseIdx i }) ∧
  (∀ (s : State) (i : Nat),
    i < s.freeThreadCount →
    exec (.dispatchWaitExpiry i) s = .next s)

/-- A frame that the filter assigns to a stream, with cells for it, puts its datagram at the end of the port's ring, marked where the stream is not Running, so where it is Idle; and where the oldest datagram of a port's ring bears the mark, DATAGRAM_ARRIVAL takes it from the ring, counts it in the stream's IDLE_DROP and nowhere else in the stream's context, changes no thread, and leaves what waits for a thread. -/
def Obligations.IdleStreamDropsDatagrams : Prop :=
  (∀ (s : State) (p j i : Nat) (f : Frame) (k : Pkt),
    s.strState (s.fld (F.CAP_FLT_STREAM i)) = 0 →
    ∃ g, (s.admitFrame p j i f k).ur = { s.ur with rings := s.ur.rings.set [] p (s.ur.rings.get [] p ++ [g]) } ∧
      g.stream = s.fld (F.CAP_FLT_STREAM i) ∧ g.payload = k.payload ∧ g.dead = true) ∧
  (∀ (s : State) (p : Nat) (g : Dgram) (rest : List Dgram),
    s.ur.rings.get [] p = g :: rest →
    g.dead = true →
    g.stream < 64 →
    ∃ u, exec (.datagramArrival p) s = .next u ∧ u.reg (R.CAP_S_IDLE_DROP g.stream) = s.reg (R.CAP_S_IDLE_DROP g.stream) + 1 ∧
      (∀ x, x < 0x440000 → x ≠ R.CAP_S_IDLE_DROP g.stream → u.reg x = s.reg x) ∧
      u.ur = { s.ur with rings := s.ur.rings.set [] p rest } ∧ u.cap = s.cap)

/-- For stream n of 64 on a running part: a start of an Idle stream whose start checks all pass (and whose cluster holds no work back for an entry) sets RUN and STATE = Running, starts a fresh span floor and takes its ring from RING_EXT where it places in HBM; with PROG_LOADED = 0 it clears RUN, gives REFUSE_CODE 01h and sets the REFUSED cause; with a program, a capture namespace attached to the physical function, no rebuild under way, a window inside the namespace and a horizon of 0 it gives 04h. A stop of a Running stream that has no current span clears RUN and sets STATE = Stopping. A Stopping stream that is drained, with nothing in its hold, no open extent and no span, becomes Idle and sets the STOPPED cause. Beyond the fields named (and the event a cause sets) no register changes, nor any other stream, nor anything else. -/
def Obligations.StreamStartStopResult : Prop :=
  (∀ (s : State) (n : Nat),
    s.live = true →
    s.holds 49 = false →
    n < 64 →
    s.strState n = 0 →
    s.startRefusal n = 0 →
    ∃ u, exec (.streamStart n) s = .next u ∧ u.strState n = 1 ∧ u.on (F.CAP_S_CTRL_RUN n) = true ∧ u.str n = { s.str n with top := none, ring := if s.prov n = 1 then s.fld (F.CAP_S_RING_RING_EXT n) else (s.str n).ring } ∧
      FieldsStand s u [F.CAP_S_CTRL_RUN n, F.CAP_S_STATUS_STATE n] ∧ OnlyStream s u n) ∧
  (∀ (s : State) (n : Nat),
    s.live = true →
    s.holds 49 = false →
    n < 64 →
    s.strState n = 0 →
    s.on (F.CAP_S_STATUS_PROG_LOADED n) = false →
    ∃ u, exec (.streamStart n) s = .next u ∧ u.strState n = 0 ∧ u.on (F.CAP_S_CTRL_RUN n) = false ∧ u.fld (F.CAP_S_STATUS_REFUSE_CODE n) = 1 ∧
      u.fld ⟨R.CAP_S_EVCAUSE n, 1, 1⟩ = 1 ∧
      OnlyFieldsAndEvents s u [F.CAP_S_CTRL_RUN n, F.CAP_S_STATUS_REFUSE_CODE n, ⟨R.CAP_S_EVCAUSE n, 1, 1⟩]) ∧
  (∀ (s : State) (n : Nat) (v : Ns),
    s.live = true →
    s.holds 49 = false →
    n < 64 →
    s.strState n = 0 →
    s.on (F.CAP_S_STATUS_PROG_LOADED n) = true →
    s.ns (s.fld (F.CAP_S_NS_NSID n)) = some v →
    v.capture = true →
    v.attached = some 0 →
    s.on F.FTL_STATUS_REBUILDING = false →
    0 < s.fld (F.CAP_S_WIN_WIN_EXT n) →
    s.fld (F.CAP_S_WIN_WIN_BASE n) + s.fld (F.CAP_S_WIN_WIN_EXT n) ≤ v.blocks / 256 →
    s.fld (F.CAP_S_HORIZON_HORIZON n) = 0 →
    ∃ u, exec (.streamStart n) s = .next u ∧ u.strState n = 0 ∧ u.on (F.CAP_S_CTRL_RUN n) = false ∧ u.fld (F.CAP_S_STATUS_REFUSE_CODE n) = 4 ∧
      u.fld ⟨R.CAP_S_EVCAUSE n, 1, 1⟩ = 1 ∧
      OnlyFieldsAndEvents s u [F.CAP_S_CTRL_RUN n, F.CAP_S_STATUS_REFUSE_CODE n, ⟨R.CAP_S_EVCAUSE n, 1, 1⟩]) ∧
  (∀ (s : State) (n : Nat),
    s.live = true →
    n < 64 →
    s.strState n = 1 →
    s.curSpan n = none →
    ∃ u, exec (.streamStop n) s = .next u ∧ u.strState n = 2 ∧ u.on (F.CAP_S_CTRL_RUN n) = false ∧
      OnlyFields s u [F.CAP_S_CTRL_RUN n, F.CAP_S_STATUS_STATE n]) ∧
  (∀ (s : State) (n : Nat),
    n < 64 →
    s.strState n = 2 →
    s.drained n = true →
    (s.str n).hold = [] →
    s.openExts n = [] →
    s.strSpans n = [] →
    ∃ u, exec (.streamStopped n) s = .next u ∧ u.strState n = 0 ∧ u.fld ⟨R.CAP_S_EVCAUSE n, 2, 1⟩ = 1 ∧ u.str n = s.str n ∧
      FieldsStandButFlags s u [F.CAP_S_STATUS_STATE n, ⟨R.CAP_S_EVCAUSE n, 2, 1⟩] ∧ OnlyStream s (lessEvents s u) n)

/-- For stream n of 64 on a running part: on an Idle stream DETACH clears PROG_LOADED and the program's information, identifier and version registers, the program store's list of programs loses exactly the stream's programs, so the granules they held are held by no program unless another one holds them, and only UEN.STORE follows; nothing else changes. On a stream that is not Idle nothing changes at all. -/
def Obligations.DetachRemovesProgram : Prop :=
  (∀ (s : State) (n : Nat),
    s.live = true →
    n < 64 →
    s.strState n = 0 →
    ∃ u, exec (.detach n) s = .next u ∧ u.on (F.CAP_S_STATUS_PROG_LOADED n) = false ∧ u.reg (R.CAP_S_PROG_INFO n) = 0 ∧
      u.reg (R.CAP_S_PROG_ID n) = 0 ∧ u.reg (R.CAP_S_PROG_VER n) = 0 ∧ u.ur.progs = s.ur.progs.filter (fun p => p.stream ≠ some n) ∧
      (∀ g, (∀ p ∈ s.ur.progs, p.stream ≠ some n → g < p.gran ∨ p.gran + p.grans ≤ g) → u.granFree g = true) ∧
      { u with regs := s.regs, ur := { u.ur with progs := s.ur.progs } } = s ∧
      FieldsStand s u [F.CAP_S_STATUS_PROG_LOADED n, ⟨R.CAP_S_PROG_INFO n, 0, 64⟩, ⟨R.CAP_S_PROG_ID n, 0, 64⟩, ⟨R.CAP_S_PROG_VER n, 0, 64⟩, F.UEN_STORE_FREE_GRAN, F.UEN_STORE_LARGEST_RUN]) ∧
  (∀ (s : State) (n : Nat),
    s.strState n ≠ 0 →
    exec (.detach n) s = .next s)

/-- STREAM PROGRAM LOAD on the physical function, its fields well formed and its completion queue standing: an image that passes every check of the table and finds a free run g is stored word for word from word 64 g of the program store on, stream n = CDW10[5:0] has PROG_LOADED = 1, the image's identifier, version, word count and first granule, and the command completes with status 0 and dword 0 = (g << 16) + the slots of the longest path (at most 0xFFFF). An image whose magic is wrong completes with Invalid Field in Command, check code 01h and word index 0xFFFF, and changes nothing but the completion. OLD PROGRAM RELEASE, once no thread runs the granules, takes exactly the replaced programs at that granule off the list and brings UEN.STORE up to date. -/
def Obligations.ProgramLoadResult : Prop :=
  (∀ (s : State) (c : Sqe) (d img : Bytes) (ws : List W64) (g n : Nat) (q : Cq),
    s.adminOk 0 = true →
    (s.fn 0).cqs.get none 0 = some q →
    c.stray (1 :: vendorDws) [(10, 0x3F), (11, 0xFFFFFFFF)] = none →
    img = fit (min c.cdw11.toNat 2097152) d →
    s.progCheck img c.cdw11.toNat = none →
    ws = imgWords img (Bytes.le img 8 4) →
    s.firstRun (ceilDiv ws.length 64) = some g →
    n = c.cdw10.toNat % 64 →
    ∃ u, exec (.streamProgramLoad 0 c d) s = .next u ∧ Answered s u 0 c St.ok (min 0xFFFF ((pathCosts ws).headD 0) + g * 65536) [] ∧
      u.on (F.CAP_S_STATUS_PROG_LOADED n) = true ∧ u.fld (F.CAP_S_PROG_INFO_WORDS n) = ws.length % 2 ^ (F.CAP_S_PROG_INFO_WORDS 0).len ∧
      u.fld (F.CAP_S_PROG_INFO_FIRST_GRAN n) = g % 2 ^ (F.CAP_S_PROG_INFO_FIRST_GRAN 0).len ∧
      u.reg (R.CAP_S_PROG_ID n) = BitVec.ofNat 64 (Bytes.le img 0x10 8) ∧ u.reg (R.CAP_S_PROG_VER n) = BitVec.ofNat 64 (Bytes.le img 0x18 4) ∧
      (∀ i, i < ws.length → u.ur.store.get 0 (64 * g + i) = ws.getD i 0) ∧
      (∀ a, a < 64 * g ∨ 64 * g + ws.length ≤ a → u.ur.store.get 0 a = s.ur.store.get 0 a) ∧
      { gran := g, grans := ceilDiv ws.length 64, words := ws.length, stream := some n } ∈ u.ur.progs) ∧
  (∀ (s : State) (c : Sqe) (d : Bytes) (q : Cq),
    s.adminOk 0 = true →
    (s.fn 0).cqs.get none 0 = some q →
    c.stray (1 :: vendorDws) [(10, 0x3F), (11, 0xFFFFFFFF)] = none →
    Bytes.le (fit (min c.cdw11.toNat 2097152) d) 0 4 ≠ 0x54455255 →
    ∃ u, exec (.streamProgramLoad 0 c d) s = .next u ∧ Answered s u 0 c St.invalidField 0xFFFF0001 [] ∧ OnlyAnswered s u 0) ∧
  (∀ (s : State) (g : Nat),
    s.runs g = false →
    ∃ u, exec (.oldProgramRelease g) s = .next u ∧ u.ur.progs = s.ur.progs.filter (fun p => ¬(p.gran = g ∧ p.stream = none)) ∧
      { u with regs := s.regs, ur := { u.ur with progs := s.ur.progs } } = s ∧ FieldsStand s u [F.UEN_STORE_FREE_GRAN, F.UEN_STORE_LARGEST_RUN])

/-- For an ordinary stream n of 64 with nothing in its placement hold and no span: FORCE on a running part with exactly one extent open, and an idle expiry with IDLE_SEAL not 0 for an open extent, seal that extent by a cause other than completion. EXT_SEALED counts 1, BLK_MISSING the blocks with no byte placed and BLK_PARTIAL those partly placed, OPEN_EXT falls by one (not below 0), CURSOR does not fall, and no other extent, stream, register or part of the state changes. -/
def Obligations.ExtentSealResult : Prop :=
  (∀ (s : State) (n x : Nat) (e : Extent),
    s.live = true →
    n < 64 →
    s.prov n = 0 →
    (s.str n).hold = [] →
    s.strSpans n = [] →
    s.openExts n = [x] →
    (s.str n).exts.get none x = some e →
    e.opened = true →
    e.isSealed = false →
    ∃ u, exec (.forceSeal n) s = .next u ∧ SealedNow s u n x e) ∧
  (∀ (s : State) (n i : Nat) (e : Extent),
    s.fld (F.CAP_S_SEAL_IDLE_SEAL n) ≠ 0 →
    n < 64 →
    s.prov n = 0 →
    (s.str n).hold = [] →
    s.strSpans n = [] →
    (s.str n).exts.get none (s.nsExt n i) = some e →
    e.opened = true →
    e.isSealed = false →
    ∃ u, exec (.idleSealExpiry n i) s = .next u ∧ SealedNow s u n (s.nsExt n i) e)

/-- For an ordinary stream n of 64 on a running part, not Idle, whose extent i is wanted while HBM has room: the extent opens with no byte placed and the stream's fill pattern, and OPEN_EXT counts it. For the placement accepted first, alone in the hold and inside one open extent below cursor + horizon that it does not fill: every byte of it that no earlier placement wrote stands in the extent, every byte outside it is as before, each 4 KiB block it touches counts its bytes up to 4,096 and no other block does, a STAMP widens the extent's times, the hold is empty and its cells are freed in its staging bank. No other extent or stream changes, and no register in the second case. -/
def Obligations.ExtentOpenAndPlaceResult : Prop :=
  (∀ (s : State) (n i : Nat),
    s.live = true →
    n < 64 →
    s.prov n = 0 →
    s.strState n ≠ 0 →
    s.wanted n i = true →
    s.hbmRoom n = true →
    ∃ u, exec (.extentOpen n i) s = .next u ∧ (u.str n).exts.get none (s.nsExt n i) = some { fill := s.reg (R.CAP_S_FILL n) } ∧
      u.fld (F.CAP_S_STATUS_OPEN_EXT n) = (s.fld (F.CAP_S_STATUS_OPEN_EXT n) + 1) % 8192 ∧
      (∀ y, y ≠ s.nsExt n i → (u.str n).exts.get none y = (s.str n).exts.get none y) ∧ { u.str n with exts := (s.str n).exts } = s.str n ∧
      FieldsStand s u [F.CAP_S_STATUS_OPEN_EXT n] ∧ OnlyStream s u n) ∧
  (∀ (s : State) (n i x a k : Nat) (p : Placement) (e : Extent),
    n < 64 →
    s.prov n = 0 →
    (s.str n).hold = [p] →
    p.waited = false →
    p.exts = [i] →
    x = s.nsExt n i →
    i < s.fld (F.CAP_S_CURSOR_CURSOR n) + s.fld (F.CAP_S_HORIZON_HORIZON n) →
    s.sealedAt n x = false →
    (s.str n).exts.get none x = some e →
    e.opened = true →
    a = p.off - i * 1048576 →
    k < 256 ∧ e.counts.get 0 k + p.bytes.length < 4096 →
    ∃ u e', exec (.placementApply n) s = .next u ∧ (u.str n).exts.get none x = some e' ∧
      (∀ j, j < p.bytes.length → e.bytes.find (a + j) = none → e'.bytes.find (a + j) = p.bytes[j]?) ∧
      (∀ j, j < a ∨ a + p.bytes.length ≤ j → e'.bytes.find j = e.bytes.find j) ∧
      (∀ b, e'.counts.get 0 b = (if a < (b + 1) * 4096 ∧ b * 4096 < a + p.bytes.length then
          min 4096 (e.counts.get 0 b + (min (a + p.bytes.length) ((b + 1) * 4096) - max a (b * 4096))) else e.counts.get 0 b)) ∧
      e'.stamps = (if p.stamp then widen e.stamps p.time else e.stamps) ∧
      { e' with bytes := e.bytes, counts := e.counts, stamps := e.stamps } = e ∧
      (∀ y, y ≠ x → (u.str n).exts.get none y = (s.str n).exts.get none y) ∧ (u.str n).hold = [] ∧
      { u.str n with exts := (s.str n).exts, hold := (s.str n).hold } = s.str n ∧ (∀ m, m ≠ n → u.str m = s.str m) ∧ u.regs = s.regs ∧
      u.eth.holdUsed.get 0 p.bank = s.eth.holdUsed.get 0 p.bank - p.cells ∧
      (∀ j, j ≠ p.bank → u.eth.holdUsed.get 0 j = s.eth.holdUsed.get 0 j))

/-- On a running part with no overhang to program first, its origin sequences below 2^60 (R400), for the extent x of a capture namespace that an ordinary stream n holds sealed, never opened and not landed, with no host Write holding it: EXTENT LAND, whatever blocks are poisoned, marks its map entry landed with no flash location, advances the entry's generation, records its stream, its flags and the state missing for its blocks in the gap table, and EXT_LANDED counts 1. LANDED may move up; no other map entry or gap record changes, nor the general map, the write buffer, the extents host Writes hold, another stream, a span or another capture register. An extent that a stream left sealed in an earlier window lands in the same way, and is then held no longer; no extent of a stream's present window changes and LANDED stands. -/
def Obligations.FillExtentLands : Prop :=
  (∀ (s : State) (nsid x n : Nat) (ps : List Nat) (e : Extent),
    s.live = true →
    n < 64 →
    s.prov n = 0 →
    s.fld (F.CAP_S_NS_NSID n) = nsid →
    s.ftl.capWrites.get none (extKey nsid x) = none →
    s.drainOf nsid x = none →
    s.sealedOf nsid x = some (n, e) →
    e.opened = false →
    s.overhangFirst = false →
    s.ftl.nextSeq + 2 < 2 ^ 60 →
    ∃ u, exec (.extentLand nsid x ps) s = .next u ∧ u.capLanded nsid x = true ∧ u.capLoc nsid x = noLoc ∧
      u.capGen nsid x = (if s.capGen nsid x = 0xFFFF then 1 else s.capGen nsid x + 1) ∧ u.gap nsid x = some (e.gapRec n false) ∧
      (∀ b, b < 256 → (e.gapRec n false).states.get 0 b = 2) ∧
      u.reg (R.CAP_S_EXT_LANDED n) = s.reg (R.CAP_S_EXT_LANDED n) + 1 ∧
      (∀ k, k ≠ extKey nsid x → u.ftl.capMap.get 0 k = s.ftl.capMap.get 0 k ∧ u.ftl.gaps.get none k = s.ftl.gaps.get none k) ∧
      u.ftl.gens = s.ftl.gens ∧ u.ftl.wbuf = s.ftl.wbuf ∧ u.ftl.capWrites = s.ftl.capWrites ∧
      (∀ m, m ≠ n → u.str m = s.str m) ∧ { u.cap with streams := s.cap.streams } = s.cap ∧
      (∀ y, R.CAP_S_CTRL 0 ≤ y → y < 0x4D0000 → y ≠ R.CAP_S_EXT_LANDED n → y ≠ R.CAP_S_LANDED n → u.reg y = s.reg y)) ∧
  (∀ (s : State) (nsid x : Nat) (ps : List Nat) (d : Drain),
    s.live = true →
    s.ftl.capWrites.get none (extKey nsid x) = none →
    s.drainOf nsid x = some d →
    d.ext.opened = false →
    s.overhangFirst = false →
    s.ftl.nextSeq + 2 < 2 ^ 60 →
    ∃ u, exec (.extentLand nsid x ps) s = .next u ∧ u.capLanded nsid x = true ∧ u.capLoc nsid x = noLoc ∧
      u.gap nsid x = some (d.ext.gapRec d.stream false) ∧ u.reg (R.CAP_S_EXT_LANDED d.stream) = s.reg (R.CAP_S_EXT_LANDED d.stream) + 1 ∧
      u.cap.drains = s.cap.drains.erase d ∧ u.cap.streams = s.cap.streams ∧ u.cap.spans = s.cap.spans ∧
      (∀ k, k ≠ extKey nsid x → u.ftl.capMap.get 0 k = s.ftl.capMap.get 0 k ∧ u.ftl.gaps.get none k = s.ftl.gaps.get none k) ∧
      u.ftl.gens = s.ftl.gens ∧ u.ftl.wbuf = s.ftl.wbuf ∧ u.ftl.capWrites = s.ftl.capWrites ∧
      (∀ y, R.CAP_S_CTRL 0 ≤ y → y < 0x4D0000 → y ≠ R.CAP_S_EXT_LANDED d.stream → u.reg y = s.reg y))

/-- For an Idle stream n of 64 on a running part: SEQHIGH_WRITE stores bits [47:0] in HIGH and bit 63 in VALID. With VALID = 0 no value is marked afterwards; with VALID = 1 the values marked are those that were marked and lie at most 65,535 below the new HIGH in the stream's sequence width. On a stream that is not Idle nothing changes. No other field, stream or part of the state changes. -/
def Obligations.SeqHighWriteResult : Prop :=
  (∀ (s : State) (n : Nat) (v : W64),
    s.live = true →
    n < 64 →
    s.strState n = 0 →
    ∃ u, exec (.seqhighWrite n v) s = .next u ∧ u.fld (F.CAP_S_SEQHIGH_HIGH n) = v.toNat % 2 ^ 48 ∧
      (v.getLsbD 63 = false → u.fld (F.CAP_S_SEQHIGH_VALID n) = 0 ∧ (u.str n).marks = []) ∧
      (v.getLsbD 63 = true → u.fld (F.CAP_S_SEQHIGH_VALID n) = 1 ∧ ∀ k, k ∈ (u.str n).marks ↔ k ∈ (s.str n).marks ∧
        (v.toNat % 2 ^ 48 % 2 ^ seqWidth (s.fld (F.CAP_S_SEQCFG_SEQ_WIDTH n)) + 2 ^ seqWidth (s.fld (F.CAP_S_SEQCFG_SEQ_WIDTH n)) -
          k % 2 ^ seqWidth (s.fld (F.CAP_S_SEQCFG_SEQ_WIDTH n))) % 2 ^ seqWidth (s.fld (F.CAP_S_SEQCFG_SEQ_WIDTH n)) < 65536) ∧
      { u.str n with marks := (s.str n).marks } = s.str n ∧ FieldsStand s u [F.CAP_S_SEQHIGH_HIGH n, F.CAP_S_SEQHIGH_VALID n] ∧ OnlyStream s u n) ∧
  (∀ (s : State) (n : Nat) (v : W64),
    s.strState n ≠ 0 →
    exec (.seqhighWrite n v) s = .next s)

/-- For queue q of 4 of stream n of 64 on a running part: with Bus Master Enable 1 a write of 1 to the enable bit sets it where DIVq_BASE.ADDR is not 0 and DIVq_CFG.ENTRIES_LOG2 is 4 to 16, and leaves a clear bit clear otherwise; a write of 0 clears it; nothing else changes. A write of DIVq_BASE or DIVq_CFG while the stream is Idle clears the bit where it leaves ADDR 0 or ENTRIES_LOG2 outside 4 to 16, and leaves the bit alone otherwise; TAIL, HEAD and the reservation count become 0. -/
def Obligations.DivertEnableRule : Prop :=
  (∀ (s : State) (n q : Nat) (on : Bool),
    s.live = true →
    n < 64 →
    q < 4 →
    ∃ u, exec (.divEnWrite n q on) s = .next u ∧ OnlyFields s u [divEnBit n q] ∧ (on = false → u.fld (divEnBit n q) = 0) ∧
      (on = true → s.nvme.busMaster = true → (if s.fld (F.CAP_S_DIV_BASE_ADDR n q) ≠ 0 ∧ 4 ≤ s.fld (F.CAP_S_DIV_CFG_ENTRIES_LOG2 n q) ∧ s.fld (F.CAP_S_DIV_CFG_ENTRIES_LOG2 n q) ≤ 16
        then u.fld (divEnBit n q) = 1 else s.fld (divEnBit n q) = 0 → u.fld (divEnBit n q) = 0))) ∧
  (∀ (s : State) (n q : Nat) (isBase : Bool) (v : W64),
    s.live = true →
    n < 64 →
    q < 4 →
    s.strState n = 0 →
    ∃ u, exec (.divQueueConfig n q isBase v) s = .next u ∧
      (isBase = true → u.fld (F.CAP_S_DIV_BASE_ADDR n q) = v.toNat / 4096 ∧ FieldsStand s u [F.CAP_S_DIV_BASE_ADDR n q, F.CAP_S_DIV_TAIL_TAIL n q, F.CAP_S_DIV_HEAD_HEAD n q, divEnBit n q]) ∧
      (isBase = false → u.fld (F.CAP_S_DIV_CFG_ENTRIES_LOG2 n q) = v.toNat % 32 ∧ u.fld (F.CAP_S_DIV_CFG_SLOT n q) = v.toNat / 256 % 4 ∧
        FieldsStand s u [F.CAP_S_DIV_CFG_ENTRIES_LOG2 n q, F.CAP_S_DIV_CFG_SLOT n q, F.CAP_S_DIV_TAIL_TAIL n q, F.CAP_S_DIV_HEAD_HEAD n q, divEnBit n q]) ∧
      (if u.fld (F.CAP_S_DIV_BASE_ADDR n q) ≠ 0 ∧ 4 ≤ u.fld (F.CAP_S_DIV_CFG_ENTRIES_LOG2 n q) ∧ u.fld (F.CAP_S_DIV_CFG_ENTRIES_LOG2 n q) ≤ 16
        then u.fld (divEnBit n q) = s.fld (divEnBit n q) else u.fld (divEnBit n q) = 0) ∧
      u.fld (F.CAP_S_DIV_TAIL_TAIL n q) = 0 ∧ u.fld (F.CAP_S_DIV_HEAD_HEAD n q) = 0 ∧ (u.str n).divRes.get 0 q = 0 ∧ OnlyStream s u n)

/-- For queue q of 4 of stream n of 64: writing the entry reserved at TAIL, while no entry above TAIL is written, sends the payload bytes that fit to byte 32 of its slot and then the 32-byte header to the slot's start, takes the entry off the reservations and moves TAIL over it; no other stream changes. A write of HEAD stores the value, or TAIL where the value lies past TAIL, and nothing else. Clearing Bus Master Enable clears every enable bit of every stream, drops every reserved entry, sets TAIL of the queues that had one to the reservation count, and keeps the reservation counts and every BASE, CFG and HEAD; setting it sets the bit and nothing else. -/
def Obligations.DivertQueueResult : Prop :=
  (∀ (s : State) (n q num size : Nat) (e : DivEntry),
    s.live = true →
    s.nvme.linkUp = true →
    n < 64 →
    q < 4 →
    ((s.str n).divPend.find? (fun d => d.q == q && d.n == num) = some e) →
    s.fld (F.CAP_S_DIV_TAIL_TAIL n q) = num →
    (∀ d ∈ (s.str n).divDone, d.1 ≠ q) →
    size = 2048 * 2 ^ s.fld (F.CAP_S_DIV_CFG_SLOT n q) →
    ∃ u, exec (.divertEntryWrite n q num) s = .next u ∧ u.fld (F.CAP_S_DIV_TAIL_TAIL n q) = (num + 1) % 2 ^ 32 ∧
      (u.str n).divPend = (s.str n).divPend.filter (fun d => ¬(d.q = q ∧ d.n = num)) ∧ (u.str n).divRes = (s.str n).divRes ∧
      [Out.hostWrite 0 (s.fld (F.CAP_S_DIV_BASE_ADDR n q) * 4096 + num % 2 ^ s.fld (F.CAP_S_DIV_CFG_ENTRIES_LOG2 n q) * size + 32)
          (e.dgram.payload.take (min e.dgram.payload.length (size - 32))),
        Out.hostWrite 0 (s.fld (F.CAP_S_DIV_BASE_ADDR n q) * 4096 + num % 2 ^ s.fld (F.CAP_S_DIV_CFG_ENTRIES_LOG2 n q) * size)
          (e.header n (min e.dgram.payload.length (size - 32)))] <+: sent s u ∧
      (∀ m, m ≠ n → u.str m = s.str m) ∧
      (s.fld (F.CAP_S_DIV_HEAD_HEAD n q) = num → u.fld ⟨R.CAP_S_EVCAUSE n, 6, 1⟩ = 1)) ∧
  (∀ (s : State) (n q : Nat) (v : W32),
    s.live = true →
    n < 64 →
    q < 4 →
    ∃ u, exec (.divHeadWrite n q v) s = .next u ∧ OnlyFields s u [F.CAP_S_DIV_HEAD_HEAD n q] ∧
      u.fld (F.CAP_S_DIV_HEAD_HEAD n q) = (if (v.toNat + 2 ^ 32 - s.fld (F.CAP_S_DIV_HEAD_HEAD n q)) % 2 ^ 32 ≤
        (s.fld (F.CAP_S_DIV_TAIL_TAIL n q) + 2 ^ 32 - s.fld (F.CAP_S_DIV_HEAD_HEAD n q)) % 2 ^ 32 then v.toNat else s.fld (F.CAP_S_DIV_TAIL_TAIL n q))) ∧
  (∀ (s : State),
    s.live = true →
    (∀ n, n < 64 → ∀ e ∈ (s.str n).divPend, e.q < 4) →
    ∃ u, exec (.busMasterDisable false) s = .next u ∧ u.nvme.busMaster = false ∧ ∀ n, n < 64 → u.fld (F.CAP_S_CTRL_DIV_EN n) = 0 ∧ (u.str n).divPend = [] ∧
      (u.str n).divRes = (s.str n).divRes ∧ (∀ e ∈ (s.str n).divPend, u.fld (F.CAP_S_DIV_TAIL_TAIL n e.q) = (s.str n).divRes.get 0 e.q % 2 ^ 32) ∧
      ∀ q, q < 4 → u.reg (R.CAP_S_DIV_BASE n q) = s.reg (R.CAP_S_DIV_BASE n q) ∧ u.reg (R.CAP_S_DIV_CFG n q) = s.reg (R.CAP_S_DIV_CFG n q) ∧
        u.reg (R.CAP_S_DIV_HEAD n q) = s.reg (R.CAP_S_DIV_HEAD n q)) ∧
  (∀ (s : State),
    s.live = true →
    exec (.busMasterDisable true) s = .next { s with nvme := { s.nvme with busMaster := true } })

/-- For a span k (of 4,096) that is Pending and holds no recovered content: an active edge, in a Run state, of an enabled pin whose one Running stream has it as its one span to commit makes it Committing, decided by the pin, with the pin's number; CAPTURE COMMIT makes it Committing, decided by a command, and the command waits with outcome 0; CAPTURE DISCARD makes it Discarding, journals the discard, counts it and completes with outcome 0; a TIMEOUT makes it Discarding, journals and counts it. Each records the decision time and the placements accepted so far, and a commit takes the next place in the commit order. Every edge latches its time; with no span to commit it counts in TRIG_NOSPAN, and on a disabled pin it does nothing more. CAPTURE COMMIT and CAPTURE DISCARD of a Committed span complete with outcome 1. Registers not named, other spans and the rest of the state do not change. -/
def Obligations.SpanDecisionResult : Prop :=
  (∀ (s : State) (p n k : Nat) (v : SpanX),
    s.inRun = true →
    p < 4 →
    s.pinOn p = true →
    s.pinStreams p = [n] →
    s.pinSpans n = [k] →
    k < 4096 →
    s.span k = some v →
    s.spState k = 3 →
    s.on (F.CAP_SP_RECOVERED k) = false →
    ∃ u, exec (.trigEdge p) s = .next u ∧ u.reg (R.CAP_TRIG_TIME p) = BitVec.ofNat 64 s.time.ftc ∧ Decided s u k true 1 p ∧
      FieldsStand s u [⟨R.CAP_TRIG_TIME p, 0, 64⟩, F.CAP_SP_DECIDED_BY k, F.CAP_SP_PIN k, F.CAP_SP_DECIDE_TIME k, F.CAP_SP_STATE k]) ∧
  (∀ (s : State) (p : Nat),
    s.inRun = true →
    p < 4 →
    s.pinOn p = true →
    (∀ n, n < 64 → s.strState n = 1 → s.pinSpans n = []) →
    ∃ u, exec (.trigEdge p) s = .next u ∧ u.reg (R.CAP_TRIG_TIME p) = BitVec.ofNat 64 s.time.ftc ∧
      u.reg R.CAP_TRIG_NOSPAN = s.reg R.CAP_TRIG_NOSPAN + 1 ∧ OnlyRegs s u (fun x => x = R.CAP_TRIG_TIME p ∨ x = R.CAP_TRIG_NOSPAN)) ∧
  (∀ (s : State) (p : Nat),
    s.inRun = true →
    p < 4 →
    s.pinOn p = false →
    ∃ u, exec (.trigEdge p) s = .next u ∧ u.reg (R.CAP_TRIG_TIME p) = BitVec.ofNat 64 s.time.ftc ∧ OnlyRegs s u (fun x => x = R.CAP_TRIG_TIME p)) ∧
  (∀ (s : State) (l t k : Nat) (g : Tag) (v : SpanX),
    s.running l t 0x80 = some g →
    s.spanCmd l g = .inr k →
    k < 4096 →
    s.span k = some v →
    s.spState k = 3 →
    l < 96 ∧ t < 32 →
    ∃ u, exec (.captureCommit l t) s = .next u ∧ u.spState k = 4 ∧ u.fld (F.CAP_SP_DECIDED_BY k) = 3 ∧
      u.fld (F.CAP_SP_DECIDE_TIME k) = s.time.ftc % 2 ^ 64 ∧ u.cap.orderNo = s.cap.orderNo + 1 ∧ u.tag l t = some { g with taken := true } ∧
      u.span k = some { v with cutAt := some s.ur.placeNo, order := s.cap.orderNo, waits := v.waits ++ [{ lane := l, tag := t, code := 0 }] } ∧
      (∀ j, j ≠ t → u.tag l j = s.tag l j) ∧ (∀ m, m ≠ l → u.lane m = s.lane m) ∧ { u.lane l with tags := (s.lane l).tags } = s.lane l ∧
      { u.nvme with lanes := s.nvme.lanes } = s.nvme ∧ OnlySpan s { u with nvme := s.nvme, cap := { u.cap with orderNo := s.cap.orderNo } } k ∧
      FieldsStand s u [F.CAP_SP_DECIDED_BY k, F.CAP_SP_PIN k, F.CAP_SP_DECIDE_TIME k, F.CAP_SP_STATE k, ⟨R.LANE_TAGS l, t, 1⟩, ⟨R.LANE_TAGS l, 32 + t, 1⟩]) ∧
  (∀ (s : State) (l t k : Nat) (g : Tag) (v : SpanX) (q : Cq),
    s.running l t 0x84 = some g →
    PlainLane s l t g q →
    s.spanCmd l g = .inr k →
    k < 4096 →
    s.span k = some v →
    s.spState k = 3 →
    ∃ u, exec (.captureDiscard l t) s = .next u ∧ u.spState k = 6 ∧ u.fld (F.CAP_SP_DECIDED_BY k) = 3 ∧
      u.fld (F.CAP_SP_DECIDE_TIME k) = s.time.ftc % 2 ^ 64 ∧ u.reg R.CAP_DISC_TRIG = s.reg R.CAP_DISC_TRIG + 1 ∧
      u.ftl.journal = s.ftl.journal ++ [.discard (s.spHandle k) (s.fld (F.CAP_SP_NSID k))] ∧
      { u.ftl with journal := s.ftl.journal, journalPos := s.ftl.journalPos } = s.ftl ∧ IoAnswered s u l t g St.ok 0 [] ∧
      u.span k = some { v with cutAt := some s.ur.placeNo, order := s.cap.orderNo } ∧
      FnStands s u (s.owner l) (s.fld (F.LANE_STATUS_CQID l)) ∧ (∀ m, m ≠ l → u.lane m = s.lane m) ∧ (∀ j, j ≠ t → u.tag l j = s.tag l j) ∧
      OnlySpan s { lessAnswer s u with ftl := s.ftl, nvme := { (lessAnswer s u).nvme with lanes := s.nvme.lanes } } k ∧
      FieldsStand s u [F.CAP_SP_DECIDED_BY k, F.CAP_SP_PIN k, F.CAP_SP_DECIDE_TIME k, F.CAP_SP_STATE k, ⟨R.CAP_DISC_TRIG, 0, 64⟩, ⟨R.LANE_TAGS l, t, 1⟩, ⟨R.LANE_TAGS l, 32 + t, 1⟩]) ∧
  (∀ (c : Instr) (s : State) (l t k : Nat) (g : Tag) (q : Cq),
    ((c = .captureCommit l t ∧ s.running l t 0x80 = some g) ∨ (c = .captureDiscard l t ∧ s.running l t 0x84 = some g)) →
    PlainLane s l t g q →
    s.spanCmd l g = .inr k →
    s.spState k = 5 →
    ∃ u, exec c s = .next u ∧ IoAnswered s u l t g St.ok 1 [] ∧ OnlyIoAnswered s u l t) ∧
  (∀ (s : State) (k : Nat) (v : SpanX),
    s.live = true →
    k < 4096 →
    s.span k = some v →
    s.spState k = 3 →
    v.timeout ≠ 0 →
    s.on (F.CAP_SP_RECOVERED k) = false →
    ∃ u, exec (.spanTimeout k) s = .next u ∧ Decided s u k false 4 0 ∧ u.reg R.CAP_DISC_TIMEOUT = s.reg R.CAP_DISC_TIMEOUT + 1 ∧
      FieldsStand s u [F.CAP_SP_DECIDED_BY k, F.CAP_SP_PIN k, F.CAP_SP_DECIDE_TIME k, F.CAP_SP_STATE k, ⟨R.CAP_DISC_TIMEOUT, 0, 64⟩])

/-- For a span k of 4,096 whose stream does not free it automatically, on a running part: a Committing span whose extents are sealed and stored, at its turn, with no command waiting, its origin sequences below 2^60 (R400), becomes Committed; every extent of its range has a landed map entry, the commit's journal record with its origin sequence is the last one written, COMMITTED counts it and EXT_LANDED of its stream counts its extents, and a flash-pool span leaves the pool's count. A Discarding span whose extents are all sealed and that no PROVISIONAL READ still reads becomes Discarded: its stored clutches are dropped, the pool's count falls by them, and it holds no extents. No other span changes, nor the cluster, the lanes, the namespaces, the general map or the write buffer. -/
def Obligations.SpanEndResult : Prop :=
  (∀ (s : State) (k : Nat) (v : SpanX),
    s.live = true →
    k < 4096 →
    s.span k = some v →
    s.spState k = 4 →
    s.commitReady k v = true →
    s.commitTurn k v = true →
    v.waits = [] →
    s.ftl.nextSeq + 2 * s.fld (F.CAP_SP_EXT_COUNT k) + 1 < 2 ^ 60 →
    s.on (F.CAP_S_SPANCFG_AUTO_FREE (s.fld (F.CAP_SP_STREAM k))) = false →
    ∃ u, exec (.spanCommitInstant k) s = .next u ∧ u.spState k = 5 ∧ u.span k = some { v with exts := [], origin := s.ftl.nextSeq } ∧
      (∀ j, j ≠ k → u.span j = s.span j) ∧ (∀ x ∈ s.spRange k, u.capLanded (s.fld (F.CAP_SP_NSID k)) x = true) ∧
      u.reg R.CAP_COMMITTED = s.reg R.CAP_COMMITTED + 1 ∧
      u.reg (R.CAP_S_EXT_LANDED (s.fld (F.CAP_SP_STREAM k))) = s.reg (R.CAP_S_EXT_LANDED (s.fld (F.CAP_SP_STREAM k))) + BitVec.ofNat 64 (s.fld (F.CAP_SP_EXT_COUNT k)) ∧
      u.ftl.journal.getLast? = some (.commit (s.spHandle k) (s.fld (F.CAP_SP_NSID k)) (s.spFirst k) (s.fld (F.CAP_SP_EXT_COUNT k))
        (s.on (F.CAP_SP_MEDIUM k)) s.ftl.nextSeq) ∧ s.ftl.nextSeq < u.ftl.nextSeq ∧
      u.fld F.CAP_SPAN_POOL_POOL_USED = s.fld F.CAP_SPAN_POOL_POOL_USED - (if s.on (F.CAP_SP_MEDIUM k) then v.storedNo else 0) ∧
      u.ur = s.ur ∧ u.nvme.lanes = s.nvme.lanes ∧ u.nvme.nss = s.nvme.nss ∧ u.ftl.gens = s.ftl.gens ∧ u.ftl.wbuf = s.ftl.wbuf) ∧
  (∀ (s : State) (k : Nat) (v : SpanX),
    s.live = true →
    k < 4096 →
    s.span k = some v →
    s.spState k = 6 →
    (s.on (F.CAP_SP_RECOVERED k) = true ∨ s.allSealed (s.fld (F.CAP_SP_STREAM k)) k = true) →
    s.spanRead k = false →
    s.on (F.CAP_S_SPANCFG_AUTO_FREE (s.fld (F.CAP_SP_STREAM k))) = false →
    ∃ u, exec (.spanDiscarded k) s = .next u ∧ u.spState k = 7 ∧ u.span k = some { v with exts := [] } ∧ (∀ j, j ≠ k → u.span j = s.span j) ∧
      (∀ e ∈ v.exts, ∀ x, e.2 = some x → ∀ loc, x.stored = some loc → u.clutch loc = none) ∧
      (∀ loc, (∀ e ∈ v.exts, ∀ x, e.2 = some x → x.stored ≠ some loc) → u.clutch loc = s.clutch loc) ∧
      u.fld F.CAP_SPAN_POOL_POOL_USED = s.fld F.CAP_SPAN_POOL_POOL_USED - (if s.on (F.CAP_SP_MEDIUM k) then v.storedNo else 0) ∧
      { u.ftl with clutches := s.ftl.clutches } = s.ftl ∧ u.ur = s.ur ∧ u.nvme = s.nvme ∧ u.out = s.out)

/-- On a running part, for span k of 4,096: where its state is Committed or Discarded the write makes the descriptor Free (state 0, nothing held) and FREE_DESC counts it, and nothing else changes before streams whose placements wait for a descriptor open their spans with it; where no placement of any stream waits, that is the whole effect. In any other state the write changes nothing. -/
def Obligations.SpanFreeRule : Prop :=
  (∀ (s : State) (k : Nat),
    s.live = true →
    k < 4096 →
    (s.spState k = 5 ∨ s.spState k = 7) →
    ∃ u, exec (.spanFree k) s = .next (u.over u.waitingStreams State.retryWaits) ∧ u.spState k = 0 ∧ u.span k = none ∧
      u.fld F.CAP_SPAN_FREE_FREE_DESC = (s.fld F.CAP_SPAN_FREE_FREE_DESC + 1) % 8192 ∧
      FieldsStand s u [F.CAP_SP_STATE k, F.CAP_SPAN_FREE_FREE_DESC] ∧ OnlySpan s u k ∧
      ((∀ e ∈ s.cap.streams, ∀ p ∈ e.2.hold, p.waited = false) → exec (.spanFree k) s = .next u)) ∧
  (∀ (s : State) (k : Nat),
    s.spState k ≠ 5 →
    s.spState k ≠ 7 →
    exec (.spanFree k) s = .next s)

/-- On a running part that is not read-only, with no overhang to program first: storing extent x of a span of stream n, sealed and not yet stored in span k, while the pool has room and the extent is programmed at location loc, records loc in the span's extent, counts it in EXT_STORED and POOL_USED, and no other span changes. A write of CAP.SPAN_POOL while no stream and no span uses the pool stores WL and POOL_EXT, and POOL_EN where 1 is written and the spare then is not below twice the reserve; of the translation layer only the pool's blocks change. A PROVISIONAL READ that may start, whose checks pass and that meets no Committing span, looks its blocks up once as it starts: the content of the spans that hold them sealed, else what a Read returns, with its dword 0. When its media reads are done it gives the bytes it found, in a namespace without a key page and with no block lost or failing its tag, and completes with that dword 0; until then it waits. -/
def Obligations.SpanPoolResult : Prop :=
  (∀ (s u1 : State) (n x k loc : Nat) (v : SpanX) (ex : Extent),
    s.live = true →
    s.on F.FTL_STATUS_READ_ONLY = false →
    s.overhangFirst = false →
    k < 4096 →
    s.unstored n x = some (k, v, ex) →
    s.fld F.CAP_SPAN_POOL_POOL_USED < s.fld F.CAP_SPAN_POOL_POOL_EXT →
    s.programSpan k x ex .pool = (u1, some loc) →
    ∃ u, exec (.poolStore n x) s = .next u ∧
      u.span k = some { v with exts := v.exts.set none x (some { ex with stored := some loc }) } ∧ (∀ j, j ≠ k → u.span j = u1.span j) ∧
      u.fld (F.CAP_SP_EXT_STORED k) = (u1.fld (F.CAP_SP_EXT_STORED k) + 1) % 2 ^ 32 ∧
      u.fld F.CAP_SPAN_POOL_POOL_USED = (u1.fld F.CAP_SPAN_POOL_POOL_USED + 1) % 2 ^ 28 ∧ u.ftl = u1.ftl ∧
      FieldsStand u1 u [F.CAP_SP_EXT_STORED k, F.CAP_SPAN_POOL_POOL_USED]) ∧
  (∀ (s : State) (v : W64),
    s.live = true →
    s.poolOpen = true →
    ∃ u, exec (.poolConfig v) s = .next u ∧ u.fld F.CAP_SPAN_POOL_WL = v.toNat / 2 ^ 62 % 2 ∧
      u.fld F.CAP_SPAN_POOL_POOL_EXT = v.toNat / 2 ^ 32 % 2 ^ 28 ∧ u.fld F.CAP_SPAN_POOL_POOL_USED = s.fld F.CAP_SPAN_POOL_POOL_USED ∧
      (v.getLsbD 63 = false → u.fld F.CAP_SPAN_POOL_POOL_EN = 0) ∧
      (v.getLsbD 63 = true → (u.on F.CAP_SPAN_POOL_POOL_EN = true ↔
        ¬(s.setReg R.CAP_SPAN_POOL (u.reg R.CAP_SPAN_POOL ||| 0x8000000000000000#64)).spare < 2 * (s.fld F.FTL_SPARE_RESERVE_BLK : Int))) ∧
      u.cap = s.cap ∧ { u.ftl with poolSet := s.ftl.poolSet } = s.ftl) ∧
  (∀ (s : State) (l t : Nat) (g : Tag) (bs : List (Blk × Bool)),
    Starts s l t g →
    g.cmd.sqe.opc.toNat = 0x82 →
    s.vendorErr l g.cmd.sqe = none →
    s.rangeErr l g.cmd.sqe true = none →
    (∀ k ∈ s.spansUsed, s.spState k ≠ 4) →
    (bs = (List.range g.cmd.sqe.nlb).map (fun i => s.provBlk g.cmd.sqe.nsid.toNat (g.cmd.sqe.slba + i))) →
    ∃ u v, exec (.commandStart l t) s = .next u ∧ u.tag l t = some { g with stage := .started, seen := some v } ∧ v.blks = bs.map Prod.fst ∧
      v.dw0 = readDw0 (bs.map (fun b => b.1.state)) ((extsOf g.cmd.sqe.slba g.cmd.sqe.nlb).any (fun x => s.unlanded g.cmd.sqe.nsid.toNat x)) (bs.any Prod.snd) false ∧
      (∀ j, j ≠ t → u.tag l j = s.tag l j) ∧ (∀ m, m ≠ l → u.lane m = s.lane m) ∧ u.cap = s.cap ∧ u.out = s.out) ∧
  (∀ (s : State) (l t : Nat) (g : Tag) (q : Cq) (v : Seen) (ps : List Nat),
    s.running l t 0x82 = some g →
    PlainLane s l t g q →
    s.vendorErr l g.cmd.sqe = none →
    s.rangeErr l g.cmd.sqe true = none →
    g.seen = some v →
    s.awaiting (.cmd l t) = false →
    s.cmdPage l g.cmd.sqe.nsid.toNat = none →
    (∀ b ∈ v.blks, b.page = none ∧ b.lost = false ∧ b.auth = false ∧ b.bad = false) →
    (ps = [] ∨ ∀ b ∈ v.blks, b.hbm = false) →
    ∃ u, exec (.provisionalRead l t ps) s = .next u ∧ IoAnswered s u l t g St.ok v.dw0
        (if (v.blks.flatMap Blk.bytes).isEmpty then []
         else [.data (hostPort t) (s.owner l) (s.fld (F.LANE_STATUS_SQID l)) g.cmd.sqe.cid 0 (v.blks.flatMap Blk.bytes)]) ∧
      OnlyIoAnswered s { u with free := s.free } l t) ∧
  (∀ (s : State) (l t : Nat) (g : Tag) (ps : List Nat),
    s.running l t 0x82 = some g →
    s.vendorErr l g.cmd.sqe = none →
    s.rangeErr l g.cmd.sqe true = none →
    g.seen.isSome = true →
    s.awaiting (.cmd l t) = true →
    exec (.provisionalRead l t ps) s = .next s)

/-- For sub-port j of port p, present, enabled, with its link up and its port's domain On: a frame received counts 1 in RX_FRAMES, its octets in RX_OCTETS, and 1 in exactly one of the eighteen counters of the accounting order; every other one of them stands. A frame bad at the MAC counts in FCS_ERR, else one above MAX_FRAME in OVERSIZE, else one for another destination in DA_MISS, else a MAC control frame in MAC_CTRL. No counter of another sub-port changes. A frame that reaches a port whose domain is not On changes PWR.SLEEP_FRAMES alone, and one on a sub-port that is not enabled or whose link is down changes nothing. -/
def Obligations.FrameCountedOnce : Prop :=
  (∀ (s : State) (p j : Nat) (f : Frame),
    s.subOn p j = true →
    s.linkUp p j = true →
    s.dom (21 + p) = 2 →
    ∃ u, exec (.ethFrameReceive p j f) s = .next u ∧ u.reg (R.ETH_N_RX_FRAMES p j) = s.reg (R.ETH_N_RX_FRAMES p j) + 1 ∧
      u.reg (R.ETH_N_RX_OCTETS p j) = s.reg (R.ETH_N_RX_OCTETS p j) + BitVec.ofNat 64 f.octets ∧
      (∃ i, i < 18 ∧ u.reg (R.ETH_N_FCS_ERR p j + 8 * i) = s.reg (R.ETH_N_FCS_ERR p j + 8 * i) + 1 ∧
        (∀ k, k < 18 → k ≠ i → u.reg (R.ETH_N_FCS_ERR p j + 8 * k) = s.reg (R.ETH_N_FCS_ERR p j + 8 * k)) ∧
        (f.fcsErr = true → i = 0) ∧ (f.fcsErr = false → 4 * s.fld (F.ETH_SP_CFG_MAX_FRAME p j) < f.octets → i = 1) ∧
        (f.fcsErr = false → f.octets ≤ 4 * s.fld (F.ETH_SP_CFG_MAX_FRAME p j) → s.daOk p j f = false → i = 2) ∧
        (f.fcsErr = false → f.octets ≤ 4 * s.fld (F.ETH_SP_CFG_MAX_FRAME p j) → s.daOk p j f = true → f.macCtrl = true → i = 3)) ∧
      (∀ p' j' k, p' < 8 → j' < 4 → (p', j') ≠ (p, j) → k < 23 → u.reg (R.ETH_N_RX_FRAMES p' j' + 8 * k) = s.reg (R.ETH_N_RX_FRAMES p' j' + 8 * k))) ∧
  (∀ (s : State) (p j : Nat) (f : Frame),
    p < s.part.ports →
    j < 4 →
    s.power.phase ≠ .off →
    s.power.phase ≠ .held →
    s.dom (21 + p) ≠ 2 →
    ∃ u, exec (.ethFrameReceive p j f) s = .next u ∧ u.reg R.PWR_SLEEP_FRAMES = s.reg R.PWR_SLEEP_FRAMES + 1 ∧ OnlyRegs s u (fun x => x = R.PWR_SLEEP_FRAMES)) ∧
  (∀ (s : State) (p j : Nat) (f : Frame),
    s.dom (21 + p) = 2 →
    (s.subOn p j = false ∨ s.linkUp p j = false) →
    exec (.ethFrameReceive p j f) s = .next s)

/-- For sub-port j of port p present on a running part: LINK_UP of an enabled one whose link is down, without GARP, clears its local fault bit, sets its link bit and the link cause; LINK_DOWN of one whose link is up, with no frame in progress and the port's domain not Off, sets the local fault bit, clears the link bit, sets the cause, and ends a pause condition of its and an announcement it owed. While the port's domain is not Off: REMOTE_FAULT stores the bit; a FEC window stores whether more than 10^6 symbol errors were counted, sets its cause when the bit rises, and adds its codewords to FEC_CORR and FEC_UNCORR; STRANGER_REARM clears STRANGER.VALID. No other register bit changes but event flags, and nothing behind the registers but what is named. -/
def Obligations.EthernetLinkResult : Prop :=
  (∀ (s : State) (p j : Nat),
    s.subOn p j = true →
    s.linkUp p j = false →
    s.on (F.ETH_SP_CFG_GARP p j) = false →
    ∃ u, exec (.linkUp p j) s = .next u ∧ u.linkUp p j = true ∧ bit (u.fld (F.ETH_STATUS_LOCAL_FAULT p)) j = false ∧
      u.fld ⟨R.ETH_EVCAUSE p, 0, 1⟩ = 1 ∧
      OnlyFieldsAndEvents s u [⟨R.ETH_STATUS p, (F.ETH_STATUS_LINK_UP p).lo + j, 1⟩, ⟨R.ETH_STATUS p, (F.ETH_STATUS_LOCAL_FAULT p).lo + j, 1⟩, ⟨R.ETH_EVCAUSE p, 0, 1⟩]) ∧
  (∀ (s : State) (p j : Nat),
    s.live = true →
    p < s.part.ports →
    j < 4 →
    s.dom (21 + p) ≠ 0 →
    s.linkUp p j = true →
    ∃ u, exec (.linkDown p j none) s = .next u ∧ u.linkUp p j = false ∧ bit (u.fld (F.ETH_STATUS_LOCAL_FAULT p)) j = true ∧
      u.fld ⟨R.ETH_EVCAUSE p, 0, 1⟩ = 1 ∧ u.eth.xoff = s.eth.xoff.filter (fun e => e.1 ≠ 4 * p + j) ∧
      u.eth.garpDue = s.eth.garpDue.filter (fun x => x ≠ (p, j)) ∧
      OnlyFieldsAndEvents s { u with eth := { u.eth with xoff := s.eth.xoff, garpDue := s.eth.garpDue } }
        [⟨R.ETH_STATUS p, (F.ETH_STATUS_LINK_UP p).lo + j, 1⟩, ⟨R.ETH_STATUS p, (F.ETH_STATUS_LOCAL_FAULT p).lo + j, 1⟩, ⟨R.ETH_EVCAUSE p, 0, 1⟩]) ∧
  (∀ (s : State) (p j : Nat) (on : Bool),
    s.live = true →
    p < s.part.ports →
    s.dom (21 + p) ≠ 0 →
    j < 4 →
    ∃ u, exec (.remoteFault p j on) s = .next u ∧ bit (u.fld (F.ETH_STATUS_REMOTE_FAULT p)) j = on ∧
      OnlyFields s u [⟨R.ETH_STATUS p, (F.ETH_STATUS_REMOTE_FAULT p).lo + j, 1⟩]) ∧
  (∀ (s : State) (p j errors corr uncorr : Nat),
    s.live = true →
    p < s.part.ports →
    s.dom (21 + p) ≠ 0 →
    j < 4 →
    ∃ u, exec (.fecSerWindow p j errors corr uncorr) s = .next u ∧ bit (u.fld (F.ETH_STATUS_HI_SER p)) j = decide (1000000 < errors) ∧
      u.reg (R.ETH_N_FEC_CORR p j) = s.reg (R.ETH_N_FEC_CORR p j) + BitVec.ofNat 64 corr ∧
      u.reg (R.ETH_N_FEC_UNCORR p j) = s.reg (R.ETH_N_FEC_UNCORR p j) + BitVec.ofNat 64 uncorr ∧
      (1000000 < errors → bit (s.fld (F.ETH_STATUS_HI_SER p)) j = false → u.fld ⟨R.ETH_EVCAUSE p, 1, 1⟩ = 1) ∧
      (errors ≤ 1000000 ∨ bit (s.fld (F.ETH_STATUS_HI_SER p)) j = true →
        OnlyFields s u [⟨R.ETH_STATUS p, (F.ETH_STATUS_HI_SER p).lo + j, 1⟩, ⟨R.ETH_N_FEC_CORR p j, 0, 64⟩, ⟨R.ETH_N_FEC_UNCORR p j, 0, 64⟩]) ∧
      OnlyFieldsAndEvents s u
        [⟨R.ETH_STATUS p, (F.ETH_STATUS_HI_SER p).lo + j, 1⟩, ⟨R.ETH_EVCAUSE p, 1, 1⟩, ⟨R.ETH_N_FEC_CORR p j, 0, 64⟩, ⟨R.ETH_N_FEC_UNCORR p j, 0, 64⟩]) ∧
  (∀ (s : State) (p : Nat),
    s.live = true →
    p < s.part.ports →
    s.dom (21 + p) ≠ 0 →
    ∃ u, exec (.strangerRearm p) s = .next u ∧ u.on (F.ETH_STRANGER_VALID p) = false ∧ OnlyFields s u [F.ETH_STRANGER_VALID p])

/-- In Run the oldest request of sub-port j of port p is answered in clear where TX_PROTECT is 0: its reply leaves, an ARP request's without a C-tag being the ARP reply of the sub-port's MAC address for the target to the requester, padded, with its FCS; it counts in TX_FRAMES, and the request is gone. A refill gives one token back, up to a full bucket. While free space stays below XOFF_FREE + 128 on an eligible port that sent XOFF, a repeat sends one more pause frame as ETHp.PAUSE says, counts it and sets the cause. SA_IN_USE_WRITE of 1 on a part with MACsec, on a port whose domain is not Off, for a MACsec key page of the physical function, marks the SA in use and gives it a copy of the page's key; of 0, it marks it unused and takes the copy away; each brings the page's count of SAs up to date. Nothing else changes. -/
def Obligations.EthernetRepliesAndKeysResult : Prop :=
  (∀ (s : State) (p j : Nat) (r : MgmtReq),
    s.inRun = true →
    p < 8 ∧ j < 4 →
    (s.eth.requests.find? (fun r => r.port == p && r.sub == j) = some r) →
    s.on (F.ETH_SP_CFG_TX_PROTECT p j) = false →
    ∃ u, exec (.arpReply p j) s = .next u ∧ u.out = s.out ++ [.frame p j (macFrame ((s.replyBody r).1 ++ (s.replyBody r).2))] ∧
      u.eth.requests = s.eth.requests.erase r ∧ u.reg (R.ETH_N_TX_FRAMES p j) = s.reg (R.ETH_N_TX_FRAMES p j) + 1 ∧
      OnlyRegs s { u with out := s.out, eth := { u.eth with requests := s.eth.requests } } (fun x => x = R.ETH_N_TX_FRAMES p j)) ∧
  (∀ (s : State) (p j : Nat) (r : MgmtReq),
    s.inRun = true →
    (s.eth.requests.find? (fun r => r.port == p && r.sub == j) = some r) →
    r.ipv6 = false →
    s.on (F.ETH_SP_CFG_TX_PROTECT p j) = false →
    s.on (F.ETH_SP_CFG_VLAN_EN p j) = false →
    ∃ u bs, exec (.arpReply p j) s = .next u ∧ u.out = s.out ++ [.frame p j (bs ++ fcsOf bs)] ∧ bs.length = 60 ∧
      bs.take 42 = beBytes 6 r.mac ++ beBytes 6 (s.fld (F.ETH_SP_MAC_MAC p j)) ++ beBytes 2 0x0806 ++ beBytes 8 0x0001080006040002 ++
        beBytes 6 (s.fld (F.ETH_SP_MAC_MAC p j)) ++ beBytes 4 r.target ++ beBytes 6 r.mac ++ beBytes 4 r.ip) ∧
  (∀ (s : State) (p j : Nat),
    ∃ u, exec (.mgmtTokenRefill p j) s = .next u ∧ u.eth.tokensUsed.get 0 (4 * p + j) = s.eth.tokensUsed.get 0 (4 * p + j) - 1 ∧
      (∀ k, k ≠ 4 * p + j → u.eth.tokensUsed.get 0 k = s.eth.tokensUsed.get 0 k) ∧ { u with eth := { u.eth with tokensUsed := s.eth.tokensUsed } } = s) ∧
  (∀ (s : State) (p j : Nat),
    p < 8 ∧ j < 4 →
    (s.xoffOf p j).isSome = true →
    s.pauseEligible p = true →
    s.fld (F.ETH_PAUSE_QUANTA p) ≠ 0 →
    s.freeCells p j * 1024 < (s.fld (F.ETH_PAUSE_XOFF_FREE p) + 128) * s.areaCells p →
    ∃ u, exec (.xoffRepeat p j) s = .next u ∧
      sent s u = [.pause p j (s.fld (F.ETH_PAUSE_MODE p) == 2) (s.fld (F.ETH_PAUSE_PFC_PRIO p)) (s.fld (F.ETH_PAUSE_QUANTA p))] ∧
      u.reg (R.ETH_N_TX_FRAMES p j) = s.reg (R.ETH_N_TX_FRAMES p j) + 1 ∧ u.fld ⟨R.ETH_EVCAUSE p, 6, 1⟩ = 1 ∧
      u.xoffOf p j = some (4 * p + j, s.fld (F.ETH_PAUSE_MODE p) == 2, s.fld (F.ETH_PAUSE_PFC_PRIO p)) ∧
      (∀ p' j', p' < 8 → j' < 4 → (p', j') ≠ (p, j) → u.xoffOf p' j' = s.xoffOf p' j') ∧
      OnlyFieldsAndEvents s { u with eth := { u.eth with xoff := s.eth.xoff } } [⟨R.ETH_N_TX_FRAMES p j, 0, 64⟩, ⟨R.ETH_EVCAUSE p, 6, 1⟩]) ∧
  (∀ (s : State) (p idx : Nat) (tx : Bool),
    s.live = true →
    s.part.macsec = true →
    p < s.part.ports →
    s.dom (21 + p) ≠ 0 →
    s.on (saInUse p tx idx) = false →
    s.fld (F.CPH_KP_STATE_KIND (s.fld (saKeyPage p tx idx))) = 3 →
    s.fld (F.CPH_KP_STATE_OWNER (s.fld (saKeyPage p tx idx))) = 0 →
    ∃ u, exec (.saInUseWrite p tx idx true) s = .next u ∧ u.on (saInUse p tx idx) = true ∧
      u.eth.saKeys.get none (saSlot p tx idx) = some (s.fld (saKeyPage p tx idx), s.cph.keys.get [] (s.fld (saKeyPage p tx idx))) ∧
      (∀ k, k ≠ saSlot p tx idx → u.eth.saKeys.get none k = s.eth.saKeys.get none k) ∧
      OnlyFields s { u with eth := { u.eth with saKeys := s.eth.saKeys } } [saInUse p tx idx, F.CPH_KP_STATE_SA_REFS (s.fld (saKeyPage p tx idx))]) ∧
  (∀ (s : State) (p idx : Nat) (tx : Bool),
    s.live = true →
    s.part.macsec = true →
    p < s.part.ports →
    s.dom (21 + p) ≠ 0 →
    s.on (saInUse p tx idx) = true →
    ∃ u, exec (.saInUseWrite p tx idx false) s = .next u ∧ u.on (saInUse p tx idx) = false ∧ u.eth.saKeys.get none (saSlot p tx idx) = none ∧
      (∀ k, k ≠ saSlot p tx idx → u.eth.saKeys.get none k = s.eth.saKeys.get none k) ∧
      OnlyFields s { u with eth := { u.eth with saKeys := s.eth.saKeys } } [saInUse p tx idx, F.CPH_KP_STATE_SA_REFS (s.fld (saKeyPage p tx idx))])

/-- For an existing, enabled function of a running part a doorbell stores the tail of the admin queue, or of a queue, when it names an entry of it. Where the part fetches and no admin queue has an entry, the turn goes to the lane that wants it and lies next above the lane of the last turn: it reserves the lowest free tags, as many as 2^AB, 8, its free tags and its unfetched entries allow, in fetch order, moves the queue's fetch pointer over as many entries and sends one fetch read. When the oldest fetch read of a lane neither Frozen nor being deleted returns as many entries as it has tags, each entry waits in its tag with its order kept, and FETCHED counts them. A waiting command of a Running lane that nothing earlier overlaps, of an honoured opcode that reads no media, starts. No other lane, function, register or part of the state changes. -/
def Obligations.LaneFetchResult : Prop :=
  (∀ (s : State) (f qid tail : Nat) (q : Sq),
    s.live = true →
    s.fnExists f = true →
    s.on (Nv.EN f) = true →
    qid ≠ 0 ∧ s.sq f qid = some q ∧ tail < q.size →
    ∃ u, exec (.sqTailDoorbell f qid tail) s = .next u ∧ u.sq f qid = some { q with tail := tail } ∧ (∀ k, k ≠ qid → u.sq f k = s.sq f k) ∧
      { u.fn f with sqs := (s.fn f).sqs } = s.fn f ∧ (∀ g, g ≠ f → u.fn g = s.fn g) ∧ { u with nvme := { u.nvme with fns := s.nvme.fns } } = s) ∧
  (∀ (s : State) (f tail : Nat),
    s.live = true →
    s.fnExists f = true →
    s.on (Nv.EN f) = true →
    tail < s.asqSize f →
    ∃ u, exec (.sqTailDoorbell f 0 tail) s = .next u ∧ u.fn f = { s.fn f with admTail := tail } ∧ (∀ g, g ≠ f → u.fn g = s.fn g) ∧
      { u with nvme := { u.nvme with fns := s.nvme.fns } } = s) ∧
  (∀ (s : State) (l n : Nat) (q : Sq) (ts : List Nat),
    s.fetching = true →
    (∀ f ∈ s.fnList, s.adminWaits f = false) →
    l < 96 ∧ s.nvme.lastLane < 96 →
    s.wantsFetch l = true →
    (∀ m, m < 96 → m ≠ l → s.wantsFetch m = true → (l + 95 - s.nvme.lastLane) % 96 < (m + 95 - s.nvme.lastLane) % 96) →
    s.laneSq l = some q →
    n = min (min (2 ^ (((s.fn (s.owner l)).features.get 0 1).toNat % 8)) 8) ((q.tail + q.size - q.next) % q.size) →
    ts = (s.freeTags l).take n →
    ∃ u, exec .laneFetch s = .next u ∧ u.nvme.lastLane = l ∧ u.out = s.out ++ [.fetch l q.next ts.length] ∧
      (∀ i t, ts[i]? = some t → u.tag l t = some { order := (s.lane l).order + i }) ∧ (∀ t, t ∉ ts → u.tag l t = s.tag l t) ∧
      (u.lane l).fetches = (s.lane l).fetches ++ [ts] ∧ (u.lane l).order = (s.lane l).order + ts.length ∧ (∀ m, m ≠ l → u.lane m = s.lane m) ∧
      u.sq (s.owner l) (s.fld (F.LANE_STATUS_SQID l)) = some { q with next := (q.next + ts.length) % q.size } ∧
      FieldsStand s u [⟨R.LANE_TAGS l, 0, 64⟩] ∧
      { u with regs := s.regs, out := s.out, nvme := { u.nvme with lanes := s.nvme.lanes, fns := s.nvme.fns, lastLane := s.nvme.lastLane } } = s) ∧
  (∀ (s : State) (l : Nat) (es : List Fetched) (tags : List Nat) (rest : List (List Nat)),
    s.live = true →
    l < 96 →
    (s.lane l).fetches = tags :: rest →
    es.length = tags.length →
    tags.Nodup →
    (∀ t ∈ tags, t < 32) →
    s.fld (F.LANE_STATUS_STATE l) ≠ 2 →
    ((s.laneSq l).all (fun x => x.deleting.isNone) = true) →
    ∃ u, exec (.fetchComplete l es) s = .next u ∧ (u.lane l).fetches = rest ∧
      (∀ (i t : Nat) (e : Fetched) (g : Tag), tags[i]? = some t → es[i]? = some e → s.tag l t = some g →
        u.tag l t = some { g with stage := .waiting, cmd := e, fetchedAt := s.nvme.posted, deny := s.denyAt e.sqe }) ∧
      (∀ t, t ∉ tags → u.tag l t = s.tag l t) ∧ (∀ m, m ≠ l → u.lane m = s.lane m) ∧
      u.fld (F.LANE_FETCHED_FETCHED l) = (s.fld (F.LANE_FETCHED_FETCHED l) + tags.length) % 2 ^ (F.LANE_FETCHED_FETCHED 0).len ∧
      FieldsStand s u [⟨R.LANE_TAGS l, 0, 64⟩, F.LANE_FETCHED_FETCHED l] ∧ { u with regs := s.regs, nvme := { u.nvme with lanes := s.nvme.lanes } } = s) ∧
  (∀ (s : State) (l t : Nat) (g : Tag),
    Starts s l t g →
    g.cmd.sqe.opc.toNat ∈ [0x00, 0x01, 0x08, 0x09, 0x80, 0x84, 0x8A] →
    ∃ u, exec (.commandStart l t) s = .next u ∧ u.tag l t = some { g with stage := .started } ∧ (∀ j, j ≠ t → u.tag l j = s.tag l j) ∧
      { u.lane l with tags := (s.lane l).tags } = s.lane l ∧ (∀ m, m ≠ l → u.lane m = s.lane m) ∧
      FieldsStand s u [⟨R.LANE_TAGS l, t, 1⟩, ⟨R.LANE_TAGS l, 32 + t, 1⟩] ∧ { u with regs := s.regs, nvme := { u.nvme with lanes := s.nvme.lanes } } = s)

/-- On a running part with function f existing: CC written with EN = 1 while it was 0 stores CC, clears SHST and, with the page size, entry sizes and command set the part takes, stands up the admin completion queue of ACQ and AQA; with another it sets CFS. An enabled controller without CFS, not in Blank and not after a fatal start, becomes ready. A controller reset, a function reset, the PCI Express resets and the disappearance of a VF leave CC and CSTS 0, the function's queues, features, requests and notices gone, and every lane it owns Unbound and empty; no completion is posted. A function reset clears MSI-X Enable and Function Mask as well; the PCI Express resets end every VF, bring the link down, and clear every DIV_EN bit. Releasing PERST_N in the Run phase brings the link up. LANE_OWNER_WRITE of an Unbound lane stores the owner where a VF owns fewer than 64. -/
def Obligations.ControllerLifeResult : Prop :=
  (∀ (s : State) (f : Nat) (cc : W32),
    s.live = true →
    s.fnExists f = true →
    s.on (Nv.EN f) = false →
    cc.getLsbD 0 = true →
    ∃ u, exec (.ccEnable f cc) s = .next u ∧ u.reg (Nv.CC f) = cc.setWidth 64 ∧ u.fld (Nv.SHST f) = 0 ∧ (∀ g, g ≠ f → u.fn g = s.fn g) ∧
      (if cc.toNat / 128 % 16 = 0 ∧ cc.toNat / 65536 % 16 = 6 ∧ cc.toNat / 1048576 % 16 = 4 ∧ cc.toNat / 16 % 8 = 0 then
        (u.fn f).cqs.get none 0 = some { base := s.reg (Nv.ACQ f), size := (s.reg (Nv.AQA f)).toNat / 65536 % 4096 + 1, ien := true } ∧
          (u.fn f).admTail = 0 ∧ (u.fn f).admNext = 0 ∧ (∀ k, k ≠ 0 → (u.fn f).cqs.get none k = (s.fn f).cqs.get none k) ∧
          FieldsStand s u [⟨Nv.CC f, 0, 64⟩, Nv.SHST f] ∧ { u with regs := s.regs, nvme := { u.nvme with fns := s.nvme.fns } } = s
       else u.fld (Nv.CFS f) = 1 ∧ OnlyFields s u [⟨Nv.CC f, 0, 64⟩, Nv.SHST f, Nv.CFS f])) ∧
  (∀ (s : State) (f : Nat),
    s.live = true →
    s.fnExists f = true →
    s.on (Nv.EN f) = true →
    s.on (Nv.CFS f) = false →
    s.fld F.SEC_LC_STATE ≠ 0 →
    s.power.fatal = false →
    ∃ u, exec (.controllerReady f) s = .next u ∧ u.on (Nv.RDY f) = true ∧ OnlyFields s u [Nv.RDY f]) ∧
  (∀ (s : State) (f : Nat),
    s.live = true →
    s.fnExists f = true →
    s.on (Nv.EN f) = true →
    ∃ u, exec (.controllerReset f) s = .next u ∧ ResetFn s u f ∧ (u.fn f).msixEn = (s.fn f).msixEn ∧ (u.fn f).msixMask = (s.fn f).msixMask ∧
      (∀ g, g ≠ f → u.fn g = s.fn g) ∧ u.nvme.posted = s.nvme.posted) ∧
  (∀ (s : State) (f : Nat),
    s.live = true →
    s.fnExists f = true →
    ∃ u, exec (.functionLevelReset f) s = .next u ∧ ResetFn s u f ∧ (u.fn f).msixEn = false ∧ (u.fn f).msixMask = false ∧
      (∀ g, g ≠ f → u.fn g = s.fn g) ∧ u.nvme.posted = s.nvme.posted) ∧
  (∀ (s : State),
    s.live = true →
    ∃ u, exec .pcieConventionalReset s = .next u ∧ (∀ f, f ≤ s.nvme.numVfs → ResetFn s u f ∧ (u.fn f).msixEn = false) ∧ u.nvme.numVfs = 0 ∧
      u.nvme.linkUp = false ∧ u.nvme.perstLow = true ∧ (∀ n, n < 64 → u.fld (F.CAP_S_CTRL_DIV_EN n) = 0) ∧ u.nvme.posted = s.nvme.posted) ∧
  (∀ (s : State),
    s.nvme.perstLow = true →
    s.power.phase = .run →
    ∃ u, exec .perstRelease s = .next u ∧ u.nvme.perstLow = false ∧ u.nvme.linkUp = true ∧ u.power.linkL2 = false ∧ u.power.wakeN = false ∧
      FieldsStand s u [⟨R.PWR_DOMSTATE0, 58, 2⟩] ∧
      { u with regs := s.regs, nvme := { u.nvme with perstLow := true, linkUp := s.nvme.linkUp }, power := { u.power with linkL2 := s.power.linkL2, wakeN := s.power.wakeN } } = s) ∧
  (∀ (s : State) (on : Bool) (n : Nat),
    s.live = true →
    s.nvme.numVfs ≤ 31 →
    ∃ u, exec (.vfEnable on n) s = .next u ∧ u.nvme.numVfs = (if on then min n 31 else 0) ∧
      (∀ f, u.nvme.numVfs < f → f ≤ s.nvme.numVfs → ResetFn s u f ∧ (u.fn f).msixEn = false) ∧ (∀ f, f ≤ u.nvme.numVfs → u.fn f = s.fn f) ∧
      u.nvme.posted = s.nvme.posted) ∧
  (∀ (s : State) (l owner : Nat),
    s.live = true →
    l < 96 →
    owner < 32 →
    s.fld (F.LANE_STATUS_STATE l) = 0 →
    (owner = 0 ∨ (s.owned owner).length < 64) →
    ∃ u, exec (.laneOwnerWrite l owner) s = .next u ∧ u.owner l = owner ∧ OnlyFields s u [F.LANE_CFG_OWNER l])

/-- For a ready function f whose admin completion queue stands: Create I/O Completion Queue and Create I/O Submission Queue (without a key page) whose checks pass make the queue of the entry's fields; a submission queue binds its lane, which is Running and empty. Delete of a completion queue no submission queue uses removes it; Delete of a submission queue whose lane holds no command removes it and leaves the lane Unbound. Abort of a waiting command completes that command with Command Abort Requested and then itself with dword 0 = 0; of a queue that does not exist, itself with dword 0 = 1; while four others are outstanding, itself with Abort Command Limit Exceeded. LANE RESUME of a Frozen lane whose tags are free makes it Running and completes with dword 0 = 1. Opening a vector's way sends exactly the pending messages that it lets through; the coalescing time of a queue that holds entries ends the holding and sends its message if the vector is open. -/
def Obligations.QueueCommandsResult : Prop :=
  (∀ (s : State) (f : Nat) (c : Sqe) (q : Cq),
    s.adminOk f = true →
    c.opc.toNat = 5 →
    (s.fn f).cqs.get none 0 = some q →
    0 < c.qid ∧ c.qid ≤ (s.owned f).length →
    (s.fn f).cqs.get none c.qid = none →
    c.cdw10.toNat / 65536 ≠ 0 →
    c.cdw11.getLsbD 0 = true →
    c.cdw11.toNat / 65536 < fnVectors f →
    ∃ u, exec (.createIoCq f c) s = .next u ∧ Answered s u f c St.ok 0 [] ∧
      (u.fn f).cqs.get none c.qid = some { base := c.prp1, size := c.cdw10.toNat / 65536 + 1, ien := c.cdw11.getLsbD 1, iv := c.cdw11.toNat / 65536 } ∧
      (∀ k, k ≠ 0 → k ≠ c.qid → (u.fn f).cqs.get none k = (s.fn f).cqs.get none k) ∧ (∀ g, g ≠ f → u.fn g = s.fn g) ∧ lessAnswer s u = s) ∧
  (∀ (s : State) (f l : Nat) (c : Sqe) (q : Cq),
    s.adminOk f = true →
    c.opc.toNat = 1 →
    (s.fn f).cqs.get none 0 = some q →
    s.sqErr f c = none →
    c.cdw13 = 0 →
    (s.owned f)[c.qid - 1]? = some l →
    ∃ u, exec (.createIoSq f c) s = .next u ∧ Answered s u f c St.ok 0 [] ∧
      u.sq f c.qid = some { base := c.prp1, size := c.cdw10.toNat / 65536 + 1, cqid := c.cdw11.toNat / 65536, lane := l } ∧
      u.fld (F.LANE_STATUS_STATE l) = 1 ∧ u.fld (F.LANE_STATUS_SQID l) = c.qid % 2 ^ (F.LANE_STATUS_SQID 0).len ∧ u.lane l = {} ∧
      (∀ k, k ≠ c.qid → u.sq f k = s.sq f k) ∧ (∀ m, m ≠ l → u.lane m = s.lane m) ∧ (∀ g, g ≠ f → u.fn g = s.fn g) ∧
      { lessAnswer s u with regs := s.regs, nvme := { (lessAnswer s u).nvme with lanes := s.nvme.lanes } } = s ∧
      FieldsStand s u [F.LANE_STATUS_STATE l, F.LANE_STATUS_SQID l, F.LANE_STATUS_CQID l, F.LANE_FETCHED_FETCHED l, ⟨R.LANE_TAGS l, 0, 64⟩, ⟨R.LANE_FREEZE l, 0, 64⟩]) ∧
  (∀ (s : State) (f : Nat) (c : Sqe) (q v : Cq),
    s.adminOk f = true →
    c.opc.toNat = 4 →
    (s.fn f).cqs.get none 0 = some q →
    c.qid ≠ 0 →
    (s.fn f).cqs.get none c.qid = some v →
    (∀ e ∈ (s.fn f).sqs, ∀ x, e.2 = some x → x.cqid ≠ c.qid) →
    ∃ u, exec (.deleteIoCq f c) s = .next u ∧ Answered s u f c St.ok 0 [] ∧ (u.fn f).cqs.get none c.qid = none ∧
      (∀ k, k ≠ 0 → k ≠ c.qid → (u.fn f).cqs.get none k = (s.fn f).cqs.get none k) ∧ (∀ g, g ≠ f → u.fn g = s.fn g) ∧ lessAnswer s u = s) ∧
  (∀ (s : State) (f : Nat) (c : Sqe) (q : Cq) (v : Sq),
    s.adminOk f = true →
    c.opc.toNat = 0 →
    (s.fn f).cqs.get none 0 = some q →
    s.sq f c.qid = some v →
    v.deleting = none ∧ v.keyPage = none ∧ v.lane < 96 →
    s.owner v.lane = f →
    s.fld (F.LANE_STATUS_SQID v.lane) = c.qid →
    s.fld (F.LANE_STATUS_STATE v.lane) ≠ 0 →
    s.busyTags v.lane = [] →
    (s.lane v.lane).resume = [] ∧ (s.lane v.lane).after = [] →
    ∃ u, exec (.deleteIoSq f c) s = .next u ∧ Answered s u f c St.ok 0 [] ∧ u.sq f c.qid = none ∧ u.fld (F.LANE_STATUS_STATE v.lane) = 0 ∧
      u.lane v.lane = {} ∧ (∀ k, k ≠ c.qid → u.sq f k = s.sq f k) ∧ (∀ m, m ≠ v.lane → u.lane m = s.lane m) ∧ (∀ g, g ≠ f → u.fn g = s.fn g)) ∧
  (∀ (s : State) (f t n : Nat) (c : Sqe) (q v : Cq) (x : Sq) (g : Tag),
    s.adminOk f = true →
    c.opc.toNat = 8 →
    (s.fn f).cqs.get none 0 = some q →
    s.sq f c.qid = some x →
    x.deleting = none ∧ x.lane < 96 →
    s.owner x.lane = f →
    s.fld (F.LANE_STATUS_SQID x.lane) = c.qid →
    s.fld (F.LANE_STATUS_CQID x.lane) ≠ 0 ∧ (s.fn f).cqs.get none (s.fld (F.LANE_STATUS_CQID x.lane)) = some v →
    s.busyTags x.lane = [(t, g)] →
    (s.lane x.lane).resume = [] →
    g.stage = .waiting →
    g.cmd.sqe.cid.toNat = c.cdw10.toNat / 65536 →
    n < 4 →
    ∃ u, exec (.abort f c n) s = .next u ∧ u.tag x.lane t = none ∧ sent s u = [.cqe f (s.fld (F.LANE_STATUS_CQID x.lane)) c.qid g.cmd.sqe.cid (statusField St.abortRequested) 0, .cqe f 0 0 c.cid (statusField St.ok) 0] ∧
      s.out <+: u.out ∧ u.nvme.posted = s.nvme.posted + 2 ∧ (∀ m, m ≠ x.lane → u.lane m = s.lane m) ∧ (∀ g, g ≠ f → u.fn g = s.fn g)) ∧
  (∀ (s : State) (f n : Nat) (c : Sqe) (q : Cq),
    s.adminOk f = true →
    c.opc.toNat = 8 →
    (s.fn f).cqs.get none 0 = some q →
    s.sq f c.qid = none →
    n < 4 →
    ∃ u, exec (.abort f c n) s = .next u ∧ Answered s u f c St.ok 1 [] ∧ OnlyAnswered s u f) ∧
  (∀ (s : State) (f n : Nat) (c : Sqe) (q : Cq),
    s.adminOk f = true →
    c.opc.toNat = 8 →
    (s.fn f).cqs.get none 0 = some q →
    4 ≤ n →
    ∃ u, exec (.abort f c n) s = .next u ∧ Answered s u f c (1, 3) 0 [] ∧ OnlyAnswered s u f) ∧
  (∀ (s : State) (f : Nat) (c : Sqe) (q : Cq) (v : Sq),
    s.adminOk f = true →
    c.opc.toNat = 0xC4 →
    (s.fn f).cqs.get none 0 = some q →
    c.stray (1 :: vendorDws) [(10, 0xFFFF)] = none →
    s.sq f c.qid = some v →
    v.deleting = none ∧ v.lane < 96 →
    s.owner v.lane = f →
    s.fld (F.LANE_STATUS_SQID v.lane) = c.qid →
    s.fld (F.LANE_STATUS_STATE v.lane) = 2 →
    s.busyTags v.lane = [] →
    (s.lane v.lane).resume = [] →
    ∃ u, exec (.laneResume f c) s = .next u ∧ Answered s u f c St.ok 1 [] ∧ u.fld (F.LANE_STATUS_STATE v.lane) = 1 ∧ u.lane v.lane = s.lane v.lane ∧
      (∀ m, m ≠ v.lane → u.lane m = s.lane m) ∧ FnStands (s.adminFetched f) u f 0 ∧ FieldsStand s u [F.LANE_STATUS_STATE v.lane]) ∧
  (∀ (s : State) (what : MsixOpen),
    s.live = true →
    ∃ u, exec (.msixUnmask what) s = .next u ∧
      (∀ v, what = .vectorMask v → v ∈ u.nvme.vecOpen) ∧ (∀ f, what = .functionMask f → (u.fn f).msixMask = false) ∧
      (∀ f, what = .enable f → (u.fn f).msixEn = true) ∧
      u.out = s.out ++ (s.nvme.vecPend.filter u.vecOpen).map Out.msix ∧ u.nvme.vecPend = s.nvme.vecPend.filter (fun v => !u.vecOpen v) ∧
      { u with out := s.out, nvme := { u.nvme with vecPend := s.nvme.vecPend, vecOpen := s.nvme.vecOpen, fns := s.nvme.fns } } = s) ∧
  (∀ (s : State) (f qid : Nat) (q : Cq),
    s.live = true →
    (s.fn f).cqs.get none qid = some q →
    0 < q.held →
    ∃ u, exec (.interruptCoalescingTime f qid) s = .next u ∧ (u.fn f).cqs.get none qid = some { q with held := 0 } ∧
      u.out = s.out ++ (if s.vecOpen (fnVector f q.iv) then [.msix (fnVector f q.iv)] else []) ∧
      (∀ k, k ≠ qid → (u.fn f).cqs.get none k = (s.fn f).cqs.get none k) ∧ (∀ g, g ≠ f → u.fn g = s.fn g) ∧ lessAnswer s u = s)

/-- For a ready function f whose admin completion queue stands: Get Log Page of a page the function may read gives the NUMD + 1 dwords asked for from the offset on, padded with zeros; of an unknown page completes with Invalid Log Page. Identify CNS 00h of an attached namespace gives 4,096 bytes with its size, its kind, its authentication and its key page. Set Features 0Bh stores the bits the feature keeps, and Get Features gives them back. An Asynchronous Event Request with no notice waiting joins the outstanding ones, up to four; with one waiting it completes with it. MAP HINT EXPORT gives 16 bytes for each extent asked for and completes with their number. EVENT RECORD READ gives whole records of the area from the sequence asked for and completes with their number. -/
def Obligations.AdminReportsResult : Prop :=
  (∀ (s : State) (f n off : Nat) (c : Sqe) (bs : Bytes) (q : Cq),
    s.adminOk f = true →
    c.opc.toNat = 2 →
    (s.fn f).cqs.get none 0 = some q →
    (s.logPage f (c.cdw10.toNat % 256)).map Prod.snd = some bs →
    n = 4 * (c.cdw10.toNat / 65536 + 65536 * (c.cdw11.toNat % 65536) + 1) →
    n ≤ 2097152 →
    off = c.cdw12.toNat + 2 ^ 32 * c.cdw13.toNat →
    off % 4 = 0 ∧ off ≤ bs.length →
    ∃ u, exec (.getLogPage f c) s = .next u ∧ Answered s u f c St.ok 0 [.data 8 f 0 c.cid 0 ((bs.drop off).take n ++ List.replicate (n - (bs.drop off).length) 0)] ∧
      FnStands (s.adminFetched f) u f 0 ∧ { lessAnswer s u with free := s.free } = s) ∧
  (∀ (s : State) (f : Nat) (c : Sqe) (q : Cq),
    s.adminOk f = true →
    c.opc.toNat = 2 →
    (s.fn f).cqs.get none 0 = some q →
    c.cdw10.toNat % 256 ∉ [1, 2, 3, 0xC0, 0xC1, 0xC2, 0xC3, 0xC4] →
    ∃ u, exec (.getLogPage f c) s = .next u ∧ Answered s u f c St.invalidLog 0 [] ∧ OnlyAnswered s u f) ∧
  (∀ (s : State) (f : Nat) (c : Sqe) (q : Cq) (v : Ns) (bs : Bytes),
    s.adminOk f = true →
    c.opc.toNat = 6 →
    (s.fn f).cqs.get none 0 = some q →
    c.cdw10.toNat % 256 = 0 →
    0 < c.nsid.toNat ∧ c.nsid.toNat ≤ 256 →
    s.ns c.nsid.toNat = some v →
    v.attached = some f →
    bs = idNamespace (some v) →
    ∃ u, exec (.identify f c) s = .next u ∧ Answered s u f c St.ok 0 [.data 8 f 0 c.cid 0 bs] ∧ bs.length = 4096 ∧ Bytes.le bs 0 8 = v.blocks % 2 ^ 64 ∧
      Bytes.le bs 3072 1 = (if v.capture then 1 else 0) ∧ Bytes.le bs 3073 1 = (if v.auth then 1 else 0) ∧ Bytes.le bs 3074 1 = v.keyByte % 256 ∧
      OnlyAnswered s u f) ∧
  (∀ (s : State) (f : Nat) (c : Sqe) (d : Bytes) (q : Cq),
    s.adminOk f = true →
    c.opc.toNat = 9 →
    (s.fn f).cqs.get none 0 = some q →
    c.cdw10.toNat % 256 = 0x0B →
    c.cdw10.getLsbD 31 = false →
    ∃ u, exec (.setFeatures f c d) s = .next u ∧ Answered s u f c St.ok 0 [] ∧
      ((u.fn f).features.get 0 0x0B).toNat = c.cdw11.toNat % 1024 ∧ (∀ k, k ≠ 0x0B → (u.fn f).features.get 0 k = (s.fn f).features.get 0 k) ∧
      FnStands (s.adminFetched f) { u with nvme := { u.nvme with fns := u.nvme.fns.set {} f { u.fn f with features := (s.fn f).features } } } f 0 ∧ lessAnswer s u = s) ∧
  (∀ (s : State) (f : Nat) (c : Sqe) (q : Cq),
    s.adminOk f = true →
    c.opc.toNat = 0xA →
    (s.fn f).cqs.get none 0 = some q →
    c.cdw10.toNat % 2048 = 0x0B →
    ∃ u, exec (.getFeatures f c) s = .next u ∧ Answered s u f c St.ok ((s.fn f).features.get 0 0x0B).toNat [] ∧ OnlyAnswered s u f) ∧
  (∀ (s : State) (f : Nat) (c : Sqe),
    s.adminOk f = true →
    c.opc.toNat = 0xC →
    (s.fn f).aers.length < 4 →
    (s.fn f).notices = [] →
    ∃ u, exec (.asyncEventRequest f c) s = .next u ∧ u.fn f = { (s.adminFetched f).fn f with aers := (s.fn f).aers ++ [c.cid] } ∧ (∀ g, g ≠ f → u.fn g = s.fn g) ∧
      { u with nvme := { u.nvme with fns := s.nvme.fns } } = s) ∧
  (∀ (s : State) (f n : Nat) (c : Sqe) (q : Cq) (rest : List Nat),
    s.adminOk f = true →
    c.opc.toNat = 0xC →
    (s.fn f).cqs.get none 0 = some q →
    (s.fn f).aers.length < 4 →
    (s.fn f).notices = n :: rest →
    ∃ u, exec (.asyncEventRequest f c) s = .next u ∧ Answered s u f c St.ok n [] ∧ (u.fn f).notices = rest ∧ (u.fn f).aers = (s.fn f).aers ∧ lessAnswer s u = s) ∧
  (∀ (s : State) (c : Sqe) (q : Cq) (first n : Nat),
    s.adminOk 0 = true →
    c.opc.toNat = 0xC2 →
    (s.fn 0).cqs.get none 0 = some q →
    c.stray (1 :: vendorDws) [(1, 0xFFFFFFFF), (10, 0xFFFFFFFF), (11, 0xFFFFFFFF), (12, 0x1FFFF)] = none →
    s.attachedTo c.nsid.toNat 0 = true ∧ s.isCapture c.nsid.toNat = true →
    s.on F.FTL_STATUS_REBUILDING = false →
    first = c.cdw10.toNat + 2 ^ 32 * c.cdw11.toNat →
    n = c.cdw12.toNat % 131072 + 1 →
    first + n ≤ s.nsSize c.nsid.toNat / 256 →
    ∃ u, exec (.mapHintExport 0 c) s = .next u ∧
      Answered s u 0 c St.ok n [.data 8 0 0 c.cid 0 ((List.range n).flatMap (fun i => s.hint c.nsid.toNat (first + i)))] ∧
      (∀ i, (s.hint c.nsid.toNat (first + i)).length = 16) ∧ OnlyAnswered s u 0) ∧
  (∀ (s : State) (c : Sqe) (q : Cq) (rs : List Record),
    s.adminOk 0 = true →
    c.opc.toNat = 0xCA →
    (s.fn 0).cqs.get none 0 = some q →
    c.stray (1 :: vendorDws) [(10, 1), (11, 0xFFFFFFFF), (12, 0xFFFFFFFF)] = none →
    c.cdw12.toNat % 16 = 0 ∧ c.cdw12.toNat ≤ 2097152 →
    c.cdw10 = 0 →
    rs = fitting c.cdw12.toNat (recordsFrom s.evt.fixed c.cdw11.toNat) →
    rs ≠ [] →
    ∃ u, exec (.eventRecordRead 0 c) s = .next u ∧ Answered s u 0 c St.ok rs.length [.data 8 0 0 c.cid 0 (rs.flatMap Record.bytes)] ∧ OnlyAnswered s u 0)

/-- For a ready function f whose admin completion queue stands: Namespace Management create whose checks pass makes the namespace of the create structure at the lowest NSID without one and completes with that NSID. Attachment of an unattached namespace without a key page to an existing controller attaches it, detachment of one not in use detaches it. Format of an attached namespace not in use begins with the namespace Namespace Not Ready and no answer; its end makes it ready, and with SES 010b erases its default key page. The end of a format and the deletion of a namespace not in use leave none of its extents landed and none of its blocks mapped, and no gap record; after a deletion no namespace has the NSID. Each but the start of a format completes successfully as its last completion entry, and other namespaces do not change. -/
def Obligations.NamespaceCommandsResult : Prop :=
  (∀ (s : State) (f i : Nat) (c : Sqe) (d : Bytes) (q : Cq),
    s.adminOk f = true →
    c.opc.toNat = 0x0D →
    (s.fn f).cqs.get none 0 = some q →
    c.cdw10.toNat % 16 = 0 →
    s.createErr f d = none →
    i < 256 ∧ s.ns (i + 1) = none →
    (∀ j, j < i → s.ns (j + 1) ≠ none) →
    ∃ u, exec (.namespaceCreate f c d) s = .next u ∧ EndsWith s u f c St.ok (i + 1) ∧ u.ns (i + 1) = some (nsOf d) ∧ (∀ k, k ≠ i + 1 → u.ns k = s.ns k) ∧
      u.ftl.capMap = s.ftl.capMap ∧ u.ftl.gens = s.ftl.gens ∧ u.ftl.journal = s.ftl.journal ++ [.namespaceOp (i + 1) 0 (if (nsOf d).capture then 1 else 0) (nsOf d).blocks]) ∧
  (∀ (s : State) (f g : Nat) (c : Sqe) (d : Bytes) (q : Cq) (v : Ns),
    s.adminOk f = true →
    c.opc.toNat = 0x15 →
    (s.fn f).cqs.get none 0 = some q →
    s.ns c.nsid.toNat = some v →
    Bytes.le d 0 2 = 1 ∧ Bytes.le d 2 2 = g →
    s.fnExists g = true ∧ g ≤ 31 →
    ((c.cdw10.toNat % 16 = 0 ∧ v.attached = none ∧ v.keyPage = none) ∨ (c.cdw10.toNat % 16 = 1 ∧ v.attached = some g ∧ s.nsBusy c.nsid.toNat = false)) →
    ∃ u, exec (.namespaceAttachment f c d) s = .next u ∧ EndsWith s u f c St.ok 0 ∧
      u.ns c.nsid.toNat = some { v with attached := if c.cdw10.toNat % 16 = 0 then some g else none } ∧ (∀ k, k ≠ c.nsid.toNat → u.ns k = s.ns k) ∧
      u.regs = s.regs ∧ u.ftl = s.ftl) ∧
  (∀ (s : State) (f : Nat) (c : Sqe) (q : Cq) (v : Ns),
    s.adminOk f = true →
    c.opc.toNat = 0x0D →
    (s.fn f).cqs.get none 0 = some q →
    c.cdw10.toNat % 16 = 1 →
    c.nsid.toNat ≠ 0xFFFFFFFF →
    s.ns c.nsid.toNat = some v →
    s.nsBusy c.nsid.toNat = false →
    ∃ u, exec (.namespaceDelete f c) s = .next u ∧ EndsWith s u f c St.ok 0 ∧ u.ns c.nsid.toNat = none ∧ (∀ k, k ≠ c.nsid.toNat → u.ns k = s.ns k) ∧
      HoldsNothing u c.nsid.toNat) ∧
  (∀ (s : State) (f : Nat) (c : Sqe) (q : Cq) (v : Ns),
    s.adminOk f = true →
    c.opc.toNat = 0x80 →
    (s.fn f).cqs.get none 0 = some q →
    (c.cdw10.toNat % 16384 = 512 ∨ c.cdw10.toNat % 16384 = 0) →
    c.nsid.toNat ≠ 0xFFFFFFFF →
    s.ns c.nsid.toNat = some v →
    v.attached = some f →
    s.nsBusy c.nsid.toNat = false →
    s.formatOf f c = none →
    ∃ u, exec (.formatNvm f c) s = .next u ∧ u.ns c.nsid.toNat = some { v with notReady := true } ∧ (∀ k, k ≠ c.nsid.toNat → u.ns k = s.ns k) ∧
      u.nvme.formats = s.nvme.formats ++ [{ fn := f, cid := c.cid, nss := [c.nsid.toNat], ses := c.cdw10.toNat / 512 % 8 }] ∧ u.out = s.out ∧
      FnStands (s.adminFetched f) u f 0 ∧ { u with nvme := { u.nvme with fns := s.nvme.fns, nss := s.nvme.nss, formats := s.nvme.formats } } = s) ∧
  (∀ (s : State) (f n : Nat) (c : Sqe) (q : Cq) (v : Ns) (x : Formatting),
    s.live = true →
    (s.fn f).cqs.get none 0 = some q →
    s.formatOf f c = some x →
    x.asked = true ∧ x.nss = [n] →
    s.ns n = some v →
    ∃ u, exec (.formatNvm f c) s = .next u ∧ EndsWith s u f c St.ok 0 ∧ u.ns n = some { v with notReady := false } ∧ (∀ k, k ≠ n → u.ns k = s.ns k) ∧
      u.nvme.formats = s.nvme.formats.erase x ∧ HoldsNothing u n ∧
      (x.ses = 2 → ∀ k, v.keyPage = some k → k < 256 → u.fld (F.CPH_KP_STATE_STATE k) = 0 ∧ u.cph.keys.get [] k = []))

/-- For a ready function f whose admin completion queue stands: a download stages its dwords at their offset, offset 0 beginning a new image, and completes. With no update running, a Commit whose checks pass activates the slot (CA 010b) and completes, or starts the slot write, with UPDATING set and the first sector's erase begun. A verified sector that is not the last puts the image's bytes into the slot and goes on with the next; the last one, for CA 000b, leaves the slot holding the image, no slot write, UPDATING clear, and completes the Commit. A molt in time, with every lane quiet, makes the new slot run with its table and completes the Commit with success; one that takes too long completes it with Operation Exceeded Maximum Time and changes no slot. -/
def Obligations.FirmwareUpdateResult : Prop :=
  (∀ (s : State) (f n off : Nat) (c : Sqe) (d : Bytes) (q : Cq),
    s.adminOk f = true →
    c.opc.toNat = 0x11 →
    (s.fn f).cqs.get none 0 = some q →
    n = 4 * (c.cdw10.toNat + 1) →
    off = 4 * c.cdw11.toNat →
    n ≤ 2097152 →
    n ≤ d.length →
    ∃ u, exec (.firmwareImageDownload f c d) s = .next u ∧ Answered s u f c St.ok 0 [] ∧ FnStands (s.adminFetched f) u f 0 ∧
      (u.sec.staged.drop off).take n = d.take n ∧ (off = 0 → u.sec.staged = d.take n) ∧
      (∀ i, i < off → i < s.sec.staged.length → u.sec.staged[i]? = s.sec.staged[i]?) ∧
      { lessAnswer s u with sec := { u.sec with staged := s.sec.staged, stagedOk := s.sec.stagedOk, stagedBy := s.sec.stagedBy } } = s ∧ u.sec.stagedOk = true ∧ u.sec.stagedBy = f) ∧
  (∀ (s : State) (f slot : Nat) (c : Sqe) (sig : Bool) (table : List Profile) (q : Cq),
    s.adminOk f = true →
    c.opc.toNat = 0x10 →
    (s.fn f).cqs.get none 0 = some q →
    s.updating = false →
    c.cdw10.toNat % 8 = slot + 1 ∧ slot < 2 ∧ c.cdw10.toNat / 8 % 8 = 2 →
    (s.slot slot).bad = false →
    s.commitCheck slot 2 sig table = 0 →
    ∃ u, exec (.firmwareCommit f c sig table) s = .next u ∧ Answered s u f c St.ok 0 [] ∧ u.sec.activation = some slot ∧ FnStands (s.adminFetched f) u f 0 ∧
      { lessAnswer s u with sec := { u.sec with activation := s.sec.activation } } = s) ∧
  (∀ (s : State) (f slot ca : Nat) (c : Sqe) (sig : Bool) (table : List Profile),
    s.adminOk f = true →
    c.opc.toNat = 0x10 →
    s.updating = false →
    c.cdw10.toNat % 8 = slot + 1 ∧ slot < 2 ∧ slot ≠ s.fld F.SEC_STATUS_RUN_SLOT →
    (ca = c.cdw10.toNat / 8 % 8 ∧ (ca = 0 ∨ ca = 1 ∨ ca = 3)) →
    (s.slot slot).bad = false →
    s.commitCheck slot ca sig table = 0 →
    s.cfl.op = none →
    ∃ u, exec (.firmwareCommit f c sig table) s = .next u ∧ u.out = s.out ∧ u.on F.SEC_STATUS_UPDATING = true ∧ u.on F.CFL_STATUS_BUSY = true ∧
      u.cfl.op = some (.erase (slotSector slot (Img.kind s.sec.staged == 2))) ∧ FnStands (s.adminFetched f) u f 0 ∧ { u.nvme with fns := s.nvme.fns } = s.nvme ∧
      (∀ k, k ≠ slot → u.slot k = s.slot k) ∧
      { u.sec with slots := s.sec.slots } = { s.sec with slotWrite := some { slot := slot, bundle := Img.kind s.sec.staged == 2, sector := 0, ca := ca, image := s.sec.staged, cmd := some (f, c.cid), table := table } } ∧
      FieldsStand s u [F.SEC_STATUS_UPDATING, F.CFL_STATUS_BUSY, F.CFL_STATUS_SUSPENDED]) ∧
  (∀ (s : State) (w : SlotWrite) (sig : Bool),
    s.live = true →
    s.sec.slotWrite = some w →
    65536 * (w.sector + 1) < w.image.length →
    w.bundle = false ∧ w.slot < 2 ∧ w.sector < 160 →
    s.cflAt (slotSector w.slot false + w.sector) = true ∧ s.cfl.wait = [] →
    slotSector w.slot false + w.sector ∉ s.cfl.bad →
    ∃ u, exec (.slotWriteSector true true sig) s = .next u ∧ u.sec.slotWrite = some { w with sector := w.sector + 1 } ∧
      ((u.slot w.slot).fw.drop (65536 * w.sector)).take 65536 = (w.image.drop (65536 * w.sector)).take 65536 ∧
      (∀ i, i < 65536 * w.sector → i < (s.slot w.slot).fw.length → (u.slot w.slot).fw[i]? = (s.slot w.slot).fw[i]?) ∧
      (∀ k, k ≠ w.slot → u.slot k = s.slot k) ∧ u.cfl.op = some (.erase (slotSector w.slot false + w.sector + 1)) ∧ u.nvme = s.nvme ∧ u.out = s.out ∧
      FieldsStand s u [F.CFL_STATUS_BUSY, F.CFL_STATUS_SUSPENDED]) ∧
  (∀ (s : State) (w : SlotWrite) (f : Nat) (cid : BitVec 16) (q : Cq),
    s.live = true →
    s.power.phase ≠ .brumation →
    s.sec.slotWrite = some w →
    w.image.length ≤ 65536 * (w.sector + 1) →
    w.bundle = false ∧ w.ca = 0 →
    s.cflAt (slotSector w.slot false + w.sector) = true ∧ s.cfl.wait = [] →
    slotSector w.slot false + w.sector ∉ s.cfl.bad →
    w.cmd = some (f, cid) →
    (s.fn f).cqs.get none 0 = some q →
    ∃ u, exec (.slotWriteSector true true true) s = .next u ∧ u.sec.slotWrite = none ∧ (u.slot w.slot).fw = w.image ∧ u.on F.SEC_STATUS_UPDATING = false ∧
      (∀ k, k ≠ w.slot → u.slot k = s.slot k) ∧ u.sec.activation = s.sec.activation ∧ Answered s u f { opc := 0x10, cid := cid } St.ok 0 [] ∧
      u.cfl.op = none ∧ FnStands s u f 0) ∧
  (∀ (s : State) (f slot : Nat) (cid : BitVec 16) (table : List Profile) (q : Cq) (inTime : Bool),
    s.nvme.molting = some (f, cid) →
    s.sec.moltTo = some (slot, table) →
    (s.fn f).cqs.get none 0 = some q →
    (inTime = true → s.lanesQuiet = true) →
    (∀ g, g ≤ s.nvme.numVfs → ((s.fn g).features.get 0 0x0B).getLsbD 9 = false) →
    ∃ u, exec (.molt inTime) s = .next u ∧ Answered s u f { opc := 0x10, cid := cid } (if inTime then St.ok else St.maxTime) 0 [] ∧
      u.nvme.molting = none ∧ u.sec.moltTo = none ∧ u.sec.slots = s.sec.slots ∧
      (inTime = true → u.fld F.SEC_STATUS_RUN_SLOT = slot % 2 ^ F.SEC_STATUS_RUN_SLOT.len ∧ u.nand.table = table ∧ u.fld F.SEC_FWVER_FW_VER = Img.version (s.slot slot).fw % 2 ^ F.SEC_FWVER_FW_VER.len) ∧ (inTime = false → u.regs = s.regs ∧ u.nand = s.nand))

/-- For a ready function whose admin completion queue stands: MICROCODE LOAD of an image without profiles that passes every check, into channels first to last that are not locked, writes the words into the customer region of exactly those channels, locks every region, keeps the image where the code flash takes it, and completes with dword 0 bit 31 telling that it was not kept. KEY PAGE INSTALL of a well-formed record of kind 0 for a page without references erases it: Empty, with no key; of another kind, for a page without references, it loads the key, its kind and its identifier, and answers the key check value; both set the key cause. DEBUG GRANT by the physical function renews the challenge; where scope, lifecycle, tamper and rate checks pass it grants the scope exactly where the response is the CMAC of the challenge message, and else completes with check code 5. -/
def Obligations.VendorInstallResult : Prop :=
  (∀ (s : State) (c : Sqe) (d img : Bytes) (keepOk : Bool) (q : Cq) (first last n : Nat),
    s.adminOk 0 = true →
    c.opc.toNat = 0xC5 →
    (s.fn 0).cqs.get none 0 = some q →
    c.stray (1 :: vendorDws) [(10, 0x3F3F), (11, 0xFFFFFFFF)] = none →
    first = c.cdw10.toNat % 64 ∧ last = c.cdw10.toNat / 256 % 64 →
    first ≤ last ∧ last < s.part.channels →
    c.cdw11.toNat ≤ 2097152 →
    (∀ x, first ≤ x → x ≤ last → (s.reg R.CCS_LOCK).getLsbD x = false) →
    img = fit c.cdw11.toNat d →
    s.mcCheck img c.cdw11.toNat = none →
    Bytes.le img 0xC 2 = 0 →
    n = Bytes.le img 8 4 →
    3 ∉ s.cfl.bad →
    s.nand.found = [] →
    ∃ u, exec (.microcodeLoad 0 c d keepOk) s = .next u ∧ Answered s u 0 c St.ok (if keepOk then 0 else 2 ^ 31) [] ∧
      (∀ x i, first ≤ x → x ≤ last → i < n → (u.chan x).store.get 0 (custBase + i) = imgWord img 0 i) ∧
      (∀ x, x < first ∨ last < x → u.chan x = s.chan x) ∧ u.reg R.CCS_LOCK = BitVec.ofNat 64 (2 ^ s.part.channels - 1) ∧
      (u.nand.kept.isSome = keepOk)) ∧
  (∀ (s : State) (f k kind : Nat) (c : Sqe) (d r : Bytes) (q : Cq),
    s.adminOk f = true →
    c.opc.toNat = 0xC9 →
    (s.fn f).cqs.get none 0 = some q →
    s.part = .qk1600 →
    c.stray (1 :: vendorDws) [(10, 0xFF), (11, 0xFFFFFFFF)] = none →
    c.cdw11.toNat ≤ 2097152 →
    k = c.cdw10.toNat % 256 →
    r = fit c.cdw11.toNat d →
    kind = Bytes.le r 6 1 →
    s.keyCheck f k c.cdw11.toNat r = 0 →
    s.keyRefs k = 0 →
    ∃ u, exec (.keyPageInstall f c d) s = .next u ∧ u.fld ⟨R.CPH_EVCAUSE, 6, 1⟩ = 1 ∧
      (kind = 0 → Answered s u f c St.ok 0 [] ∧ u.fld (F.CPH_KP_STATE_STATE k) = 0 ∧ u.fld (F.CPH_KP_STATE_KIND k) = 0 ∧ u.cph.keys.get [] k = []) ∧
      (kind ≠ 0 → Answered s u f c St.ok (kcvOf (r.drop 16)) [] ∧ u.fld (F.CPH_KP_STATE_STATE k) = 1 ∧ u.fld (F.CPH_KP_STATE_KIND k) = kind ∧
        u.cph.keys.get [] k = r.drop 16 ∧ u.fld (F.CPH_KP_KEYID_KEYID k) = Bytes.le r 8 8) ∧
      u.fld (F.CPH_KP_STATE_OWNER k) = s.fld (F.CPH_KP_STATE_OWNER k) ∧ (∀ j, j ≠ k → u.cph.keys.get [] j = s.cph.keys.get [] j) ∧
      (∀ j, j < 256 → j ≠ k → u.reg (R.CPH_KP_STATE j) = s.reg (R.CPH_KP_STATE j))) ∧
  (∀ (s : State) (c : Sqe) (chal : BitVec 128) (q : Cq) (scope held : Nat) (resp : Bytes),
    s.adminOk 0 = true →
    c.opc.toNat = 0xCC →
    (s.fn 0).cqs.get none 0 = some q →
    c.stray vendorDws [(10, 0xFF), (12, 0xFFFFFFFF), (13, 0xFFFFFFFF), (14, 0xFFFFFFFF), (15, 0xFFFFFFFF)] = none →
    scope = c.cdw10.toNat % 256 →
    0 < scope ∧ scope < 16 ∧ outside scope (grantable (s.fld F.SEC_LC_STATE)) = 0 →
    s.on F.SEC_STATUS_TAMPER = false →
    s.sec.lastGrant = none →
    held = Nat.lor (s.fld F.DBG_STATUS_SCOPE) scope →
    resp = leBytes 4 c.cdw12.toNat ++ leBytes 4 c.cdw13.toNat ++ leBytes 4 c.cdw14.toNat ++ leBytes 4 c.cdw15.toNat →
    ∃ u, exec (.debugGrant 0 c chal) s = .next u ∧ u.fld F.DBG_CHAL_CHAL = chal.toNat ∧ u.sec.lastGrant = some s.time.aonNs ∧
      (if Crypto.cmac ((List.range 32).map Config.debugKey) (s.grantMessage scope) = resp then
        Answered s u 0 c St.ok held [] ∧ u.fld F.DBG_STATUS_SCOPE = held ∧ u.fld ⟨R.SEC_EVCAUSE, 5, 1⟩ = 1
       else Answered s u 0 c St.invalidField 5 [] ∧ u.fld F.DBG_STATUS_SCOPE = s.fld F.DBG_STATUS_SCOPE ∧ u.fld ⟨R.SEC_EVCAUSE, 6, 1⟩ = 1))

/-- A Read that may start and whose checks pass, of a range that meets no Committing span, looks its blocks up once as it starts, and with them its dword 0: bit 0 tells whether some block of a capture namespace is not present, and the dword is 0 in a general one. A LOCATED READ within one extent does the same, and bit 3 of its dword 0 is clear exactly when the extent is landed at the hinted location with the hinted generation, which is not 0. The start answers nothing and changes no other tag, lane, map or buffer. Each then waits and changes nothing while a span in Committing keeps it from its lookup, or its media reads are pending; when they are done it gives the bytes it found, in a namespace without a key page and with no block lost, poisoned or failing its tag, and completes with that dword 0. GAP MAP READ gives the records of the landed extents of its range in order and completes with their number. Of a completed command nothing stays but its answer. -/
def Obligations.HostReadsResult : Prop :=
  (∀ (s : State) (l t : Nat) (g : Tag) (bs : List Blk) (dw : Nat),
    Starts s l t g →
    g.cmd.sqe.opc.toNat = 2 →
    g.cmd.sqe.ioFields = none →
    s.rangeErr l g.cmd.sqe true = none →
    s.meetsCommitting g.cmd.sqe.nsid.toNat g.cmd.sqe.slba g.cmd.sqe.nlb = false →
    (bs = (List.range g.cmd.sqe.nlb).map (fun i => s.blk g.cmd.sqe.nsid.toNat (g.cmd.sqe.slba + i))) →
    dw = s.readWord g.cmd.sqe.nsid.toNat g.cmd.sqe.slba bs false →
    ∃ u, exec (.commandStart l t) s = .next u ∧ u.tag l t = some { g with stage := .started, seen := some { blks := bs, dw0 := dw } } ∧
      (dw % 2 = 1 ↔ s.isCapture g.cmd.sqe.nsid.toNat = true ∧ ∃ b ∈ bs, b.state ≠ 0) ∧ (s.isCapture g.cmd.sqe.nsid.toNat = false → dw = 0) ∧
      (s.mediaUnits g.cmd.sqe.nsid.toNat g.cmd.sqe.slba g.cmd.sqe.nlb = [] → u.nand = s.nand) ∧ (∀ j, j ≠ t → u.tag l j = s.tag l j) ∧
      (∀ m, m ≠ l → u.lane m = s.lane m) ∧ u.ftl = s.ftl ∧ u.cap = s.cap ∧ u.out = s.out) ∧
  (∀ (s : State) (l t : Nat) (g : Tag) (ps : List Nat),
    s.running l t 2 = some g →
    g.cmd.sqe.ioFields = none →
    s.rangeErr l g.cmd.sqe true = none →
    ((g.seen = none ∧ s.meetsCommitting g.cmd.sqe.nsid.toNat g.cmd.sqe.slba g.cmd.sqe.nlb = true) ∨ (g.seen.isSome = true ∧ s.awaiting (.cmd l t) = true)) →
    exec (.read l t ps) s = .next s) ∧
  (∀ (s : State) (l t : Nat) (g : Tag) (q : Cq) (v : Seen) (ps : List Nat),
    s.running l t 2 = some g →
    PlainLane s l t g q →
    g.cmd.sqe.ioFields = none →
    s.rangeErr l g.cmd.sqe true = none →
    g.seen = some v →
    s.awaiting (.cmd l t) = false →
    s.cmdPage l g.cmd.sqe.nsid.toNat = none →
    (∀ b ∈ v.blks, b.page = none ∧ b.lost = false ∧ b.auth = false ∧ b.bad = false) →
    (ps = [] ∨ ∀ b ∈ v.blks, b.hbm = false) →
    ∃ u, exec (.read l t ps) s = .next u ∧ IoAnswered s u l t g St.ok v.dw0
        (if (v.blks.flatMap Blk.bytes).isEmpty then []
         else [.data (hostPort t) (s.owner l) (s.fld (F.LANE_STATUS_SQID l)) g.cmd.sqe.cid 0 (v.blks.flatMap Blk.bytes)]) ∧
      OnlyIoAnswered s { u with free := s.free } l t) ∧
  (∀ (s : State) (l t x : Nat) (g : Tag) (bs : List Blk) (dw : Nat),
    Starts s l t g →
    g.cmd.sqe.opc.toNat = 0x86 →
    s.vendorErr l g.cmd.sqe = none →
    s.rangeErr l g.cmd.sqe true = none →
    x = g.cmd.sqe.slba / 256 ∧ x = (g.cmd.sqe.slba + g.cmd.sqe.nlb - 1) / 256 →
    s.meetsCommitting g.cmd.sqe.nsid.toNat g.cmd.sqe.slba g.cmd.sqe.nlb = false →
    (bs = (List.range g.cmd.sqe.nlb).map (fun i => s.blk g.cmd.sqe.nsid.toNat (g.cmd.sqe.slba + i))) →
    dw = s.readWord g.cmd.sqe.nsid.toNat g.cmd.sqe.slba bs (!s.hintOk g.cmd.sqe) →
    ∃ u, exec (.commandStart l t) s = .next u ∧ u.tag l t = some { g with stage := .started, seen := some { blks := bs, dw0 := dw } } ∧
      (dw / 8 % 2 = 0 ↔ g.cmd.sqe.cdw14.toNat % 65536 ≠ 0 ∧ s.capLanded g.cmd.sqe.nsid.toNat x = true ∧ s.capLoc g.cmd.sqe.nsid.toNat x = g.cmd.sqe.cdw13.toNat ∧
        s.capGen g.cmd.sqe.nsid.toNat x = g.cmd.sqe.cdw14.toNat % 65536) ∧ (dw % 2 = 1 ↔ ∃ b ∈ bs, b.state ≠ 0) ∧
      (∀ j, j ≠ t → u.tag l j = s.tag l j) ∧ (∀ m, m ≠ l → u.lane m = s.lane m) ∧ u.ftl = s.ftl ∧ u.cap = s.cap ∧ u.out = s.out) ∧
  (∀ (s : State) (l t : Nat) (g : Tag) (q : Cq) (v : Seen) (ps : List Nat),
    s.running l t 0x86 = some g →
    PlainLane s l t g q →
    s.vendorErr l g.cmd.sqe = none →
    s.rangeErr l g.cmd.sqe true = none →
    g.cmd.sqe.slba / 256 = (g.cmd.sqe.slba + g.cmd.sqe.nlb - 1) / 256 →
    g.seen = some v →
    s.awaiting (.cmd l t) = false →
    s.cmdPage l g.cmd.sqe.nsid.toNat = none →
    (∀ b ∈ v.blks, b.page = none ∧ b.lost = false ∧ b.auth = false ∧ b.bad = false) →
    (ps = [] ∨ ∀ b ∈ v.blks, b.hbm = false) →
    ∃ u, exec (.locatedRead l t ps) s = .next u ∧ IoAnswered s u l t g St.ok v.dw0
        (if (v.blks.flatMap Blk.bytes).isEmpty then []
         else [.data (hostPort t) (s.owner l) (s.fld (F.LANE_STATUS_SQID l)) g.cmd.sqe.cid 0 (v.blks.flatMap Blk.bytes)]) ∧
      OnlyIoAnswered s { u with free := s.free } l t) ∧
  (∀ (s : State) (l t : Nat) (g : Tag) (ps : List Nat),
    s.running l t 0x86 = some g →
    s.vendorErr l g.cmd.sqe = none →
    s.rangeErr l g.cmd.sqe true = none →
    g.cmd.sqe.slba / 256 = (g.cmd.sqe.slba + g.cmd.sqe.nlb - 1) / 256 →
    ((g.seen = none ∧ s.meetsCommitting g.cmd.sqe.nsid.toNat g.cmd.sqe.slba g.cmd.sqe.nlb = true) ∨ (g.seen.isSome = true ∧ s.awaiting (.cmd l t) = true)) →
    exec (.locatedRead l t ps) s = .next s) ∧
  (∀ (s : State) (l t n : Nat) (g : Tag) (q : Cq) (rs : List Bytes),
    s.running l t 0x8A = some g →
    PlainLane s l t g q →
    s.vendorErr l g.cmd.sqe = none →
    n = g.cmd.sqe.cdw12.toNat % 32768 + 1 ∧ n ≤ 21845 →
    g.cmd.sqe.slba + n ≤ s.nsSize g.cmd.sqe.nsid.toNat / 256 →
    rs = gapRows s g.cmd.sqe.nsid.toNat g.cmd.sqe.slba n →
    ∃ u, exec (.gapMapRead l t) s = .next u ∧
      IoAnswered s u l t g St.ok rs.length (if rs = [] then [] else [.data (hostPort t) (s.owner l) (s.fld (F.LANE_STATUS_SQID l)) g.cmd.sqe.cid 0 rs.flatten]) ∧
      (∀ r ∈ rs, r.length = 96) ∧ OnlyIoAnswered s u l t)

/-- On a lane whose Write has started and whose checks pass, in a namespace where nothing it names is held: a Write of a general namespace that fits the limit beside the window in use is charged one unit for each block, and at once its blocks read as its data and every other block as before. A Write of a capture namespace with the volatile cache off, with room in the pool, that fits its charge does the same for its blocks, which are present. Neither answers the host yet. Without room in the window, or behind another held write, it is held: it joins the end of the held writes, HELD counts it, and no block, tag or charge changes. The write held longest is admitted when it fits, and HELD counts one less. A write whose blocks are taken and of which nothing waits for the flash completes and frees its tag. Idle expiry asks exactly the named capture extent to land. -/
def Obligations.HostWritesResult : Prop :=
  (∀ (s : State) (l t n lba : Nat) (g : Tag),
    l < 96 ∧ t < 32 →
    s.running l t 1 = some g →
    g.cmd.sqe.ioFields = none →
    s.rangeErr l g.cmd.sqe true = none →
    g.deny = none →
    s.writeKey l g.cmd.sqe = none →
    s.isCapture g.cmd.sqe.nsid.toNat = false →
    n = g.cmd.sqe.nlb ∧ lba = g.cmd.sqe.slba →
    s.ftl.held = [] →
    s.writeThrough = false →
    s.fld F.PWR_HU_WIN_IN_USE + n ≤ s.admitLimit →
    s.ftl.nextSeq + n < 2 ^ 60 →
    (∀ w ∈ s.ftl.wbuf, w.nsid = g.cmd.sqe.nsid.toNat → w.dealloc = 0 → w.lba < lba ∨ lba + n ≤ w.lba) →
    ∃ u, exec (.write l t) s = .next u ∧ u.tag l t = some { g with taken := true, through := false } ∧
      u.fld F.PWR_HU_WIN_IN_USE = s.fld F.PWR_HU_WIN_IN_USE + n ∧
      (∀ i, i < n → u.blk g.cmd.sqe.nsid.toNat (lba + i) = { bytes := fit 4096 (g.cmd.data.drop (4096 * i)), hbm := true }) ∧
      (∀ k b, k ≠ g.cmd.sqe.nsid.toNat ∨ b < lba ∨ lba + n ≤ b → u.blk k b = s.blk k b) ∧ u.out = s.out ∧ u.ftl.held = [] ∧
      FieldsStand s u [F.PWR_HU_WIN_IN_USE, ⟨R.FTL_WSEQ, 0, 64⟩, ⟨R.LANE_TAGS l, t, 1⟩, ⟨R.LANE_TAGS l, 32 + t, 1⟩]) ∧
  (∀ (s : State) (l t n lba : Nat) (g : Tag),
    l < 96 ∧ t < 32 →
    s.running l t 1 = some g →
    g.cmd.sqe.ioFields = none →
    s.rangeErr l g.cmd.sqe true = none →
    g.deny = none →
    s.writeKey l g.cmd.sqe = none →
    s.isCapture g.cmd.sqe.nsid.toNat = true →
    s.inBusyWindow g.cmd.sqe.nsid.toNat (g.cmd.sqe.slba, g.cmd.sqe.nlb) = false →
    n = g.cmd.sqe.nlb ∧ lba = g.cmd.sqe.slba →
    s.wce l = false →
    s.poolTakes l g = true →
    s.ftl.held = [] →
    s.writeThrough = false →
    s.fld F.PWR_HU_WIN_IN_USE + s.chargeOf l g ≤ s.admitLimit →
    s.ftl.nextSeq + 512 < 2 ^ 60 →
    ∃ u, exec (.write l t) s = .next u ∧ u.tag l t = some { g with taken := true, through := false } ∧
      u.fld F.PWR_HU_WIN_IN_USE = s.fld F.PWR_HU_WIN_IN_USE + s.chargeOf l g ∧
      (∀ i, i < n → u.blk g.cmd.sqe.nsid.toNat (lba + i) = { bytes := fit 4096 (g.cmd.data.drop (4096 * i)), hbm := true }) ∧
      (∀ k b, k ≠ g.cmd.sqe.nsid.toNat → s.isCapture k = false → u.blk k b = s.blk k b) ∧
      (∀ b, b / 256 < lba / 256 ∨ (lba + n - 1) / 256 < b / 256 → u.blk g.cmd.sqe.nsid.toNat b = s.blk g.cmd.sqe.nsid.toNat b) ∧ u.out = s.out ∧
      FieldsStand s u [F.PWR_HU_WIN_IN_USE, ⟨R.FTL_WSEQ, 0, 64⟩, ⟨R.LANE_TAGS l, t, 1⟩, ⟨R.LANE_TAGS l, 32 + t, 1⟩]) ∧
  (∀ (s : State) (l t : Nat) (g : Tag),
    l < 96 ∧ t < 32 →
    s.running l t 1 = some g →
    g.cmd.sqe.ioFields = none →
    s.rangeErr l g.cmd.sqe true = none →
    g.deny = none →
    s.writeKey l g.cmd.sqe = none →
    s.isCapture g.cmd.sqe.nsid.toNat = false →
    (l, t) ∉ s.ftl.held →
    s.writeThrough = false →
    (s.ftl.held ≠ [] ∨ s.admitLimit < s.fld F.PWR_HU_WIN_IN_USE + g.cmd.sqe.nlb) →
    ∃ u, exec (.write l t) s = .next u ∧ u.ftl.held = s.ftl.held ++ [(l, t)] ∧ u.fld F.PWR_HU_HELD_HELD = (s.ftl.held.length + 1) % 4096 ∧
      (∀ k j, u.tag k j = s.tag k j) ∧ (∀ k b, u.blk k b = s.blk k b) ∧ u.fld F.PWR_HU_WIN_IN_USE = s.fld F.PWR_HU_WIN_IN_USE ∧ u.ftl.wbuf = s.ftl.wbuf) ∧
  (∀ (s : State) (l t : Nat) (g : Tag) (rest : List (Nat × Nat)),
    l < 96 ∧ t < 32 →
    s.live = true →
    s.ftl.held = (l, t) :: rest →
    s.tag l t = some g →
    s.writeThrough = false →
    s.fld F.PWR_HU_WIN_IN_USE + s.chargeOf l g ≤ s.admitLimit →
    s.poolTakes l g = true →
    ∃ u, exec .heldWriteAdmit s = .next u ∧ u.ftl.held = rest ∧ u.fld F.PWR_HU_HELD_HELD = rest.length % 4096 ∧
      u.tag l t = some { g with taken := true, through := false } ∧ (∀ j, j ≠ t → u.tag l j = s.tag l j) ∧ (∀ k, k ≠ l → u.lane k = s.lane k)) ∧
  (∀ (s : State) (l t : Nat) (g : Tag) (q : Cq),
    s.live = true →
    PlainLane s l t g q →
    g.stage = .started ∧ g.taken = true →
    (g.cmd.sqe.opc.toNat = 1 ∨ g.cmd.sqe.opc.toNat = 8 ∨ g.cmd.sqe.opc.toNat = 9) →
    s.unverified l t = false →
    ∃ u, exec (.writeComplete l t) s = .next u ∧ IoAnswered s u l t g St.ok 0 [] ∧ OnlyIoAnswered s { u with ftl := s.ftl } l t ∧
      (s.isCapture g.cmd.sqe.nsid.toNat = false → u.ftl = s.ftl)) ∧
  (∀ (s : State) (nsid x : Nat) (w : CapWrite),
    s.ftl.capWrites.get none (extKey nsid x) = some w →
    ∃ u, exec (.captureWriteIdleExpiry nsid x) s = .next u ∧ u.ftl.capWrites.get none (extKey nsid x) = some { w with lands := true } ∧
      (∀ k, k ≠ extKey nsid x → u.ftl.capWrites.get none k = s.ftl.capWrites.get none k) ∧ { u with ftl := { u.ftl with capWrites := s.ftl.capWrites } } = s)

/-- On a lane whose command has started and whose checks pass, where nothing is held and the charge fits: Write Zeroes in a general namespace unmaps its blocks, which read as zeros at once, and every other block of the namespace reads as before; so does Dataset Management with AD for all its ranges. Both are taken, and complete later. Dataset Management without AD changes no block. Write Zeroes in a capture namespace completes with Operation Denied and every block reads as before. A Flush of which no cached capture write of its namespaces is needed completes with success; with one needed it waits, answers nothing, and exactly the needed extents are asked to land. -/
def Obligations.DeallocationAndFlushResult : Prop :=
  (∀ (s : State) (l t n lba : Nat) (g : Tag),
    l < 96 ∧ t < 32 →
    s.running l t 8 = some g →
    g.cmd.sqe.ioFields = none →
    s.rangeErr l g.cmd.sqe false = none →
    g.deny = none →
    s.isCapture g.cmd.sqe.nsid.toNat = false →
    n = g.cmd.sqe.nlb ∧ lba = g.cmd.sqe.slba →
    s.ftl.held = [] →
    (s.writeThrough = true ∨ s.fld F.PWR_HU_WIN_IN_USE + 1 ≤ s.admitLimit) →
    s.ftl.nextSeq + 1 < 2 ^ 60 →
    ∃ u, exec (.writeZeroes l t) s = .next u ∧ u.tag l t = some { g with taken := true, through := s.writeThrough } ∧
      (∀ i, i < n → u.blk g.cmd.sqe.nsid.toNat (lba + i) = { bytes := zeros 4096 }) ∧
      (∀ b, b < lba ∨ lba + n ≤ b → u.blk g.cmd.sqe.nsid.toNat b = s.blk g.cmd.sqe.nsid.toNat b) ∧ u.out = s.out ∧ u.ftl.held = [] ∧
      FieldsStand s u [F.PWR_HU_WIN_IN_USE, ⟨R.FTL_WSEQ, 0, 64⟩, ⟨R.LANE_TAGS l, t, 1⟩, ⟨R.LANE_TAGS l, 32 + t, 1⟩]) ∧
  (∀ (s : State) (l t : Nat) (g : Tag) (q : Cq),
    s.running l t 8 = some g →
    PlainLane s l t g q →
    g.cmd.sqe.ioFields = none →
    s.rangeErr l g.cmd.sqe false = none →
    g.deny = none →
    s.isCapture g.cmd.sqe.nsid.toNat = true →
    ∃ u, exec (.writeZeroes l t) s = .next u ∧ (.cqe (s.owner l) (s.fld (F.LANE_STATUS_CQID l)) (s.fld (F.LANE_STATUS_SQID l)) g.cmd.sqe.cid (statusField St.operationDenied) 0) ∈ u.out ∧
      u.tag l t = none ∧ (∀ k b, u.blk k b = s.blk k b) ∧ u.ftl = s.ftl) ∧
  (∀ (s : State) (l t : Nat) (g : Tag),
    l < 96 ∧ t < 32 →
    s.running l t 9 = some g →
    s.nsErr l g.cmd.sqe.nsid.toNat = none →
    g.cmd.sqe.cdw11.getLsbD 2 = true →
    (∀ r ∈ g.cmd.ranges, r.1 + r.2 ≤ s.nsSize g.cmd.sqe.nsid.toNat) →
    g.deny = none →
    s.isCapture g.cmd.sqe.nsid.toNat = false →
    s.ftl.held = [] →
    (s.writeThrough = true ∨ s.fld F.PWR_HU_WIN_IN_USE + s.chargeOf l g ≤ s.admitLimit) →
    s.ftl.nextSeq + 2 < 2 ^ 60 →
    ∃ u, exec (.datasetManagement l t) s = .next u ∧ u.nvme = (s.setTag l t (some { g with taken := true, through := s.writeThrough && decide (s.chargeOf l g ≠ 0) })).nvme ∧
      (∀ r ∈ g.cmd.ranges, ∀ i, i < r.2 → u.blk g.cmd.sqe.nsid.toNat (r.1 + i) = { bytes := zeros 4096 }) ∧
      (∀ b, (∀ r ∈ g.cmd.ranges, b < r.1 ∨ r.1 + r.2 ≤ b) → u.blk g.cmd.sqe.nsid.toNat b = s.blk g.cmd.sqe.nsid.toNat b) ∧ u.out = s.out ∧
      FieldsStand s u [F.PWR_HU_WIN_IN_USE, ⟨R.FTL_WSEQ, 0, 64⟩, ⟨R.LANE_TAGS l, t, 1⟩, ⟨R.LANE_TAGS l, 32 + t, 1⟩]) ∧
  (∀ (s : State) (l t : Nat) (g : Tag),
    l < 96 ∧ t < 32 →
    s.running l t 9 = some g →
    s.nsErr l g.cmd.sqe.nsid.toNat = none →
    g.cmd.sqe.cdw11.getLsbD 2 = false →
    g.deny = none →
    (l, t) ∉ s.ftl.held →
    exec (.datasetManagement l t) s = .next (s.setTag l t (some { g with taken := true, through := false }))) ∧
  (∀ (s : State) (l t : Nat) (g : Tag) (q : Cq),
    s.running l t 0 = some g →
    PlainLane s l t g q →
    s.flushErr l g.cmd.sqe = none →
    (∀ e ∈ s.ftl.capWrites, e.2.all (fun w => !s.flushNeeds l g w) = true) →
    ∃ u, exec (.flush l t) s = .next u ∧ IoAnswered s u l t g St.ok 0 [] ∧ OnlyIoAnswered s u l t) ∧
  (∀ (s : State) (l t : Nat) (g : Tag),
    s.running l t 0 = some g →
    s.flushErr l g.cmd.sqe = none →
    (∃ e ∈ s.ftl.capWrites, e.2.any (fun w => s.flushNeeds l g w) = true) →
    ∃ u, exec (.flush l t) s = .next u ∧
      (∀ k, u.ftl.capWrites.get none k = (s.ftl.capWrites.get none k).map (fun w => { w with lands := w.lands || s.flushNeeds l g w })) ∧
      { u with ftl := { u.ftl with capWrites := s.ftl.capWrites } } = s)

/-- On a running part that may collect in group g: GC_START with few free group blocks, or while the group collects, takes a closed group block whose fraction of valid units is lowest, lists its valid items, and where there are none writes its erase intent and marks it erasing. A verified copy of a general unit, with nothing of a failed block to be moved first and the unit's media reads done, that is not the last is a new unit with the old content to which the map is switched, and no other map entry changes; an item the map no longer points at is passed over without a copy. When the erase of the victim has passed on its whole die set, the group block is free, fixed to the dies in service, its units, clutches and handle are gone, the move is journalled, and the collection ends. Wear levelling, when the spread exceeds the limit, takes a closed block of lowest mean erase count and opens a relocation block from a free one of highest mean. -/
def Obligations.CollectionResult : Prop :=
  (∀ (s : State) (g : Nat),
    s.mayCollect g = true →
    ((s.freeGbs g).length ≤ s.fld F.FTL_GC_GC_START ∨ s.fld (gcActive g) = 1) →
    s.closedGbs g ≠ [] →
    (∀ x ∈ s.closedGbs g, 0 < s.gbPages g x) →
    ∃ u, exec (.gcStart g) s = .next u ∧ u.fld (gcActive g) = 1 ∧
      (∃ b ∈ s.closedGbs g, (∀ x ∈ s.closedGbs g, s.validUnits (gbKey g b) * s.gbPages g x ≤ s.validUnits (gbKey g x) * s.gbPages g b) ∧
        (u.ftl.gcs.get none g).map (fun c => (c.victim, c.todo, c.erasing, c.wear)) =
          some (b, s.validItems (gbKey g b), decide (s.validItems (gbKey g b) = []), false) ∧
        (s.validItems (gbKey g b) = [] → (u.gb (gbKey g b)).state = .erasing ∧
          u.ftl.journal = s.ftl.journal ++ [.eraseIntent g b ((s.openOf g .relocation).getD 0) 0 0 0]) ∧
        (s.validItems (gbKey g b) ≠ [] → { u.ftl with gcs := s.ftl.gcs } = s.ftl) ∧ u.ftl.units = s.ftl.units ∧ u.ftl.gens = s.ftl.gens ∧
        u.ftl.capMap = s.ftl.capMap ∧ u.nvme = s.nvme ∧ u.out = s.out)) ∧
  (∀ (s t : State) (g i key new : Nat) (rest : List Nat) (c : Gc) (f : FUnit),
    s.live = true →
    (s.overhangFirst = false ∨ s.urgent g = true) →
    (∀ m ∈ s.ftl.moves, m.g ≠ g) →
    s.ftl.gcs.get none g = some c →
    c.erasing = false ∧ c.bad = [] ∧ c.todo = i :: rest ∧ rest ≠ [] →
    s.awaiting (.gc g) = false →
    i = 2 * key + 1 →
    s.itemLive (gbKey g c.victim) i = true →
    s.unit key = some f ∧ f.kind = 1 →
    s.takeUnit g .relocation = (t, some new) →
    ∃ u, exec (.gcCopyVerified g []) s = .next u ∧ u.unit new = some { f with copied := true, wseq := t.ftl.nextSeq } ∧ (∀ j, j ≠ new → u.unit j = t.unit j) ∧
      u.gen1 f.nsid f.laddr = u.unitNo new % 2 ^ 32 ∧
      (∀ k, k ≠ lbaKey f.nsid f.laddr → u.ftl.gens.get 0xFFFFFFFF k = s.ftl.gens.get 0xFFFFFFFF k) ∧ u.ftl.capMap = s.ftl.capMap ∧
      u.ftl.gcs.get none g = some { c with todo := rest, copies := addRun c.copies new 1 } ∧ u.out = t.out) ∧
  (∀ (s : State) (g i : Nat) (rest lost : List Nat) (c : Gc),
    s.live = true →
    (s.overhangFirst = false ∨ s.urgent g = true) →
    (∀ m ∈ s.ftl.moves, m.g ≠ g) →
    s.ftl.gcs.get none g = some c →
    c.erasing = false ∧ c.todo = i :: rest ∧ rest ≠ [] →
    s.awaiting (.gc g) = false →
    s.itemLive (gbKey g c.victim) i = false →
    ∃ u, exec (.gcCopyVerified g lost) s = .next u ∧ u.ftl.gcs.get none g = some { c with todo := rest, bad := [] } ∧ { u.ftl with gcs := s.ftl.gcs } = s.ftl ∧ u.out = s.out) ∧
  (∀ (s : State) (g : Nat) (c : Gc),
    s.live = true →
    g < 16 →
    s.ftl.gcs.get none g = some c →
    c.erasing = true ∧ c.left = [] ∧ c.unasked = [] →
    ∃ u, exec (.gcEraseDone g) s = .next u ∧ u.ftl.gcs.get none g = none ∧ u.gb (gbKey g c.victim) = {} ∧
      (u.media (gbKey g c.victim)).dies = s.usable g c.victim ∧ (u.media (gbKey g c.victim)).units = 0 ∧
      (∀ j, j / 2 ^ 32 = gbKey g c.victim → u.unit j = none) ∧ (∀ j, j / 2 ^ 14 = gbKey g c.victim → u.clutch j = none) ∧
      (∀ x, (s.gb (gbKey g c.victim)).handle = some x → u.ftl.handles.get none x = none) ∧ u.ftl.erases = s.ftl.erases ∧
      u.ftl.journal = s.ftl.journal ++ [.moved g c.victim] ∧ u.ftl.gens = s.ftl.gens ∧ u.ftl.capMap = s.ftl.capMap ∧
      (s.fld F.FTL_GC_GC_STOP ≤ (u.freeGbs g).length → u.fld (gcActive g) = 0)) ∧
  (∀ (s : State) (g : Nat) (S : List Nat),
    s.mayCollect g = true →
    s.fld F.FTL_CFG_WL_EN = 1 →
    s.urgent g = false →
    s.freeHandle.isSome = true →
    s.fld F.FTL_CFG_WL_LIMIT < s.spread g →
    (S = (s.closedGbs g).filter (fun b => s.on F.CAP_SPAN_POOL_WL || (s.gb (gbKey g b)).use != .pool)) →
    S ≠ [] →
    (∀ x ∈ S, (s.gb (gbKey g x)).state = .closed ∧ 0 < (s.wear g x).2) →
    (s.freeGbs g ≠ [] ∧ ∀ x ∈ s.freeGbs g, 0 < (s.wear g x).2) →
    ∃ u, exec (.wlStart g) s = .next u ∧ u.fld F.FTL_EVCAUSE_WL_MOVE = 1 ∧ g ∈ u.ftl.levelling ∧
      (∃ b ∈ S, (∀ x ∈ S, (s.wear g b).1 * (s.wear g x).2 ≤ (s.wear g x).1 * (s.wear g b).2) ∧ ((u.ftl.gcs.get none g).map Gc.victim) = some b ∧
        ((u.ftl.gcs.get none g).map Gc.wear) = some true) ∧
      (∃ r ∈ s.freeGbs g, (∀ x ∈ s.freeGbs g, (s.wear g x).1 * (s.wear g r).2 ≤ (s.wear g r).1 * (s.wear g x).2) ∧ (u.gb (gbKey g r)).state = .open ∧
        (u.gb (gbKey g r)).use = .relocation))

/-- On a running part: of the write buffer's entries that go to group g the oldest, while charged data overhangs the window the oldest charged one, a general block in a namespace without a key page, is placed in the unit taken for it, the block's map entry is that unit's number, the entry leaves the buffer, and a charged one gives its unit of the window back. A program failure of a NAND block in the die set of an open or closed group block, and an erase failure of one in the die set of a victim under erase, count, retire the NAND block, which is never in service again, and journal it; the group block is closed after the first and loses the die after the second. A checkpoint that is due notes the next sequence at its start; at its end, where its units find room, it holds both maps, the handles and the erase counts as they stand, and the journal holds the checkpoint record alone; else it waits. -/
def Obligations.MediaProgramResult : Prop :=
  (∀ (s t : State) (g key : Nat) (w : WbEntry),
    s.live = true →
    g < 16 →
    s.oldestFor g = some w →
    w.dealloc = 0 ∧ w.keyPage = none ∧ w.lost = false →
    s.takeUnit g .general = (t, some key) →
    ∃ u, exec (.unitProgramVerified g false) s = .next u ∧
      u.unit key = some { nsid := w.nsid, kind := 1, laddr := w.lba, wseq := t.ftl.nextSeq, origin := w.origin, data := w.data } ∧
      (∀ j, j ≠ key → u.unit j = t.unit j) ∧ u.gen1 w.nsid w.lba = u.unitNo key % 2 ^ 32 ∧
      (∀ k, k ≠ lbaKey w.nsid w.lba → u.ftl.gens.get 0xFFFFFFFF k = s.ftl.gens.get 0xFFFFFFFF k) ∧ u.ftl.wbuf = s.ftl.wbuf.filter (fun v => v.origin != w.origin) ∧
      u.fld F.PWR_HU_WIN_IN_USE = s.fld F.PWR_HU_WIN_IN_USE - (if w.charged then 1 else 0) ∧ u.ftl.capMap = s.ftl.capMap) ∧
  (∀ (s : State) (g die block page : Nat) (lost : List Nat),
    s.live = true →
    g < 16 →
    nandKey g die block ∉ s.ftl.retired →
    die ∈ s.dieSet g block →
    ((s.gb (gbKey g block)).state = .open ∨ (s.gb (gbKey g block)).state = .closed) →
    ∃ u, exec (.programFail g die block page lost) s = .next u ∧ u.ftl.progFails = s.ftl.progFails + 1 ∧ nandKey g die block ∈ u.ftl.retired ∧
      u.blockOk g die block = false ∧ .retired g die block 0 ∈ u.ftl.journal ∧ (u.gb (gbKey g block)).state = .closed ∧ u.fld F.FTL_EVCAUSE_PROG_FAIL = 1 ∧
      u.fld F.FTL_EVCAUSE_RETIRED = 1 ∧ u.ftl.wbuf = s.ftl.wbuf) ∧
  (∀ (s : State) (g die block : Nat) (c : Gc),
    s.live = true →
    g < 16 →
    s.ftl.gcs.get none g = some c →
    c.erasing = true ∧ c.victim = block →
    die ∈ s.dieSet g block →
    ∃ u, exec (.eraseFail g die block) s = .next u ∧ u.ftl.eraseFails = s.ftl.eraseFails + 1 ∧ nandKey g die block ∈ u.ftl.retired ∧
      u.blockOk g die block = false ∧ .retired g die block (if nandKey g die block ∈ s.ftl.suspect then 2 else 1) ∈ u.ftl.journal ∧
      (u.media (gbKey g block)).dies = (s.dieSet g block).filter (· != die) ∧
      u.fld F.FTL_EVCAUSE_ERASE_FAIL = 1 ∧ u.fld F.FTL_EVCAUSE_RETIRED = 1 ∧ u.ftl.units = s.ftl.units ∧ u.ftl.gens = s.ftl.gens ∧ u.ftl.capMap = s.ftl.capMap) ∧
  (∀ (s : State),
    s.live = true →
    s.ftl.ckptRun = none →
    s.on F.FTL_STATUS_REBUILDING = false →
    s.ckptDue = true →
    ∃ u, exec .checkpointStart s = .next u ∧ u.ftl.ckptRun = some s.ftl.nextSeq ∧ u.ftl.opens = [] ∧ u.ftl.ckptAt = s.time.ftc ∧ u.ftl.ckptAsked = false ∧
      { u with ftl := { u.ftl with ckptRun := s.ftl.ckptRun, opens := s.ftl.opens, ckptAt := s.ftl.ckptAt, ckptAsked := s.ftl.ckptAsked } } = s) ∧
  (∀ (s : State) (seq : Nat),
    s.live = true →
    s.ftl.ckptRun = some seq →
    (s.placeAll (s.ckptUnits (s.ftl.ckpt.getD { seq := 0 }))).2 = true →
    ∃ u c, exec .checkpointComplete s = .next u ∧ u.ftl.ckpt = some c ∧ c.capMap = s.ftl.capMap ∧ c.genMap = s.ftl.gens ∧ c.handles = u.ftl.handles ∧
      c.erases = u.ftl.erases ∧ c.seq = seq ∧ u.ftl.ckptRun = none ∧ (∃ root n, u.ftl.journal = [.checkpoint (unitGroup root) (unitGb root) (unitIdx root / 4) seq n]) ∧
      u.ftl.capMap = s.ftl.capMap ∧ u.ftl.gens = s.ftl.gens ∧ u.ftl.clutches = s.ftl.clutches) ∧
  (∀ (s : State) (seq : Nat),
    s.live = true →
    s.ftl.ckptRun = some seq →
    (s.placeAll (s.ckptUnits (s.ftl.ckpt.getD { seq := 0 }))).2 = false →
    exec .checkpointComplete s = .next s)

/-- A measurement asked for, or due, on a Ready bank with a valid capacitance waits, and begins, with the gate off and the discharge on, once the window in use is at most the limit at 95 % of the target; postponed, it waits an hour. Its end ends the discharge; a capacitance of 1,000 to 200,000 µF (current times time over the span, rounded down, log entry 89) is stored, clears MEAS_FAIL and returns a bank measured before to Ready; any other result sets MEAS_FAIL and the limit becomes 0. An hour after a failure a valid bank measures again, or waits to. Charging that reaches the target makes the bank Ready and stops; a bank 1 % below it charges again and stays Ready if it was. A bank 5 % above VMAX is in Fault, is not charged, and the limit is 0. After every recomputation LIMIT is the limit of the sampled voltage, the target and the state, and the gate is on just where its conditions hold and no discharge runs. A power failure puts off the gate and the domains the dump does not need, makes the limit 0, holds the part and begins the dump, the buffered data as before; the dump ends once none of its programs is left and no program or erase runs, or at VCUT: the part has reset, cause 6 after a supply failure, nothing buffered; the ledger keeps only entries it had, and none for an extent on flash. -/
def Obligations.HoldUpBankResult : Prop :=
  (∀ (s : State) (c : Instr),
    (c = .measure ∨ c = .measureDue) →
    s.power.phase ≠ .off →
    s.huState = 2 ∧ s.hu.valid = true ∧ s.hu.measuring = false →
    ∃ u, exec c s = .next u ∧
      (s.fld F.PWR_HU_WIN_IN_USE ≤ 256 * s.limitAt (s.vTarget * 95 / 100) →
        u.hu = { s.hu with measWait := false, postponed := false, measuring := true, charging := false, down := true, v0 := s.vTarget, disEn := true } ∧ u.huState = 3 ∧ u.fld F.PWR_HU_STATUS_GATE_ON = 0) ∧
      (256 * s.limitAt (s.vTarget * 95 / 100) < s.fld F.PWR_HU_WIN_IN_USE → u.hu = { s.hu with measWait := true, postponed := false } ∧ u.regs = s.regs) ∧
      OnlyFields s { u with hu := s.hu } [F.PWR_HU_STATUS_STATE, F.PWR_HU_STATUS_GATE_ON]) ∧
  (∀ (s : State),
    s.hu.measWait = true →
    exec .measurePostpone s = .next { s with hu := { s.hu with measWait := false, postponed := true, nextMeas := s.calMs + 3600000 } }) ∧
  (∀ (s : State) (r t v : Nat) (g : Bool),
    s.hu.measuring = true →
    t ≤ s.measSpan.2.2 →
    r = s.measSpan.1 * t / s.measSpan.2.1 ∧ 1000 ≤ r ∧ r ≤ 200000 →
    ∃ u, exec (.measurementDone (some t) v g) s = .next u ∧ u.fld F.PWR_HU_CAP_C_M = r ∧ u.fld F.PWR_HU_STATUS_MEAS_FAIL = 0 ∧ u.hu.valid = true ∧
      u.hu.measuring = false ∧ u.hu.disEn = false ∧ u.fld F.PWR_HU_STATUS_GATE_ON = ofBool g ∧ (s.hu.valid = true → u.huState = 2) ∧
      u.fld F.PWR_HU_STATUS_VBANK = v % 2 ^ 16 ∧ u.fld F.PWR_HU_WIN_LIMIT = u.limitNow % 2 ^ 32 ∧ u.fld F.PWR_HU_EVCAUSE_MEAS_DONE = 1 ∧
      u.fld F.PWR_HU_WIN_IN_USE = s.fld F.PWR_HU_WIN_IN_USE ∧ u.ftl = s.ftl) ∧
  (∀ (s : State) (time : Option Nat) (v : Nat) (g : Bool),
    s.hu.measuring = true →
    (∀ t, time = some t → s.measSpan.2.2 < t ∨ s.measSpan.1 * t / s.measSpan.2.1 < 1000 ∨ 200000 < s.measSpan.1 * t / s.measSpan.2.1) →
    ∃ u, exec (.measurementDone time v g) s = .next u ∧ u.fld F.PWR_HU_CAP_C_M = s.fld F.PWR_HU_CAP_C_M ∧ u.fld F.PWR_HU_STATUS_MEAS_FAIL = 1 ∧
      u.hu.valid = s.hu.valid ∧ u.hu.retryDue = true ∧ u.hu.nextMeas = s.calMs + 3600000 ∧ u.fld F.PWR_HU_WIN_LIMIT = 0 ∧ u.fld F.PWR_HU_EVCAUSE_MEAS_FAIL = 1 ∧
      u.fld F.PWR_HU_STATUS_GATE_ON = ofBool g ∧ u.ftl = s.ftl) ∧
  (∀ (s : State),
    s.hu.retryDue = true →
    s.hu.valid = true ∧ s.huState = 2 ∧ s.hu.measuring = false →
    ∃ u, exec .measureRetryExpiry s = .next u ∧ u.hu.retryDue = false ∧ (u.hu.measWait = true ∨ u.hu.measuring = true) ∧
      OnlyFields s { u with hu := s.hu } [F.PWR_HU_STATUS_STATE, F.PWR_HU_STATUS_GATE_ON]) ∧
  (∀ (s : State) (v : Nat),
    s.hu.charging = true ∧ s.hu.valid = true ∧ s.hu.measuring = false →
    s.vTarget ≤ v →
    ∃ u, exec (.chargeTargetReached v) s = .next u ∧ u.huState = 2 ∧ u.hu = { s.hu with charging := false, reached := true } ∧
      u.fld F.PWR_HU_STATUS_VBANK = v % 2 ^ 16 ∧ u.fld F.PWR_HU_WIN_LIMIT = u.limitNow % 2 ^ 32 ∧ (s.hu.reached = false → u.fld F.PWR_HU_EVCAUSE_CHARGED = 1) ∧
      u.ftl = s.ftl) ∧
  (∀ (s : State) (v : Nat),
    s.chargeOk = true →
    s.hu.valid = true ∧ s.hu.charging = false ∧ s.hu.measuring = false →
    v * 100 ≤ 99 * s.vTarget →
    ∃ u, exec (.chargeResume v) s = .next u ∧ u.hu.charging = true ∧ u.huState = (if s.huState = 2 then 2 else 1) ∧ u.fld F.PWR_HU_STATUS_VBANK = v % 2 ^ 16 ∧
      OnlyFields s { u with hu := s.hu } [F.PWR_HU_STATUS_STATE, F.PWR_HU_STATUS_VBANK]) ∧
  (∀ (s : State) (v : Nat),
    s.huState ≠ 5 →
    s.fld F.PWR_HU_VLIM_VMAX ≠ 0 →
    s.hu.failed = false →
    (105 * s.fld F.PWR_HU_VLIM_VMAX < 100 * v ∨ (s.hu.charging = true ∧ v < s.fld F.PWR_HU_STATUS_VBANK)) →
    ∃ u, exec (.huFault v) s = .next u ∧ u.huState = 5 ∧ u.hu.charging = false ∧ u.hu.measuring = false ∧ u.hu.fault = true ∧ u.chargeOk = false ∧
      u.fld F.PWR_HU_WIN_LIMIT = 0 ∧ u.fld F.PWR_HU_STATUS_WRITE_THROUGH = 1 ∧ u.fld F.PWR_HU_EVCAUSE_FAULT = 1 ∧ u.ftl = s.ftl) ∧
  (∀ (s : State) (v : Nat) (g : Bool),
    s.power.phase ≠ .off →
    ∃ u, exec (.windowRecompute v g) s = .next u ∧ u.fld F.PWR_HU_STATUS_VBANK = v % 2 ^ 16 ∧ u.fld F.PWR_HU_WIN_LIMIT = u.limitNow % 2 ^ 32 ∧
      u.fld F.PWR_HU_STATUS_WRITE_THROUGH = (if u.limitNow < 512 then 1 else 0) ∧ u.fld F.PWR_HU_WIN_IN_USE = s.fld F.PWR_HU_WIN_IN_USE ∧
      (u.limitNow < s.fld F.PWR_HU_WIN_IN_USE ∧ s.fld F.PWR_HU_WIN_IN_USE ≤ s.fld F.PWR_HU_WIN_LIMIT → u.fld F.PWR_HU_EVCAUSE_OVERHANG = 1) ∧
      u.fld F.PWR_HU_STATUS_GATE_ON = ofBool (g && !u.hu.disEn) ∧ u.ftl = s.ftl) ∧
  (∀ (s : State),
    s.power.phase ≠ .off →
    s.hu.failed = false →
    ∃ u, exec .powerFailDetect s = .next u ∧ u.huState = 4 ∧ u.fld F.PWR_HU_STATUS_GATE_ON = 0 ∧
      u.hu = { s.hu with disEn := true, failed := true, charging := false, measuring := false, measWait := false } ∧ u.power.phase = .held ∧
      HoldWhy.dump ∈ u.power.heldBy ∧ u.fld F.PWR_HU_WIN_LIMIT = 0 ∧ (∀ d ∈ [21, 22, 23, 24, 25, 26, 27, 28, 29, 49], u.dom d = 0) ∧
      u.ftl.dumping = true ∧ u.ftl.wbuf = s.ftl.wbuf ∧ u.ftl.capWrites = s.ftl.capWrites ∧ u.ftl.ledger = s.ftl.ledger) ∧
  (∀ (s : State) (vcut : Bool),
    s.ftl.dumping = true →
    (vcut = true ∨ (s.dumpLeft = [] ∧ s.nandRuns = false)) →
    ∃ u, exec (.dumpEnd vcut) s = .next u ∧ u.ftl.dumping = false ∧ u.ftl.wbuf = [] ∧ u.ftl.capWrites = [] ∧ u.ftl.held = [] ∧
      u.fld F.PWR_HU_WIN_IN_USE = 0 ∧ u.fld F.TMR_WDG_LAST_CAUSE = (if s.hu.failed then 6 else 2) ∧ HoldWhy.dump ∉ u.power.heldBy ∧
      (u.power.phase = if u.power.heldBy = [] then .run else .held) ∧ (∃ n, JRec.dump n vcut ∈ u.ftl.journal) ∧
      (∀ e ∈ u.ftl.ledger, ∃ e' ∈ s.ftl.ledger, { e' with left := e.left } = e) ∧
      (vcut = false → ∀ w ∈ s.chargedExtents, s.extentDumped w = true → ∀ e ∈ u.ftl.ledger, ¬(e.count = 256 ∧ e.nsid = w.nsid ∧ e.slba = 256 * w.ext)))

/-- REGROW.START sets PENDING and asks for regrowth. When the part restarts and no die is awaited, MAP_REBUILD where there is no reason to regrow, and REGROWTH where there is one, clear REBUILDING, leave no collection and no ledger entry, make every namespace ready, raise the rebuilt cause, and leave a general block with no unit on flash unmapped. After a regrowth PENDING is clear, PROGRESS is 100, regrowth is no longer asked for, and the checkpoint, where one was written, holds the maps as they stand. The rebuild of the general map that both do gives a block whose newest unit, by origin and then write sequence, is readable that unit as its map entry, or no flash where a later deallocation record names the block, and changes nothing but the general map. -/
def Obligations.RestartResult : Prop :=
  (∀ (s : State),
    s.live = true →
    ∃ u, exec .regrowRequest s = .next u ∧ u.fld F.FTL_REGROW_PENDING = 1 ∧ u.ftl = { s.ftl with regrow := true } ∧
      OnlyFields s { u with ftl := s.ftl } [F.FTL_REGROW_PENDING]) ∧
  (∀ (s : State) (c : Instr) (facts : RestartFacts),
    s.restarting = true →
    ((c = .mapRebuild facts ∧ s.mustRegrow facts.bad = false) ∨ (c = .regrowth facts ∧ s.mustRegrow facts.bad = true)) →
    ∃ u, exec c s = .next u ∧ u.fld F.FTL_STATUS_REBUILDING = 0 ∧ u.ftl.gcs = [] ∧ u.ftl.ledger = [] ∧
      (∀ k, u.ns k = (s.ns k).map (fun n => { n with notReady := false })) ∧ u.fld F.FTL_EVCAUSE_REBUILT = 1 ∧
      (∀ k lba, (∀ e ∈ s.ftl.units, e.2.all (fun f => !(f.kind == 1 && lbaKey f.nsid f.laddr == lbaKey k lba)) = true) → lba < 2 ^ 48 → u.gen1 k lba = noLoc) ∧
      (c = .regrowth facts → u.fld F.FTL_REGROW_PENDING = 0 ∧ u.fld F.FTL_REGROW_PROGRESS = 100 ∧ u.ftl.regrow = false ∧ u.fld F.FTL_EVCAUSE_REGROWTH = 1 ∧
        ∀ k, u.ftl.ckpt = some k → k.capMap = u.ftl.capMap ∧ k.genMap = u.ftl.gens)) ∧
  (∀ (s : State) (r : Scan) (key : Nat) (f : FUnit),
    (key, some f) ∈ s.ftl.units →
    f.kind = 1 ∧ f.laddr < 2 ^ 48 ∧ r.unit key = true →
    (∀ e ∈ s.ftl.units, e = (key, some f) ∨ e.2.all (fun x => decide (x.kind = 1 → x.nsid = f.nsid → x.laddr = f.laddr → x.origin < f.origin ∨ (x.origin = f.origin ∧ x.wseq < f.wseq))) = true) →
    (s.rebuildGen r).gen1 f.nsid f.laddr = (if s.dropped f.nsid f.laddr f.origin then noLoc else s.unitNo key % 2 ^ 32) ∧
      (s.rebuildGen r).setFtl { (s.rebuildGen r).ftl with gens := s.ftl.gens } = s)

/-- On a working channel whose bus no routine holds, an operation of a die not in service ends with its failure. Else the granted operation is, of those ready, one queued first, but for programs that an overhang's go ahead of. Unless it started, no earlier operation of its die is left but a suspended erase beside a read of the suspension; it starts with the CFG and RECLAIM that stand, is counted by its kind, and on a claimed die its routine stands at the profile's entry point; else one codeword moves. A read whose codewords decode at level 0 below the reclaim threshold leaves the queue with its counts; one whose codeword fails completes its command with Unrecovered Read Error. A program or an erase leaves with success, which counts an erase, or its failure count. An expiry resets the die's volume; a read is tried once more, a program or an erase fails, and the third in a row fails the die, which loses its operations; a die ready in that cycle wins. An erase resumes once the reads of its suspension have run. FORGET of a quarantined or failed die gives up the units on it. A store fault halts the engine; after the rewrite the operation in progress has failed and the engine works. -/
def Obligations.ChannelOperationResult : Prop :=
  (∀ (s : State) (ch i : Nat) (o : NandOp),
    s.engineOn ch = true →
    ch < 64 ∧ s.ftl.dumping = false →
    s.strayOp ch = some (i, o) →
    (o.kind = .program ∨ o.kind = .erase) →
    ∃ u, exec (.busPhase ch) s = .next u ∧ s.fld ⟨R.CH_STATUS ch, o.die, 1⟩ = 0 ∧ OpGone s u ch i ∧
      u.reg (R.CH_N_PROG_FAIL ch) = s.reg (R.CH_N_PROG_FAIL ch) + (if o.kind = .program then 1 else 0) ∧
      u.reg (R.CH_N_ERASE_FAIL ch) = s.reg (R.CH_N_ERASE_FAIL ch) + (if o.kind = .erase then 1 else 0) ∧ u.ftl = s.ftl) ∧
  (∀ (s : State) (ch i : Nat) (o : NandOp),
    s.engineOn ch = true →
    s.strayOp ch = none ∧ (s.chan ch).busHeld = false →
    pickPhase (s.readyOps ch) = some (i, o) →
    o.started = false →
    ∃ u, exec (.busPhase ch) s = .next u ∧
      (∀ x ∈ s.readyOps ch, o.queuedAt ≤ x.2.queuedAt ∨ (x.2.kind = .program ∧ x.2.urgent = false ∧ ∃ y ∈ s.readyOps ch, y.2.kind = .program ∧ y.2.urgent = true)) ∧
      (∀ p ∈ (s.chan ch).ops.take i, p.die = o.die → o.early = true ∧ p.kind = .erase ∧ p.susp = true) ∧
      (u.chan ch).ops = (s.chan ch).ops.set i { o with started := true, phases := 1, since := s.time.ftc, cfg := (s.reg (R.CH_CFG ch)).toNat, rclm := (s.reg (R.CH_RECLAIM ch)).toNat } ∧
      (∀ c, c ≠ ch → u.chan c = s.chan c) ∧ u.reg (R.CH_N_READS ch) = s.reg (R.CH_N_READS ch) + (if o.kind = .read then 1 else 0) ∧
      u.reg (R.CH_N_PROGRAMS ch) = s.reg (R.CH_N_PROGRAMS ch) + (if o.kind = .program then 1 else 0) ∧
      u.reg (R.CH_N_ERASES ch) = s.reg (R.CH_N_ERASES ch) + (if o.kind = .erase then 1 else 0) ∧
      u.out = s.out ++ (if o.kind = .reset then [.nandReset ch o.die] else []) ∧
      (s.claimed ch o.die = false → u.free = s.free ∧ (u.chan ch).seq = (s.chan ch).seq) ∧
      (∀ e ∈ [(OpKind.read, 1, 1), (OpKind.program, 3, 3), (OpKind.erase, 4, 4), (OpKind.setFeatures, 7, 7), (OpKind.reset, 0, 10)], o.kind = e.1 →
        s.claimed ch o.die = true → ∀ p, s.dieProfile (ch / 4) (16 * (ch % 4) + o.die) = some p → ∃ q, (u.chan ch).seq = some q ∧
          q.pc = p.entries.getD e.2.1 0 ∧ q.die = o.die ∧ q.stack = [] ∧ q.m.get 0 0 = BitVec.ofNat 32 e.2.2 ∧ q.m.get 0 1 = BitVec.ofNat 32 o.die) ∧
      FieldsStand s u [F.CH_STATUS_QUEUED ch, ⟨R.CH_N_READS ch, 0, 64⟩, ⟨R.CH_N_PROGRAMS ch, 0, 64⟩, ⟨R.CH_N_ERASES ch, 0, 64⟩] ∧
      { u with regs := s.regs, out := s.out, free := s.free, nand := { u.nand with chans := s.nand.chans } } = s) ∧
  (∀ (s : State) (ch i : Nat) (o : NandOp),
    s.engineOn ch = true →
    s.strayOp ch = none ∧ (s.chan ch).busHeld = false →
    pickPhase (s.readyOps ch) = some (i, o) →
    o.started = true →
    ∃ u, exec (.busPhase ch) s = .next u ∧ (u.chan ch).ops = (s.chan ch).ops.set i { o with phases := o.phases + 1 } ∧ (∀ c, c ≠ ch → u.chan c = s.chan c) ∧
      u.reg (R.CH_N_BUS_BYTES ch) = s.reg (R.CH_N_BUS_BYTES ch) + 4608 ∧ FieldsStand s u [F.CH_STATUS_QUEUED ch, ⟨R.CH_N_BUS_BYTES ch, 0, 64⟩] ∧
      u.out = s.out ++ (((o.units[o.phases - 1]?).bind s.mediaCodeword).toList.map (fun w => .codeword ch o.die (o.kind == .program) w)) ∧
      { u with regs := s.regs, out := s.out, nand := { u.nand with chans := s.nand.chans } } = s) ∧
  (∀ (s : State) (ch die i : Nat) (o : NandOp) (ns lost : List Nat),
    s.engineEnds ch = true →
    ch < 64 →
    (s.runningOp ch die (fun o => o.kind == .read && s.phasesRun ch o) = some (i, o)) →
    (ns.length = o.units.length ∧ ∀ n ∈ ns, n < o.rclm / 65536 % 256) →
    ∃ u, exec (.nandReadDone ch die (ns.map .hard0) lost) s = .next u ∧ OpGone s u ch i ∧ (u.chan ch).timeouts.get 0 die = 0 ∧
      u.reg (R.CH_N_CW_DECODED ch) = s.reg (R.CH_N_CW_DECODED ch) + BitVec.ofNat 64 ns.length ∧
      u.reg (R.CH_N_CW_CORRECTED ch) = s.reg (R.CH_N_CW_CORRECTED ch) + BitVec.ofNat 64 (ns.filter (· ≠ 0)).length ∧
      u.reg (R.CH_N_BITS_CORRECTED ch) = s.reg (R.CH_N_BITS_CORRECTED ch) + BitVec.ofNat 64 ns.sum ∧
      FieldsStand s u [F.CH_STATUS_QUEUED ch, ⟨R.CH_N_CW_DECODED ch, 0, 64⟩, ⟨R.CH_N_CW_CORRECTED ch, 0, 64⟩, ⟨R.CH_N_BITS_CORRECTED ch, 0, 64⟩, ⟨R.CH_N_SUSPENDS ch, 0, 64⟩] ∧
      { u with regs := s.regs, nand := { u.nand with chans := s.nand.chans } } = s) ∧
  (∀ (s : State) (ch die i l t n : Nat) (o : NandOp) (g : Tag) (q : Cq) (lost : List Nat),
    s.engineEnds ch = true →
    ch < 64 ∧ s.ftl.dumping = false →
    (s.runningOp ch die (fun o => o.kind == .read && s.phasesRun ch o) = some (i, o)) →
    o.units ≠ [] ∧ 0 < o.rclm / 65536 % 256 →
    o.reader = some (.cmd l t) →
    PlainLane s l t g q →
    ∃ u, exec (.nandReadDone ch die [.fail n] lost) s = .next u ∧
      ((u.chan ch).ops ++ (u.chan ch).backlog).length + 1 = ((s.chan ch).ops ++ (s.chan ch).backlog).length ∧
      u.reg (R.CH_N_UNCORR ch) = s.reg (R.CH_N_UNCORR ch) + 1 ∧ u.fld ⟨R.CH_EVCAUSE ch, 0, 1⟩ = 1 ∧ u.tag l t = none ∧
      (.cqe (s.owner l) (s.fld (F.LANE_STATUS_CQID l)) (s.fld (F.LANE_STATUS_SQID l)) g.cmd.sqe.cid (statusField St.unrecovered) 0) ∈ u.out ∧ u.ftl = s.ftl) ∧
  (∀ (s : State) (ch die i : Nat) (o : NandOp) (ok slow : Bool) (c : Instr) (k : OpKind) (cnt bitN : Nat),
    s.engineEnds ch = true →
    ch < 64 ∧ s.ftl.dumping = false →
    (s.runningOp ch die (fun o => o.kind == k && s.phasesRun ch o) = some (i, o)) →
    ((c = .nandProgramDone ch die ok slow ∧ k = .program ∧ cnt = R.CH_N_PROG_FAIL ch ∧ bitN = 1) ∨ (c = .nandEraseDone ch die ok slow ∧ k = .erase ∧ cnt = R.CH_N_ERASE_FAIL ch ∧ bitN = 2)) →
    ∃ u, exec c s = .next u ∧ OpGone s u ch i ∧ (u.chan ch).timeouts.get 0 die = 0 ∧ u.reg cnt = s.reg cnt + (if ok = true then 0 else 1) ∧
      (ok = false → u.fld ⟨R.CH_EVCAUSE ch, bitN, 1⟩ = 1) ∧ (ok = true → slow = true → u.fld ⟨R.CH_EVCAUSE ch, if k = .program then 12 else 11, 1⟩ = 1) ∧
      (k = .program ∨ ok = false → u.ftl = s.ftl) ∧
      (k = .erase → ok = true → ∀ n, u.ftl.erases.get 0 n = if n = nandKey (ch / 4) (16 * (ch % 4) + o.die) o.block then min 0xFFFFFFFF (s.ftl.erases.get 0 n + 1) else s.ftl.erases.get 0 n) ∧
      u.nvme.fns = s.nvme.fns ∧ u.nvme.lanes = s.nvme.lanes) ∧
  (∀ (s : State) (ch die i : Nat) (o : NandOp),
    s.engineEnds ch = true →
    ch < 64 ∧ die < 16 →
    (s.runningOp ch die (fun _ => true) = some (i, o)) →
    o.kind = .read ∧ o.again = false →
    ∃ u, exec (.nandOpTimeout ch die false) s = .next u ∧ u.reg (R.CH_N_TIMEOUTS ch) = s.reg (R.CH_N_TIMEOUTS ch) + 1 ∧ u.fld ⟨R.CH_EVCAUSE ch, 4, 1⟩ = 1 ∧
      .nandReset ch die ∈ u.out ∧ (u.chan ch).timeouts.get 0 die = (s.chan ch).timeouts.get 0 die + 1 ∧
      ((s.chan ch).timeouts.get 0 die < 2 → (s.chan ch).backlog = [] → (u.chan ch).ops = (s.chan ch).ops.set i { o with again := true, started := false, phases := 0 }) ∧
      (2 ≤ (s.chan ch).timeouts.get 0 die → u.fld (F.CH_DIE_STATE ch die) = 3 ∧ u.fld (F.CH_DIE_CAUSE ch die) = 8 ∧ u.fld ⟨R.CH_STATUS ch, die, 1⟩ = 0 ∧
        ∀ p ∈ (u.chan ch).ops ++ (u.chan ch).backlog, p.die ≠ die)) ∧
  (∀ (s : State) (ch die i : Nat) (o : NandOp),
    s.engineEnds ch = true →
    ch < 64 ∧ s.ftl.dumping = false →
    (s.runningOp ch die (fun _ => true) = some (i, o)) →
    (o.kind = .program ∨ o.kind = .erase) →
    (s.chan ch).timeouts.get 0 die < 2 →
    ∃ u, exec (.nandOpTimeout ch die false) s = .next u ∧ OpGone s u ch i ∧ u.reg (R.CH_N_TIMEOUTS ch) = s.reg (R.CH_N_TIMEOUTS ch) + 1 ∧
      .nandReset ch die ∈ u.out ∧ u.reg (R.CH_N_PROG_FAIL ch) = s.reg (R.CH_N_PROG_FAIL ch) + (if o.kind = .program then 1 else 0) ∧
      u.reg (R.CH_N_ERASE_FAIL ch) = s.reg (R.CH_N_ERASE_FAIL ch) + (if o.kind = .erase then 1 else 0) ∧ u.ftl = s.ftl ∧
      exec (.nandOpTimeout ch die true) s = .next s) ∧
  (∀ (s : State) (ch die : Nat),
    s.engineOn ch = true →
    (∃ o ∈ (s.chan ch).ops, o.die = die ∧ o.susp = true) →
    (∀ o ∈ (s.chan ch).ops, o.die = die → o.kind ≠ .read ∧ o.early = false) →
    ∃ u, exec (.eraseResume ch die) s = .next u ∧
      (u.chan ch).ops = (s.chan ch).ops.map (fun o => if o.die = die ∧ o.susp = true then { o with susp := false, since := s.time.ftc - o.since } else o) ∧
      (∀ c, c ≠ ch → u.chan c = s.chan c) ∧ FieldsStand s u [F.CH_STATUS_QUEUED ch] ∧ { u with regs := s.regs, nand := { u.nand with chans := s.nand.chans } } = s) ∧
  (∀ (s : State) (ch die : Nat),
    s.live = true →
    ch < s.part.channels ∧ die < 16 →
    (s.fld (F.CH_DIE_STATE ch die) = 2 ∨ s.fld (F.CH_DIE_STATE ch die) = 3) →
    ∃ u, exec (.dieForget ch die) s = .next u ∧ u.fld (F.CH_DIE_STATE ch die) = 4 ∧ u.fld ⟨R.CH_STATUS ch, die, 1⟩ = 0 ∧ 16 * ch + die ∉ u.nand.waitDies ∧
      (∀ key, u.unit key = (s.unit key).map (fun f => if key / 2 ^ 46 = ch / 4 ∧ 16 * (ch % 4) + die ∈ s.dieSet (ch / 4) (key / 2 ^ 32 % 2 ^ 14) ∧
        s.pageDie (ch / 4) (key / 2 ^ 32 % 2 ^ 14) (key % 2 ^ 32 / 4) = 16 * (ch % 4) + die then { f with lost := true } else f)) ∧
      u.ftl.gens = s.ftl.gens ∧ u.ftl.capMap = s.ftl.capMap) ∧
  (∀ (s : State) (ch : Nat),
    s.inRun = true →
    ch < s.part.channels →
    ∃ u, exec (.ccsFault ch) s = .next u ∧ u.fld (F.CH_STATUS_HALTED ch) = 1 ∧ u.engineOn ch = false ∧ u.fld ⟨R.CH_EVCAUSE ch, 14, 1⟩ = 1 ∧
      OnlyFieldsAndEvents s u [F.CH_STATUS_HALTED ch, ⟨R.CH_EVCAUSE ch, 14, 1⟩]) ∧
  (∀ (s : State) (ch i : Nat) (o : NandOp),
    ch < 64 →
    s.on (F.CH_STATUS_HALTED ch) = true →
    s.inProgress ch = some (i, o) →
    o.kind = .program ∧ s.ftl.dumping = false →
    ∃ u, exec (.ccsRewriteDone ch) s = .next u ∧ u.fld (F.CH_STATUS_HALTED ch) = 0 ∧ OpGone s u ch i ∧ (u.chan ch).seq = none ∧
      u.reg (R.CH_N_PROG_FAIL ch) = s.reg (R.CH_N_PROG_FAIL ch) + 1 ∧ u.fld ⟨R.CH_EVCAUSE ch, 1, 1⟩ = 1 ∧ u.ftl = s.ftl) ∧
  (∀ (s : State),
    s.live = true →
    ∃ u, exec .keptDiscard s = .next u ∧ u.fld F.CCS_KEPT_PENDING = 1 ∧ u.nand.kept = s.nand.kept ∧ OnlyFields s u [F.CCS_KEPT_PENDING])

/-- At a word of the customer region with no bus, data-path or timer part, on a working channel: the ALU writes its destination by its code from the source and the immediate, or LC, or copies SR. Then NEXT goes to the next word; JUMP to TGT; CALL of the customer region pushes the return and goes to TGT, of the export table returns behind itself, and at a fifth level ends the operation as failed; RET pops, and with an empty stack ends the operation as failed; BRT and BRF branch on the condition, which the ALU's result decides; WAIT goes on when the condition holds and else holds, releasing the bus; LOOP counts LC down to TGT until it is 0; DONE with status 00h ends the operation, with a customer code shows the code and its die and ends it as failed. The other operations, channels and commands stand. -/
def Obligations.SequencerWordResult : Prop :=
  (∀ (s : State) (ch code : Nat) (q : Useq) (w : BitVec 192) (f : W32 → W32 → W32),
    AtCode s ch 0 q w →
    (code, f) ∈ aluOps →
    w.toNat / 2 ^ 84 % 16 = code →
    ∃ u, exec (.wNext ch) s = .next u ∧ Seqs s u ch { q.alu w with pc := q.pc + 1 } ∧
      (∀ i, (q.alu w).m.get 0 i = if i = w.toNat / 2 ^ 80 % 16 then f (q.m.get 0 (w.toNat / 2 ^ 76 % 16)) (BitVec.ofNat 32 (w.toNat / 2 ^ 32)) else q.m.get 0 i) ∧
      { q.alu w with m := q.m } = q) ∧
  (∀ (s : State) (ch : Nat) (q : Useq) (w : BitVec 192),
    AtCode s ch 0 q w →
    w.toNat / 2 ^ 84 % 16 ∈ [0, 8, 9] →
    ∃ u, exec (.wNext ch) s = .next u ∧ Seqs s u ch { q.alu w with pc := q.pc + 1 } ∧
      (w.toNat / 2 ^ 84 % 16 = 0 → q.alu w = q) ∧ (w.toNat / 2 ^ 84 % 16 = 8 → q.alu w = { q with lc := q.m.get 0 (w.toNat / 2 ^ 76 % 16) }) ∧
      (w.toNat / 2 ^ 84 % 16 = 9 → ∀ i, (q.alu w).m.get 0 i = if i = w.toNat / 2 ^ 80 % 16 then q.sr.setWidth 32 else q.m.get 0 i)) ∧
  (∀ (s : State) (ch : Nat) (q : Useq) (w : BitVec 192),
    AtCode s ch 1 q w →
    ∃ u, exec (.wJump ch) s = .next u ∧ Seqs s u ch { q.alu w with pc := w.toNat / 2 ^ 169 % 8192 }) ∧
  (∀ (s : State) (ch : Nat) (q : Useq) (w : BitVec 192),
    AtCode s ch 2 q w →
    q.stack.length < 4 →
    6144 ≤ w.toNat / 2 ^ 169 % 8192 →
    ∃ u, exec (.wCall ch) s = .next u ∧ Seqs s u ch { q.alu w with pc := w.toNat / 2 ^ 169 % 8192, stack := (q.pc + 1) :: q.stack }) ∧
  (∀ (s : State) (ch : Nat) (q : Useq) (w : BitVec 192),
    AtCode s ch 2 q w →
    q.stack.length < 4 →
    w.toNat / 2 ^ 169 % 8192 < 6144 →
    ∃ u, exec (.wCall ch) s = .next u ∧ (u.chan ch).seq.map Useq.pc = some (q.pc + 1) ∧ (u.chan ch).seq.map Useq.stack = some q.stack ∧
      (u.chan ch).seq.map Useq.m = some (q.alu w).m ∧ (u.chan ch).ops = (s.chan ch).ops ∧ (∀ c, c ≠ ch → u.chan c = s.chan c) ∧
      { u with regs := s.regs, nand := { u.nand with chans := s.nand.chans }, free := s.free } = s) ∧
  (∀ (s : State) (ch i : Nat) (q : Useq) (w : BitVec 192) (o : NandOp) (c : Instr),
    ((c = .wCall ch ∧ AtCode s ch 2 q w ∧ 4 ≤ q.stack.length) ∨ (c = .wRet ch ∧ AtCode s ch 3 q w ∧ q.stack = [])) →
    s.seqOp ch q = some (i, o) →
    o.kind = .program ∧ s.ftl.dumping = false →
    ∃ u, exec c s = .next u ∧ OpGone s u ch i ∧ (u.chan ch).seq = none ∧ u.reg (R.CH_N_PROG_FAIL ch) = s.reg (R.CH_N_PROG_FAIL ch) + 1 ∧
      u.reg (R.CH_LASTCODE ch) = s.reg (R.CH_LASTCODE ch) ∧ u.ftl = s.ftl) ∧
  (∀ (s : State) (ch a : Nat) (q : Useq) (w : BitVec 192) (rest : List Nat),
    AtCode s ch 3 q w →
    q.stack = a :: rest →
    ∃ u, exec (.wRet ch) s = .next u ∧ Seqs s u ch { q.alu w with pc := a, stack := rest }) ∧
  (∀ (s : State) (ch : Nat) (q : Useq) (w : BitVec 192) (c : Instr) (t : Bool),
    ((c = .wBrt ch ∧ AtCode s ch 4 q w ∧ t = true) ∨ (c = .wBrf ch ∧ AtCode s ch 5 q w ∧ t = false)) →
    w.toNat / 2 ^ 182 % 64 ≠ 2 →
    ∃ u, exec c s = .next u ∧ Seqs s u ch { q.alu w with pc := if seqHolds s ch (q.alu w) w = t then w.toNat / 2 ^ 169 % 8192 else q.pc + 1 }) ∧
  (∀ (s : State) (ch : Nat) (q : Useq) (w : BitVec 192),
    AtCode s ch 6 q w →
    w.toNat / 2 ^ 182 % 64 ≠ 2 →
    ∃ u, exec (.wWait ch) s = .next u ∧
      Seqs s u ch (if seqHolds s ch (q.alu w) w then { q.alu w with pc := q.pc + 1, bus := false } else { q.alu w with waiting := true, bus := false })) ∧
  (∀ (s : State) (ch : Nat) (q : Useq) (w : BitVec 192),
    AtCode s ch 7 q w →
    ∃ u, exec (.wLoop ch) s = .next u ∧
      Seqs s u ch (if (q.alu w).lc = 0 then { q.alu w with pc := q.pc + 1 } else { q.alu w with pc := w.toNat / 2 ^ 169 % 8192, lc := (q.alu w).lc - 1 })) ∧
  (∀ (s : State) (ch i st : Nat) (q : Useq) (w : BitVec 192) (o : NandOp),
    AtCode s ch 8 q w →
    s.seqOp ch q = some (i, o) →
    st = w.toNat / 2 ^ 64 % 256 →
    ((st = 0 ∧ o.kind ≠ .erase) ∨ (16 ≤ st ∧ st < 128 ∧ o.kind = .program ∧ s.ftl.dumping = false)) →
    ∃ u, exec (.wDone ch) s = .next u ∧ OpGone s u ch i ∧ (u.chan ch).seq = none ∧
      (st = 0 → (u.chan ch).timeouts.get 0 q.die = 0 ∧ { u with regs := s.regs, nand := { u.nand with chans := s.nand.chans } } = s ∧
        FieldsStand s u [F.CH_STATUS_QUEUED ch, ⟨R.CH_N_SUSPENDS ch, 0, 64⟩]) ∧
      (st ≠ 0 → u.fld (F.CH_LASTCODE_CODE ch) = st ∧ u.fld (F.CH_LASTCODE_DIE ch) = q.die % 16 ∧ u.reg (R.CH_N_PROG_FAIL ch) = s.reg (R.CH_N_PROG_FAIL ch) + 1))

/-- On a running part: an owner's grant joins its bank's grants and leaves them when retired, and GRANTS counts them to 255. A request within a line to a Ready stack joins its pseudo-channel's queue, but that a read of a line that the last request to it writes whole returns that data at once. Each controller cycle, where no postponed refresh can go, serves one request that none to its line precedes: the oldest that has waited beyond AGE_MAX, else of the mode's the oldest that hits an open row, else the oldest. A write served reads back, every other byte stands, a whole line leaves the poison list, and its row is open; a read changes no byte, and an uncorrectable one puts its line on the list and into ERRADDR, until re-armed. A refresh closes the row of the pseudo-channel's next bank and goes on, or waits while queued requests hit that row and fewer than 4 wait. A failed timing check retrains, or the stack is Failed. Above 85 °C the refresh doubles, below 80 °C it returns unless it is forced. A march test that fails a check is refused with its code; one that starts runs over the banks named; done, a destructive one leaves zeros, a preserving one every byte, and the failing words of its banks are counted. A bank in Retention wakes Active. A SEB wipe ends with WIPING clear, and FAILED where a word does not read zero. -/
def Obligations.BufferMemoryResult : Prop :=
  (∀ (s : State) (b m lo hi : Nat) (d : Dir),
    s.live = true →
    s.part.bank b = true ∧ b < 11 →
    lo < hi ∧ hi ≤ bankBytes b →
    ∃ u, exec (.bufferGrantIssue b m lo hi d) s = .next u ∧
      u.bank b = { s.bank b with grants := (s.bank b).grants ++ [{ master := m, lo := lo, hi := hi, dir := d }] } ∧ (∀ k, k ≠ b → u.bank k = s.bank k) ∧
      u.fld (F.SRB_B_STATUS_GRANTS b) = min 255 ((s.bank b).grants.length + 1) ∧
      OnlyFields s { u with buf := s.buf } [F.SRB_B_STATUS_GRANTS b]) ∧
  (∀ (s : State) (b i : Nat),
    s.live = true →
    b < 11 →
    i < (s.bank b).grants.length →
    ∃ u, exec (.bufferGrantRetire b i) s = .next u ∧ u.bank b = { s.bank b with grants := (s.bank b).grants.eraseIdx i } ∧ (∀ k, k ≠ b → u.bank k = s.bank k) ∧
      u.fld (F.SRB_B_STATUS_GRANTS b) = min 255 ((s.bank b).grants.length - 1) ∧ OnlyFields s { u with buf := s.buf } [F.SRB_B_STATUS_GRANTS b]) ∧
  (∀ (s : State) (k a n pc : Nat) (wr : Option Bytes) (sev : Severity) (q : HbmQueue),
    s.stackReady k = true →
    s.holds (30 + k) = false →
    0 < n ∧ a % 64 + n ≤ 64 ∧ a + n ≤ stackBytes →
    pc = (hbmDecode (s.fld (F.HBM_STATUS_ORDER_ACTIVE k)) a).pc ∧ q = s.hbmQ k pc →
    q.reads < 32 ∧ q.writes < 64 →
    ∃ u, exec (.hbmRequest k a n wr sev) s = .next u ∧ (∀ j, j ≠ k → u.stk j = s.stk j) ∧ { u.stk k with queues := (s.stk k).queues } = s.stk k ∧
      (∀ p, p ≠ pc → u.hbmQ k p = s.hbmQ k p) ∧
      (if wr = none ∧ ((q.reqs.filter (fun r => r.addr / 64 == a / 64)).getLast?).any (fun r => r.write.isSome && r.len == 64) = true then
         u.hbmQ k pc = q ∧ OnlyFields s u [⟨R.HBM_N_READS k, 0, 64⟩] ∧ u.reg (R.HBM_N_READS k) = s.reg (R.HBM_N_READS k) + 1
       else u.hbmQ k pc = { q with reqs := q.reqs ++ [{ addr := a, len := n, write := wr, sev := sev, since := s.time.ftc }] } ∧
         OnlyFields s { u with buf := s.buf } [F.HBM_STATUS_POISONED k])) ∧
  (∀ (s : State) (k pc i age : Nat) (q : HbmQueue) (r : HbmReq),
    q = s.hbmQ k pc ∧ s.hbmPick k q = some (i, r) →
    age = 10 * s.fld (F.HBM_CFG_AGE_MAX k) →
    q.reqs[i]? = some r ∧ (∀ x ∈ q.reqs.take i, x.addr / 64 ≠ r.addr / 64) ∧
      (∀ x ∈ q.able, age < s.time.ftc - x.2.since → age < s.time.ftc - r.since ∧ i ≤ x.1) ∧
      (s.time.ftc - r.since ≤ age → r.write.isSome = s.hbmMode k q ∧ ∀ x ∈ q.able, x.2.write.isSome = s.hbmMode k q →
        (s.hbmHit k x.2 = true → s.hbmHit k r = true ∧ i ≤ x.1) ∧ (s.hbmHit k r = false → i ≤ x.1))) ∧
  (∀ (s : State) (k pc i key : Nat) (r : HbmReq) (bs : Bytes) (d : HbmAt),
    s.hbmPick k (s.hbmQ k pc) = some (i, r) →
    ((s.hbmQ k pc).owed = 0 ∨ s.hbmBankHit k pc = true) →
    0 < r.len ∧ r.addr % 64 + r.len ≤ 64 →
    (r.write = some bs ∧ (r.len = 64 ∨ r.sev = .clean)) →
    d = hbmDecode (s.fld (F.HBM_STATUS_ORDER_ACTIVE k)) (r.addr / 64 * 64) →
    key = 48 * d.pc + d.bank →
    ((s.hbmCycle k pc).stk k).mem.read r.addr r.len = fit r.len bs ∧ ((s.hbmCycle k pc).hbmQ k pc).reqs = (s.hbmQ k pc).reqs.eraseIdx i ∧
      (∀ x, x < r.addr ∨ r.addr + r.len ≤ x → ((s.hbmCycle k pc).stk k).mem.read x 1 = (s.stk k).mem.read x 1) ∧
      ((s.hbmCycle k pc).stk k).rows.get 0 key = d.row + 1 ∧ (r.len = 64 → r.addr ∉ ((s.hbmCycle k pc).stk k).poison) ∧
      (s.hbmCycle k pc).reg (R.HBM_N_WRITES k) = s.reg (R.HBM_N_WRITES k) + 1 ∧
      (s.hbmCycle k pc).reg (R.HBM_N_RMW k) = s.reg (R.HBM_N_RMW k) + (if r.len = 64 then 0 else 1) ∧
      (s.hbmCycle k pc).reg (R.HBM_N_ROW_HITS k) + (s.hbmCycle k pc).reg (R.HBM_N_ACTIVATES k) = s.reg (R.HBM_N_ROW_HITS k) + s.reg (R.HBM_N_ACTIVATES k) + 1 ∧
      (∀ j, j ≠ k → (s.hbmCycle k pc).stk j = s.stk j) ∧ (s.hbmCycle k pc).ftl = s.ftl ∧ (s.hbmCycle k pc).buf.banks = s.buf.banks) ∧
  (∀ (s : State) (k pc i : Nat) (r : HbmReq),
    s.hbmPick k (s.hbmQ k pc) = some (i, r) →
    ((s.hbmQ k pc).owed = 0 ∨ s.hbmBankHit k pc = true) →
    r.write = none →
    r.addr / 64 * 64 ∉ (s.stk k).poison ∧ (s.stk k).poison.length < 127 →
    ((s.hbmCycle k pc).stk k).mem = (s.stk k).mem ∧ ((s.hbmCycle k pc).hbmQ k pc).reqs = (s.hbmQ k pc).reqs.eraseIdx i ∧
      (s.hbmCycle k pc).reg (R.HBM_N_READS k) = s.reg (R.HBM_N_READS k) + 1 ∧
      (r.sev ≠ .uncorrectable → ((s.hbmCycle k pc).stk k).poison = (s.stk k).poison) ∧
      (r.sev = .uncorrectable → ((s.hbmCycle k pc).stk k).poison = (s.stk k).poison ++ [r.addr / 64 * 64] ∧ (s.hbmCycle k pc).fld (F.HBM_STATUS_POISONED k) = (s.stk k).poison.length + 1 ∧
        (s.hbmCycle k pc).reg (R.HBM_N_UNCORR k) = s.reg (R.HBM_N_UNCORR k) + 1 ∧ (s.hbmCycle k pc).fld (F.HBM_EVCAUSE_UNCORR k) = 1 ∧ (s.hbmCycle k pc).fld (F.HBM_ERRADDR_VALID k) = 1 ∧
        (s.hbmCycle k pc).fld (F.HBM_ERRADDR_ADDR k) = if s.fld (F.HBM_ERRADDR_VALID k) = 1 then s.fld (F.HBM_ERRADDR_ADDR k) else r.addr / 64 * 64 % 2 ^ 36) ∧
      (∀ j, j ≠ k → (s.hbmCycle k pc).stk j = s.stk j) ∧ (s.hbmCycle k pc).ftl = s.ftl ∧ (s.hbmCycle k pc).buf.banks = s.buf.banks) ∧
  (∀ (s : State) (k pc b : Nat),
    s.stackReady k = true →
    pc < 32 →
    b = (s.stk k).refPos.get 0 pc →
    (s.hbmBankHit k pc = false ∨ 4 ≤ (s.hbmQ k pc).owed) →
    ∃ u, exec (.hbmRefresh k pc) s = .next u ∧ (u.stk k).rows.get 0 (48 * pc + b) = 0 ∧ (∀ x, x ≠ 48 * pc + b → (u.stk k).rows.get 0 x = (s.stk k).rows.get 0 x) ∧
      (u.stk k).refPos.get 0 pc = (b + 1) % 48 ∧ (u.stk k).mem = (s.stk k).mem ∧ (u.stk k).poison = (s.stk k).poison ∧ (u.stk k).queues = (s.stk k).queues ∧
      u.reg (R.HBM_N_REFRESHES k) = s.reg (R.HBM_N_REFRESHES k) + 1 ∧ (∀ j, j ≠ k → u.stk j = s.stk j) ∧
      OnlyFields s { u with buf := s.buf } [⟨R.HBM_N_REFRESHES k, 0, 64⟩, F.HBM_STATUS_POISONED k]) ∧
  (∀ (s : State) (k pc : Nat),
    s.stackReady k = true →
    pc < 32 →
    s.hbmBankHit k pc = true ∧ (s.hbmQ k pc).owed < 4 →
    ∃ u, exec (.hbmRefresh k pc) s = .next u ∧ u.hbmQ k pc = { s.hbmQ k pc with owed := (s.hbmQ k pc).owed + 1 } ∧ (∀ p, p ≠ pc → u.hbmQ k p = s.hbmQ k p) ∧
      { u.stk k with queues := (s.stk k).queues } = s.stk k ∧ (∀ j, j ≠ k → u.stk j = s.stk j) ∧ OnlyFields s { u with buf := s.buf } [F.HBM_STATUS_POISONED k]) ∧
  (∀ (s : State) (k c : Nat) (retrained : Bool),
    s.stackReady k = true →
    c < 16 →
    ∃ u, exec (.hbmTimingCheck k c false retrained) s = .next u ∧
      (retrained = true → u.reg (R.HBM_N_RETRAINS k) = s.reg (R.HBM_N_RETRAINS k) + 1 ∧ u.fld (F.HBM_EVCAUSE_RETRAIN k) = 1 ∧ u.stackReady k = true) ∧
      (retrained = false → u.fld (F.HBM_STATUS_STATE k) = 3 ∧ u.stackReady k = false ∧ u.fld (F.HBM_EVCAUSE_FAILED k) = 1 ∧ u.power.fatal = true) ∧ u.buf = s.buf ∧ u.ftl = s.ftl) ∧
  (∀ (s : State) (k t : Nat),
    s.stackReady k = true →
    85 < t →
    ∃ u, exec (.hbmTempHot k t) s = .next u ∧ u.fld (F.HBM_STATUS_TEMP k) = t % 256 ∧ u.fld (F.HBM_STATUS_REF_FAST k) = 1 ∧ u.fld (F.HBM_EVCAUSE_TEMP_HOT k) = 1 ∧
      u.buf = s.buf ∧ u.ftl = s.ftl) ∧
  (∀ (s : State) (k t : Nat),
    s.stackReady k = true →
    t < 80 →
    ∃ u, exec (.hbmTempOk k t) s = .next u ∧ u.fld (F.HBM_STATUS_TEMP k) = t % 256 ∧ u.fld (F.HBM_EVCAUSE_TEMP_OK k) = 1 ∧
      u.fld (F.HBM_STATUS_REF_FAST k) = (if s.fld (F.HBM_CFG_REF_2X k) = 1 then s.fld (F.HBM_STATUS_REF_FAST k) else 0) ∧ u.buf = s.buf ∧ u.ftl = s.ftl) ∧
  (∀ (s : State) (k : Nat),
    s.live = true →
    k < s.part.stacks →
    ∃ u, exec (.hbmErraddrRearm k) s = .next u ∧ u.fld (F.HBM_ERRADDR_VALID k) = 0 ∧ OnlyFields s u [F.HBM_ERRADDR_VALID k]) ∧
  (∀ (s : State) (p : Bool) (m : Nat),
    s.live = true →
    ∃ u, exec (.marchStart p m) s = .next u ∧
      (s.marchRefuse p m ≠ 0 → u.fld F.SRB_MARCH_STATUS_REFUSE = s.marchRefuse p m ∧ OnlyFields s u [F.SRB_MARCH_STATUS_REFUSE]) ∧
      (s.marchRefuse p m = 0 → u.fld F.SRB_MARCH_STATUS_STATE = 1 ∧ u.fld F.SRB_MARCH_FAILS_COUNT = 0 ∧ u.fld F.SRB_MARCH_CTRL_BANKS = m % 2048 ∧
        u.buf = { s.buf with marchOn := (List.range 11).filter (fun b => m.testBit b), marchKeep := p, aborted := false })) ∧
  (∀ (s : State) (fails fs : List (Nat × Nat)) (c : Instr) (st : Nat),
    s.fld F.SRB_MARCH_STATUS_STATE = 1 →
    ((c = .marchDone fails ∧ st = (if s.buf.aborted then 3 else 2)) ∨ (c = .marchAbort fails ∧ s.live = true ∧ st = 3)) →
    (fs = fails.filter (fun x => s.buf.marchOn.contains x.1)) →
    ∃ u, exec c s = .next u ∧ u.fld F.SRB_MARCH_STATUS_STATE = st ∧ u.fld F.SRB_MARCH_FAILS_COUNT = min (2 ^ 32 - 1) fs.length ∧ u.buf.marchOn = [] ∧
      (fs ≠ [] → u.fld F.SRB_MARCH_STATUS_FAIL = 1) ∧ (s.buf.marchKeep = true → u.buf.banks = s.buf.banks) ∧
      (s.buf.marchKeep = false → c = .marchDone fails → ∀ b ∈ s.buf.marchOn, u.bank b = { s.bank b with mem := [], bad := [], junk := none }) ∧
      (∀ b, b ∉ s.buf.marchOn → u.bank b = s.bank b) ∧ u.buf.stack = s.buf.stack ∧ u.ftl = s.ftl) ∧
  (∀ (s : State) (b : Nat),
    b < 11 →
    s.fld (F.SRB_B_STATUS_PSTATE b) = 3 →
    ∃ u, exec (.bankWake b) s = .next u ∧ u.bankActive b = true ∧ (b < 10 → u.dom (38 + b) = 2) ∧ u.buf = s.buf ∧ (∀ k, k < 11 → k ≠ b → u.reg (R.SRB_B_STATUS k) = s.reg (R.SRB_B_STATUS k))) ∧
  (∀ (s : State) (bad : Option Nat),
    s.fld (F.SRB_B_STATUS_WIPING 9) = 1 →
    s.buf.wipeAgain = false →
    ∃ u, exec (.sebWipeDone bad) s = .next u ∧ u.fld (F.SRB_B_STATUS_WIPING 9) = 0 ∧ (bad.isSome = true → u.fld (F.SRB_B_STATUS_FAILED 9) = 1) ∧
      (bad = none → OnlyFieldsAndEvents s u [F.SRB_B_STATUS_WIPING 9]) ∧ u.buf = s.buf)

/-- On a running part, for a channel of the 64: START of an Idle channel makes it Running at stream byte 0 and fetches. A fetched descriptor from host memory that is valid and whose spaces the channel may reach is taken, an invalid one halts the channel with error 1 at its address. With nothing read ahead, a burst of 64-byte elements from host memory to a Ready stack, whose queued requests keep within their lines, puts the host's bytes at the destination element, and DONE and READ count 64 more; with the last byte the channel awaits completion. A completion without write-back or tail-drop, whose read-back the stack can answer or is not asked for, counts the descriptor, and the channel goes to the next descriptor, or is Idle after the last; a read-back that does not return is retried, and its retries spent halts the channel with error 9. PAUSE while fetching makes it Pausing, otherwise Pausing with at most MAX_OUT bursts beyond the one in hand to come, or Paused with none. RESUME clears the retries and what was read ahead and runs on, or awaits completion where all bytes are done. TAILDROP of a Running channel drops it to the burst in hand, of a Paused one without a descriptor makes it Idle. Other channels stand. -/
def Obligations.DmaChannelResult : Prop :=
  (∀ (s : State) (n : Nat),
    s.live = true →
    n < 64 →
    s.holds 50 = false →
    s.dmaState n = 0 →
    ∃ u, exec (.dmaStart n) s = .next u ∧ u.dmaState n = 1 ∧ u.reg (R.DMA_POS n) = 0 ∧ u.fld (F.DMA_STATUS_ERR n) = 0 ∧ u.fld (F.DMA_STATUS_RETRIES n) = 0 ∧
      u.dmaCh n = { fetching := true } ∧ (∀ k, k ≠ n → u.dmaCh k = s.dmaCh k) ∧
      OnlyFields s { u with dma := s.dma } [⟨R.DMA_STATUS n, 0, 64⟩, ⟨R.DMA_POS n, 0, 64⟩]) ∧
  (∀ (s : State) (n : Nat),
    s.live = true →
    n < 64 →
    s.dmaState n = 1 →
    ∃ u, exec (.dmaPause n) s = .next u ∧ (∀ k, k ≠ n → u.dmaCh k = s.dmaCh k) ∧
      ((s.dmaCh n).fetching = true → u.dmaState n = 2 ∧ u.dma = s.dma ∧ OnlyFields s u [F.DMA_STATUS_STATE n]) ∧
      ((s.dmaCh n).fetching = false → (u.dmaState n = 2 ∧ u.dmaCh n = { s.dmaCh n with ahead := (u.dmaCh n).ahead } ∧
          (u.dmaCh n).ahead ≤ s.fld (F.DMA_CTRL_MAX_OUT n) + 1 - ((s.dmaCh n).buf.length + 63) / 64 ∧ ((s.dmaCh n).buf ≠ [] ∨ 0 < (u.dmaCh n).ahead)) ∨
        (u.dmaState n = 3 ∧ u.dma = s.dma ∧ (s.dmaCh n).buf = [] ∧ u.fld (F.DMA_EVCAUSE_PAUSED n) = 1))) ∧
  (∀ (s : State) (n : Nat),
    s.live = true →
    n < 64 →
    s.holds 50 = false →
    (s.dmaState n = 3 ∨ s.dmaState n = 5) →
    ∃ u, exec (.dmaResume n) s = .next u ∧ u.fld (F.DMA_STATUS_RETRIES n) = 0 ∧ (∀ k, k ≠ n → u.dmaCh k = s.dmaCh k) ∧
      ((s.dmaCh n).desc = none → u.dmaState n = 1 ∧ u.dmaCh n = { s.dmaCh n with fetching := true }) ∧
      (∀ d ∈ (s.dmaCh n).desc, u.dmaState n = (if s.fld (F.DMA_POS_DONE n) = d.len then 6 else 1) ∧ u.dmaCh n = { s.dmaCh n with buf := [] }) ∧
      u.fld (F.DMA_POS_READ n) = s.fld (F.DMA_POS_DONE n) ∧
      OnlyFields s { u with dma := s.dma } [F.DMA_STATUS_STATE n, F.DMA_STATUS_RETRIES n, F.DMA_POS_READ n]) ∧
  (∀ (s : State) (n : Nat),
    s.live = true →
    n < 64 →
    (s.dmaState n = 1 ∨ (s.dmaState n = 3 ∧ (s.dmaCh n).desc = none)) →
    ∃ u, exec (.dmaTaildrop n) s = .next u ∧ (∀ k, k ≠ n → u.dmaCh k = s.dmaCh k) ∧
      (s.dmaState n = 1 → u.dmaState n = 4 ∧ u.dmaCh n = { s.dmaCh n with ahead := 0, last := !(s.dmaCh n).fetching, dropping := true, buf := (s.dmaCh n).buf.take 64 }) ∧
      (s.dmaState n = 3 → u.dmaState n = 0 ∧ u.dmaCh n = {} ∧ u.fld (F.DMA_EVCAUSE_TAILDROP n) = 1)) ∧
  (∀ (s : State) (n a : Nat) (bs : Bytes),
    s.live = true →
    n < 64 →
    (s.dmaCh n).fetching = true →
    s.dmaState n = 1 →
    s.fld (F.DMA_CTRL_DESC_SPACE n) = 2 →
    a = s.fld (F.DMA_DESC_ADDR n) ∧ a % 64 = 0 ∧ a + 64 ≤ 2 ^ 64 →
    s.fnExists (s.fld (F.DMA_CTRL_DESC_FUNC n)) = true →
    (s.descValid (fit 64 bs) = false ∨ (dmaReach n (descOf (fit 64 bs)).sSp (descOf (fit 64 bs)).src = true ∧ dmaReach n (descOf (fit 64 bs)).dSp (descOf (fit 64 bs)).dst = true)) →
    ∃ u, exec (.dmaDescriptorFetch n (some bs)) s = .next u ∧ (u.dmaCh n).desc = some (descOf (fit 64 bs)) ∧ (u.dmaCh n).fetching = false ∧ (∀ k, k ≠ n → u.dmaCh k = s.dmaCh k) ∧
      (s.descValid (fit 64 bs) = true → u.dmaState n = 1 ∧ u.fld (F.DMA_STATUS_RETRIES n) = 0 ∧ OnlyFields s { u with dma := s.dma } [F.DMA_STATUS_RETRIES n]) ∧
      (s.descValid (fit 64 bs) = false → u.dmaState n = 5 ∧ u.fld (F.DMA_STATUS_ERR n) = 1 ∧ u.fld (F.DMA_STATUS_ERR_SPACE n) = 2 ∧ u.fld (F.DMA_ERRADDR_ADDR n) = a ∧
        u.fld (F.DMA_EVCAUSE_HALTED n) = 1)) ∧
  (∀ (s : State) (n k off done : Nat) (d : Desc) (hb : Bytes) (sev dsev : List Severity),
    s.live = true →
    n < 64 →
    s.dmaState n = 1 →
    (s.dmaCh n).desc = some d →
    d.sSp = 2 ∧ d.dSp = 0 ∧ d.sW = 6 ∧ d.dW = 6 ∧ d.sStr = 0 ∧ d.dStr = 0 →
    done = s.fld (F.DMA_POS_DONE n) ∧ done % 64 = 0 ∧ done + 64 ≤ d.len ∧ d.len < 2 ^ 32 →
    (s.dmaCh n).fetching = false ∧ (s.dmaCh n).buf = [] ∧ (s.dmaCh n).ahead = 0 ∧ s.fld (F.DMA_POS_READ n) = done →
    d.src + done + 64 ≤ 2 ^ 64 →
    s.fnExists d.func = true →
    d.dst < 2 ^ 38 ∧ k = d.dst / 2 ^ 36 ∧ off = d.dst % 2 ^ 36 + done ∧ off + 64 ≤ stackBytes ∧ off % 64 = 0 →
    s.stackReady k = true →
    (∀ r ∈ (s.hbmQ k (hbmDecode (s.fld (F.HBM_STATUS_ORDER_ACTIVE k)) off).pc).reqs, r.addr % 64 + r.len ≤ 64) →
    ∃ u, exec (.dmaBurst n 1 (some hb) true true sev dsev) s = .next u ∧ (u.stk k).mem.read off 64 = fit 64 hb ∧
      (∀ x, x < off ∨ off + 64 ≤ x → (u.stk k).mem.read x 1 = (s.stk k).mem.read x 1) ∧ (∀ j, j ≠ k → u.stk j = s.stk j) ∧
      u.fld (F.DMA_POS_DONE n) = done + 64 ∧ u.fld (F.DMA_POS_READ n) = done + 64 ∧ u.dmaState n = (if done + 64 = d.len then 6 else 1) ∧
      (∀ j, u.dmaCh j = s.dmaCh j)) ∧
  (∀ (s : State) (n : Nat) (d : Desc) (sev : Severity),
    s.live = true →
    n < 64 →
    s.dmaState n = 6 →
    (s.dmaCh n).desc = some d →
    d.wb = false ∧ (s.dmaCh n).dropping = false →
    (d.barrier = true ∨ (s.dmaReadBack d (d.lastLine (s.fld (F.DMA_POS_DONE n))) sev).isSome = true) →
    ∃ u, exec (.dmaDescriptorComplete n true true sev) s = .next u ∧ u.fld (F.DMA_COUNT_DESCS n) = (s.fld (F.DMA_COUNT_DESCS n) + 1) % 2 ^ 32 ∧
      (d.irq = true → u.fld (F.DMA_EVCAUSE_DESC_DONE n) = 1) ∧ (d.next = 0 → u.dmaState n = 0 ∧ u.dmaCh n = {} ∧ u.fld (F.DMA_EVCAUSE_CHAIN_END n) = 1) ∧
      (d.next ≠ 0 → u.dmaState n = 1 ∧ u.dmaCh n = { fetching := true } ∧ u.fld (F.DMA_DESC_ADDR n) = d.next % 2 ^ 64 ∧ u.reg (R.DMA_POS n) = 0) ∧
      (∀ k, k ≠ n → u.dmaCh k = s.dmaCh k) ∧ (d.barrier = true → u.buf = s.buf) ∧ u.buf.banks = s.buf.banks) ∧
  (∀ (s : State) (n : Nat) (d : Desc) (sev : Severity) (w : Bool),
    s.live = true →
    n < 64 →
    s.dmaState n = 6 →
    (s.dmaCh n).desc = some d →
    d.barrier = false →
    ∃ u, exec (.dmaDescriptorComplete n false w sev) s = .next u ∧ (∀ k, k ≠ n → u.dmaCh k = s.dmaCh k) ∧
      (s.fld (F.DMA_STATUS_RETRIES n) < s.fld (F.DMA_CTRL_RETRY n) → u.dmaState n = 6 ∧ u.fld (F.DMA_STATUS_RETRIES n) = s.fld (F.DMA_STATUS_RETRIES n) + 1 ∧
        u.fld (F.DMA_EVCAUSE_RETRY n) = 1) ∧
      (s.fld (F.DMA_CTRL_RETRY n) ≤ s.fld (F.DMA_STATUS_RETRIES n) → u.dmaState n = 5 ∧ u.fld (F.DMA_STATUS_ERR n) = 9 ∧ u.fld (F.DMA_EVCAUSE_HALTED n) = 1))

/-- On a running part with the cipher: LOCK is set; the random source's health shows in RNG_FAIL; the physical function writes the owner of an Empty page. A tamper alarm, unless the part is Off or Blank, leaves no key, makes every Loaded page await its key, ends the grant, shows its source, sets TAMPER and wipes SEB. A line of the persistence die's host region that verifies in time reads back; one that does not is remapped to a spare line, or, with none left, sets WORN and read-only and stores nothing. OPTION_COMMIT shows the first failed check, or starts the erase of the copy not in use or waits for the array; done, that copy holds the staged fields with the next generation, or its sector is out of service. A code flash read brings its line into a buffer, suspends an erase that has run 1 ms at most 100 times, and waits for a program; with no erase waiting, a program's line is in its sector when done, no other byte changed, and the next line of the sector's plan follows, as its first line follows an erase; a sector that fails to program or erase is out of service. -/
def Obligations.KeysAndStoresResult : Prop :=
  (∀ (s : State) (c : Instr) (f : Field) (v : Nat),
    s.live = true →
    s.part.cipher = true →
    (c, f, v) ∈ [(Instr.cipherLock, F.CPH_CTRL_LOCK, 1), (Instr.rngHealthPass, F.CPH_STATUS_RNG_FAIL, 0), (Instr.rngHealthFail, F.CPH_STATUS_RNG_FAIL, 1)] →
    ∃ u, exec c s = .next u ∧ u.fld f = v ∧ (c = .rngHealthFail → u.fld ⟨R.CPH_EVCAUSE, 5, 1⟩ = 1) ∧ (c ≠ .rngHealthFail → OnlyFields s u [f]) ∧
      OnlyFieldsAndEvents s u [f, ⟨R.CPH_EVCAUSE, 5, 1⟩]) ∧
  (∀ (s : State) (k o : Nat),
    s.live = true →
    s.part.cipher = true →
    k < 256 →
    s.fld (F.CPH_KP_STATE_STATE k) = 0 →
    ∃ u, exec (.keyPageOwnerWrite 0 k o) s = .next u ∧ u.fld (F.CPH_KP_STATE_OWNER k) = o % 32 ∧ OnlyFields s u [F.CPH_KP_STATE_OWNER k]) ∧
  (∀ (s : State) (n : Nat),
    s.power.phase ≠ .off →
    s.fld F.SEC_LC_STATE ≠ 0 →
    n < 5 →
    (∀ e ∈ s.eth.saKeys, e.1 < 4096) →
    ∃ u, exec (.tamperAlarm n) s = .next u ∧ u.cph.keys = [] ∧ u.cph.sebKeys = [] ∧ u.eth.saKeys = [] ∧
      (∀ k, k < 256 → u.fld (F.CPH_KP_STATE_STATE k) = if s.fld (F.CPH_KP_STATE_STATE k) = 1 then 2 else s.fld (F.CPH_KP_STATE_STATE k)) ∧
      u.fld F.DBG_STATUS_SCOPE = 0 ∧ u.fld ⟨R.SEC_TAMPER, n, 1⟩ = 1 ∧ u.fld F.SEC_STATUS_TAMPER = 1 ∧ u.fld ⟨R.SEC_EVCAUSE, n, 1⟩ = 1 ∧
      u.fld (F.SRB_B_STATUS_WIPING 9) = 1 ∧ (s.fld (F.SRB_B_STATUS_WIPING 9) = 0 → (u.bank 9).mem = []) ∧ u.nvme.fns = s.nvme.fns) ∧
  (∀ (s : State) (l n : Nat) (d : Bytes) (ok : Bool),
    s.power.phase = .run →
    0x38000000 ≤ 64 * l ∧ l < 16777216 →
    d.length = 64 →
    ∃ u, exec (.pstLineWrite l d n ok) s = .next u ∧ u.reg R.PST_WRITES = s.reg R.PST_WRITES + 1 ∧ u.reg R.PST_RETRIES = s.reg R.PST_RETRIES + BitVec.ofNat 64 (min 7 n) ∧
      (ok = true ∧ n < max 1 (s.fld F.PST_CFG_REMAP_AT) → u.pstRead (64 * l) 64 = d ∧ u.reg R.PST_REMAPPED = s.reg R.PST_REMAPPED) ∧
      (¬ (ok = true ∧ n < max 1 (s.fld F.PST_CFG_REMAP_AT)) → 0 < s.fld F.PST_STATUS_SPARE_LEFT →
        u.pstRead (64 * l) 64 = d ∧ l ∈ u.pst.remap ∧ u.fld F.PST_STATUS_SPARE_LEFT + 1 = s.fld F.PST_STATUS_SPARE_LEFT ∧
        u.reg R.PST_REMAPPED = s.reg R.PST_REMAPPED + 1 ∧ u.fld F.PST_EVCAUSE_REMAP = 1) ∧
      (¬ (ok = true ∧ n < max 1 (s.fld F.PST_CFG_REMAP_AT)) → s.fld F.PST_STATUS_SPARE_LEFT = 0 →
        u.pst = s.pst ∧ u.fld F.PST_STATUS_WORN = 1 ∧ u.fld F.FTL_STATUS_READ_ONLY = 1)) ∧
  (∀ (s : State),
    s.live = true →
    ∃ u, exec .optionCommit s = .next u ∧
      (s.optCheck ≠ 0 → u.fld F.CFL_OPT_CTRL_RESULT = s.optCheck ∧ u.fld F.CFL_EVCAUSE_OPT_DONE = 1 ∧ u.cfl = s.cfl) ∧
      (s.optCheck = 0 → u.fld F.CFL_OPT_CTRL_RUNNING = 1) ∧ (s.optCheck = 0 → s.cfl.op.isSome = true → u.cfl = { s.cfl with wait := s.cfl.wait ++ [s.optTarget] }) ∧
      (s.optCheck = 0 → s.cfl.op = none → u.fld F.CFL_STATUS_BUSY = 1 ∧ u.cfl.op = some (.erase s.optTarget) ∧ s.optTarget ∈ u.cfl.intents ∧
        (if s.optTarget = 0 then u.cfl.copyA = none ∧ u.cfl.copyB = s.cfl.copyB else u.cfl.copyB = none ∧ u.cfl.copyA = s.cfl.copyA)) ∧ u.cfl.opt = s.cfl.opt) ∧
  (∀ (s : State) (ok good : Bool),
    s.fld F.CFL_OPT_CTRL_RUNNING = 1 →
    s.cflAt s.optTarget = true →
    good = (ok && !s.cfl.bad.contains s.optTarget) →
    ∃ u, exec (.optionCommitDone ok) s = .next u ∧ u.fld F.CFL_OPT_CTRL_RUNNING = 0 ∧ u.fld F.CFL_EVCAUSE_OPT_DONE = 1 ∧
      (s.cfl.wait = [] → u.cfl.op = none ∧ u.fld F.CFL_STATUS_BUSY = 0 ∧
        (good = true → (if s.optTarget = 0 then u.cfl.copyA else u.cfl.copyB) = some (optOf s.staged (s.cfl.opt.gen + 1)) ∧
          (if s.optTarget = 0 then u.cfl.copyB = s.cfl.copyB else u.cfl.copyA = s.cfl.copyA))) ∧
      u.fld F.CFL_OPT_CTRL_RESULT = (if good = true then 0 else 8) ∧ (good = false → s.optTarget ∈ u.cfl.bad ∧ u.fld F.CFL_STATUS_OPT_DEGRADED = 1)) ∧
  (∀ (s : State) (c sec off : Nat) (ns : Bool),
    s.power.phase = .run →
    c ≤ 4 ∧ sec < 512 ∧ off < 65536 →
    ∃ u, exec (.cflRead c sec off ns) s = .next u ∧ OnlyFields s { u with cfl := s.cfl } [F.CFL_STATUS_SUSPENDED] ∧ u.cfl.mem = s.cfl.mem ∧ u.cfl.op = s.cfl.op ∧
      (s.cfl.op = none → (2048 * sec + off / 32 ∈ u.cfl.branch ∨ 2048 * sec + off / 32 ∈ u.cfl.prefetch) ∧ u.regs = s.regs) ∧
      (s.cfl.op.any (fun o => match o with | .program _ _ => true | _ => false) = true → u = s) ∧
      (s.cfl.op.any (fun o => match o with | .erase _ => true | _ => false) = true → s.fld F.CFL_STATUS_SUSPENDED = 0 →
        if s.cfl.suspN < 100 ∧ s.cfl.since + 1000000 ≤ s.time.ftc then u.fld F.CFL_STATUS_SUSPENDED = 1 ∧ u.cfl.suspN = s.cfl.suspN + 1 else u = s)) ∧
  (∀ (s : State),
    s.fld F.CFL_STATUS_SUSPENDED = 1 →
    ∃ u, exec .cflEraseResume s = .next u ∧ u.fld F.CFL_STATUS_SUSPENDED = 0 ∧ OnlyFields s u [F.CFL_STATUS_SUSPENDED]) ∧
  (∀ (s : State) (l : Nat) (d : Bytes) (ok : Bool),
    s.cfl.op = some (.program l d) ∧ s.cfl.wait = [] →
    4 ≤ l / 2048 ∧ l < 1048576 ∧ d.length ≤ 32 →
    ∃ u, exec (.cflProgramDone ok) s = .next u ∧ u.cfl.op = (if ok = true ∧ (l + 1) / 2048 = l / 2048 then s.planLine (l + 1) else none) ∧
      u.fld F.CFL_STATUS_BUSY = ofBool u.cfl.op.isSome ∧
      (ok = true → (∀ i, i < d.length → some (u.cflByte (l / 2048) (32 * (l % 2048) + i)) = d[i]?) ∧ u.cfl.bad = s.cfl.bad) ∧
      (∀ sec off, 4 ≤ sec → off < 65536 → (ok = false ∨ sec ≠ l / 2048 ∨ off < 32 * (l % 2048) ∨ 32 * (l % 2048) + d.length ≤ off) → u.cflByte sec off = s.cflByte sec off) ∧
      (ok = false → l / 2048 ∈ u.cfl.bad ∧ u.fld F.CFL_EVCAUSE_SECTOR_BAD = 1)) ∧
  (∀ (s : State) (sec us : Nat) (ok : Bool),
    s.cfl.op = some (.erase sec) ∧ s.cfl.wait = [] →
    s.fld F.CFL_STATUS_SUSPENDED = 0 →
    ∃ u, exec (.cflEraseDone ok us) s = .next u ∧ u.fld F.CFL_STATUS_BUSY = ofBool u.cfl.op.isSome ∧ sec ∉ u.cfl.intents ∧ u.cfl.mem = s.cfl.mem ∧
      (ok = true ∧ us ≤ 1000000 → u.cfl.op = s.planLine (2048 * sec) ∧ u.cfl.bad = s.cfl.bad ∧ (400000 < us → u.fld F.CFL_EVCAUSE_ERASE_SLOW = 1) ∧
        (128 ≤ sec → sec < 320 → u.fld F.CFL_ERASE_MAX_SLOT0 = max us (s.fld F.CFL_ERASE_MAX_SLOT0) % 2 ^ (F.CFL_ERASE_MAX_SLOT0).len)) ∧
      (¬ (ok = true ∧ us ≤ 1000000) → u.cfl.op = none ∧ sec ∈ u.cfl.bad ∧ u.fld F.CFL_EVCAUSE_SECTOR_BAD = 1))

/-- On a running part a write of RAISE word 28 to 31 sets the flag of each bit written but that of source 896, and of no other source; a source that so goes from 0 to 1, is enabled and routed to the cores joins their list. A core in Run that takes a listed source removes it, clears its flag unless it is set in that cycle again, and a type 0002h record with the next recorder sequence names it. A stopped crystal sets SYNCH and its cause. The expiry of a group watchdog of a domain that is On and has work counts, unless a restart falls in its cycle; of a channel group it resets the die of each operation in flight, of an Ethernet port it takes the port's links down, of the Urette cluster it ends every run, and of the others the part resets with cause 5 and the domain. The controller-die watchdog starts anew when the last core that is on has serviced it, the package watchdog at its service; their expiries, unless a service falls in the cycle, are counted and reset the part with causes 3 and 4, 4 where both fall in one cycle, and leave what lies on flash and in the persistence die. -/
def Obligations.EventsAndWatchdogsResult : Prop :=
  (∀ (s : State) (w : Nat) (v : W32),
    s.live = true →
    28 ≤ w ∧ w < 32 →
    ∃ u, exec (.eventRaise w v) s = .next u ∧
      (∀ i, i < 32 → u.evFlag (32 * w + i) = (s.evFlag (32 * w + i) || (v.getLsbD i && 32 * w + i != 896))) ∧
      (∀ i, i < 32 → v.getLsbD i = true → 32 * w + i ≠ 896 → s.evFlag (32 * w + i) = false → s.fld ⟨R.EVT_ENABLE w, i, 1⟩ = 1 →
        s.fld (F.EVT_ROUTE_TARGET (32 * w + i)) = 1 → 32 * w + i ∈ u.evt.cores) ∧
      OnlyFields s { lessEvents s u with regs := u.regs } [⟨R.EVT_STATUS w, 0, 32⟩]) ∧
  (∀ (s : State) (n : Nat) (again : Bool),
    s.inRun = true →
    n < 1024 →
    n ∈ s.evt.cores →
    ∃ u, exec (.eventTakenByCore n again) s = .next u ∧ n ∉ u.evt.cores ∧ (∀ k, k ≠ n → (k ∈ u.evt.cores ↔ k ∈ s.evt.cores)) ∧ u.evFlag n = again ∧
      (∃ r ∈ u.evt.circ, r.type = 2 ∧ r.seq = s.evt.nextRec ∧ r.time = s.time.ftc ∧ r.payload = leBytes 2 n ++ zeros 14) ∧
      u.evt.nextRec = (if s.evt.nextRec = 0xFFFFFFFF then 1 else s.evt.nextRec + 1) ∧ { u with regs := s.regs, evt := s.evt } = s) ∧
  (∀ (s : State),
    s.power.phase ≠ .off →
    ∃ u, exec .rtcStop s = .next u ∧ u.fld F.TMR_CAL_SYNCH = 1 ∧ u.fld F.TMR_EVCAUSE_RTC_STOP = 1 ∧
      OnlyFieldsAndEvents s u [F.TMR_CAL_SYNCH, F.TMR_EVCAUSE_RTC_STOP]) ∧
  (∀ (s : State) (d : Nat),
    s.live = true →
    s.dom d = 2 →
    ((5 ≤ d ∧ d ≤ 28) ∨ d = 49) →
    s.groupWork d = true →
    s.ftl.dumping = false →
    (∀ t, t < 128 → ∀ th ∈ s.thread t, th.dgram.stream < 64 ∧ th.dgram.port < 8 ∧ th.dgram.sub < 4) →
    ∃ u, exec (.groupWatchdogExpiry d false) s = .next u ∧ exec (.groupWatchdogExpiry d true) s = .next s ∧
      u.time.gwdgN.get 0 d = s.time.gwdgN.get 0 d + 1 ∧ (∀ k, k ≠ d → u.time.gwdgN.get 0 k = s.time.gwdgN.get 0 k) ∧
      (d ≤ 20 → ∀ i, i < 4 → ∀ o ∈ (s.chan (4 * (d - 5) + i)).ops, o.started = true → o.die < 16 → Out.nandReset (4 * (d - 5) + i) o.die ∈ u.out) ∧
      (21 ≤ d → u.fld ⟨R.TMR_GWDG, d, 1⟩ = 1 ∧ u.fld F.TMR_EVCAUSE_GROUP_WDG = 1) ∧ (21 ≤ d → d ≤ 28 → ∀ j, j < 4 → u.linkUp (d - 21) j = false) ∧
      (d = 49 → ∀ t, t < 128 → u.thread t = (s.thread t).filter (fun th => th.accepted))) ∧
  (∀ (s : State) (d : Nat),
    s.live = true →
    s.dom d = 2 →
    ((29 ≤ d ∧ d ≤ 37) ∨ (50 ≤ d ∧ d ≤ 52)) →
    s.groupWork d = true →
    ∃ u, exec (.groupWatchdogExpiry d false) s = .next u ∧ u.fld F.TMR_WDG_LAST_CAUSE = 5 ∧ u.fld F.TMR_WDG_LAST_DOMAIN = d ∧ u.power.booted = false ∧ u.power.phase = .run ∧
      u.ftl.gens = [] ∧ KeptOver s u ∧ u.ftl.wbuf = [] ∧ u.buf = {}) ∧
  (∀ (s : State) (k : Nat),
    s.live = true →
    k < 4 ∧ s.dom (1 + k) = 2 →
    ∃ u, exec (.dieWatchdogService k) s = .next u ∧
      ((∀ j, j < 4 → s.dom (1 + j) = 2 → j = k ∨ j ∈ s.time.serviced) → u.time = { s.time with serviced := [], dieNs := 0 }) ∧
      ((∃ j, j < 4 ∧ s.dom (1 + j) = 2 ∧ j ≠ k ∧ j ∉ s.time.serviced) → u.time.dieNs = s.time.dieNs ∧ k ∈ u.time.serviced) ∧ { u with time := s.time } = s) ∧
  (∀ (s : State),
    s.live = true →
    exec .packageWatchdogService s = .next { s with time := { s.time with pkgNs := 0 } }) ∧
  (∀ (s : State) (c : Instr) (die pkg : Bool),
    s.watchdogsCount = true →
    ((c = .dieWatchdogExpiry false pkg ∧ die = true) ∨ (c = .packageWatchdogExpiry false die ∧ pkg = true)) →
    ∃ u, exec c s = .next u ∧ u.fld F.TMR_WDG_LAST_CAUSE = (if pkg = true then 4 else 3) ∧
      u.fld F.TMR_WDG_DIE_EXP = min 65535 (s.fld F.TMR_WDG_DIE_EXP + ofBool die) ∧ u.fld F.TMR_WDG_PKG_EXP = min 65535 (s.fld F.TMR_WDG_PKG_EXP + ofBool pkg) ∧
      u.power.booted = false ∧ u.power.phase = .run ∧
      u.ftl.gens = [] ∧ KeptOver s u ∧ u.ftl.wbuf = [] ∧ u.buf = {} ∧
      exec (.dieWatchdogExpiry true pkg) s = .next s ∧ exec (.packageWatchdogExpiry true die) s = .next s)

/-- Set Features Power Management for a ready physical function completes at once for the present state and with Invalid Field above 4; for another state an entry starts. The agents of the domains that go lower are asked: all accept, and the sequencing begins; one delays, and the entry waits; the lowest that refuses stands in PWR.REFUSE and the entry is given up. APST is stored; idle, an entry for PS3 or PS4 starts, and in Basking one for PS4 sets BRUM_WAIT. A Timestamp sets the calendar, its origin and clears SYNCH. An agent that delayed leaves the delays, refuses or goes on; at the cap the lowest still delaying refuses. Sequencing done, the state and every domain's state are shown and the body bias is the state's: Basking puts banks in Retention and ready stacks in self-refresh; Brumation loses keys, DMA, staging banks and every register not kept. A wake that came in the entry starts the exit at once. A link in L2 starts Brumation where BRUM_WAIT is 1, else its domain is Off; a refused Brumation is tried again. -/
def Obligations.PowerEntryResult : Prop :=
  (∀ (s : State) (c : Sqe) (q : Cq),
    s.adminOk 0 = true →
    s.steady = true →
    c.opc.toNat = 9 ∧ (s.fn 0).cqs.get none 0 = some q →
    c.cdw10.toNat % 256 = 2 →
    c.cdw10.getLsbD 31 = false →
    ∃ u, exec (.setFeaturesPowerMgmt 0 c) s = .next u ∧
      (c.cdw11.toNat % 32 = s.fld F.PWR_STATE_CUR → c.cdw11.toNat % 32 ≤ 4 → Answered s u 0 c St.ok 0 [] ∧ OnlyAnswered s u 0) ∧
      (4 < c.cdw11.toNat % 32 → EndsWith s u 0 c St.invalidField 0 ∧ lessAnswer s u = s) ∧
      (c.cdw11.toNat % 32 ≤ 2 → c.cdw11.toNat % 32 ≠ s.fld F.PWR_STATE_CUR → EntryStarted s u (c.cdw11.toNat % 32) (some (0, c.cid)) false ∧
        (s.agentsAsked (c.cdw11.toNat % 32) = [] → EndsWith s u 0 c St.ok 0)) ∧
      (c.cdw11.toNat % 32 = 3 ∨ c.cdw11.toNat % 32 = 4 → c.cdw11.toNat % 32 ≠ s.fld F.PWR_STATE_CUR →
        EntryStarted (s.suspendErases.marchAbort []) u 3 (some (0, c.cid)) (decide (c.cdw11.toNat % 32 = 4)) ∧
        (((s.suspendErases.marchAbort []).agentsAsked 3).all (fun d => ((s.suspendErases.marchAbort []).agentAnswer 3 d).1 == .accept) = true → EndsWith s u 0 c St.ok 0) ∧
        (((s.suspendErases.marchAbort []).agentsAsked 3).any (fun d => ((s.suspendErases.marchAbort []).agentAnswer 3 d).1 == .refuse) = true →
          .cqe 0 0 0 c.cid (statusField St.sequenceError) 0 ∈ u.out))) ∧
  (∀ (s : State) (c : Sqe) (d : Bytes) (q : Cq),
    s.adminOk 0 = true →
    c.opc.toNat = 9 ∧ (s.fn 0).cqs.get none 0 = some q →
    c.cdw10.toNat % 256 = 0x0C →
    c.cdw10.getLsbD 31 = false →
    d.length = 256 →
    ∃ u, exec (.setFeaturesApst 0 c d) s = .next u ∧ Answered s u 0 c St.ok 0 [] ∧ (u.fn 0).apst = d ∧ ((u.fn 0).features.get 0 0x0C).toNat = c.cdw11.toNat % 2 ∧
      (∀ k, k ≠ 0x0C → (u.fn 0).features.get 0 k = (s.fn 0).features.get 0 k) ∧ lessAnswer s u = s) ∧
  (∀ (s : State) (c : Sqe) (d : Bytes) (q : Cq),
    s.adminOk 0 = true →
    c.opc.toNat = 9 ∧ (s.fn 0).cqs.get none 0 = some q →
    c.cdw10.toNat % 256 = 0x0E →
    c.cdw10.getLsbD 31 = false →
    ∃ u, exec (.setFeaturesTimestamp 0 c d) s = .next u ∧ EndsWith s u 0 c St.ok 0 ∧ u.time.base = Bytes.le d 0 6 ∧ u.time.rtcBase = (s.reg R.TMR_RTC).toNat ∧
      u.calMs = Bytes.le d 0 6 % 2 ^ 48 ∧ u.fld F.TMR_CAL_ORIGIN = 1 ∧ u.fld F.TMR_CAL_SYNCH = 0 ∧ u.fld ⟨R.TMR_EVCAUSE, 2, 1⟩ = 1 ∧
      (∃ r ∈ u.evt.circ, r.type = 4 ∧ r.payload = leBytes 8 s.cal.toNat ++ leBytes 8 u.cal.toNat) ∧ u.reg R.TMR_RTC = s.reg R.TMR_RTC) ∧
  (∀ (s : State) (e : Nat),
    s.inRun = true →
    s.power.entry = none →
    s.power.exiting = false →
    s.commandsPending = false →
    (s.fn 0).features.get 0 0x0C = 1 →
    e = Bytes.le (s.fn 0).apst (8 * s.fld F.PWR_STATE_CUR) 8 →
    0 < e / 256 % 2 ^ 24 →
    (e / 8 % 32 = 3 ∨ e / 8 % 32 = 4) →
    ∃ u, exec .apstTransition s = .next u ∧ EntryStarted (s.suspendErases.marchAbort []) u 3 none (decide (e / 8 % 32 = 4))) ∧
  (∀ (s : State),
    s.live = true →
    s.basking = true →
    s.power.entry = none →
    s.power.exiting = false →
    s.commandsPending = false →
    (s.fn 0).features.get 0 0x0C = 1 →
    Bytes.le (s.fn 0).apst 24 8 / 8 % 32 = 4 →
    0 < Bytes.le (s.fn 0).apst 24 8 / 256 % 2 ^ 24 →
    ∃ u, exec .apstTransition s = .next u ∧ u.fld F.PWR_STATE_BRUM_WAIT = 1 ∧ OnlyFields s u [F.PWR_STATE_BRUM_WAIT]) ∧
  (∀ (s : State) (e : Entry) (d : Nat),
    s.live = true →
    s.power.entry = some e →
    d ∈ e.delays →
    e.target ≤ 4 →
    ∃ u, exec (.agentAnswer d) s = .next u ∧ u.fld F.PWR_STATE_CUR = s.fld F.PWR_STATE_CUR ∧
      ((s.agentAnswer e.target d).1 = .delay → u = s) ∧
      ((s.agentAnswer e.target d).1 = .accept → (∃ j ∈ e.delays, j ≠ d) →
        u = { s with power := { s.power with entry := some { e with delays := e.delays.filter (fun j => decide (j ≠ d)) } } }) ∧
      ((s.agentAnswer e.target d).1 = .accept → (∀ j ∈ e.delays, j = d) → u.fld F.PWR_STATE_PHASE = 2 ∧
        { u.power with bias := s.power.bias } = { s.power with entry := some { e with delays := [], asked := none } }) ∧
      ((s.agentAnswer e.target d).1 = .refuse → EntryRefused s u e.target d (s.agentAnswer e.target d).2)) ∧
  (∀ (s : State) (e : Entry) (d f : Nat) (cid : BitVec 16) (q : Cq),
    s.live = true →
    s.power.entry = some e →
    e.target ≤ 4 →
    e.asked = some (f, cid) →
    (s.fn f).cqs.get none 0 = some q →
    d ∈ e.delays ∧ (s.agentAnswer e.target d).1 = .delay →
    (e.delays.take (e.delays.idxOf d) |>.all (fun j => (s.agentAnswer e.target j).1 != .delay)) →
    ∃ u, exec .delayCapExpiry s = .next u ∧ EntryRefused s u e.target d (s.agentAnswer e.target d).2 ∧ u.fld F.PWR_STATE_CUR = s.fld F.PWR_STATE_CUR ∧
      .cqe f 0 0 cid (statusField St.sequenceError) 0 ∈ u.out) ∧
  (∀ (s : State) (e : Entry),
    s.live = true →
    s.power.entry = some e →
    s.fld F.PWR_STATE_PHASE = 2 →
    e.target ≤ 3 →
    (e.woke = none ∨ e.target < 3) →
    ∃ u, exec .powerStateReached s = .next u ∧ u.fld F.PWR_STATE_CUR = e.target ∧ u.fld F.PWR_STATE_PHASE = 0 ∧ u.fld F.PWR_STATE_TARGET = 0 ∧
      u.fld F.PWR_EVCAUSE_ENTERED = 1 ∧ (∀ d, d < 53 → u.dom d = s.domIn e.target d) ∧
      (∀ d, d < 53 → u.power.bias.logic.get 0 d = if e.target < 2 then (s.biasTrim d : Int) else if e.target = 2 then 0
        else if s.domIn 3 d = 1 then -300 else s.power.bias.logic.get 0 d) ∧ u.power.bias.writeA = decide (e.target < 3) ∧
      (e.target < 3 → { u.power with bias := s.power.bias } = { s.power with entry := none } ∧
        OnlyFieldsAndEvents { s with power := u.power } u [⟨R.PWR_STATE, 24, 8⟩, ⟨R.PWR_DOMSTATE0, 0, 64⟩, ⟨R.PWR_DOMSTATE1, 0, 42⟩, F.PWR_EVCAUSE_ENTERED]) ∧
      (e.target = 3 → { u.power with bias := s.power.bias } = { s.power with entry := none, prior := s.fld F.PWR_STATE_CUR } ∧ u.fld F.PWR_STATE_BRUM_WAIT = (if e.brum then 1 else 0) ∧
        (∀ b, b < 11 → s.part.bank b = true → u.fld (F.SRB_B_STATUS_PSTATE b) = 1) ∧
        (∀ k, k < s.part.stacks → s.fld (F.HBM_STATUS_STATE k) = 1 → u.fld (F.HBM_STATUS_STATE k) = 2 ∧ (u.stk k).rows = []))) ∧
  (∀ (s : State) (e : Entry),
    s.live = true →
    s.power.entry = some e →
    s.fld F.PWR_STATE_PHASE = 2 →
    e.target = 4 →
    e.woke = none →
    ∃ u, exec .powerStateReached s = .next u ∧ u.fld F.PWR_STATE_PHASE = 0 ∧ u.fld F.PWR_EVCAUSE_ENTERED = 1 ∧ u.power.phase = .brumation ∧ u.power.entry = none ∧
      u.power.exiting = s.power.exiting ∧ (∀ d, d < 53 → u.dom d = s.domIn 4 d) ∧ u.cph.keys = [] ∧ u.cph.sebKeys = s.cph.sebKeys ∧ u.dma = [] ∧ u.pst = s.pst ∧
      u.cfl.mem = s.cfl.mem ∧ u.ftl.gens = s.ftl.gens ∧ u.ftl.capMap = s.ftl.capMap ∧ u.ftl.units = s.ftl.units ∧ u.nvme.linkUp = false ∧ u.nvme.fns = [] ∧
      (∀ b, b < 8 → u.bank b = {}) ∧ (∀ b, 8 ≤ b → b < 11 → (u.bank b).mem = (s.bank b).mem) ∧
      (∀ x, keptInBrumation x = false → x < 2 ^ 25 → u.reg x = resetValue x) ∧ (∀ x, savedReg x = true → x < 2 ^ 25 → u.power.saved.get (resetValue x) x = s.reg x)) ∧
  (∀ (s : State) (e : Entry) (src : WakeSrc),
    s.live = true →
    s.power.entry = some e →
    s.fld F.PWR_STATE_PHASE = 2 →
    e.target = 3 →
    e.woke = some src →
    ∃ u, exec .powerStateReached s = .next u ∧ u.fld F.PWR_STATE_CUR = 3 ∧ ExitStarted u src 3 true ∧ (∀ b, b < 11 → s.part.bank b = true → u.fld (F.SRB_B_STATUS_PSTATE b) = 3) ∧
      u.power.prior = s.fld F.PWR_STATE_CUR) ∧
  (∀ (s : State),
    s.live = true →
    s.nvme.linkUp = true →
    ∃ u, exec .pcieLinkL2 s = .next u ∧ u.power.linkL2 = true ∧ u.nvme.linkUp = false ∧ u.fld F.PWR_EVCAUSE_L2 = 1 ∧
      (¬ (s.basking = true ∧ s.fld F.PWR_STATE_BRUM_WAIT = 1 ∧ s.power.entry = none ∧ s.power.exiting = false) → u.dom 29 = 0 ∧ u.power = { s.power with linkL2 := true } ∧
        (∀ d, d < 53 → d ≠ 29 → u.dom d = s.dom d) ∧ u.fld F.PWR_STATE_CUR = s.fld F.PWR_STATE_CUR) ∧
      (s.basking = true → s.fld F.PWR_STATE_BRUM_WAIT = 1 → s.power.entry = none → s.power.exiting = false →
        EntryStarted ({ s with power := { s.power with linkL2 := true }, nvme := { s.nvme with linkUp := false } }.suspendErases.marchAbort []) u 4 none true)) ∧
  (∀ (s : State),
    s.brumDue = true →
    ∃ u, exec .brumationRetry s = .next u ∧ EntryStarted (s.suspendErases.marchAbort []) u 4 none true ∧
      (u.power.entry = none → u.dom 29 = s.domIn 3 29))

/-- A wake that R492 gives the part's state starts the exit: PHASE is 3, PWR.LAST_WAKE names the source and the state left, the watchdogs start from zero; from Basking the banks begin to leave Retention, from Brumation WAKE_N is asserted unless PERST_N woke the part. One that comes during an entry is noted, and one that is not enabled changes nothing. Out of Basking the part holds the state it held before, every domain and bank is in that state's own, with its body bias, stacks leave self-refresh, held work is done, and nothing is held for debug. Out of Brumation the part is in PS0: every domain is in PS0's state, the counter has advanced by the RTC's, BRIDGE_COUNT counts it, the keys come back from SEB, a Loaded page without one awaits its key, the challenge is new and every namespace is ready. A domain that does not reach On resets the part with cause 7, and leaves flash and persistence contents. LIMITED and its cause follow the temperature. -/
def Obligations.WakesAndExitsResult : Prop :=
  (∀ (s : State) (src : WakeSrc),
    s.power.phase = .brumation →
    s.power.exiting = false →
    ∃ u, exec (.wake src) s = .next u ∧ (s.wakes src 4 = false → u = s) ∧
      (s.wakes src 4 = true → ExitStarted u src 4 false ∧ u.power = { s.power with exiting := true, wakeN := s.power.wakeN || src != .perst } ∧ (src ≠ .perst → .wakeN ∈ u.out))) ∧
  (∀ (s : State) (src : WakeSrc),
    s.live = true →
    s.basking = true →
    s.power.exiting = false →
    s.power.entry = none →
    ∃ u, exec (.wake src) s = .next u ∧ (s.wakes src 3 = false → u = s) ∧
      (s.wakes src 3 = true → ExitStarted u src 3 false ∧ u.power = { s.power with exiting := true } ∧ u.fld F.PWR_STATE_CUR = 3 ∧
        (∀ b, b < 11 → s.part.bank b = true → u.fld (F.SRB_B_STATUS_PSTATE b) = 3))) ∧
  (∀ (s : State) (src : WakeSrc) (e : Entry),
    s.live = true →
    s.power.entry = some e →
    3 ≤ e.target →
    e.woke = none →
    exec (.wake src) s = .next (if s.wakes src e.target = true then { s with power := { s.power with entry := some { e with woke := some src } } } else s)) ∧
  (∀ (s : State),
    s.live = true →
    s.basking = true →
    s.power.exiting = true →
    s.power.prior ≤ 2 →
    (∀ x ∈ s.eth.garpDue, x.1 < 8 ∧ x.2 < 4) →
    (∀ x ∈ s.sec.held, x.1 < 4) →
    ∃ u, exec .baskingExitDone s = .next u ∧ u.fld F.PWR_STATE_CUR = s.power.prior ∧ u.fld F.PWR_STATE_PHASE = 0 ∧ u.fld F.PWR_STATE_BRUM_WAIT = 0 ∧
      { u.power with bias := s.power.bias, work := s.power.work, fatal := s.power.fatal } = { s.power with exiting := false } ∧ u.power.work = [] ∧
      (∀ d, d < 53 → u.power.bias.logic.get 0 d = if s.power.prior < 2 then (s.biasTrim d : Int) else 0) ∧ u.fld F.PWR_EVCAUSE_EXITED = 1 ∧ (∀ d, d < 53 → u.dom d = s.domIn s.power.prior d) ∧
      (∀ b, b < 11 → s.part.bank b = true → u.fld (F.SRB_B_STATUS_PSTATE b) = 0) ∧
      (∀ k, k < s.part.stacks → s.fld (F.HBM_STATUS_STATE k) = 2 → (s.power.work = [] → u.fld (F.HBM_STATUS_STATE k) = 1) ∧ u.fld ⟨R.HBM_EVCAUSE k, 7, 1⟩ = 1) ∧
      u.sec.held = [] ∧ u.sec.obsHeld = none ∧ (s.debugOpen 0 = true → ∀ x ∈ s.sec.held, u.fld ⟨R.DBG_STATUS, 23 + x.1, 1⟩ = 1 ∧ x.1 ∈ u.sec.session)) ∧
  (∀ (s : State) (facts : StartFacts) (rtc adv : Nat),
    s.power.phase = .brumation →
    s.power.exiting = true →
    (∀ e ∈ s.power.saved, savedReg e.1 = true) →
    rtc = (s.reg R.TMR_RTC).toNat →
    adv = (rtc - s.time.entryRtc) * 1000000000 / 32768 →
    ∃ u, exec (.brumationExit facts) s = .next u ∧ u.power.phase = .run ∧ u.power.exiting = false ∧ u.power.saved = [] ∧ u.fld F.PWR_STATE_CUR = 0 ∧
      u.fld F.PWR_STATE_PHASE = 0 ∧ u.fld F.PWR_STATE_BRUM_WAIT = 0 ∧ u.fld F.PWR_EVCAUSE_EXITED = 1 ∧ (∀ d, d < 53 → u.dom d = u.domIn 0 d) ∧
      u.time.ftc = (s.time.entryFtc + adv) % 2 ^ 64 ∧ u.fld F.TMR_BRIDGE_COUNT = min 65535 (s.fld F.TMR_BRIDGE_COUNT + 1) ∧ u.evt.bridged = true ∧ u.evt.queued = [] ∧
      u.cph.keys = s.cph.sebKeys ∧ u.cph.sebKeys = s.cph.sebKeys ∧
      (∀ k, k < 256 → s.fld (F.CPH_KP_STATE_STATE k) = 1 → u.fld (F.CPH_KP_STATE_STATE k) = if (s.cph.sebKeys.find k).isNone then 2 else 1) ∧
      u.fld F.DBG_CHAL_CHAL = facts.challenge.toNat ∧ (∀ n, n < 257 → (u.ns n).all (fun v => !v.notReady) = true)) ∧
  (∀ (s : State) (d : Nat),
    s.power.phase = .brumation →
    s.power.exiting = true →
    s.part.domain d = true →
    ∃ u, exec (.domainFault d) s = .next u ∧ u.fld F.TMR_WDG_LAST_CAUSE = 7 ∧ u.fld F.TMR_WDG_LAST_DOMAIN = 0 ∧ u.power.booted = false ∧ u.power.phase = .run ∧
      KeptOver s u ∧ u.ftl.wbuf = [] ∧ u.buf = {}) ∧
  (∀ (s : State) (c : Instr) (v : Nat),
    s.live = true →
    ((c = .thermalLimitOn ∧ v = 1) ∨ (c = .thermalLimitOff ∧ v = 0)) →
    s.fld F.PWR_STATE_LIMITED = 1 - v →
    ∃ u, exec c s = .next u ∧ u.fld F.PWR_STATE_LIMITED = v ∧ u.fld F.PWR_EVCAUSE_THERMAL = 1 ∧ OnlyFieldsAndEvents s u [F.PWR_STATE_LIMITED, F.PWR_EVCAUSE_THERMAL])

/-- PART_START of a part in Blank stops the boot ROM; else the slot that is chosen runs: RUN_SLOT, RESTRICTED and the versions show it, the option area is taken, keys are gone, the override is spent and the map rebuilds; with no slot CSTS.CFS is 1. Of a transition that a reset cut, the intent is gone or the new state stands; which, is free (log entry 73). LC_CTRL shows the first reason against a transition; with none, and from factory test where it is open, the keys go, SEB is wiped, the grant ends and it runs; done, the lifecycle is the target's, options hold its lock and, from Field-Return on, no namespace, no unit of a block in service and no key hash is left, and the part resets with cause 7. A revoke ends the grant. Where the matrix opens them a core halts and OBS is driven, both held while Basking; debug reads of SEB, the key-page store and the cipher lanes return zeros and writes there are discarded; a core resumes. EXTEST, CLAMP and HIGHZ and the reset ball reset the part with cause 2 and hold it, after the dump where a window is in use; released by their own end; the three do nothing where only IDCODE and BYPASS act. IDCODE, BYPASS and SAMPLE/PRELOAD shift out their register, the last with the levels of HU_GATE and HU_DIS_EN. Supplies off, then on: cause 1, no RTC count, the flash drivers as each quadrant's VDDQ was sensed, and flash and persistence contents stand. -/
def Obligations.BootDebugAndPinsResult : Prop :=
  (∀ (s : State) (facts : StartFacts),
    s.power.phase = .run →
    s.power.booted = false →
    s.power.stopped = false →
    s.fld F.SEC_LC_STATE = 0 ∧ s.sec.transition = none →
    ∃ u, exec (.partStart facts) s = .next u ∧ u.power.stopped = true ∧ u.power.booted = false ∧ u.cph.keys = [] ∧ u.cph.sebKeys = [] ∧
      u.cfl.opt = s.cfl.chosen.1 ∧ u.fld F.DBG_CHAL_CHAL = facts.challenge.toNat) ∧
  (∀ (s t : State) (facts : StartFacts) (n : Nat) (restricted : Bool),
    s.power.phase = .run →
    s.power.booted = false →
    s.power.stopped = false →
    s.fld F.SEC_LC_STATE ≠ 0 →
    s.sec.transition = none →
    t = s.takeOptions.finishCflErases →
    (t.chooseSlot facts = if restricted = true then .restricted n else .normal n) →
    ∃ u, exec (.partStart facts) s = .next u ∧ u.power.booted = true ∧ n < 2 ∧ u.fld F.SEC_STATUS_RUN_SLOT = n ∧
      u.fld F.SEC_STATUS_RESTRICTED = (if restricted = true then 1 else 0) ∧ u.fld F.SEC_FWVER_FW_VER = Img.version (t.slot n).fw % 2 ^ 32 ∧
      u.fld F.SEC_FWVER_BUNDLE_VER = Img.version (t.slot n).bundle % 2 ^ 32 ∧ u.fld F.SEC_BOOT_OVR_EN = 0 ∧ u.cph.keys = [] ∧ u.cph.sebKeys = [] ∧
      u.cfl.opt = s.cfl.chosen.1 ∧ u.fld F.DBG_CHAL_CHAL = facts.challenge.toNat ∧ u.fld F.FTL_STATUS_REBUILDING = 1 ∧ u.nand.table = facts.tables.getD n [] ∧
      (s.cfl.intents = [] → t.slot n = s.slot n) ∧ KeptOver s u) ∧
  (∀ (s : State) (facts : StartFacts),
    s.power.phase = .run →
    s.power.booted = false →
    s.power.stopped = false →
    s.fld F.SEC_LC_STATE ≠ 0 →
    s.sec.transition = none →
    s.takeOptions.finishCflErases.chooseSlot facts = .none →
    s.nvme.numVfs < 32 →
    ∃ u, exec (.partStart facts) s = .next u ∧ u.power.booted = true ∧ u.power.fatal = true ∧ (∀ f, f ≤ s.nvme.numVfs → u.fld (Nv.CFS f) = 1) ∧
      u.fld F.SEC_BOOT_OVR_EN = 0 ∧ u.cph.keys = []) ∧
  (∀ (s : State) (facts : StartFacts) (a b : Nat),
    s.power.phase = .run →
    s.power.booted = false →
    s.power.stopped = false →
    s.sec.transition = some (a, b, false) ∧ b < 8 →
    ∃ u, exec (.partStart facts) s = .next u ∧ (Config.freeNat s.free % 2 = 0 → u.sec.transition = none ∧ u.fld F.SEC_LC_STATE = s.fld F.SEC_LC_STATE) ∧
      (Config.freeNat s.free % 2 = 1 → u.fld F.SEC_LC_STATE = b)) ∧
  (∀ (s : State) (confirm target : Nat),
    s.live = true →
    s.sec.transition = none →
    (∀ e ∈ s.eth.saKeys, e.1 < 4096) →
    ∃ u, exec (.lifecycleTransition confirm target) s = .next u ∧ u.fld F.SEC_LC_CTRL_RESULT = s.lcRefusal confirm target ∧
      (s.lcRefusal confirm target ≠ 0 → OnlyFields s u [F.SEC_LC_CTRL_RESULT]) ∧ (s.lcRefusal confirm target = 0 → TransitionBegun s u target)) ∧
  (∀ (s : State) (target : Nat),
    s.power.phase = .run →
    (s.power.booted = true ∨ s.power.stopped = true) →
    s.basking = false →
    s.sec.transition = none →
    s.factoryOpen = true →
    (∀ e ∈ s.eth.saKeys, e.1 < 4096) →
    ((s.fld F.SEC_LC_STATE = 0 ∧ target = 1 ∧ calGood = true) ∨ (s.fld F.SEC_LC_STATE = 1 ∧ target = 2 ∧ (s.cfl.copyA ≠ none ∨ s.cfl.copyB ≠ none))) →
    ∃ u, exec (.factoryTestInstruction target) s = .next u ∧ TransitionBegun s u target) ∧
  (∀ (s : State) (a n : Nat) (x : Bool),
    s.power.phase = .run →
    (s.power.booted = true ∨ s.power.stopped = true) →
    s.sec.transition = some (a, n, x) →
    1 ≤ n ∧ n ≤ 4 →
    ∃ u, exec .lifecycleTransitionDone s = .next u ∧ u.fld F.SEC_LC_STATE = n ∧ u.sec.transition = none ∧ u.fld F.SEC_LC_CTRL_RUNNING = 0 ∧
      u.fld F.TMR_WDG_LAST_CAUSE = 7 ∧ u.power.booted = false ∧ u.power.phase = .run ∧
      (if s.optTarget = 0 then u.cfl.copyA else u.cfl.copyB) = some { s.cfl.opt with gen := s.cfl.opt.gen + 1, lock := if n = 1 ∨ n = 3 then 0 else 0xA5, key := if 3 ≤ n then [] else s.cfl.opt.key } ∧
      (n < 3 → KeptOver s u) ∧
      (3 ≤ n → (∀ i, i < 257 → u.ns i = none) ∧ (∀ e ∈ u.ftl.units, e.1 / 2 ^ 46 < 16 → e.1 / 2 ^ 32 % 2 ^ 14 ∉ s.gbList (e.1 / 2 ^ 46)) ∧
        (∀ e ∈ u.ftl.clutches, e.1 / 2 ^ 28 < 16 → e.1 / 2 ^ 14 % 2 ^ 14 ∉ s.gbList (e.1 / 2 ^ 28)) ∧
        u.ftl.ledger = [] ∧ u.ftl.spanTab = [] ∧ u.cph.limits = [] ∧ u.pst.gcm = [])) ∧
  (∀ (s : State),
    s.live = true →
    ∃ u, exec .debugRevoke s = .next u ∧ u.fld F.DBG_STATUS_SCOPE = 0 ∧ (s.fld F.DBG_STATUS_SCOPE = 0 → u = s) ∧
      (s.fld F.DBG_STATUS_SCOPE ≠ 0 → u.fld F.DBG_STATUS_HALTED = 0 ∧ u.fld F.DBG_STATUS_ATTACHED = 0 ∧ u.fld F.DBG_OBS_CTRL_EN = 0 ∧ u.sec.session = [] ∧ u.sec.held = [] ∧
        u.sec.obsOut = false ∧ u.fld ⟨R.SEC_EVCAUSE, 7, 1⟩ = 1 ∧ u.time.dieNs = 0 ∧ u.time.pkgNs = 0 ∧
        (∃ r ∈ u.evt.circ, r.type = 0x22 ∧ r.payload = [byteOf (s.fld F.DBG_STATUS_SCOPE), 4] ++ zeros 14))) ∧
  (∀ (s : State) (k : Nat) (acc : List DbgAcc),
    s.live = true →
    k < 4 →
    s.debugOpen 0 = true →
    ∃ u, exec (.coreHalt k acc) s = .next u ∧
      (s.debugHeld = true → u.regs = s.regs ∧ (k, acc) ∈ u.sec.held ∧ (∀ x ∈ u.sec.held, x = (k, acc) ∨ x ∈ s.sec.held) ∧ (∀ x ∈ s.sec.held, x ∈ u.sec.held) ∧
        { u with sec := s.sec } = s) ∧
      (s.debugHeld = false → u.fld ⟨R.DBG_STATUS, 23 + k, 1⟩ = 1 ∧ u.fld F.DBG_STATUS_ATTACHED = 1 ∧ k ∈ u.sec.session ∧
        OnlyFields s { u with sec := s.sec, buf := s.buf, out := s.out, free := s.free } ([⟨R.DBG_STATUS, 23 + k, 1⟩, F.DBG_STATUS_ATTACHED] ++ (List.range 4).map F.HBM_STATUS_POISONED))) ∧
  (∀ (s : State) (k : Nat) (a : DbgAcc),
    s.live = true →
    k < 4 →
    s.debugOpen 0 = true →
    s.debugHeld = false →
    (a.target ∈ [.bank 9, .keyStore] ∨ ∃ q, q < 4 ∧ a.target = .cipherLane q) →
    ∃ u, exec (.coreHalt k [a]) s = .next u ∧ u.buf = s.buf ∧ u.cph = s.cph ∧ u.out = s.out ++ (if a.write.isNone then [.debug k (zeros a.len)] else [])) ∧
  (∀ (s : State) (k : Nat) (close : Bool),
    s.live = true →
    k < 4 →
    ∃ u, exec (.coreDebugResume k close) s = .next u ∧ u.fld ⟨R.DBG_STATUS, 23 + k, 1⟩ = 0 ∧ (∀ j, j ∈ u.sec.session ↔ (j ∈ s.sec.session ∧ (close = true → j ≠ k))) ∧
      u.fld F.DBG_STATUS_ATTACHED = (if u.fld F.DBG_STATUS_HALTED = 0 ∧ u.sec.session = [] ∧ s.fld F.DBG_OBS_CTRL_EN = 0 then 0 else 1) ∧
      OnlyFields s { u with sec := s.sec } [⟨R.DBG_STATUS, 23 + k, 1⟩, F.DBG_STATUS_ATTACHED]) ∧
  (∀ (s : State) (v : W32),
    s.live = true →
    v.getLsbD 31 = true →
    s.debugOpen 1 = true →
    ∃ u, exec (.obsEnable v) s = .next u ∧
      (s.debugHeld = true → u.sec.obsHeld = some v ∧ { u with sec := s.sec } = s) ∧
      (s.debugHeld = false → (u.reg R.DBG_OBS_CTRL).toNat = v.toNat &&& 0xE0FFFF03 ∧ u.sec = { s.sec with obsOut := true } ∧ u.fld F.DBG_STATUS_OBS_ON = 1 ∧
        u.fld F.DBG_STATUS_ATTACHED = 1 ∧ OnlyFields s { u with sec := s.sec } [⟨R.DBG_OBS_CTRL, 0, 64⟩, F.DBG_STATUS_OBS_ON, F.DBG_STATUS_ATTACHED])) ∧
  (∀ (s : State) (c : Instr) (code : Nat),
    (s.power.phase = .run ∨ s.power.phase = .held) →
    (s.live = false ∨ s.basking = false) →
    (c, code) ∈ [(Instr.tapExtest, 0), (Instr.tapClamp, 4), (Instr.tapHighz, 5)] →
    ∃ u, exec c s = .next u ∧ u.sec.tapIr = code ∧ u.power.phase = .held ∧ .tap ∈ u.power.heldBy ∧
      (s.power.phase = .held → { u with sec := s.sec, power := s.power } = s) ∧ (s.power.phase = .run → ResetHeld s u .tap)) ∧
  (∀ (s : State) (c : Instr),
    s.tapIdOnly = true →
    c ∈ [Instr.tapExtest, .tapClamp, .tapHighz] →
    exec c s = .next s) ∧
  (∀ (s : State),
    s.power.phase ≠ .off →
    exec .tapIdcode s = .next { s with sec := { s.sec with tapIr := 1 }, out := s.out ++ [.tdo (s.fld F.ID_PART_STEPPING / 16 % 16 * 2 ^ 28 + s.part.code * 2 ^ 12 + 0xBC7)] }) ∧
  (∀ (s : State) (code : Nat),
    s.power.phase ≠ .off →
    code < 256 →
    (code ∉ [0, 1, 2, 4, 5] ∨ (s.tapIdOnly = true ∧ code ≠ 1)) →
    exec (.tapBypass code) s = .next { s with sec := { s.sec with tapIr := code }, out := s.out ++ [.tdo 0] }) ∧
  (∀ (s : State) (cells : List Bool),
    (s.power.phase = .run ∨ s.power.phase = .held) →
    (s.live = false ∨ s.basking = false) →
    cells.length = 3488 →
    ∃ u, exec (.tapSamplePreload cells) s = .next u ∧ u.sec = { s.sec with tapIr := 2, tapCells := cells } ∧ u.out.length = s.out.length + 1 ∧ s.out <+: u.out ∧
      u.out.getLast?.any (fun o => match o with | .tdo v => v.testBit 3479 == (s.fld F.PWR_HU_STATUS_GATE_ON == 1) && v.testBit 3480 == s.hu.disEn | _ => false) = true ∧
      { u with sec := s.sec, out := s.out, free := s.free } = s) ∧
  (∀ (s : State),
    s.power.phase ≠ .off →
    exec .tapTestLogicReset s = .next { s with sec := { s.sec with tapIr := 1 }, power := (heldLess s .tap).power }) ∧
  (∀ (s : State) (vddq : List Bool),
    s.power.phase = .off →
    ∃ u, exec (.powerOn vddq) s = .next u ∧ u.power.phase = (if s.power.ballLow = true then .held else .run) ∧ u.power.heldBy = (if s.power.ballLow = true then [.ball] else []) ∧
      u.power.booted = false ∧ u.fld F.TMR_WDG_LAST_CAUSE = 1 ∧ u.reg R.TMR_RTC = 0 ∧ u.fld F.SEC_BOOT_OVR_EN = 0 ∧ u.sec.tapIr = 1 ∧ u.sec.lastGrant = none ∧
      u.time.powerOns = s.time.powerOns ∧ u.time.ftc = 0 ∧ KeptOver s u ∧ u.nand.drivers = vddq.take s.part.stacks ∧
      u.fld F.SEC_LC_STATE = s.fld F.SEC_LC_STATE) ∧
  (∀ (s : State),
    s.power.ballLow = false →
    ∃ u, exec .resetBallAssert s = .next u ∧ u.power.ballLow = true ∧ (s.power.phase = .off → u = { s with power := { s.power with ballLow := true } }) ∧
      (s.power.phase = .held → .ball ∈ u.power.heldBy ∧ { u with power := s.power } = s) ∧ (s.power.phase = .run ∨ s.power.phase = .brumation → ResetHeld s u .ball)) ∧
  (∀ (s : State),
    s.power.ballLow = true →
    exec .resetBallRelease s = .next { s with power := { (heldLess s .ball).power with ballLow := false } }) ∧
  (∀ (s : State),
    s.power.phase ≠ .off →
    ∃ u, exec .suppliesOff s = .next u ∧ u.power.phase = .off ∧ u.power.heldBy = [] ∧ u.power.booted = false ∧ u.power.ballLow = s.power.ballLow ∧
      KeptOver s u ∧ u.fld F.SEC_LC_STATE = s.fld F.SEC_LC_STATE ∧ u.ftl.wbuf = [] ∧ u.buf = {} ∧
      u.cph.keys = [])
end

