-- ==== Sys2Proof/Laws/Table.lean ====
section
/-! SUPPORT. Sparse tables: what a read gives after a write, and that every operation keeps the canonical form. -/

namespace Sys2Proof.Machine

@[simp] theorem Tbl.get_nil {α : Type} (d : α) (k : Nat) : Tbl.get d ([] : Tbl α) k = d := rfl

/-- A dropped key reads as an unlisted one. -/
@[simp] theorem Tbl.get_drop_self {α : Type} (d : α) (t : Tbl α) (k : Nat) : (t.drop k).get d k = d := by
  induction t with
  | nil => rfl
  | cons e t ih =>
    obtain ⟨i, v⟩ := e
    by_cases h : i = k <;> simp [Tbl.drop, h, Tbl.get, ih]

/-- Dropping a key leaves every other key's value. -/
theorem Tbl.get_drop_ne {α : Type} (d : α) (t : Tbl α) {k j : Nat} (h : j ≠ k) : (t.drop k).get d j = t.get d j := by
  induction t with
  | nil => rfl
  | cons e t ih =>
    obtain ⟨i, v⟩ := e
    by_cases hi : i = k
    · subst hi; simp [Tbl.drop, Tbl.get, ih, Ne.symm h]
    · simp only [Tbl.drop, hi, if_false, Tbl.get, ih]

/-- A put key reads as what was put. -/
@[simp] theorem Tbl.get_put_self {α : Type} (d : α) (t : Tbl α) (k : Nat) (v : α) : (t.put k v).get d k = v := by
  induction t with
  | nil => simp [Tbl.put, Tbl.get]
  | cons e t ih =>
    obtain ⟨i, w⟩ := e
    simp only [Tbl.put]
    split
    · simp [Tbl.get]
    · split
      · simp [Tbl.get]
      · next h _ => simp [Tbl.get, h, ih]

/-- Putting a key leaves every other key's value. -/
theorem Tbl.get_put_ne {α : Type} (d : α) (t : Tbl α) {k j : Nat} (v : α) (h : j ≠ k) : (t.put k v).get d j = t.get d j := by
  induction t with
  | nil => simp [Tbl.put, Tbl.get, Ne.symm h]
  | cons e t ih =>
    obtain ⟨i, w⟩ := e
    simp only [Tbl.put]
    split
    · next hi => subst hi; simp [Tbl.get, Ne.symm h]
    · split
      · simp [Tbl.get, Ne.symm h]
      · by_cases hj : i = j <;> simp [Tbl.get, hj, ih]

/-- Read after write, same key. -/
@[simp] theorem Tbl.get_set_self {α : Type} [DecidableEq α] (d : α) (t : Tbl α) (k : Nat) (v : α) : (t.set d k v).get d k = v := by
  unfold Tbl.set
  split
  · next h => simp [h]
  · simp

/-- Read after write, another key. -/
theorem Tbl.get_set_ne {α : Type} [DecidableEq α] (d e : α) (t : Tbl α) {k j : Nat} (v : α) (h : j ≠ k) : (t.set d k v).get e j = t.get e j := by
  unfold Tbl.set
  split
  · exact Tbl.get_drop_ne _ _ h
  · exact Tbl.get_put_ne _ _ _ h

/-- Keys above a bound are above a lower one. -/
theorem Tbl.risingFrom_mono {α : Type} {t : Tbl α} {lo hi : Nat} (h : lo ≤ hi) (ht : Tbl.risingFrom hi t) : Tbl.risingFrom lo t := by
  cases t with
  | nil => trivial
  | cons e t => exact ⟨Nat.le_trans h ht.1, ht.2⟩

/-- A filtered table still rises. -/
theorem Tbl.risingFrom_filter {α : Type} (p : Nat × α → Bool) {t : Tbl α} {lo : Nat} (ht : Tbl.risingFrom lo t) :
    Tbl.risingFrom lo (t.filter p) := by
  induction t generalizing lo with
  | nil => trivial
  | cons e t ih =>
    simp only [List.filter_cons]
    split
    · exact ⟨ht.1, ih ht.2⟩
    · exact Tbl.risingFrom_mono (Nat.le_succ_of_le ht.1) (ih ht.2)

/-- Dropping a key keeps the keys rising. -/
theorem Tbl.risingFrom_drop {α : Type} (k : Nat) {t : Tbl α} {lo : Nat} (ht : Tbl.risingFrom lo t) : Tbl.risingFrom lo (t.drop k) := by
  induction t generalizing lo with
  | nil => trivial
  | cons e t ih =>
    obtain ⟨i, w⟩ := e
    simp only [Tbl.drop]
    split
    · exact Tbl.risingFrom_mono (Nat.le_succ_of_le ht.1) (ih ht.2)
    · exact ⟨ht.1, ih ht.2⟩

/-- Putting a key keeps the keys rising. -/
theorem Tbl.risingFrom_put {α : Type} {k : Nat} (v : α) {t : Tbl α} {lo : Nat} (hk : lo ≤ k) (ht : Tbl.risingFrom lo t) :
    Tbl.risingFrom lo (t.put k v) := by
  induction t generalizing lo with
  | nil => exact ⟨hk, trivial⟩
  | cons e t ih =>
    obtain ⟨i, w⟩ := e
    simp only [Tbl.put]
    split
    · next h => subst h; exact ⟨hk, ht.2⟩
    · split
      · next h => exact ⟨hk, h, ht.2⟩
      · next h1 h2 => exact ⟨ht.1, ih (by have h1' : i ≠ k := h1; show i + 1 ≤ k; omega) ht.2⟩

/-- Writing a key keeps the keys rising. -/
theorem Tbl.risingFrom_set {α : Type} [DecidableEq α] (d : α) (k : Nat) (v : α) {t : Tbl α} (ht : Tbl.risingFrom 0 t) :
    Tbl.risingFrom 0 (t.set d k v) := by
  unfold Tbl.set
  split
  · exact Tbl.risingFrom_drop k ht
  · exact Tbl.risingFrom_put v (Nat.zero_le _) ht

/-- An entry after a drop was one before. -/
theorem Tbl.mem_drop {α : Type} {k : Nat} {t : Tbl α} {e : Nat × α} (h : e ∈ t.drop k) : e ∈ t := by
  induction t with
  | nil => simp [Tbl.drop] at h
  | cons f t ih =>
    obtain ⟨i, w⟩ := f
    simp only [Tbl.drop] at h
    split at h
    · exact List.mem_cons_of_mem _ (ih h)
    · rcases List.mem_cons.mp h with h | h
      · exact h ▸ List.mem_cons_self
      · exact List.mem_cons_of_mem _ (ih h)

/-- An entry after a put is the put one or one before. -/
theorem Tbl.mem_put {α : Type} {k : Nat} {v : α} {t : Tbl α} {e : Nat × α} (h : e ∈ t.put k v) : e = (k, v) ∨ e ∈ t := by
  induction t with
  | nil => exact .inl (by simpa [Tbl.put] using h)
  | cons f t ih =>
    obtain ⟨i, w⟩ := f
    simp only [Tbl.put] at h
    split at h
    · rcases List.mem_cons.mp h with h | h
      · exact .inl h
      · exact .inr (List.mem_cons_of_mem _ h)
    · split at h
      · rcases List.mem_cons.mp h with h | h
        · exact .inl h
        · exact .inr h
      · rcases List.mem_cons.mp h with h | h
        · exact .inr (h ▸ List.mem_cons_self)
        · exact (ih h).imp id (List.mem_cons_of_mem _)

end Sys2Proof.Machine
end

