-- ==== Sys2Proof/Laws/Keeps.lean ====
section
/-! SUPPORT. What every operation of the part keeps: the frame of the state, and the canonical form of the register file. One lemma per
operation, in the files Laws/Keeps<Module>.lean; here the relation and its closure. -/

namespace Sys2Proof.Machine

/-- From `s` to `t` the frame stands and a canonical register file stays canonical. -/
structure Keeps (s t : State) : Prop where
  frame : s.Frame t
  regs : s.regsWf → t.regsWf

/-- What a command that answers a next state keeps. -/
def KeepsRes (s : State) (r : Res) : Prop := ∀ t, r = .next t → Keeps s t

theorem State.Frame.rfl' (s : State) : s.Frame s := ⟨rfl, rfl, List.prefix_rfl, Nat.le_refl _⟩

theorem State.Frame.trans {s t u : State} (h : s.Frame t) (k : t.Frame u) : s.Frame u :=
  ⟨k.part.trans h.part, k.pending.trans h.pending, h.out.trans k.out, Nat.le_trans h.free k.free⟩

theorem Keeps.rfl' (s : State) : Keeps s s := ⟨State.Frame.rfl' s, id⟩

theorem Keeps.trans {s t u : State} (h : Keeps s t) (k : Keeps t u) : Keeps s u :=
  ⟨h.frame.trans k.frame, fun w => k.regs (h.regs w)⟩

/-- An update of fields outside the frame and the register file. -/
theorem Keeps.mk' {s u : State} (h : Keeps s u) {ur cap eth nvme ftl hu nand buf dma cph pst cfl evt time power sec free out} (hf : u.free ≤ free)
    (ho : u.out <+: out) :
    Keeps s ⟨u.part, u.regs, ur, cap, eth, nvme, ftl, hu, nand, buf, dma, cph, pst, cfl, evt, time, power, sec, free, out, u.pending⟩ :=
  ⟨⟨h.frame.part, h.frame.pending, h.frame.out.trans ho, Nat.le_trans h.frame.free hf⟩, fun w => h.regs w⟩

/-- The same, where nothing is sent and no free value is drawn. -/
theorem Keeps.mk0 {s u : State} (h : Keeps s u) {ur cap eth nvme ftl hu nand buf dma cph pst cfl evt time power sec} :
    Keeps s ⟨u.part, u.regs, ur, cap, eth, nvme, ftl, hu, nand, buf, dma, cph, pst, cfl, evt, time, power, sec, u.free, u.out, u.pending⟩ :=
  Keeps.mk' h (Nat.le_refl _) List.prefix_rfl

/-- The canonical form, of the register table itself. -/
def RegsOk (r : Tbl W64) : Prop := Tbl.risingFrom 0 r ∧ ∀ e ∈ r, e.2 ≠ resetValue e.1

/-- A write to the register table keeps its form. -/
theorem RegsOk.set {r : Tbl W64} (off : Nat) (v : W64) (h : RegsOk r) : RegsOk (r.set (resetValue off) off v) := by
  obtain ⟨hr, hn⟩ := h
  refine ⟨Tbl.risingFrom_set _ _ _ hr, fun e he => ?_⟩
  simp only [Tbl.set] at he
  split at he
  · exact hn e (Tbl.mem_drop he)
  · next hv =>
    rcases Tbl.mem_put he with rfl | he
    · exact hv
    · exact hn e he

theorem RegsOk.filter {r : Tbl W64} (p : Nat × W64 → Bool) (h : RegsOk r) : RegsOk (r.filter p) :=
  ⟨Tbl.risingFrom_filter _ h.1, fun e he => h.2 e (List.mem_of_mem_filter he)⟩

theorem RegsOk.foldSet (l : List (Nat × W64)) {r : Tbl W64} (h : RegsOk r) :
    RegsOk (l.foldl (fun (r : Tbl W64) (e : Nat × W64) => r.set (resetValue e.1) e.1 e.2) r) := by
  induction l generalizing r with
  | nil => exact h
  | cons e l ih => exact ih (RegsOk.set _ _ h)

/-- An update that also replaces the register table. -/
theorem Keeps.mkRegs {s u : State} (h : Keeps s u) {r ur cap eth nvme ftl hu nand buf dma cph pst cfl evt time power sec free out} (hr : RegsOk u.regs → RegsOk r)
    (hf : u.free ≤ free) (ho : u.out <+: out) :
    Keeps s ⟨u.part, r, ur, cap, eth, nvme, ftl, hu, nand, buf, dma, cph, pst, cfl, evt, time, power, sec, free, out, u.pending⟩ :=
  ⟨⟨h.frame.part, h.frame.pending, h.frame.out.trans ho, Nat.le_trans h.frame.free hf⟩, fun w => hr (h.regs w)⟩

/-- The state of a pair that a keeping operation answers. -/
theorem Keeps.ofFst {β : Type} {s t : State} {x : State × β} {b : β} (h : Keeps s x.1) (e : x = (t, b)) : Keeps s t := by
  subst e; exact h

/-- Either branch. -/
theorem Keeps.ite {s a b : State} {c : Prop} [Decidable c] (ha : Keeps s a) (hb : Keeps s b) : Keeps s (if c then a else b) := by
  split
  · exact ha
  · exact hb

theorem KeepsRes.ite {s : State} {a b : Res} {c : Prop} [Decidable c] (ha : KeepsRes s a) (hb : KeepsRes s b) :
    KeepsRes s (if c then a else b) := by
  split
  · exact ha
  · exact hb

/-- A fold of keeping operations keeps. -/
theorem Keeps.foldl {α : Type} {s : State} {f : State → α → State} (hf : ∀ u x, Keeps s u → Keeps s (f u x)) :
    ∀ (l : List α) {u : State}, Keeps s u → Keeps s (l.foldl f u)
  | [], _, h => h
  | x :: l, u, h => Keeps.foldl hf l (hf u x h)

/-- A fold that carries a value beside the state. -/
theorem Keeps.foldlFst {α β : Type} {s : State} {f : State × β → α → State × β} (hf : ∀ u x, Keeps s u.1 → Keeps s (f u x).1) :
    ∀ (l : List α) {u : State × β}, Keeps s u.1 → Keeps s (l.foldl f u).1
  | [], _, h => h
  | x :: l, u, h => Keeps.foldlFst hf l (hf u x h)

theorem Keeps.over {α : Type} {s u : State} {f : State → α → State} (l : List α) (hf : ∀ u x, Keeps s u → Keeps s (f u x))
    (h : Keeps s u) : Keeps s (u.over l f) := Keeps.foldl hf l h

theorem KeepsRes.next {s t : State} (h : Keeps s t) : KeepsRes s (.next t) := by
  intro u e; cases e; exact h

theorem KeepsRes.fault {s : State} (f : Fault) : KeepsRes s (.fault f) := by
  intro u e; cases e

/-- Writing a register keeps the canonical form. -/
theorem Keeps.setReg {s u : State} (off : Nat) (v : W64) (h : Keeps s u) : Keeps s (u.setReg off v) := Keeps.mkRegs h (RegsOk.set _ _) (Nat.le_refl _) List.prefix_rfl

theorem Keeps.setWords {s : State} (off k v : Nat) {u : State} (h : Keeps s u) : Keeps s (u.setWords off k v) := by
  induction k generalizing off v u with
  | zero => exact h
  | succ k ih => exact ih _ _ (Keeps.setReg _ _ h)

theorem Keeps.clearRegs {s u : State} (p : Nat → Bool) (h : Keeps s u) : Keeps s (u.clearRegs p) := Keeps.mkRegs h (RegsOk.filter _) (Nat.le_refl _) List.prefix_rfl

theorem Keeps.emit {s u : State} (o : Out) (h : Keeps s u) : Keeps s (u.emit o) :=
  Keeps.mk' h (Nat.le_refl _) (List.prefix_append _ _)

theorem Keeps.draw {s u : State} (h : Keeps s u) : Keeps s u.draw := Keeps.mk' h (Nat.le_succ _) List.prefix_rfl

end Sys2Proof.Machine
end

