-- ==== Sys2Proof/Laws/KeepsOps.lean ====
section
/-! SUPPORT. What the operations of Machine/Ops.lean keep. -/

namespace Sys2Proof.Machine

theorem Keeps.setFld {s u : State} (a1 : Field) (a2 : ℕ) (h : Keeps s u) : Keeps s (State.setFld u a1 a2) := by
  unfold Sys2Proof.Machine.State.setFld
  repeat' first
    | with_reducible assumption
    | with_reducible apply Keeps.setReg
    | with_reducible apply Keeps.setWords
    | with_reducible apply Keeps.ite

theorem Keeps.addFld {s u : State} (a1 : Field) (a2 : ℕ) (h : Keeps s u) : Keeps s (State.addFld u a1 a2) := by
  unfold Sys2Proof.Machine.State.addFld
  repeat' first
    | with_reducible assumption
    | with_reducible apply Keeps.setFld

theorem Keeps.satFld {s u : State} (a1 : Field) (a2 : ℕ) (h : Keeps s u) : Keeps s (State.satFld u a1 a2) := by
  unfold Sys2Proof.Machine.State.satFld
  repeat' first
    | with_reducible assumption
    | with_reducible apply Keeps.setFld

theorem Keeps.subFld {s u : State} (a1 : Field) (a2 : ℕ) (h : Keeps s u) : Keeps s (State.subFld u a1 a2) := by
  unfold Sys2Proof.Machine.State.subFld
  repeat' first
    | with_reducible assumption
    | with_reducible apply Keeps.setFld

theorem Keeps.count {s u : State} (a1 : ℕ) (a2 : ℕ) (h : Keeps s u) : Keeps s (State.count u a1 a2) := by
  unfold Sys2Proof.Machine.State.count
  repeat' first
    | with_reducible assumption
    | with_reducible apply Keeps.setReg

theorem Keeps.setDom {s u : State} (a1 : ℕ) (a2 : ℕ) (h : Keeps s u) : Keeps s (State.setDom u a1 a2) := by
  unfold Sys2Proof.Machine.State.setDom
  repeat' first
    | with_reducible assumption
    | with_reducible apply Keeps.setFld
    | with_reducible apply Keeps.ite

theorem Keeps.holdWork {s u : State} (a1 : HeldWork) (h : Keeps s u) : Keeps s (State.holdWork u a1) := by
  unfold Sys2Proof.Machine.State.holdWork
  repeat' first
    | with_reducible assumption
    | fail_if_no_progress with_reducible apply Keeps.mk0
    | with_reducible apply Keeps.ite
    | with_reducible apply Keeps.foldl
    | with_reducible apply Keeps.foldlFst
    | intro _ _ _ _
    | intro _ _ _
    | dsimp only
    | split
    | with_reducible refine Keeps.ofFst ?_ (by assumption)
    | fail_if_no_progress with_reducible refine Keeps.mk' ?_ (by first | exact Nat.le_refl _ | exact Nat.le_succ _ | with_unfolding_all exact Nat.le_add_right _ _) (by first | exact List.prefix_rfl)

theorem Keeps.setFn {s u : State} (a1 : ℕ) (a2 : Fn) (h : Keeps s u) : Keeps s (State.setFn u a1 a2) := by
  unfold Sys2Proof.Machine.State.setFn
  repeat' first
    | with_reducible assumption
    | fail_if_no_progress with_reducible apply Keeps.mk0

theorem Keeps.msix {s u : State} (a1 : ℕ) (h : Keeps s u) : Keeps s (State.msix u a1) := by
  unfold Sys2Proof.Machine.State.msix
  repeat' first
    | with_reducible assumption
    | fail_if_no_progress with_reducible apply Keeps.mk0
    | with_reducible apply Keeps.emit
    | split

theorem Keeps.deliver {s u : State} (a1 : ℕ) (h : Keeps s u) : Keeps s (State.deliver u a1) := by
  unfold Sys2Proof.Machine.State.deliver
  repeat' first
    | with_reducible assumption
    | fail_if_no_progress with_reducible apply Keeps.mk0
    | with_reducible apply Keeps.msix
    | with_reducible apply Keeps.ite

theorem Keeps.raise {s u : State} (a1 : ℕ) (h : Keeps s u) : Keeps s (State.raise u a1) := by
  unfold Sys2Proof.Machine.State.raise
  repeat' first
    | with_reducible assumption
    | with_reducible apply Keeps.setFld
    | with_reducible apply Keeps.deliver
    | with_reducible apply Keeps.ite

theorem Keeps.pulse {s u : State} (a1 : Pulse) (h : Keeps s u) : Keeps s (State.pulse u a1) := by
  unfold Sys2Proof.Machine.State.pulse
  repeat' first
    | with_reducible assumption
    | fail_if_no_progress with_reducible apply Keeps.mk0
    | with_reducible apply Keeps.ite
    | with_reducible apply Keeps.foldl
    | with_reducible apply Keeps.foldlFst
    | intro _ _ _ _
    | intro _ _ _
    | dsimp only
    | split
    | with_reducible refine Keeps.ofFst ?_ (by assumption)
    | fail_if_no_progress with_reducible refine Keeps.mk' ?_ (by first | exact Nat.le_refl _ | exact Nat.le_succ _ | with_unfolding_all exact Nat.le_add_right _ _) (by first | exact List.prefix_rfl)

theorem Keeps.cause {s u : State} (a1 : Field) (a2 : ℕ) (h : Keeps s u) : Keeps s (State.cause u a1 a2) := by
  unfold Sys2Proof.Machine.State.cause
  repeat' first
    | with_reducible assumption
    | fail_if_no_progress with_reducible apply Keeps.mk0
    | with_reducible apply Keeps.pulse
    | with_reducible apply Keeps.raise
    | with_reducible apply Keeps.setFld
    | with_reducible apply Keeps.ite
    | with_reducible apply Keeps.foldl
    | with_reducible apply Keeps.foldlFst
    | intro _ _ _ _
    | intro _ _ _
    | dsimp only
    | split
    | with_reducible refine Keeps.ofFst ?_ (by assumption)
    | fail_if_no_progress with_reducible refine Keeps.mk' ?_ (by first | exact Nat.le_refl _ | exact Nat.le_succ _ | with_unfolding_all exact Nat.le_add_right _ _) (by first | exact List.prefix_rfl)

theorem Keeps.chCause {s u : State} (a1 : ℕ) (a2 : ℕ) (h : Keeps s u) : Keeps s (State.chCause u a1 a2) := by
  unfold Sys2Proof.Machine.State.chCause
  repeat' first
    | with_reducible assumption
    | with_reducible apply Keeps.cause

theorem Keeps.ethCause {s u : State} (a1 : ℕ) (a2 : ℕ) (h : Keeps s u) : Keeps s (State.ethCause u a1 a2) := by
  unfold Sys2Proof.Machine.State.ethCause
  repeat' first
    | with_reducible assumption
    | with_reducible apply Keeps.cause

theorem Keeps.strCause {s u : State} (a1 : ℕ) (a2 : ℕ) (h : Keeps s u) : Keeps s (State.strCause u a1 a2) := by
  unfold Sys2Proof.Machine.State.strCause
  repeat' first
    | with_reducible assumption
    | with_reducible apply Keeps.cause

theorem Keeps.ftlCause {s u : State} (a1 : ℕ) (h : Keeps s u) : Keeps s (State.ftlCause u a1) := by
  unfold Sys2Proof.Machine.State.ftlCause
  repeat' first
    | with_reducible assumption
    | with_reducible apply Keeps.cause

theorem Keeps.huCause {s u : State} (a1 : ℕ) (h : Keeps s u) : Keeps s (State.huCause u a1) := by
  unfold Sys2Proof.Machine.State.huCause
  repeat' first
    | with_reducible assumption
    | with_reducible apply Keeps.cause

theorem Keeps.hbmCause {s u : State} (a1 : ℕ) (a2 : ℕ) (h : Keeps s u) : Keeps s (State.hbmCause u a1 a2) := by
  unfold Sys2Proof.Machine.State.hbmCause
  repeat' first
    | with_reducible assumption
    | with_reducible apply Keeps.cause

theorem Keeps.dmaCause {s u : State} (a1 : ℕ) (a2 : ℕ) (h : Keeps s u) : Keeps s (State.dmaCause u a1 a2) := by
  unfold Sys2Proof.Machine.State.dmaCause
  repeat' first
    | with_reducible assumption
    | with_reducible apply Keeps.cause

theorem Keeps.cphCause {s u : State} (a1 : ℕ) (h : Keeps s u) : Keeps s (State.cphCause u a1) := by
  unfold Sys2Proof.Machine.State.cphCause
  repeat' first
    | with_reducible assumption
    | with_reducible apply Keeps.cause

theorem Keeps.pstCause {s u : State} (a1 : ℕ) (h : Keeps s u) : Keeps s (State.pstCause u a1) := by
  unfold Sys2Proof.Machine.State.pstCause
  repeat' first
    | with_reducible assumption
    | with_reducible apply Keeps.cause

theorem Keeps.cflCause {s u : State} (a1 : ℕ) (h : Keeps s u) : Keeps s (State.cflCause u a1) := by
  unfold Sys2Proof.Machine.State.cflCause
  repeat' first
    | with_reducible assumption
    | with_reducible apply Keeps.cause

theorem Keeps.tmrCause {s u : State} (a1 : ℕ) (h : Keeps s u) : Keeps s (State.tmrCause u a1) := by
  unfold Sys2Proof.Machine.State.tmrCause
  repeat' first
    | with_reducible assumption
    | with_reducible apply Keeps.cause

theorem Keeps.pwrCause {s u : State} (a1 : ℕ) (h : Keeps s u) : Keeps s (State.pwrCause u a1) := by
  unfold Sys2Proof.Machine.State.pwrCause
  repeat' first
    | with_reducible assumption
    | with_reducible apply Keeps.cause

theorem Keeps.secCause {s u : State} (a1 : ℕ) (h : Keeps s u) : Keeps s (State.secCause u a1) := by
  unfold Sys2Proof.Machine.State.secCause
  repeat' first
    | with_reducible assumption
    | with_reducible apply Keeps.cause

theorem Keeps.record {s u : State} (a1 : ℕ) (a2 : Bytes) (h : Keeps s u) : Keeps s (State.record u a1 a2) := by
  unfold Sys2Proof.Machine.State.record
  repeat' first
    | with_reducible assumption
    | fail_if_no_progress with_reducible apply Keeps.mk0
    | with_reducible apply Keeps.setFld
    | with_reducible apply Keeps.setReg
    | with_reducible apply Keeps.ite

theorem Keeps.recordFailure {s u : State} (a1 : ℕ) (a2 : ℕ) (a3 : ℕ) (a4 : ℕ) (h : Keeps s u) : Keeps s (State.recordFailure u a1 a2 a3 a4) := by
  unfold Sys2Proof.Machine.State.recordFailure
  repeat' first
    | with_reducible assumption
    | with_reducible apply Keeps.record

end Sys2Proof.Machine
end

