-- ==== Sys2Proof/Laws/KeepsHost.lean ====
section
/-! SUPPORT. What the operations of Machine/Host.lean keep. -/

namespace Sys2Proof.Machine

theorem Keeps.cqInterrupt {s u : State} (a1 : ℕ) (a2 : ℕ) (h : Keeps s u) : Keeps s (State.cqInterrupt u a1 a2) := by
  unfold Sys2Proof.Machine.State.cqInterrupt
  repeat' first
    | with_reducible assumption
    | with_reducible apply Keeps.setFn
    | with_reducible apply Keeps.msix
    | dsimp only
    | split

theorem Keeps.post {s u : State} (a1 : ℕ) (a2 : ℕ) (a3 : ℕ) (a4 : BitVec 16) (a5 : Status) (a6 : ℕ) (h : Keeps s u) : Keeps s (State.post u a1 a2 a3 a4 a5 a6) := by
  unfold Sys2Proof.Machine.State.post
  repeat' first
    | with_reducible assumption
    | fail_if_no_progress with_reducible apply Keeps.mk0
    | with_reducible apply Keeps.setFn
    | with_reducible apply Keeps.cqInterrupt
    | with_reducible apply Keeps.emit
    | dsimp only
    | split

theorem Keeps.errorLog {s u : State} (a1 : ℕ) (a2 : ℕ) (a3 : BitVec 16) (a4 : Status) (a5 : ℕ) (a6 : ℕ) (a7 : ℕ) (h : Keeps s u) : Keeps s (State.errorLog u a1 a2 a3 a4 a5 a6 a7) := by
  unfold Sys2Proof.Machine.State.errorLog
  repeat' first
    | with_reducible assumption
    | with_reducible apply Keeps.setFn

theorem Keeps.admin {s u : State} (a1 : ℕ) (a2 : Sqe) (a3 : Status) (a4 : ℕ) (a5 : ℕ) (h : Keeps s u) : Keeps s (State.admin u a1 a2 a3 a4 a5) := by
  unfold Sys2Proof.Machine.State.admin
  repeat' first
    | with_reducible assumption
    | with_reducible apply Keeps.errorLog
    | with_reducible apply Keeps.post
    | with_reducible apply Keeps.ite

theorem Keeps.badField {s u : State} (a1 : ℕ) (a2 : Sqe) (a3 : ℕ) (a4 : ℕ) (a5 : ℕ) (h : Keeps s u) : Keeps s (State.badField u a1 a2 a3 a4 a5) := by
  unfold Sys2Proof.Machine.State.badField
  repeat' first
    | with_reducible assumption
    | with_reducible apply Keeps.admin

theorem Keeps.give {s u : State} (a1 : ℕ) (a2 : Sqe) (a3 : ℕ) (a4 : Bytes) (h : Keeps s u) : Keeps s (State.give u a1 a2 a3 a4) := by
  unfold Sys2Proof.Machine.State.give
  repeat' first
    | with_reducible assumption
    | with_reducible apply Keeps.emit
    | with_reducible apply Keeps.ite

theorem Keeps.notice {s u : State} (a1 : ℕ) (a2 : ℕ) (h : Keeps s u) : Keeps s (State.notice u a1 a2) := by
  unfold Sys2Proof.Machine.State.notice
  repeat' first
    | with_reducible assumption
    | with_reducible apply Keeps.post
    | with_reducible apply Keeps.setFn
    | dsimp only
    | split

theorem Keeps.critical {s u : State} (a1 : ℕ) (h : Keeps s u) : Keeps s (State.critical u a1) := by
  unfold Sys2Proof.Machine.State.critical
  repeat' first
    | with_reducible assumption
    | fail_if_no_progress with_reducible apply Keeps.mk0
    | with_reducible apply Keeps.over
    | with_reducible apply Keeps.notice
    | with_reducible apply Keeps.ite
    | intro _ _ _

theorem Keeps.uncritical {s u : State} (a1 : ℕ) (h : Keeps s u) : Keeps s (State.uncritical u a1) := by
  unfold Sys2Proof.Machine.State.uncritical
  repeat' first
    | with_reducible assumption
    | fail_if_no_progress with_reducible apply Keeps.mk0
    | with_reducible apply Keeps.ite

theorem Keeps.tempCheck {s u : State} (a1 : ℕ) (h : Keeps s u) : Keeps s (State.tempCheck u a1) := by
  unfold Sys2Proof.Machine.State.tempCheck
  repeat' first
    | with_reducible assumption
    | with_reducible apply Keeps.critical
    | with_reducible apply Keeps.uncritical
    | with_reducible apply Keeps.ite

theorem Keeps.setNs {s u : State} (a1 : ℕ) (a2 : Option Ns) (h : Keeps s u) : Keeps s (State.setNs u a1 a2) := by
  unfold Sys2Proof.Machine.State.setNs
  repeat' first
    | with_reducible assumption
    | fail_if_no_progress with_reducible apply Keeps.mk0

theorem Keeps.setLane {s u : State} (a1 : ℕ) (a2 : Lane) (h : Keeps s u) : Keeps s (State.setLane u a1 a2) := by
  unfold Sys2Proof.Machine.State.setLane
  repeat' first
    | with_reducible assumption
    | fail_if_no_progress with_reducible apply Keeps.mk0

theorem Keeps.setSq {s u : State} (a1 : ℕ) (a2 : ℕ) (a3 : Option Sq) (h : Keeps s u) : Keeps s (State.setSq u a1 a2 a3) := by
  unfold Sys2Proof.Machine.State.setSq
  repeat' first
    | with_reducible assumption
    | with_reducible apply Keeps.setFn

theorem Keeps.setTag {s u : State} (a1 : ℕ) (a2 : ℕ) (a3 : Option Tag) (h : Keeps s u) : Keeps s (State.setTag u a1 a2 a3) := by
  unfold Sys2Proof.Machine.State.setTag
  repeat' first
    | with_reducible assumption
    | with_reducible apply Keeps.setFld
    | with_reducible apply Keeps.setLane

theorem Keeps.unbind {s u : State} (a1 : ℕ) (h : Keeps s u) : Keeps s (State.unbind u a1) := by
  unfold Sys2Proof.Machine.State.unbind
  repeat' first
    | with_reducible assumption
    | with_reducible apply Keeps.setReg
    | with_reducible apply Keeps.setFld
    | with_reducible apply Keeps.setLane

theorem Keeps.unrefSq {s u : State} (a1 : Option ℕ) (h : Keeps s u) : Keeps s (State.unrefSq u a1) := by
  unfold Sys2Proof.Machine.State.unrefSq
  repeat' first
    | with_reducible assumption
    | with_reducible apply Keeps.subFld
    | split

theorem Keeps.resumeLane {s u : State} (a1 : ℕ) (h : Keeps s u) : Keeps s (State.resumeLane u a1) := by
  unfold Sys2Proof.Machine.State.resumeLane
  repeat' first
    | with_reducible assumption
    | fail_if_no_progress with_reducible apply Keeps.mk0
    | with_reducible apply Keeps.over
    | with_reducible apply Keeps.setFld
    | with_reducible apply Keeps.setLane
    | with_reducible apply Keeps.post
    | with_reducible apply Keeps.ite
    | with_reducible apply Keeps.foldl
    | with_reducible apply Keeps.foldlFst
    | intro _ _ _ _
    | intro _ _ _
    | dsimp only
    | split
    | with_reducible refine Keeps.ofFst ?_ (by assumption)
    | fail_if_no_progress with_reducible refine Keeps.mk' ?_ (by first | exact Nat.le_refl _ | exact Nat.le_succ _ | with_unfolding_all exact Nat.le_add_right _ _) (by first | exact List.prefix_rfl)

theorem Keeps.settleLane {s u : State} (a1 : ℕ) (h : Keeps s u) : Keeps s (State.settleLane u a1) := by
  unfold Sys2Proof.Machine.State.settleLane
  repeat' first
    | with_reducible assumption
    | fail_if_no_progress with_reducible apply Keeps.mk0
    | with_reducible apply Keeps.resumeLane
    | with_reducible apply Keeps.post
    | with_reducible apply Keeps.unbind
    | with_reducible apply Keeps.setSq
    | with_reducible apply Keeps.unrefSq
    | with_reducible apply Keeps.over
    | with_reducible apply Keeps.admin
    | with_reducible apply Keeps.ite
    | with_reducible apply Keeps.foldl
    | with_reducible apply Keeps.foldlFst
    | intro _ _ _ _
    | intro _ _ _
    | dsimp only
    | split
    | with_reducible refine Keeps.ofFst ?_ (by assumption)
    | fail_if_no_progress with_reducible refine Keeps.mk' ?_ (by first | exact Nat.le_refl _ | exact Nat.le_succ _ | with_unfolding_all exact Nat.le_add_right _ _) (by first | exact List.prefix_rfl)

theorem Keeps.release {s u : State} (a1 : ℕ) (a2 : ℕ) (a3 : Status) (a4 : ℕ) (h : Keeps s u) : Keeps s (State.release u a1 a2 a3 a4) := by
  unfold Sys2Proof.Machine.State.release
  repeat' first
    | with_reducible assumption
    | with_reducible apply Keeps.post
    | with_reducible apply Keeps.setTag
    | split

theorem Keeps.freezeLane {s u : State} (a1 : ℕ) (a2 : ℕ) (a3 : BitVec 16) (a4 : Status) (h : Keeps s u) : Keeps s (State.freezeLane u a1 a2 a3 a4) := by
  unfold Sys2Proof.Machine.State.freezeLane
  repeat' first
    | with_reducible assumption
    | with_reducible apply Keeps.raise
    | with_reducible apply Keeps.setFld
    | with_reducible apply Keeps.setLane

theorem Keeps.abortWaiting {s u : State} (a1 : ℕ) (a2 : Status) (h : Keeps s u) : Keeps s (State.abortWaiting u a1 a2) := by
  unfold Sys2Proof.Machine.State.abortWaiting
  repeat' first
    | with_reducible assumption
    | with_reducible apply Keeps.over
    | with_reducible apply Keeps.release
    | intro _ _ _

theorem Keeps.finish {s u : State} (a1 : ℕ) (a2 : ℕ) (a3 : Status) (a4 : ℕ) (a5 : ℕ) (a6 : ℕ) (h : Keeps s u) : Keeps s (State.finish u a1 a2 a3 a4 a5 a6) := by
  unfold Sys2Proof.Machine.State.finish
  repeat' first
    | with_reducible assumption
    | with_reducible apply Keeps.errorLog
    | with_reducible apply Keeps.settleLane
    | with_reducible apply Keeps.abortWaiting
    | with_reducible apply Keeps.release
    | with_reducible apply Keeps.freezeLane
    | split

theorem Keeps.badIo {s u : State} (a1 : ℕ) (a2 : ℕ) (a3 : ℕ) (a4 : ℕ) (h : Keeps s u) : Keeps s (State.badIo u a1 a2 a3 a4) := by
  unfold Sys2Proof.Machine.State.badIo
  repeat' first
    | with_reducible assumption
    | with_reducible apply Keeps.finish

theorem Keeps.ioGive {s u : State} (a1 : ℕ) (a2 : ℕ) (a3 : Tag) (a4 : ℕ) (a5 : Bytes) (h : Keeps s u) : Keeps s (State.ioGive u a1 a2 a3 a4 a5) := by
  unfold Sys2Proof.Machine.State.ioGive
  repeat' first
    | with_reducible assumption
    | fail_if_no_progress with_reducible apply Keeps.mk0
    | with_reducible apply Keeps.emit
    | with_reducible apply Keeps.ite
    | with_reducible apply Keeps.foldl
    | with_reducible apply Keeps.foldlFst
    | intro _ _ _ _
    | intro _ _ _
    | dsimp only
    | split
    | with_reducible refine Keeps.ofFst ?_ (by assumption)
    | fail_if_no_progress with_reducible refine Keeps.mk' ?_ (by first | exact Nat.le_refl _ | exact Nat.le_succ _ | with_unfolding_all exact Nat.le_add_right _ _) (by first | exact List.prefix_rfl)

end Sys2Proof.Machine
end

