-- ==== Sys2Proof/Laws/KeepsMemory.lean ====
section
/-! SUPPORT. What the operations of Machine/Memory.lean keep. -/

namespace Sys2Proof.Machine

theorem Keeps.fatal {s u : State} (h : Keeps s u) : Keeps s (State.fatal u) := by
  unfold Sys2Proof.Machine.State.fatal
  repeat' first
    | with_reducible assumption
    | fail_if_no_progress with_reducible apply Keeps.mk0
    | with_reducible apply Keeps.over
    | with_reducible apply Keeps.setFld
    | intro _ _ _

theorem Keeps.setBank {s u : State} (a1 : ℕ) (a2 : Bank) (h : Keeps s u) : Keeps s (State.setBank u a1 a2) := by
  unfold Sys2Proof.Machine.State.setBank
  repeat' first
    | with_reducible assumption
    | fail_if_no_progress with_reducible apply Keeps.mk0

theorem Keeps.updGrants {s u : State} (a1 : ℕ) (h : Keeps s u) : Keeps s (State.updGrants u a1) := by
  unfold Sys2Proof.Machine.State.updGrants
  repeat' first
    | with_reducible assumption
    | with_reducible apply Keeps.setFld

theorem Keeps.execBufferGrantIssue {s u : State} (a0 : ℕ) (a1 : ℕ) (a2 : ℕ) (a3 : ℕ) (a4 : Dir) (h : Keeps s u) : KeepsRes s (execBufferGrantIssue a0 a1 a2 a3 a4 u) := by
  unfold Sys2Proof.Machine.execBufferGrantIssue
  repeat' first
    | with_reducible assumption
    | with_reducible apply KeepsRes.next
    | with_reducible apply Keeps.updGrants
    | with_reducible apply Keeps.setBank
    | with_reducible apply KeepsRes.ite

theorem Keeps.execBufferGrantRetire {s u : State} (a0 : ℕ) (a1 : ℕ) (h : Keeps s u) : KeepsRes s (execBufferGrantRetire a0 a1 u) := by
  unfold Sys2Proof.Machine.execBufferGrantRetire
  repeat' first
    | with_reducible assumption
    | with_reducible apply KeepsRes.next
    | with_reducible apply Keeps.updGrants
    | with_reducible apply Keeps.setBank
    | with_reducible apply KeepsRes.ite

theorem Keeps.bankViolation {s u : State} (a1 : ℕ) (h : Keeps s u) : Keeps s (State.bankViolation u a1) := by
  unfold Sys2Proof.Machine.State.bankViolation
  repeat' first
    | with_reducible assumption
    | with_reducible apply Keeps.raise

theorem Keeps.doubleBit {s u : State} (a1 : ℕ) (a2 : List ℕ) (h : Keeps s u) : Keeps s (State.doubleBit u a1 a2) := by
  unfold Sys2Proof.Machine.State.doubleBit
  repeat' first
    | with_reducible assumption
    | with_reducible apply Keeps.over
    | with_reducible apply Keeps.raise
    | with_reducible apply Keeps.satFld
    | with_reducible apply Keeps.fatal
    | with_reducible apply Keeps.recordFailure
    | with_reducible apply Keeps.ite
    | intro _ _ _

theorem Keeps.bankCheck {s u : State} (a1 : ℕ) (a2 : ℕ) (a3 : Severity) (h : Keeps s u) : Keeps s (State.bankCheck u a1 a2 a3) := by
  unfold Sys2Proof.Machine.State.bankCheck
  repeat' first
    | with_reducible assumption
    | fail_if_no_progress with_reducible apply Keeps.mk0
    | with_reducible apply Keeps.satFld
    | with_reducible apply Keeps.setBank
    | with_reducible apply Keeps.ite
    | with_reducible apply Keeps.foldl
    | with_reducible apply Keeps.foldlFst
    | intro _ _ _ _
    | intro _ _ _
    | dsimp only
    | split
    | with_reducible refine Keeps.ofFst ?_ (by assumption)
    | fail_if_no_progress with_reducible refine Keeps.mk' ?_ (by first | exact Nat.le_refl _ | exact Nat.le_succ _ | with_unfolding_all exact Nat.le_add_right _ _) (by first | exact List.prefix_rfl)

theorem Keeps.bankRead {s u : State} (a1 : ℕ) (a2 : ℕ) (a3 : ℕ) (a4 : ℕ) (a5 : Severity) (h : Keeps s u) : Keeps s (State.bankRead u a1 a2 a3 a4 a5).1 := by
  unfold Sys2Proof.Machine.State.bankRead
  repeat' first
    | with_reducible assumption
    | fail_if_no_progress with_reducible apply Keeps.mk0
    | with_reducible apply Keeps.bankViolation
    | with_reducible apply Keeps.bankCheck
    | with_reducible apply Keeps.doubleBit
    | with_reducible apply Keeps.ite
    | with_reducible apply Keeps.foldl
    | with_reducible apply Keeps.foldlFst
    | intro _ _ _ _
    | intro _ _ _
    | dsimp only
    | split
    | with_reducible refine Keeps.ofFst ?_ (by assumption)
    | fail_if_no_progress with_reducible refine Keeps.mk' ?_ (by first | exact Nat.le_refl _ | exact Nat.le_succ _ | with_unfolding_all exact Nat.le_add_right _ _) (by first | exact List.prefix_rfl)

theorem Keeps.bankWrite {s u : State} (a1 : ℕ) (a2 : ℕ) (a3 : ℕ) (a4 : Bytes) (h : Keeps s u) : Keeps s (State.bankWrite u a1 a2 a3 a4).1 := by
  unfold Sys2Proof.Machine.State.bankWrite
  repeat' first
    | with_reducible assumption
    | with_reducible apply Keeps.bankViolation
    | with_reducible apply Keeps.setBank
    | split

theorem Keeps.wakeBank {s u : State} (a1 : ℕ) (h : Keeps s u) : Keeps s (State.wakeBank u a1) := by
  unfold Sys2Proof.Machine.State.wakeBank
  repeat' first
    | with_reducible assumption
    | with_reducible apply Keeps.setFld
    | with_reducible apply Keeps.setDom
    | with_reducible apply Keeps.ite

theorem Keeps.execBankWake {s u : State} (a0 : ℕ) (h : Keeps s u) : KeepsRes s (execBankWake a0 u) := by
  unfold Sys2Proof.Machine.execBankWake
  repeat' first
    | with_reducible assumption
    | with_reducible apply KeepsRes.next
    | with_reducible apply Keeps.wakeBank
    | with_reducible apply KeepsRes.ite

theorem Keeps.marchEnd {s u : State} (a1 : ℕ) (a2 : List (ℕ × ℕ)) (h : Keeps s u) : Keeps s (State.marchEnd u a1 a2) := by
  unfold Sys2Proof.Machine.State.marchEnd
  repeat' first
    | with_reducible assumption
    | fail_if_no_progress with_reducible apply Keeps.mk0
    | with_reducible apply Keeps.setFld
    | with_reducible apply Keeps.raise
    | with_reducible apply Keeps.ite
    | with_reducible apply Keeps.foldl
    | with_reducible apply Keeps.foldlFst
    | intro _ _ _ _
    | intro _ _ _
    | dsimp only
    | split

theorem Keeps.marchWipe {s u : State} (a1 : Bool) (h : Keeps s u) : Keeps s (State.marchWipe u a1) := by
  unfold Sys2Proof.Machine.State.marchWipe
  repeat' first
    | with_reducible assumption
    | fail_if_no_progress with_reducible apply Keeps.mk0
    | with_reducible apply Keeps.over
    | with_reducible apply Keeps.setBank
    | with_reducible apply Keeps.ite
    | with_reducible apply Keeps.foldl
    | with_reducible apply Keeps.foldlFst
    | intro _ _ _ _
    | intro _ _ _
    | dsimp only
    | split
    | with_reducible refine Keeps.ofFst ?_ (by assumption)
    | fail_if_no_progress with_reducible refine Keeps.mk' ?_ (by first | exact Nat.le_refl _ | exact Nat.le_succ _ | with_unfolding_all exact Nat.le_add_right _ _) (by first | exact List.prefix_rfl)

theorem Keeps.execMarchStart {s u : State} (a0 : Bool) (a1 : ℕ) (h : Keeps s u) : KeepsRes s (execMarchStart a0 a1 u) := by
  unfold Sys2Proof.Machine.execMarchStart
  repeat' first
    | with_reducible assumption
    | fail_if_no_progress with_reducible apply Keeps.mk0
    | with_reducible apply KeepsRes.next
    | with_reducible apply Keeps.setFld
    | with_reducible apply Keeps.setReg
    | with_reducible apply KeepsRes.ite

theorem Keeps.marchAbort {s u : State} (a1 : List (ℕ × ℕ)) (h : Keeps s u) : Keeps s (State.marchAbort u a1) := by
  unfold Sys2Proof.Machine.State.marchAbort
  repeat' first
    | with_reducible assumption
    | with_reducible apply Keeps.marchEnd
    | with_reducible apply Keeps.marchWipe
    | with_reducible apply Keeps.ite

theorem Keeps.execMarchAbort {s u : State} (a0 : List (ℕ × ℕ)) (h : Keeps s u) : KeepsRes s (execMarchAbort a0 u) := by
  unfold Sys2Proof.Machine.execMarchAbort
  repeat' first
    | with_reducible assumption
    | with_reducible apply KeepsRes.next
    | with_reducible apply Keeps.marchAbort
    | with_reducible apply KeepsRes.ite

theorem Keeps.execMarchDone {s u : State} (a0 : List (ℕ × ℕ)) (h : Keeps s u) : KeepsRes s (execMarchDone a0 u) := by
  unfold Sys2Proof.Machine.execMarchDone
  repeat' first
    | with_reducible assumption
    | with_reducible apply KeepsRes.next
    | with_reducible apply Keeps.marchEnd
    | with_reducible apply Keeps.marchWipe
    | with_reducible apply KeepsRes.ite

theorem Keeps.startWipe {s u : State} (h : Keeps s u) : Keeps s (State.startWipe u) := by
  unfold Sys2Proof.Machine.State.startWipe
  repeat' first
    | with_reducible assumption
    | fail_if_no_progress with_reducible apply Keeps.mk0
    | with_reducible apply Keeps.setFld
    | with_reducible apply Keeps.setBank
    | with_reducible apply Keeps.marchEnd
    | with_reducible apply Keeps.ite

theorem Keeps.execSebWipeDone {s u : State} (a0 : Option ℕ) (h : Keeps s u) : KeepsRes s (execSebWipeDone a0 u) := by
  unfold Sys2Proof.Machine.execSebWipeDone
  repeat' first
    | with_reducible assumption
    | fail_if_no_progress with_reducible apply Keeps.mk0
    | with_reducible apply KeepsRes.next
    | exact KeepsRes.fault _
    | with_reducible apply Keeps.raise
    | with_reducible apply Keeps.setFld
    | with_reducible apply Keeps.recordFailure
    | with_reducible apply Keeps.startWipe
    | with_reducible apply Keeps.ite
    | with_reducible apply KeepsRes.ite
    | with_reducible apply Keeps.foldl
    | with_reducible apply Keeps.foldlFst
    | intro _ _ _ _
    | intro _ _ _
    | dsimp only
    | split

theorem Keeps.setStk {s u : State} (a1 : ℕ) (a2 : Stack) (h : Keeps s u) : Keeps s (State.setStk u a1 a2) := by
  unfold Sys2Proof.Machine.State.setStk
  repeat' first
    | with_reducible assumption
    | fail_if_no_progress with_reducible apply Keeps.mk0
    | with_reducible apply Keeps.setFld

theorem Keeps.failStack {s u : State} (a1 : ℕ) (a2 : ℕ) (a3 : ℕ) (h : Keeps s u) : Keeps s (State.failStack u a1 a2 a3) := by
  unfold Sys2Proof.Machine.State.failStack
  repeat' first
    | with_reducible assumption
    | with_reducible apply Keeps.fatal
    | with_reducible apply Keeps.recordFailure
    | with_reducible apply Keeps.hbmCause
    | with_reducible apply Keeps.setFld

theorem Keeps.poison {s u : State} (a1 : ℕ) (a2 : ℕ) (h : Keeps s u) : Keeps s (State.poison u a1 a2) := by
  unfold Sys2Proof.Machine.State.poison
  repeat' first
    | with_reducible assumption
    | with_reducible apply Keeps.failStack
    | with_reducible apply Keeps.setStk
    | with_reducible apply Keeps.hbmCause
    | with_reducible apply Keeps.ite

theorem Keeps.openRow {s u : State} (a1 : ℕ) (a2 : ℕ) (h : Keeps s u) : Keeps s (State.openRow u a1 a2) := by
  unfold Sys2Proof.Machine.State.openRow
  repeat' first
    | with_reducible assumption
    | with_reducible apply Keeps.count
    | with_reducible apply Keeps.setStk
    | with_reducible apply Keeps.ite

theorem Keeps.severity {s u : State} (a1 : ℕ) (a2 : ℕ) (a3 : Severity) (h : Keeps s u) : Keeps s (State.severity u a1 a2 a3) := by
  unfold Sys2Proof.Machine.State.severity
  repeat' first
    | with_reducible assumption
    | with_reducible apply Keeps.count
    | with_reducible apply Keeps.hbmCause
    | with_reducible apply Keeps.setFld
    | with_reducible apply Keeps.poison
    | dsimp only
    | split

theorem Keeps.hbmAccess {s u : State} (a1 : ℕ) (a2 : ℕ) (a3 : ℕ) (a4 : Option Bytes) (a5 : Severity) (h : Keeps s u) : Keeps s (State.hbmAccess u a1 a2 a3 a4 a5) := by
  unfold Sys2Proof.Machine.State.hbmAccess
  repeat' first
    | with_reducible assumption
    | with_reducible apply Keeps.openRow
    | with_reducible apply Keeps.severity
    | with_reducible apply Keeps.setStk
    | with_reducible apply Keeps.count
    | split

theorem Keeps.setHbmQ {s u : State} (a1 : ℕ) (a2 : ℕ) (a3 : HbmQueue) (h : Keeps s u) : Keeps s (State.setHbmQ u a1 a2 a3) := by
  unfold Sys2Proof.Machine.State.setHbmQ
  repeat' first
    | with_reducible assumption
    | fail_if_no_progress with_reducible apply Keeps.mk0
    | with_reducible apply Keeps.setStk
    | with_reducible apply Keeps.ite
    | with_reducible apply Keeps.foldl
    | with_reducible apply Keeps.foldlFst
    | intro _ _ _ _
    | intro _ _ _
    | dsimp only
    | split
    | with_reducible refine Keeps.ofFst ?_ (by assumption)
    | fail_if_no_progress with_reducible refine Keeps.mk' ?_ (by first | exact Nat.le_refl _ | exact Nat.le_succ _ | with_unfolding_all exact Nat.le_add_right _ _) (by first | exact List.prefix_rfl)

theorem Keeps.hbmRefreshBank {s u : State} (a1 : ℕ) (a2 : ℕ) (h : Keeps s u) : Keeps s (State.hbmRefreshBank u a1 a2) := by
  unfold Sys2Proof.Machine.State.hbmRefreshBank
  repeat' first
    | with_reducible assumption
    | fail_if_no_progress with_reducible apply Keeps.mk0
    | with_reducible apply Keeps.count
    | with_reducible apply Keeps.setStk
    | with_reducible apply Keeps.ite
    | with_reducible apply Keeps.foldl
    | with_reducible apply Keeps.foldlFst
    | intro _ _ _ _
    | intro _ _ _
    | dsimp only
    | split
    | with_reducible refine Keeps.ofFst ?_ (by assumption)
    | fail_if_no_progress with_reducible refine Keeps.mk' ?_ (by first | exact Nat.le_refl _ | exact Nat.le_succ _ | with_unfolding_all exact Nat.le_add_right _ _) (by first | exact List.prefix_rfl)

theorem Keeps.hbmServe {s u : State} (a1 : ℕ) (a2 : ℕ) (a3 : ℕ) (a4 : HbmReq) (h : Keeps s u) : Keeps s (State.hbmServe u a1 a2 a3 a4) := by
  unfold Sys2Proof.Machine.State.hbmServe
  repeat' first
    | with_reducible assumption
    | fail_if_no_progress with_reducible apply Keeps.mk0
    | with_reducible apply Keeps.hbmAccess
    | with_reducible apply Keeps.setHbmQ
    | with_reducible apply Keeps.ite
    | with_reducible apply Keeps.foldl
    | with_reducible apply Keeps.foldlFst
    | intro _ _ _ _
    | intro _ _ _
    | dsimp only
    | split
    | with_reducible refine Keeps.ofFst ?_ (by assumption)
    | fail_if_no_progress with_reducible refine Keeps.mk' ?_ (by first | exact Nat.le_refl _ | exact Nat.le_succ _ | with_unfolding_all exact Nat.le_add_right _ _) (by first | exact List.prefix_rfl)

theorem Keeps.hbmSettle {s u : State} (a1 : ℕ) (a2 : ℕ) (h : Keeps s u) : Keeps s (State.hbmSettle u a1 a2) := by
  unfold Sys2Proof.Machine.State.hbmSettle
  repeat' first
    | with_reducible assumption
    | fail_if_no_progress with_reducible apply Keeps.mk0
    | with_reducible apply Keeps.over
    | with_reducible apply Keeps.hbmServe
    | with_reducible apply Keeps.ite
    | with_reducible apply Keeps.foldl
    | with_reducible apply Keeps.foldlFst
    | intro _ _ _ _
    | intro _ _ _
    | dsimp only
    | split
    | with_reducible refine Keeps.ofFst ?_ (by assumption)
    | fail_if_no_progress with_reducible refine Keeps.mk' ?_ (by first | exact Nat.le_refl _ | exact Nat.le_succ _ | with_unfolding_all exact Nat.le_add_right _ _) (by first | exact List.prefix_rfl)

theorem Keeps.hbmCycle {s u : State} (a1 : ℕ) (a2 : ℕ) (h : Keeps s u) : Keeps s (State.hbmCycle u a1 a2) := by
  unfold Sys2Proof.Machine.State.hbmCycle
  repeat' first
    | with_reducible assumption
    | fail_if_no_progress with_reducible apply Keeps.mk0
    | with_reducible apply Keeps.hbmRefreshBank
    | with_reducible apply Keeps.setHbmQ
    | with_reducible apply Keeps.hbmServe
    | with_reducible apply Keeps.ite
    | with_reducible apply Keeps.foldl
    | with_reducible apply Keeps.foldlFst
    | intro _ _ _ _
    | intro _ _ _
    | dsimp only
    | split
    | with_reducible refine Keeps.ofFst ?_ (by assumption)
    | fail_if_no_progress with_reducible refine Keeps.mk' ?_ (by first | exact Nat.le_refl _ | exact Nat.le_succ _ | with_unfolding_all exact Nat.le_add_right _ _) (by first | exact List.prefix_rfl)

theorem Keeps.hbmCycles {s u : State} (h : Keeps s u) : Keeps s (State.hbmCycles u) := by
  unfold Sys2Proof.Machine.State.hbmCycles
  repeat' first
    | with_reducible assumption
    | fail_if_no_progress with_reducible apply Keeps.mk0
    | with_reducible apply Keeps.over
    | with_reducible apply Keeps.hbmCycle
    | with_reducible apply Keeps.ite
    | with_reducible apply Keeps.foldl
    | with_reducible apply Keeps.foldlFst
    | intro _ _ _ _
    | intro _ _ _
    | dsimp only
    | split
    | with_reducible refine Keeps.ofFst ?_ (by assumption)
    | fail_if_no_progress with_reducible refine Keeps.mk' ?_ (by first | exact Nat.le_refl _ | exact Nat.le_succ _ | with_unfolding_all exact Nat.le_add_right _ _) (by first | exact List.prefix_rfl)

theorem Keeps.hbmArrive {s u : State} (a1 : ℕ) (a2 : HbmReq) (h : Keeps s u) : Keeps s (State.hbmArrive u a1 a2) := by
  unfold Sys2Proof.Machine.State.hbmArrive
  repeat' first
    | with_reducible assumption
    | fail_if_no_progress with_reducible apply Keeps.mk0
    | with_reducible apply Keeps.over
    | with_reducible apply Keeps.hbmCycle
    | with_reducible apply Keeps.count
    | with_reducible apply Keeps.setHbmQ
    | with_reducible apply Keeps.ite
    | with_reducible apply Keeps.foldl
    | with_reducible apply Keeps.foldlFst
    | intro _ _ _ _
    | intro _ _ _
    | dsimp only
    | split
    | with_reducible refine Keeps.ofFst ?_ (by assumption)
    | fail_if_no_progress with_reducible refine Keeps.mk' ?_ (by first | exact Nat.le_refl _ | exact Nat.le_succ _ | with_unfolding_all exact Nat.le_add_right _ _) (by first | exact List.prefix_rfl)

theorem Keeps.execHbmRequest {s u : State} (a0 : ℕ) (a1 : ℕ) (a2 : ℕ) (a3 : Option Bytes) (a4 : Severity) (h : Keeps s u) : KeepsRes s (execHbmRequest a0 a1 a2 a3 a4 u) := by
  unfold Sys2Proof.Machine.execHbmRequest
  repeat' first
    | with_reducible assumption
    | fail_if_no_progress with_reducible apply Keeps.mk0
    | with_reducible apply KeepsRes.next
    | exact KeepsRes.fault _
    | with_reducible apply Keeps.holdWork
    | with_reducible apply Keeps.hbmArrive
    | with_reducible apply Keeps.ite
    | with_reducible apply KeepsRes.ite
    | with_reducible apply Keeps.foldl
    | with_reducible apply Keeps.foldlFst
    | intro _ _ _ _
    | intro _ _ _
    | dsimp only
    | split
    | with_reducible refine Keeps.ofFst ?_ (by assumption)
    | fail_if_no_progress with_reducible refine Keeps.mk' ?_ (by first | exact Nat.le_refl _ | exact Nat.le_succ _ | with_unfolding_all exact Nat.le_add_right _ _) (by first | exact List.prefix_rfl)

theorem Keeps.execHbmRefresh {s u : State} (a0 : ℕ) (a1 : ℕ) (h : Keeps s u) : KeepsRes s (execHbmRefresh a0 a1 u) := by
  unfold Sys2Proof.Machine.execHbmRefresh
  repeat' first
    | with_reducible assumption
    | fail_if_no_progress with_reducible apply Keeps.mk0
    | with_reducible apply KeepsRes.next
    | exact KeepsRes.fault _
    | with_reducible apply Keeps.setHbmQ
    | with_reducible apply Keeps.hbmRefreshBank
    | with_reducible apply Keeps.ite
    | with_reducible apply KeepsRes.ite
    | with_reducible apply Keeps.foldl
    | with_reducible apply Keeps.foldlFst
    | intro _ _ _ _
    | intro _ _ _
    | dsimp only
    | split
    | with_reducible refine Keeps.ofFst ?_ (by assumption)
    | fail_if_no_progress with_reducible refine Keeps.mk' ?_ (by first | exact Nat.le_refl _ | exact Nat.le_succ _ | with_unfolding_all exact Nat.le_add_right _ _) (by first | exact List.prefix_rfl)

theorem Keeps.execHbmTimingCheck {s u : State} (a0 : ℕ) (a1 : ℕ) (a2 : Bool) (a3 : Bool) (h : Keeps s u) : KeepsRes s (execHbmTimingCheck a0 a1 a2 a3 u) := by
  unfold Sys2Proof.Machine.execHbmTimingCheck
  repeat' first
    | with_reducible assumption
    | fail_if_no_progress with_reducible apply Keeps.mk0
    | with_reducible apply KeepsRes.next
    | exact KeepsRes.fault _
    | with_reducible apply Keeps.hbmCause
    | with_reducible apply Keeps.count
    | with_reducible apply Keeps.failStack
    | with_reducible apply Keeps.ite
    | with_reducible apply KeepsRes.ite

theorem Keeps.execHbmTempHot {s u : State} (a0 : ℕ) (a1 : ℕ) (h : Keeps s u) : KeepsRes s (execHbmTempHot a0 a1 u) := by
  unfold Sys2Proof.Machine.execHbmTempHot
  repeat' first
    | with_reducible assumption
    | fail_if_no_progress with_reducible apply Keeps.mk0
    | with_reducible apply KeepsRes.next
    | exact KeepsRes.fault _
    | with_reducible apply Keeps.tempCheck
    | with_reducible apply Keeps.hbmCause
    | with_reducible apply Keeps.setFld
    | with_reducible apply Keeps.ite
    | with_reducible apply KeepsRes.ite

theorem Keeps.execHbmTempOk {s u : State} (a0 : ℕ) (a1 : ℕ) (h : Keeps s u) : KeepsRes s (execHbmTempOk a0 a1 u) := by
  unfold Sys2Proof.Machine.execHbmTempOk
  repeat' first
    | with_reducible assumption
    | fail_if_no_progress with_reducible apply Keeps.mk0
    | with_reducible apply KeepsRes.next
    | exact KeepsRes.fault _
    | with_reducible apply Keeps.tempCheck
    | with_reducible apply Keeps.hbmCause
    | with_reducible apply Keeps.setFld
    | with_reducible apply Keeps.ite
    | with_reducible apply KeepsRes.ite

theorem Keeps.execHbmErraddrRearm {s u : State} (a0 : ℕ) (h : Keeps s u) : KeepsRes s (execHbmErraddrRearm a0 u) := by
  unfold Sys2Proof.Machine.execHbmErraddrRearm
  repeat' first
    | with_reducible assumption
    | fail_if_no_progress with_reducible apply Keeps.mk0
    | with_reducible apply KeepsRes.next
    | exact KeepsRes.fault _
    | with_reducible apply Keeps.setFld
    | with_reducible apply Keeps.ite
    | with_reducible apply KeepsRes.ite

end Sys2Proof.Machine
end

