-- ==== Sys2Proof/Laws/KeepsStreamOps.lean ====
section
/-! SUPPORT. What the operations of Machine/StreamOps.lean keep. -/

namespace Sys2Proof.Machine

theorem Keeps.sendPause {s u : State} (a1 : ℕ) (a2 : ℕ) (a3 : Bool) (a4 : ℕ) (a5 : ℕ) (h : Keeps s u) : Keeps s (State.sendPause u a1 a2 a3 a4 a5) := by
  unfold Sys2Proof.Machine.State.sendPause
  repeat' first
    | with_reducible assumption
    | fail_if_no_progress with_reducible apply Keeps.mk0
    | with_reducible apply Keeps.count
    | with_reducible apply Keeps.emit
    | with_reducible apply Keeps.ite
    | with_reducible apply Keeps.foldl
    | with_reducible apply Keeps.foldlFst
    | intro _ _ _ _
    | intro _ _ _
    | dsimp only
    | split
    | with_reducible refine Keeps.ofFst ?_ (by assumption)
    | fail_if_no_progress with_reducible refine Keeps.mk' ?_ (by first | exact Nat.le_refl _ | exact Nat.le_succ _ | with_unfolding_all exact Nat.le_add_right _ _) (by first | exact List.prefix_rfl)

theorem Keeps.sendXoff {s u : State} (a1 : ℕ) (a2 : ℕ) (h : Keeps s u) : Keeps s (State.sendXoff u a1 a2) := by
  unfold Sys2Proof.Machine.State.sendXoff
  repeat' first
    | with_reducible assumption
    | fail_if_no_progress with_reducible apply Keeps.mk0
    | with_reducible apply Keeps.ethCause
    | with_reducible apply Keeps.sendPause
    | with_reducible apply Keeps.ite
    | with_reducible apply Keeps.foldl
    | with_reducible apply Keeps.foldlFst
    | intro _ _ _ _
    | intro _ _ _
    | dsimp only
    | split
    | with_reducible refine Keeps.ofFst ?_ (by assumption)
    | fail_if_no_progress with_reducible refine Keeps.mk' ?_ (by first | exact Nat.le_refl _ | exact Nat.le_succ _ | with_unfolding_all exact Nat.le_add_right _ _) (by first | exact List.prefix_rfl)

theorem Keeps.pauseCheck {s u : State} (a1 : ℕ) (a2 : ℕ) (h : Keeps s u) : Keeps s (State.pauseCheck u a1 a2) := by
  unfold Sys2Proof.Machine.State.pauseCheck
  repeat' first
    | with_reducible assumption
    | fail_if_no_progress with_reducible apply Keeps.mk0
    | with_reducible apply Keeps.sendPause
    | with_reducible apply Keeps.sendXoff
    | with_reducible apply Keeps.ite
    | with_reducible apply Keeps.foldl
    | with_reducible apply Keeps.foldlFst
    | intro _ _ _ _
    | intro _ _ _
    | dsimp only
    | split
    | with_reducible refine Keeps.ofFst ?_ (by assumption)
    | fail_if_no_progress with_reducible refine Keeps.mk' ?_ (by first | exact Nat.le_refl _ | exact Nat.le_succ _ | with_unfolding_all exact Nat.le_add_right _ _) (by first | exact List.prefix_rfl)

theorem Keeps.takeRecv {s u : State} (a1 : ℕ) (a2 : ℕ) (a3 : ℕ) (h : Keeps s u) : Keeps s (State.takeRecv u a1 a2 a3) := by
  unfold Sys2Proof.Machine.State.takeRecv
  repeat' first
    | with_reducible assumption
    | fail_if_no_progress with_reducible apply Keeps.mk0
    | with_reducible apply Keeps.pauseCheck

theorem Keeps.freeRecv {s u : State} (a1 : ℕ) (a2 : ℕ) (a3 : ℕ) (h : Keeps s u) : Keeps s (State.freeRecv u a1 a2 a3) := by
  unfold Sys2Proof.Machine.State.freeRecv
  repeat' first
    | with_reducible assumption
    | fail_if_no_progress with_reducible apply Keeps.mk0
    | with_reducible apply Keeps.pauseCheck

theorem Keeps.takeHold {s u : State} (a1 : ℕ) (a2 : ℕ) (h : Keeps s u) : Keeps s (State.takeHold u a1 a2) := by
  unfold Sys2Proof.Machine.State.takeHold
  repeat' first
    | with_reducible assumption
    | fail_if_no_progress with_reducible apply Keeps.mk0

theorem Keeps.freeHold {s u : State} (a1 : ℕ) (a2 : ℕ) (h : Keeps s u) : Keeps s (State.freeHold u a1 a2) := by
  unfold Sys2Proof.Machine.State.freeHold
  repeat' first
    | with_reducible assumption
    | fail_if_no_progress with_reducible apply Keeps.mk0

theorem Keeps.setStr {s u : State} (a1 : ℕ) (a2 : Stream) (h : Keeps s u) : Keeps s (State.setStr u a1 a2) := by
  unfold Sys2Proof.Machine.State.setStr
  repeat' first
    | with_reducible assumption
    | fail_if_no_progress with_reducible apply Keeps.mk0

theorem Keeps.setSpan {s u : State} (a1 : ℕ) (a2 : Option SpanX) (h : Keeps s u) : Keeps s (State.setSpan u a1 a2) := by
  unfold Sys2Proof.Machine.State.setSpan
  repeat' first
    | with_reducible assumption
    | fail_if_no_progress with_reducible apply Keeps.mk0

theorem Keeps.setExt {s u : State} (a1 : ℕ) (a2 : ℕ) (a3 : Option Extent) (h : Keeps s u) : Keeps s (State.setExt u a1 a2 a3) := by
  unfold Sys2Proof.Machine.State.setExt
  repeat' first
    | with_reducible assumption
    | with_reducible apply Keeps.setStr
    | with_reducible apply Keeps.setSpan
    | split

theorem Keeps.sealExt {s u : State} (a1 : ℕ) (a2 : ℕ) (a3 : Bool) (h : Keeps s u) : Keeps s (State.sealExt u a1 a2 a3) := by
  unfold Sys2Proof.Machine.State.sealExt
  repeat' first
    | with_reducible assumption
    | with_reducible apply Keeps.subFld
    | with_reducible apply Keeps.count
    | with_reducible apply Keeps.setExt
    | with_reducible apply Keeps.addFld
    | split

theorem Keeps.walkCursor {s u : State} (a1 : ℕ) (a2 : ℕ) (h : Keeps s u) : Keeps s (State.walkCursor u a1 a2) := by
  induction a2 generalizing u a1 with
  | zero =>
    unfold Sys2Proof.Machine.State.walkCursor
    repeat' first
      | with_reducible assumption
  | succ k ih =>
    unfold Sys2Proof.Machine.State.walkCursor
    repeat' first
      | with_reducible assumption
      | with_reducible apply ih
      | with_reducible apply Keeps.addFld
      | with_reducible apply Keeps.ite

theorem Keeps.pend {s u : State} (a1 : ℕ) (h : Keeps s u) : Keeps s (State.pend u a1) := by
  unfold Sys2Proof.Machine.State.pend
  repeat' first
    | with_reducible assumption
    | fail_if_no_progress with_reducible apply Keeps.mk0
    | with_reducible apply Keeps.setFld
    | with_reducible apply Keeps.setSpan
    | with_reducible apply Keeps.ite
    | with_reducible apply Keeps.foldl
    | with_reducible apply Keeps.foldlFst
    | intro _ _ _ _
    | intro _ _ _
    | dsimp only
    | split

theorem Keeps.settleSpans {s u : State} (a1 : ℕ) (h : Keeps s u) : Keeps s (State.settleSpans u a1) := by
  unfold Sys2Proof.Machine.State.settleSpans
  repeat' first
    | with_reducible assumption
    | with_reducible apply Keeps.over
    | with_reducible apply Keeps.pend

theorem Keeps.seal {s u : State} (a1 : ℕ) (a2 : ℕ) (a3 : Bool) (h : Keeps s u) : Keeps s (State.seal u a1 a2 a3) := by
  unfold Sys2Proof.Machine.State.seal
  repeat' first
    | with_reducible assumption
    | with_reducible apply Keeps.sealExt
    | with_reducible apply Keeps.settleSpans
    | with_reducible apply Keeps.walkCursor

theorem Keeps.walkLanded {s u : State} (a1 : ℕ) (a2 : ℕ) (h : Keeps s u) : Keeps s (State.walkLanded u a1 a2) := by
  induction a2 generalizing u a1 with
  | zero =>
    unfold Sys2Proof.Machine.State.walkLanded
    repeat' first
      | with_reducible assumption
  | succ k ih =>
    unfold Sys2Proof.Machine.State.walkLanded
    repeat' first
      | with_reducible assumption
      | with_reducible apply ih
      | with_reducible apply Keeps.addFld
      | with_reducible apply Keeps.ite

theorem Keeps.landedMark {s u : State} (a1 : ℕ) (h : Keeps s u) : Keeps s (State.landedMark u a1) := by
  unfold Sys2Proof.Machine.State.landedMark
  repeat' first
    | with_reducible assumption
    | with_reducible apply Keeps.walkLanded
    | with_reducible apply Keeps.setStr

theorem Keeps.setDrains {s u : State} (a1 : List Drain) (h : Keeps s u) : Keeps s (State.setDrains u a1) := by
  unfold Sys2Proof.Machine.State.setDrains
  repeat' first
    | with_reducible assumption
    | fail_if_no_progress with_reducible apply Keeps.mk0
    | with_reducible apply Keeps.ite
    | with_reducible apply Keeps.foldl
    | with_reducible apply Keeps.foldlFst
    | intro _ _ _ _
    | intro _ _ _
    | dsimp only
    | split
    | with_reducible refine Keeps.ofFst ?_ (by assumption)
    | fail_if_no_progress with_reducible refine Keeps.mk' ?_ (by first | exact Nat.le_refl _ | exact Nat.le_succ _ | with_unfolding_all exact Nat.le_add_right _ _) (by first | exact List.prefix_rfl)

theorem Keeps.drainAway {s u : State} (a1 : ℕ) (a2 : ℕ) (h : Keeps s u) : Keeps s (State.drainAway u a1 a2) := by
  unfold Sys2Proof.Machine.State.drainAway
  repeat' first
    | with_reducible assumption
    | fail_if_no_progress with_reducible apply Keeps.mk0
    | with_reducible apply Keeps.setStr
    | with_reducible apply Keeps.setDrains
    | with_reducible apply Keeps.ite
    | with_reducible apply Keeps.foldl
    | with_reducible apply Keeps.foldlFst
    | intro _ _ _ _
    | intro _ _ _
    | dsimp only
    | split
    | with_reducible refine Keeps.ofFst ?_ (by assumption)
    | fail_if_no_progress with_reducible refine Keeps.mk' ?_ (by first | exact Nat.le_refl _ | exact Nat.le_succ _ | with_unfolding_all exact Nat.le_add_right _ _) (by first | exact List.prefix_rfl)

theorem Keeps.setThread {s u : State} (a1 : ℕ) (a2 : Option Thread) (h : Keeps s u) : Keeps s (State.setThread u a1 a2) := by
  unfold Sys2Proof.Machine.State.setThread
  repeat' first
    | with_reducible assumption
    | fail_if_no_progress with_reducible apply Keeps.mk0

theorem Keeps.noteRecv {s u : State} (a1 : ℕ) (a2 : ℕ) (h : Keeps s u) : Keeps s (State.noteRecv u a1 a2) := by
  unfold Sys2Proof.Machine.State.noteRecv
  repeat' first
    | with_reducible assumption
    | fail_if_no_progress with_reducible apply Keeps.mk0

theorem Keeps.writePart {s u : State} (a1 : ℕ) (a2 : ℕ) (a3 : Placement) (a4 : ℕ) (a5 : Bytes) (h : Keeps s u) : Keeps s (State.writePart u a1 a2 a3 a4 a5) := by
  unfold Sys2Proof.Machine.State.writePart
  repeat' first
    | with_reducible assumption
    | with_reducible apply Keeps.noteRecv
    | with_reducible apply Keeps.setExt
    | with_reducible apply Keeps.addFld
    | split
    | fail_if_no_progress with_reducible refine Keeps.mk' ?_ (by first | exact Nat.le_refl _ | exact Nat.le_succ _ | with_unfolding_all exact Nat.le_add_right _ _) (by first | exact List.prefix_rfl)

theorem Keeps.setHold {s u : State} (a1 : ℕ) (a2 : List Placement) (h : Keeps s u) : Keeps s (State.setHold u a1 a2) := by
  unfold Sys2Proof.Machine.State.setHold
  repeat' first
    | with_reducible assumption
    | with_reducible apply Keeps.over
    | with_reducible apply Keeps.setStr
    | with_reducible apply Keeps.freeHold
    | intro _ _ _

theorem Keeps.dropPart {s u : State} (a1 : ℕ) (a2 : ℕ) (a3 : Placement → Bool) (h : Keeps s u) : Keeps s (State.dropPart u a1 a2 a3) := by
  unfold Sys2Proof.Machine.State.dropPart
  repeat' first
    | with_reducible assumption
    | with_reducible apply Keeps.setHold

theorem Keeps.flushInto {s u : State} (a1 : ℕ) (a2 : ℕ) (h : Keeps s u) : Keeps s (State.flushInto u a1 a2) := by
  unfold Sys2Proof.Machine.State.flushInto
  repeat' first
    | with_reducible assumption
    | with_reducible apply Keeps.over
    | with_reducible apply Keeps.writePart
    | with_reducible apply Keeps.dropPart
    | with_reducible apply Keeps.ite
    | intro _ _ _

theorem Keeps.sealNow {s u : State} (a1 : ℕ) (a2 : ℕ) (h : Keeps s u) : Keeps s (State.sealNow u a1 a2) := by
  unfold Sys2Proof.Machine.State.sealNow
  repeat' first
    | with_reducible assumption
    | with_reducible apply Keeps.seal
    | with_reducible apply Keeps.flushInto

theorem Keeps.closeCur {s u : State} (a1 : ℕ) (h : Keeps s u) : Keeps s (State.closeCur u a1) := by
  unfold Sys2Proof.Machine.State.closeCur
  repeat' first
    | with_reducible assumption
    | with_reducible apply Keeps.setFld
    | split

theorem Keeps.openSpan {s u : State} (a1 : ℕ) (a2 : ℕ) (h : Keeps s u) : Keeps s (State.openSpan u a1 a2) := by
  unfold Sys2Proof.Machine.State.openSpan
  repeat' first
    | with_reducible assumption
    | with_reducible apply Keeps.setSpan
    | with_reducible apply Keeps.settleSpans
    | with_reducible apply Keeps.closeCur
    | with_reducible apply Keeps.setReg
    | with_reducible apply Keeps.setFld
    | with_reducible apply Keeps.subFld
    | with_reducible apply Keeps.setStr
    | with_reducible apply Keeps.foldl
    | intro _ _ _

theorem Keeps.spanFor {s u : State} (a1 : ℕ) (a2 : ℕ) (a3 : ℕ) (h : Keeps s u) : Keeps s (State.spanFor u a1 a2 a3).1 := by
  induction a3 generalizing u a1 a2 with
  | zero =>
    unfold Sys2Proof.Machine.State.spanFor
    repeat' first
      | with_reducible assumption
  | succ k ih =>
    unfold Sys2Proof.Machine.State.spanFor
    repeat' first
      | with_reducible assumption
      | with_reducible apply ih
      | with_reducible apply Keeps.openSpan
      | split

theorem Keeps.noteHigh {s u : State} (a1 : ℕ) (a2 : ℕ) (h : Keeps s u) : Keeps s (State.noteHigh u a1 a2) := by
  unfold Sys2Proof.Machine.State.noteHigh
  repeat' first
    | with_reducible assumption
    | with_reducible apply Keeps.setSpan
    | split

theorem Keeps.noteExts {s u : State} (a1 : ℕ) (a2 : Placement) (h : Keeps s u) : Keeps s (State.noteExts u a1 a2) := by
  unfold Sys2Proof.Machine.State.noteExts
  repeat' first
    | with_reducible assumption
    | fail_if_no_progress with_reducible apply Keeps.mk0
    | with_reducible apply Keeps.over
    | with_reducible apply Keeps.noteHigh
    | with_reducible apply Keeps.ite
    | with_reducible apply Keeps.foldl
    | with_reducible apply Keeps.foldlFst
    | intro _ _ _ _
    | intro _ _ _
    | dsimp only
    | split
    | with_reducible refine Keeps.ofFst ?_ (by assumption)
    | fail_if_no_progress with_reducible refine Keeps.mk' ?_ (by first | exact Nat.le_refl _ | exact Nat.le_succ _ | with_unfolding_all exact Nat.le_add_right _ _) (by first | exact List.prefix_rfl)

theorem Keeps.acceptProv {s u : State} (a1 : ℕ) (a2 : Placement) (h : Keeps s u) : Keeps s (State.acceptProv u a1 a2) := by
  unfold Sys2Proof.Machine.State.acceptProv
  repeat' first
    | with_reducible assumption
    | fail_if_no_progress with_reducible apply Keeps.mk0
    | with_reducible apply Keeps.spanFor
    | with_reducible apply Keeps.noteExts
    | with_reducible apply Keeps.setStr
    | with_reducible apply Keeps.count
    | with_reducible apply Keeps.ite
    | with_reducible apply Keeps.foldl
    | with_reducible apply Keeps.foldlFst
    | intro _ _ _ _
    | intro _ _ _
    | dsimp only
    | split
    | with_reducible refine Keeps.ofFst ?_ (by assumption)
    | fail_if_no_progress with_reducible refine Keeps.mk' ?_ (by first | exact Nat.le_refl _ | exact Nat.le_succ _ | with_unfolding_all exact Nat.le_add_right _ _) (by first | exact List.prefix_rfl)

theorem Keeps.retryWaits {s u : State} (a1 : ℕ) (h : Keeps s u) : Keeps s (State.retryWaits u a1) := by
  unfold Sys2Proof.Machine.State.retryWaits
  repeat' first
    | with_reducible assumption
    | fail_if_no_progress with_reducible apply Keeps.mk0
    | with_reducible apply Keeps.spanFor
    | with_reducible apply Keeps.noteExts
    | with_reducible apply Keeps.setStr
    | with_reducible apply Keeps.ite
    | with_reducible apply Keeps.foldl
    | with_reducible apply Keeps.foldlFst
    | intro _ _ _ _
    | intro _ _ _
    | dsimp only
    | split
    | with_reducible refine Keeps.ofFst ?_ (by assumption)
    | fail_if_no_progress with_reducible refine Keeps.mk' ?_ (by first | exact Nat.le_refl _ | exact Nat.le_succ _ | with_unfolding_all exact Nat.le_add_right _ _) (by first | exact List.prefix_rfl)

theorem Keeps.freeSpan {s u : State} (a1 : ℕ) (h : Keeps s u) : Keeps s (State.freeSpan u a1) := by
  unfold Sys2Proof.Machine.State.freeSpan
  repeat' first
    | with_reducible assumption
    | with_reducible apply Keeps.addFld
    | with_reducible apply Keeps.setFld
    | with_reducible apply Keeps.setSpan
    | with_reducible apply Keeps.over
    | with_reducible apply Keeps.retryWaits

theorem Keeps.autoFree {s u : State} (a1 : ℕ) (h : Keeps s u) : Keeps s (State.autoFree u a1) := by
  unfold Sys2Proof.Machine.State.autoFree
  repeat' first
    | with_reducible assumption
    | with_reducible apply Keeps.freeSpan
    | with_reducible apply Keeps.ite

theorem Keeps.journal {s u : State} (a1 : JRec) (h : Keeps s u) : Keeps s (State.journal u a1) := by
  unfold Sys2Proof.Machine.State.journal
  repeat' first
    | with_reducible assumption
    | fail_if_no_progress with_reducible apply Keeps.mk0

theorem Keeps.cutSeals {s u : State} (a1 : ℕ) (a2 : ℕ) (h : Keeps s u) : Keeps s (State.cutSeals u a1 a2) := by
  unfold Sys2Proof.Machine.State.cutSeals
  repeat' first
    | with_reducible assumption
    | with_reducible apply Keeps.over
    | with_reducible apply Keeps.sealNow
    | with_reducible apply Keeps.seal
    | with_reducible apply Keeps.ite
    | intro _ _ _

theorem Keeps.decideSpan {s u : State} (a1 : ℕ) (a2 : Bool) (a3 : ℕ) (a4 : ℕ) (h : Keeps s u) : Keeps s (State.decideSpan u a1 a2 a3 a4) := by
  unfold Sys2Proof.Machine.State.decideSpan
  repeat' first
    | with_reducible assumption
    | fail_if_no_progress with_reducible apply Keeps.mk0
    | with_reducible apply Keeps.setFld
    | with_reducible apply Keeps.setStr
    | with_reducible apply Keeps.journal
    | with_reducible apply Keeps.setSpan
    | with_reducible apply Keeps.count
    | with_reducible apply Keeps.cutSeals
    | with_reducible apply Keeps.ite
    | with_reducible apply Keeps.foldl
    | with_reducible apply Keeps.foldlFst
    | intro _ _ _ _
    | intro _ _ _
    | dsimp only
    | split

end Sys2Proof.Machine
end

