-- ==== Sys2Proof/Laws/KeepsUrette.lean ====
section
/-! SUPPORT. What the operations of Machine/Urette.lean keep. -/

namespace Sys2Proof.Machine

theorem Keeps.countRx {s u : State} (a1 : Dgram) (h : Keeps s u) : Keeps s (State.countRx u a1) := by
  unfold Sys2Proof.Machine.State.countRx
  repeat' first
    | with_reducible assumption
    | with_reducible apply Keeps.count

theorem Keeps.dispatchTo {s u : State} (a1 : ℕ) (a2 : Dgram) (h : Keeps s u) : Keeps s (State.dispatchTo u a1 a2) := by
  unfold Sys2Proof.Machine.State.dispatchTo
  repeat' first
    | with_reducible assumption
    | with_reducible apply Keeps.setFld
    | with_reducible apply Keeps.setThread
    | with_reducible apply Keeps.countRx

theorem Keeps.freeDgram {s u : State} (a1 : Dgram) (h : Keeps s u) : Keeps s (State.freeDgram u a1) := by
  unfold Sys2Proof.Machine.State.freeDgram
  repeat' first
    | with_reducible assumption
    | with_reducible apply Keeps.freeRecv

theorem Keeps.dropNoThread {s u : State} (a1 : Dgram) (h : Keeps s u) : Keeps s (State.dropNoThread u a1) := by
  unfold Sys2Proof.Machine.State.dropNoThread
  repeat' first
    | with_reducible assumption
    | with_reducible apply Keeps.freeDgram
    | with_reducible apply Keeps.strCause
    | with_reducible apply Keeps.count
    | with_reducible apply Keeps.countRx

theorem Keeps.setRing {s u : State} (a1 : ℕ) (a2 : List Dgram) (h : Keeps s u) : Keeps s (State.setRing u a1 a2) := by
  unfold Sys2Proof.Machine.State.setRing
  repeat' first
    | with_reducible assumption
    | fail_if_no_progress with_reducible apply Keeps.mk0

theorem Keeps.setWaiting {s u : State} (a1 : List Dgram) (h : Keeps s u) : Keeps s (State.setWaiting u a1) := by
  unfold Sys2Proof.Machine.State.setWaiting
  repeat' first
    | with_reducible assumption
    | fail_if_no_progress with_reducible apply Keeps.mk0

theorem Keeps.dispatchWaiting {s u : State} (a1 : ℕ) (h : Keeps s u) : Keeps s (State.dispatchWaiting u a1) := by
  induction a1 generalizing u  with
  | zero =>
    unfold Sys2Proof.Machine.State.dispatchWaiting
    repeat' first
      | with_reducible assumption
      | fail_if_no_progress with_reducible apply Keeps.mk0
      | with_reducible apply Keeps.setWaiting
      | with_reducible apply Keeps.dispatchTo
      | with_reducible apply Keeps.ite
      | with_reducible apply Keeps.foldl
      | with_reducible apply Keeps.foldlFst
      | intro _ _ _ _
      | intro _ _ _
      | dsimp only
      | split
      | with_reducible refine Keeps.ofFst ?_ (by assumption)
      | fail_if_no_progress with_reducible refine Keeps.mk' ?_ (by first | exact Nat.le_refl _ | exact Nat.le_succ _ | with_unfolding_all exact Nat.le_add_right _ _) (by first | exact List.prefix_rfl)
  | succ k ih =>
    unfold Sys2Proof.Machine.State.dispatchWaiting
    repeat' first
      | with_reducible assumption
      | with_reducible apply ih
      | fail_if_no_progress with_reducible apply Keeps.mk0
      | with_reducible apply Keeps.setWaiting
      | with_reducible apply Keeps.dispatchTo
      | with_reducible apply Keeps.ite
      | with_reducible apply Keeps.foldl
      | with_reducible apply Keeps.foldlFst
      | intro _ _ _ _
      | intro _ _ _
      | dsimp only
      | split
      | with_reducible refine Keeps.ofFst ?_ (by assumption)
      | fail_if_no_progress with_reducible refine Keeps.mk' ?_ (by first | exact Nat.le_refl _ | exact Nat.le_succ _ | with_unfolding_all exact Nat.le_add_right _ _) (by first | exact List.prefix_rfl)

theorem Keeps.execDatagramArrival {s u : State} (a0 : ℕ) (h : Keeps s u) : KeepsRes s (execDatagramArrival a0 u) := by
  unfold Sys2Proof.Machine.execDatagramArrival
  repeat' first
    | with_reducible assumption
    | fail_if_no_progress with_reducible apply Keeps.mk0
    | with_reducible apply KeepsRes.next
    | exact KeepsRes.fault _
    | with_reducible apply Keeps.setRing
    | with_reducible apply Keeps.freeDgram
    | with_reducible apply Keeps.count
    | with_reducible apply Keeps.dispatchWaiting
    | with_reducible apply Keeps.dispatchTo
    | with_reducible apply Keeps.dropNoThread
    | with_reducible apply Keeps.setWaiting
    | with_reducible apply Keeps.ite
    | with_reducible apply KeepsRes.ite
    | with_reducible apply Keeps.foldl
    | with_reducible apply Keeps.foldlFst
    | intro _ _ _ _
    | intro _ _ _
    | dsimp only
    | split
    | with_reducible refine Keeps.ofFst ?_ (by assumption)
    | fail_if_no_progress with_reducible refine Keeps.mk' ?_ (by first | exact Nat.le_refl _ | exact Nat.le_succ _ | with_unfolding_all exact Nat.le_add_right _ _) (by first | exact List.prefix_rfl)

theorem Keeps.execDatagramDispatch {s u : State} (h : Keeps s u) : KeepsRes s (execDatagramDispatch u) := by
  unfold Sys2Proof.Machine.execDatagramDispatch
  repeat' first
    | with_reducible assumption
    | with_reducible apply KeepsRes.next
    | with_reducible apply Keeps.dispatchTo
    | with_reducible apply Keeps.setWaiting
    | split

theorem Keeps.execDispatchWaitExpiry {s u : State} (a0 : ℕ) (h : Keeps s u) : KeepsRes s (execDispatchWaitExpiry a0 u) := by
  unfold Sys2Proof.Machine.execDispatchWaitExpiry
  repeat' first
    | with_reducible assumption
    | with_reducible apply KeepsRes.next
    | with_reducible apply Keeps.dropNoThread
    | with_reducible apply Keeps.setWaiting
    | split

theorem Keeps.endThread {s u : State} (a1 : ℕ) (a2 : Thread) (h : Keeps s u) : Keeps s (State.endThread u a1 a2) := by
  unfold Sys2Proof.Machine.State.endThread
  repeat' first
    | with_reducible assumption
    | with_reducible apply Keeps.freeDgram
    | with_reducible apply Keeps.setFld
    | with_reducible apply Keeps.setThread

theorem Keeps.latchFault {s u : State} (a1 : ℕ) (a2 : Thread) (a3 : ℕ) (h : Keeps s u) : Keeps s (State.latchFault u a1 a2 a3) := by
  unfold Sys2Proof.Machine.State.latchFault
  repeat' first
    | with_reducible assumption
    | fail_if_no_progress with_reducible apply Keeps.mk0
    | with_reducible apply Keeps.setFld
    | with_reducible apply Keeps.setReg
    | with_reducible apply Keeps.ite

theorem Keeps.endFault {s u : State} (a1 : ℕ) (a2 : Thread) (a3 : ℕ) (h : Keeps s u) : Keeps s (State.endFault u a1 a2 a3) := by
  unfold Sys2Proof.Machine.State.endFault
  repeat' first
    | with_reducible assumption
    | with_reducible apply Keeps.endThread
    | with_reducible apply Keeps.strCause
    | with_reducible apply Keeps.count
    | with_reducible apply Keeps.latchFault

theorem Keeps.hwDrop {s u : State} (a1 : ℕ) (a2 : Thread) (a3 : ℕ) (h : Keeps s u) : Keeps s (State.hwDrop u a1 a2 a3) := by
  unfold Sys2Proof.Machine.State.hwDrop
  repeat' first
    | with_reducible assumption
    | with_reducible apply Keeps.count
    | with_reducible apply Keeps.strCause
    | with_reducible apply Keeps.endThread
    | split

/-- What an instruction makes of the state keeps the frame. -/
def UOut.Ok (s : State) : UOut → Prop
  | .go u _ => Keeps s u
  | .jump u _ _ => Keeps s u
  | .fault u _ => Keeps s u
  | .drop u _ _ => Keeps s u
  | .accept u _ => Keeps s u

theorem UOut.ok_go {s u : State} {th : Thread} (h : Keeps s u) : UOut.Ok s (.go u th) := h
theorem UOut.ok_jump {s u : State} {th : Thread} {pc : Nat} (h : Keeps s u) : UOut.Ok s (.jump u th pc) := h
theorem UOut.ok_fault {s u : State} {c : Nat} (h : Keeps s u) : UOut.Ok s (.fault u c) := h
theorem UOut.ok_drop {s u : State} {th : Thread} {c : Nat} (h : Keeps s u) : UOut.Ok s (.drop u th c) := h
theorem UOut.ok_accept {s u : State} {th : Thread} (h : Keeps s u) : UOut.Ok s (.accept u th) := h
theorem UOut.ok_alu {s u : State} {f : Thread → W64 → W64} {th : Thread} {w : W64} (h : Keeps s u) : UOut.Ok s (alu f u th w) := h
theorem UOut.ok_alu2 {s u : State} {f : W64 → W64 → W64} {th : Thread} {w : W64} (h : Keeps s u) : UOut.Ok s (alu2 f u th w) := h
theorem UOut.ok_enqueue {s u : State} {th : Thread} {e : SideEff} (h : Keeps s u) : UOut.Ok s (enqueue u th e) := by
  unfold enqueue
  split
  · exact h
  · exact h

theorem Keeps.settle {s : State} (t : Nat) (th : Thread) (cost : Nat) {o : UOut} (h : o.Ok s) : Keeps s (UOut.settle t th cost o) := by
  cases o with
  | go u x => exact Keeps.setThread _ _ h
  | jump u x pc => exact Keeps.setThread _ _ h
  | fault u c => exact Keeps.endFault _ _ _ h
  | drop u x c => exact Keeps.hwDrop _ _ _ h
  | accept u x => exact Keeps.setThread _ _ h

theorem Keeps.issue {s u : State} (t op : Nat) {body : State → Thread → W64 → UOut}
    (hb : ∀ v th w, Keeps s v → (body v th w).Ok s) (h : Keeps s u) : KeepsRes s (u.issue t op body) := by
  unfold State.issue
  split
  · exact KeepsRes.next h
  · split
    · exact KeepsRes.next h
    · split
      · exact KeepsRes.next (Keeps.endFault _ _ _ h)
      · dsimp only
        split
        · exact KeepsRes.next (Keeps.settle _ _ _ (hb _ _ _ (Keeps.count _ _ h)))
        · exact KeepsRes.next h

theorem Keeps.execBudgetExhausted {s u : State} (a0 : ℕ) (h : Keeps s u) : KeepsRes s (execBudgetExhausted a0 u) := by
  unfold Sys2Proof.Machine.execBudgetExhausted
  repeat' first
    | with_reducible assumption
    | with_reducible apply KeepsRes.next
    | with_reducible apply Keeps.endFault
    | split

theorem Keeps.spoilWord {s u : State} (a1 : ℕ) (h : Keeps s u) : Keeps s (State.spoilWord u a1) := by
  unfold Sys2Proof.Machine.State.spoilWord
  repeat' first
    | with_reducible assumption
    | fail_if_no_progress with_reducible apply Keeps.mk0
    | with_reducible apply Keeps.ite
    | with_reducible apply Keeps.foldl
    | with_reducible apply Keeps.foldlFst
    | intro _ _ _ _
    | intro _ _ _
    | dsimp only
    | split
    | with_reducible refine Keeps.ofFst ?_ (by assumption)
    | fail_if_no_progress with_reducible refine Keeps.mk' ?_ (by first | exact Nat.le_refl _ | exact Nat.le_succ _ | with_unfolding_all exact Nat.le_add_right _ _) (by first | exact List.prefix_rfl)

theorem Keeps.execUNop {s u : State} (a0 : ℕ) (a1 : Bool) (h : Keeps s u) : KeepsRes s (execUNop a0 a1 u) := by
  unfold Sys2Proof.Machine.execUNop
  repeat' first
    | with_reducible apply Keeps.issue
    | with_reducible apply UOut.ok_go
    | with_reducible apply UOut.ok_jump
    | with_reducible apply UOut.ok_fault
    | with_reducible apply UOut.ok_drop
    | with_reducible apply UOut.ok_accept
    | with_reducible apply UOut.ok_enqueue
    | with_reducible apply UOut.ok_alu2
    | with_reducible apply UOut.ok_alu
    | with_reducible apply Keeps.submitSeq
    | with_reducible assumption
    | fail_if_no_progress with_reducible apply Keeps.mk0
    | with_reducible apply KeepsRes.next
    | exact KeepsRes.fault _
    | with_reducible apply Keeps.issue
    | with_reducible apply Keeps.spoilWord
    | with_reducible apply Keeps.ite
    | with_reducible apply KeepsRes.ite
    | with_reducible apply Keeps.foldl
    | with_reducible apply Keeps.foldlFst
    | intro _ _ _ _
    | intro _ _ _
    | dsimp only
    | split
    | with_reducible refine Keeps.ofFst ?_ (by assumption)
    | fail_if_no_progress with_reducible refine Keeps.mk' ?_ (by first | exact Nat.le_refl _ | exact Nat.le_succ _ | with_unfolding_all exact Nat.le_add_right _ _) (by first | exact List.prefix_rfl)

theorem Keeps.execUAdd {s u : State} (a0 : ℕ) (h : Keeps s u) : KeepsRes s (execUAdd a0 u) := by
  unfold Sys2Proof.Machine.execUAdd
  repeat' first
    | with_reducible apply Keeps.issue
    | with_reducible apply UOut.ok_go
    | with_reducible apply UOut.ok_jump
    | with_reducible apply UOut.ok_fault
    | with_reducible apply UOut.ok_drop
    | with_reducible apply UOut.ok_accept
    | with_reducible apply UOut.ok_enqueue
    | with_reducible apply UOut.ok_alu2
    | with_reducible apply UOut.ok_alu
    | with_reducible apply Keeps.submitSeq
    | with_reducible assumption
    | fail_if_no_progress with_reducible apply Keeps.mk0
    | with_reducible apply KeepsRes.next
    | exact KeepsRes.fault _
    | with_reducible apply Keeps.issue
    | with_reducible apply Keeps.ite
    | with_reducible apply KeepsRes.ite
    | with_reducible apply Keeps.foldl
    | with_reducible apply Keeps.foldlFst
    | intro _ _ _ _
    | intro _ _ _
    | dsimp only
    | split
    | with_reducible refine Keeps.ofFst ?_ (by assumption)
    | fail_if_no_progress with_reducible refine Keeps.mk' ?_ (by first | exact Nat.le_refl _ | exact Nat.le_succ _ | with_unfolding_all exact Nat.le_add_right _ _) (by first | exact List.prefix_rfl)

theorem Keeps.execUSub {s u : State} (a0 : ℕ) (h : Keeps s u) : KeepsRes s (execUSub a0 u) := by
  unfold Sys2Proof.Machine.execUSub
  repeat' first
    | with_reducible apply Keeps.issue
    | with_reducible apply UOut.ok_go
    | with_reducible apply UOut.ok_jump
    | with_reducible apply UOut.ok_fault
    | with_reducible apply UOut.ok_drop
    | with_reducible apply UOut.ok_accept
    | with_reducible apply UOut.ok_enqueue
    | with_reducible apply UOut.ok_alu2
    | with_reducible apply UOut.ok_alu
    | with_reducible apply Keeps.submitSeq
    | with_reducible assumption
    | fail_if_no_progress with_reducible apply Keeps.mk0
    | with_reducible apply KeepsRes.next
    | exact KeepsRes.fault _
    | with_reducible apply Keeps.issue
    | with_reducible apply Keeps.ite
    | with_reducible apply KeepsRes.ite
    | with_reducible apply Keeps.foldl
    | with_reducible apply Keeps.foldlFst
    | intro _ _ _ _
    | intro _ _ _
    | dsimp only
    | split
    | with_reducible refine Keeps.ofFst ?_ (by assumption)
    | fail_if_no_progress with_reducible refine Keeps.mk' ?_ (by first | exact Nat.le_refl _ | exact Nat.le_succ _ | with_unfolding_all exact Nat.le_add_right _ _) (by first | exact List.prefix_rfl)

theorem Keeps.execUAnd {s u : State} (a0 : ℕ) (h : Keeps s u) : KeepsRes s (execUAnd a0 u) := by
  unfold Sys2Proof.Machine.execUAnd
  repeat' first
    | with_reducible apply Keeps.issue
    | with_reducible apply UOut.ok_go
    | with_reducible apply UOut.ok_jump
    | with_reducible apply UOut.ok_fault
    | with_reducible apply UOut.ok_drop
    | with_reducible apply UOut.ok_accept
    | with_reducible apply UOut.ok_enqueue
    | with_reducible apply UOut.ok_alu2
    | with_reducible apply UOut.ok_alu
    | with_reducible apply Keeps.submitSeq
    | with_reducible assumption
    | fail_if_no_progress with_reducible apply Keeps.mk0
    | with_reducible apply KeepsRes.next
    | exact KeepsRes.fault _
    | with_reducible apply Keeps.issue
    | with_reducible apply Keeps.ite
    | with_reducible apply KeepsRes.ite
    | with_reducible apply Keeps.foldl
    | with_reducible apply Keeps.foldlFst
    | intro _ _ _ _
    | intro _ _ _
    | dsimp only
    | split
    | with_reducible refine Keeps.ofFst ?_ (by assumption)
    | fail_if_no_progress with_reducible refine Keeps.mk' ?_ (by first | exact Nat.le_refl _ | exact Nat.le_succ _ | with_unfolding_all exact Nat.le_add_right _ _) (by first | exact List.prefix_rfl)

theorem Keeps.execUOr {s u : State} (a0 : ℕ) (h : Keeps s u) : KeepsRes s (execUOr a0 u) := by
  unfold Sys2Proof.Machine.execUOr
  repeat' first
    | with_reducible apply Keeps.issue
    | with_reducible apply UOut.ok_go
    | with_reducible apply UOut.ok_jump
    | with_reducible apply UOut.ok_fault
    | with_reducible apply UOut.ok_drop
    | with_reducible apply UOut.ok_accept
    | with_reducible apply UOut.ok_enqueue
    | with_reducible apply UOut.ok_alu2
    | with_reducible apply UOut.ok_alu
    | with_reducible apply Keeps.submitSeq
    | with_reducible assumption
    | fail_if_no_progress with_reducible apply Keeps.mk0
    | with_reducible apply KeepsRes.next
    | exact KeepsRes.fault _
    | with_reducible apply Keeps.issue
    | with_reducible apply Keeps.ite
    | with_reducible apply KeepsRes.ite
    | with_reducible apply Keeps.foldl
    | with_reducible apply Keeps.foldlFst
    | intro _ _ _ _
    | intro _ _ _
    | dsimp only
    | split
    | with_reducible refine Keeps.ofFst ?_ (by assumption)
    | fail_if_no_progress with_reducible refine Keeps.mk' ?_ (by first | exact Nat.le_refl _ | exact Nat.le_succ _ | with_unfolding_all exact Nat.le_add_right _ _) (by first | exact List.prefix_rfl)

theorem Keeps.execUXor {s u : State} (a0 : ℕ) (h : Keeps s u) : KeepsRes s (execUXor a0 u) := by
  unfold Sys2Proof.Machine.execUXor
  repeat' first
    | with_reducible apply Keeps.issue
    | with_reducible apply UOut.ok_go
    | with_reducible apply UOut.ok_jump
    | with_reducible apply UOut.ok_fault
    | with_reducible apply UOut.ok_drop
    | with_reducible apply UOut.ok_accept
    | with_reducible apply UOut.ok_enqueue
    | with_reducible apply UOut.ok_alu2
    | with_reducible apply UOut.ok_alu
    | with_reducible apply Keeps.submitSeq
    | with_reducible assumption
    | fail_if_no_progress with_reducible apply Keeps.mk0
    | with_reducible apply KeepsRes.next
    | exact KeepsRes.fault _
    | with_reducible apply Keeps.issue
    | with_reducible apply Keeps.ite
    | with_reducible apply KeepsRes.ite
    | with_reducible apply Keeps.foldl
    | with_reducible apply Keeps.foldlFst
    | intro _ _ _ _
    | intro _ _ _
    | dsimp only
    | split
    | with_reducible refine Keeps.ofFst ?_ (by assumption)
    | fail_if_no_progress with_reducible refine Keeps.mk' ?_ (by first | exact Nat.le_refl _ | exact Nat.le_succ _ | with_unfolding_all exact Nat.le_add_right _ _) (by first | exact List.prefix_rfl)

theorem Keeps.execUShl {s u : State} (a0 : ℕ) (h : Keeps s u) : KeepsRes s (execUShl a0 u) := by
  unfold Sys2Proof.Machine.execUShl
  repeat' first
    | with_reducible apply Keeps.issue
    | with_reducible apply UOut.ok_go
    | with_reducible apply UOut.ok_jump
    | with_reducible apply UOut.ok_fault
    | with_reducible apply UOut.ok_drop
    | with_reducible apply UOut.ok_accept
    | with_reducible apply UOut.ok_enqueue
    | with_reducible apply UOut.ok_alu2
    | with_reducible apply UOut.ok_alu
    | with_reducible apply Keeps.submitSeq
    | with_reducible assumption
    | fail_if_no_progress with_reducible apply Keeps.mk0
    | with_reducible apply KeepsRes.next
    | exact KeepsRes.fault _
    | with_reducible apply Keeps.issue
    | with_reducible apply Keeps.ite
    | with_reducible apply KeepsRes.ite
    | with_reducible apply Keeps.foldl
    | with_reducible apply Keeps.foldlFst
    | intro _ _ _ _
    | intro _ _ _
    | dsimp only
    | split
    | with_reducible refine Keeps.ofFst ?_ (by assumption)
    | fail_if_no_progress with_reducible refine Keeps.mk' ?_ (by first | exact Nat.le_refl _ | exact Nat.le_succ _ | with_unfolding_all exact Nat.le_add_right _ _) (by first | exact List.prefix_rfl)

theorem Keeps.execUShr {s u : State} (a0 : ℕ) (h : Keeps s u) : KeepsRes s (execUShr a0 u) := by
  unfold Sys2Proof.Machine.execUShr
  repeat' first
    | with_reducible apply Keeps.issue
    | with_reducible apply UOut.ok_go
    | with_reducible apply UOut.ok_jump
    | with_reducible apply UOut.ok_fault
    | with_reducible apply UOut.ok_drop
    | with_reducible apply UOut.ok_accept
    | with_reducible apply UOut.ok_enqueue
    | with_reducible apply UOut.ok_alu2
    | with_reducible apply UOut.ok_alu
    | with_reducible apply Keeps.submitSeq
    | with_reducible assumption
    | fail_if_no_progress with_reducible apply Keeps.mk0
    | with_reducible apply KeepsRes.next
    | exact KeepsRes.fault _
    | with_reducible apply Keeps.issue
    | with_reducible apply Keeps.ite
    | with_reducible apply KeepsRes.ite
    | with_reducible apply Keeps.foldl
    | with_reducible apply Keeps.foldlFst
    | intro _ _ _ _
    | intro _ _ _
    | dsimp only
    | split
    | with_reducible refine Keeps.ofFst ?_ (by assumption)
    | fail_if_no_progress with_reducible refine Keeps.mk' ?_ (by first | exact Nat.le_refl _ | exact Nat.le_succ _ | with_unfolding_all exact Nat.le_add_right _ _) (by first | exact List.prefix_rfl)

theorem Keeps.execUSar {s u : State} (a0 : ℕ) (h : Keeps s u) : KeepsRes s (execUSar a0 u) := by
  unfold Sys2Proof.Machine.execUSar
  repeat' first
    | with_reducible apply Keeps.issue
    | with_reducible apply UOut.ok_go
    | with_reducible apply UOut.ok_jump
    | with_reducible apply UOut.ok_fault
    | with_reducible apply UOut.ok_drop
    | with_reducible apply UOut.ok_accept
    | with_reducible apply UOut.ok_enqueue
    | with_reducible apply UOut.ok_alu2
    | with_reducible apply UOut.ok_alu
    | with_reducible apply Keeps.submitSeq
    | with_reducible assumption
    | fail_if_no_progress with_reducible apply Keeps.mk0
    | with_reducible apply KeepsRes.next
    | exact KeepsRes.fault _
    | with_reducible apply Keeps.issue
    | with_reducible apply Keeps.ite
    | with_reducible apply KeepsRes.ite
    | with_reducible apply Keeps.foldl
    | with_reducible apply Keeps.foldlFst
    | intro _ _ _ _
    | intro _ _ _
    | dsimp only
    | split
    | with_reducible refine Keeps.ofFst ?_ (by assumption)
    | fail_if_no_progress with_reducible refine Keeps.mk' ?_ (by first | exact Nat.le_refl _ | exact Nat.le_succ _ | with_unfolding_all exact Nat.le_add_right _ _) (by first | exact List.prefix_rfl)

theorem Keeps.execUMul {s u : State} (a0 : ℕ) (h : Keeps s u) : KeepsRes s (execUMul a0 u) := by
  unfold Sys2Proof.Machine.execUMul
  repeat' first
    | with_reducible apply Keeps.issue
    | with_reducible apply UOut.ok_go
    | with_reducible apply UOut.ok_jump
    | with_reducible apply UOut.ok_fault
    | with_reducible apply UOut.ok_drop
    | with_reducible apply UOut.ok_accept
    | with_reducible apply UOut.ok_enqueue
    | with_reducible apply UOut.ok_alu2
    | with_reducible apply UOut.ok_alu
    | with_reducible apply Keeps.submitSeq
    | with_reducible assumption
    | fail_if_no_progress with_reducible apply Keeps.mk0
    | with_reducible apply KeepsRes.next
    | exact KeepsRes.fault _
    | with_reducible apply Keeps.issue
    | with_reducible apply Keeps.ite
    | with_reducible apply KeepsRes.ite
    | with_reducible apply Keeps.foldl
    | with_reducible apply Keeps.foldlFst
    | intro _ _ _ _
    | intro _ _ _
    | dsimp only
    | split
    | with_reducible refine Keeps.ofFst ?_ (by assumption)
    | fail_if_no_progress with_reducible refine Keeps.mk' ?_ (by first | exact Nat.le_refl _ | exact Nat.le_succ _ | with_unfolding_all exact Nat.le_add_right _ _) (by first | exact List.prefix_rfl)

theorem Keeps.execUMulhu {s u : State} (a0 : ℕ) (h : Keeps s u) : KeepsRes s (execUMulhu a0 u) := by
  unfold Sys2Proof.Machine.execUMulhu
  repeat' first
    | with_reducible apply Keeps.issue
    | with_reducible apply UOut.ok_go
    | with_reducible apply UOut.ok_jump
    | with_reducible apply UOut.ok_fault
    | with_reducible apply UOut.ok_drop
    | with_reducible apply UOut.ok_accept
    | with_reducible apply UOut.ok_enqueue
    | with_reducible apply UOut.ok_alu2
    | with_reducible apply UOut.ok_alu
    | with_reducible apply Keeps.submitSeq
    | with_reducible assumption
    | fail_if_no_progress with_reducible apply Keeps.mk0
    | with_reducible apply KeepsRes.next
    | exact KeepsRes.fault _
    | with_reducible apply Keeps.issue
    | with_reducible apply Keeps.ite
    | with_reducible apply KeepsRes.ite
    | with_reducible apply Keeps.foldl
    | with_reducible apply Keeps.foldlFst
    | intro _ _ _ _
    | intro _ _ _
    | dsimp only
    | split
    | with_reducible refine Keeps.ofFst ?_ (by assumption)
    | fail_if_no_progress with_reducible refine Keeps.mk' ?_ (by first | exact Nat.le_refl _ | exact Nat.le_succ _ | with_unfolding_all exact Nat.le_add_right _ _) (by first | exact List.prefix_rfl)

theorem Keeps.execUMinu {s u : State} (a0 : ℕ) (h : Keeps s u) : KeepsRes s (execUMinu a0 u) := by
  unfold Sys2Proof.Machine.execUMinu
  repeat' first
    | with_reducible apply Keeps.issue
    | with_reducible apply UOut.ok_go
    | with_reducible apply UOut.ok_jump
    | with_reducible apply UOut.ok_fault
    | with_reducible apply UOut.ok_drop
    | with_reducible apply UOut.ok_accept
    | with_reducible apply UOut.ok_enqueue
    | with_reducible apply UOut.ok_alu2
    | with_reducible apply UOut.ok_alu
    | with_reducible apply Keeps.submitSeq
    | with_reducible assumption
    | fail_if_no_progress with_reducible apply Keeps.mk0
    | with_reducible apply KeepsRes.next
    | exact KeepsRes.fault _
    | with_reducible apply Keeps.issue
    | with_reducible apply Keeps.ite
    | with_reducible apply KeepsRes.ite
    | with_reducible apply Keeps.foldl
    | with_reducible apply Keeps.foldlFst
    | intro _ _ _ _
    | intro _ _ _
    | dsimp only
    | split
    | with_reducible refine Keeps.ofFst ?_ (by assumption)
    | fail_if_no_progress with_reducible refine Keeps.mk' ?_ (by first | exact Nat.le_refl _ | exact Nat.le_succ _ | with_unfolding_all exact Nat.le_add_right _ _) (by first | exact List.prefix_rfl)

theorem Keeps.execUMaxu {s u : State} (a0 : ℕ) (h : Keeps s u) : KeepsRes s (execUMaxu a0 u) := by
  unfold Sys2Proof.Machine.execUMaxu
  repeat' first
    | with_reducible apply Keeps.issue
    | with_reducible apply UOut.ok_go
    | with_reducible apply UOut.ok_jump
    | with_reducible apply UOut.ok_fault
    | with_reducible apply UOut.ok_drop
    | with_reducible apply UOut.ok_accept
    | with_reducible apply UOut.ok_enqueue
    | with_reducible apply UOut.ok_alu2
    | with_reducible apply UOut.ok_alu
    | with_reducible apply Keeps.submitSeq
    | with_reducible assumption
    | fail_if_no_progress with_reducible apply Keeps.mk0
    | with_reducible apply KeepsRes.next
    | exact KeepsRes.fault _
    | with_reducible apply Keeps.issue
    | with_reducible apply Keeps.ite
    | with_reducible apply KeepsRes.ite
    | with_reducible apply Keeps.foldl
    | with_reducible apply Keeps.foldlFst
    | intro _ _ _ _
    | intro _ _ _
    | dsimp only
    | split
    | with_reducible refine Keeps.ofFst ?_ (by assumption)
    | fail_if_no_progress with_reducible refine Keeps.mk' ?_ (by first | exact Nat.le_refl _ | exact Nat.le_succ _ | with_unfolding_all exact Nat.le_add_right _ _) (by first | exact List.prefix_rfl)

theorem Keeps.execUAddi {s u : State} (a0 : ℕ) (h : Keeps s u) : KeepsRes s (execUAddi a0 u) := by
  unfold Sys2Proof.Machine.execUAddi
  repeat' first
    | with_reducible apply Keeps.issue
    | with_reducible apply UOut.ok_go
    | with_reducible apply UOut.ok_jump
    | with_reducible apply UOut.ok_fault
    | with_reducible apply UOut.ok_drop
    | with_reducible apply UOut.ok_accept
    | with_reducible apply UOut.ok_enqueue
    | with_reducible apply UOut.ok_alu2
    | with_reducible apply UOut.ok_alu
    | with_reducible apply Keeps.submitSeq
    | with_reducible assumption
    | fail_if_no_progress with_reducible apply Keeps.mk0
    | with_reducible apply KeepsRes.next
    | exact KeepsRes.fault _
    | with_reducible apply Keeps.issue
    | with_reducible apply Keeps.ite
    | with_reducible apply KeepsRes.ite
    | with_reducible apply Keeps.foldl
    | with_reducible apply Keeps.foldlFst
    | intro _ _ _ _
    | intro _ _ _
    | dsimp only
    | split
    | with_reducible refine Keeps.ofFst ?_ (by assumption)
    | fail_if_no_progress with_reducible refine Keeps.mk' ?_ (by first | exact Nat.le_refl _ | exact Nat.le_succ _ | with_unfolding_all exact Nat.le_add_right _ _) (by first | exact List.prefix_rfl)

theorem Keeps.execUAndi {s u : State} (a0 : ℕ) (h : Keeps s u) : KeepsRes s (execUAndi a0 u) := by
  unfold Sys2Proof.Machine.execUAndi
  repeat' first
    | with_reducible apply Keeps.issue
    | with_reducible apply UOut.ok_go
    | with_reducible apply UOut.ok_jump
    | with_reducible apply UOut.ok_fault
    | with_reducible apply UOut.ok_drop
    | with_reducible apply UOut.ok_accept
    | with_reducible apply UOut.ok_enqueue
    | with_reducible apply UOut.ok_alu2
    | with_reducible apply UOut.ok_alu
    | with_reducible apply Keeps.submitSeq
    | with_reducible assumption
    | fail_if_no_progress with_reducible apply Keeps.mk0
    | with_reducible apply KeepsRes.next
    | exact KeepsRes.fault _
    | with_reducible apply Keeps.issue
    | with_reducible apply Keeps.ite
    | with_reducible apply KeepsRes.ite
    | with_reducible apply Keeps.foldl
    | with_reducible apply Keeps.foldlFst
    | intro _ _ _ _
    | intro _ _ _
    | dsimp only
    | split
    | with_reducible refine Keeps.ofFst ?_ (by assumption)
    | fail_if_no_progress with_reducible refine Keeps.mk' ?_ (by first | exact Nat.le_refl _ | exact Nat.le_succ _ | with_unfolding_all exact Nat.le_add_right _ _) (by first | exact List.prefix_rfl)

theorem Keeps.execUOri {s u : State} (a0 : ℕ) (h : Keeps s u) : KeepsRes s (execUOri a0 u) := by
  unfold Sys2Proof.Machine.execUOri
  repeat' first
    | with_reducible apply Keeps.issue
    | with_reducible apply UOut.ok_go
    | with_reducible apply UOut.ok_jump
    | with_reducible apply UOut.ok_fault
    | with_reducible apply UOut.ok_drop
    | with_reducible apply UOut.ok_accept
    | with_reducible apply UOut.ok_enqueue
    | with_reducible apply UOut.ok_alu2
    | with_reducible apply UOut.ok_alu
    | with_reducible apply Keeps.submitSeq
    | with_reducible assumption
    | fail_if_no_progress with_reducible apply Keeps.mk0
    | with_reducible apply KeepsRes.next
    | exact KeepsRes.fault _
    | with_reducible apply Keeps.issue
    | with_reducible apply Keeps.ite
    | with_reducible apply KeepsRes.ite
    | with_reducible apply Keeps.foldl
    | with_reducible apply Keeps.foldlFst
    | intro _ _ _ _
    | intro _ _ _
    | dsimp only
    | split
    | with_reducible refine Keeps.ofFst ?_ (by assumption)
    | fail_if_no_progress with_reducible refine Keeps.mk' ?_ (by first | exact Nat.le_refl _ | exact Nat.le_succ _ | with_unfolding_all exact Nat.le_add_right _ _) (by first | exact List.prefix_rfl)

theorem Keeps.execUXori {s u : State} (a0 : ℕ) (h : Keeps s u) : KeepsRes s (execUXori a0 u) := by
  unfold Sys2Proof.Machine.execUXori
  repeat' first
    | with_reducible apply Keeps.issue
    | with_reducible apply UOut.ok_go
    | with_reducible apply UOut.ok_jump
    | with_reducible apply UOut.ok_fault
    | with_reducible apply UOut.ok_drop
    | with_reducible apply UOut.ok_accept
    | with_reducible apply UOut.ok_enqueue
    | with_reducible apply UOut.ok_alu2
    | with_reducible apply UOut.ok_alu
    | with_reducible apply Keeps.submitSeq
    | with_reducible assumption
    | fail_if_no_progress with_reducible apply Keeps.mk0
    | with_reducible apply KeepsRes.next
    | exact KeepsRes.fault _
    | with_reducible apply Keeps.issue
    | with_reducible apply Keeps.ite
    | with_reducible apply KeepsRes.ite
    | with_reducible apply Keeps.foldl
    | with_reducible apply Keeps.foldlFst
    | intro _ _ _ _
    | intro _ _ _
    | dsimp only
    | split
    | with_reducible refine Keeps.ofFst ?_ (by assumption)
    | fail_if_no_progress with_reducible refine Keeps.mk' ?_ (by first | exact Nat.le_refl _ | exact Nat.le_succ _ | with_unfolding_all exact Nat.le_add_right _ _) (by first | exact List.prefix_rfl)

theorem Keeps.execUShli {s u : State} (a0 : ℕ) (h : Keeps s u) : KeepsRes s (execUShli a0 u) := by
  unfold Sys2Proof.Machine.execUShli
  repeat' first
    | with_reducible apply Keeps.issue
    | with_reducible apply UOut.ok_go
    | with_reducible apply UOut.ok_jump
    | with_reducible apply UOut.ok_fault
    | with_reducible apply UOut.ok_drop
    | with_reducible apply UOut.ok_accept
    | with_reducible apply UOut.ok_enqueue
    | with_reducible apply UOut.ok_alu2
    | with_reducible apply UOut.ok_alu
    | with_reducible apply Keeps.submitSeq
    | with_reducible assumption
    | fail_if_no_progress with_reducible apply Keeps.mk0
    | with_reducible apply KeepsRes.next
    | exact KeepsRes.fault _
    | with_reducible apply Keeps.issue
    | with_reducible apply Keeps.ite
    | with_reducible apply KeepsRes.ite
    | with_reducible apply Keeps.foldl
    | with_reducible apply Keeps.foldlFst
    | intro _ _ _ _
    | intro _ _ _
    | dsimp only
    | split
    | with_reducible refine Keeps.ofFst ?_ (by assumption)
    | fail_if_no_progress with_reducible refine Keeps.mk' ?_ (by first | exact Nat.le_refl _ | exact Nat.le_succ _ | with_unfolding_all exact Nat.le_add_right _ _) (by first | exact List.prefix_rfl)

theorem Keeps.execUShri {s u : State} (a0 : ℕ) (h : Keeps s u) : KeepsRes s (execUShri a0 u) := by
  unfold Sys2Proof.Machine.execUShri
  repeat' first
    | with_reducible apply Keeps.issue
    | with_reducible apply UOut.ok_go
    | with_reducible apply UOut.ok_jump
    | with_reducible apply UOut.ok_fault
    | with_reducible apply UOut.ok_drop
    | with_reducible apply UOut.ok_accept
    | with_reducible apply UOut.ok_enqueue
    | with_reducible apply UOut.ok_alu2
    | with_reducible apply UOut.ok_alu
    | with_reducible apply Keeps.submitSeq
    | with_reducible assumption
    | fail_if_no_progress with_reducible apply Keeps.mk0
    | with_reducible apply KeepsRes.next
    | exact KeepsRes.fault _
    | with_reducible apply Keeps.issue
    | with_reducible apply Keeps.ite
    | with_reducible apply KeepsRes.ite
    | with_reducible apply Keeps.foldl
    | with_reducible apply Keeps.foldlFst
    | intro _ _ _ _
    | intro _ _ _
    | dsimp only
    | split
    | with_reducible refine Keeps.ofFst ?_ (by assumption)
    | fail_if_no_progress with_reducible refine Keeps.mk' ?_ (by first | exact Nat.le_refl _ | exact Nat.le_succ _ | with_unfolding_all exact Nat.le_add_right _ _) (by first | exact List.prefix_rfl)

theorem Keeps.execUSari {s u : State} (a0 : ℕ) (h : Keeps s u) : KeepsRes s (execUSari a0 u) := by
  unfold Sys2Proof.Machine.execUSari
  repeat' first
    | with_reducible apply Keeps.issue
    | with_reducible apply UOut.ok_go
    | with_reducible apply UOut.ok_jump
    | with_reducible apply UOut.ok_fault
    | with_reducible apply UOut.ok_drop
    | with_reducible apply UOut.ok_accept
    | with_reducible apply UOut.ok_enqueue
    | with_reducible apply UOut.ok_alu2
    | with_reducible apply UOut.ok_alu
    | with_reducible apply Keeps.submitSeq
    | with_reducible assumption
    | fail_if_no_progress with_reducible apply Keeps.mk0
    | with_reducible apply KeepsRes.next
    | exact KeepsRes.fault _
    | with_reducible apply Keeps.issue
    | with_reducible apply Keeps.ite
    | with_reducible apply KeepsRes.ite
    | with_reducible apply Keeps.foldl
    | with_reducible apply Keeps.foldlFst
    | intro _ _ _ _
    | intro _ _ _
    | dsimp only
    | split
    | with_reducible refine Keeps.ofFst ?_ (by assumption)
    | fail_if_no_progress with_reducible refine Keeps.mk' ?_ (by first | exact Nat.le_refl _ | exact Nat.le_succ _ | with_unfolding_all exact Nat.le_add_right _ _) (by first | exact List.prefix_rfl)

theorem Keeps.execUMuli {s u : State} (a0 : ℕ) (h : Keeps s u) : KeepsRes s (execUMuli a0 u) := by
  unfold Sys2Proof.Machine.execUMuli
  repeat' first
    | with_reducible apply Keeps.issue
    | with_reducible apply UOut.ok_go
    | with_reducible apply UOut.ok_jump
    | with_reducible apply UOut.ok_fault
    | with_reducible apply UOut.ok_drop
    | with_reducible apply UOut.ok_accept
    | with_reducible apply UOut.ok_enqueue
    | with_reducible apply UOut.ok_alu2
    | with_reducible apply UOut.ok_alu
    | with_reducible apply Keeps.submitSeq
    | with_reducible assumption
    | fail_if_no_progress with_reducible apply Keeps.mk0
    | with_reducible apply KeepsRes.next
    | exact KeepsRes.fault _
    | with_reducible apply Keeps.issue
    | with_reducible apply Keeps.ite
    | with_reducible apply KeepsRes.ite
    | with_reducible apply Keeps.foldl
    | with_reducible apply Keeps.foldlFst
    | intro _ _ _ _
    | intro _ _ _
    | dsimp only
    | split
    | with_reducible refine Keeps.ofFst ?_ (by assumption)
    | fail_if_no_progress with_reducible refine Keeps.mk' ?_ (by first | exact Nat.le_refl _ | exact Nat.le_succ _ | with_unfolding_all exact Nat.le_add_right _ _) (by first | exact List.prefix_rfl)

theorem Keeps.execULi {s u : State} (a0 : ℕ) (h : Keeps s u) : KeepsRes s (execULi a0 u) := by
  unfold Sys2Proof.Machine.execULi
  repeat' first
    | with_reducible apply Keeps.issue
    | with_reducible apply UOut.ok_go
    | with_reducible apply UOut.ok_jump
    | with_reducible apply UOut.ok_fault
    | with_reducible apply UOut.ok_drop
    | with_reducible apply UOut.ok_accept
    | with_reducible apply UOut.ok_enqueue
    | with_reducible apply UOut.ok_alu2
    | with_reducible apply UOut.ok_alu
    | with_reducible apply Keeps.submitSeq
    | with_reducible assumption
    | fail_if_no_progress with_reducible apply Keeps.mk0
    | with_reducible apply KeepsRes.next
    | exact KeepsRes.fault _
    | with_reducible apply Keeps.issue
    | with_reducible apply Keeps.ite
    | with_reducible apply KeepsRes.ite
    | with_reducible apply Keeps.foldl
    | with_reducible apply Keeps.foldlFst
    | intro _ _ _ _
    | intro _ _ _
    | dsimp only
    | split
    | with_reducible refine Keeps.ofFst ?_ (by assumption)
    | fail_if_no_progress with_reducible refine Keeps.mk' ?_ (by first | exact Nat.le_refl _ | exact Nat.le_succ _ | with_unfolding_all exact Nat.le_add_right _ _) (by first | exact List.prefix_rfl)

theorem Keeps.execULih {s u : State} (a0 : ℕ) (h : Keeps s u) : KeepsRes s (execULih a0 u) := by
  unfold Sys2Proof.Machine.execULih
  repeat' first
    | with_reducible apply Keeps.issue
    | with_reducible apply UOut.ok_go
    | with_reducible apply UOut.ok_jump
    | with_reducible apply UOut.ok_fault
    | with_reducible apply UOut.ok_drop
    | with_reducible apply UOut.ok_accept
    | with_reducible apply UOut.ok_enqueue
    | with_reducible apply UOut.ok_alu2
    | with_reducible apply UOut.ok_alu
    | with_reducible apply Keeps.submitSeq
    | with_reducible assumption
    | fail_if_no_progress with_reducible apply Keeps.mk0
    | with_reducible apply KeepsRes.next
    | exact KeepsRes.fault _
    | with_reducible apply Keeps.issue
    | with_reducible apply Keeps.ite
    | with_reducible apply KeepsRes.ite
    | with_reducible apply Keeps.foldl
    | with_reducible apply Keeps.foldlFst
    | intro _ _ _ _
    | intro _ _ _
    | dsimp only
    | split
    | with_reducible refine Keeps.ofFst ?_ (by assumption)
    | fail_if_no_progress with_reducible refine Keeps.mk' ?_ (by first | exact Nat.le_refl _ | exact Nat.le_succ _ | with_unfolding_all exact Nat.le_add_right _ _) (by first | exact List.prefix_rfl)

theorem Keeps.execUCmp {s u : State} (a0 : ℕ) (h : Keeps s u) : KeepsRes s (execUCmp a0 u) := by
  unfold Sys2Proof.Machine.execUCmp
  repeat' first
    | with_reducible apply Keeps.issue
    | with_reducible apply UOut.ok_go
    | with_reducible apply UOut.ok_jump
    | with_reducible apply UOut.ok_fault
    | with_reducible apply UOut.ok_drop
    | with_reducible apply UOut.ok_accept
    | with_reducible apply UOut.ok_enqueue
    | with_reducible apply UOut.ok_alu2
    | with_reducible apply UOut.ok_alu
    | with_reducible apply Keeps.submitSeq
    | with_reducible assumption
    | fail_if_no_progress with_reducible apply Keeps.mk0
    | with_reducible apply KeepsRes.next
    | exact KeepsRes.fault _
    | with_reducible apply Keeps.issue
    | with_reducible apply Keeps.ite
    | with_reducible apply KeepsRes.ite
    | with_reducible apply Keeps.foldl
    | with_reducible apply Keeps.foldlFst
    | intro _ _ _ _
    | intro _ _ _
    | dsimp only
    | split
    | with_reducible refine Keeps.ofFst ?_ (by assumption)
    | fail_if_no_progress with_reducible refine Keeps.mk' ?_ (by first | exact Nat.le_refl _ | exact Nat.le_succ _ | with_unfolding_all exact Nat.le_add_right _ _) (by first | exact List.prefix_rfl)

theorem Keeps.execUCmpi {s u : State} (a0 : ℕ) (h : Keeps s u) : KeepsRes s (execUCmpi a0 u) := by
  unfold Sys2Proof.Machine.execUCmpi
  repeat' first
    | with_reducible apply Keeps.issue
    | with_reducible apply UOut.ok_go
    | with_reducible apply UOut.ok_jump
    | with_reducible apply UOut.ok_fault
    | with_reducible apply UOut.ok_drop
    | with_reducible apply UOut.ok_accept
    | with_reducible apply UOut.ok_enqueue
    | with_reducible apply UOut.ok_alu2
    | with_reducible apply UOut.ok_alu
    | with_reducible apply Keeps.submitSeq
    | with_reducible assumption
    | fail_if_no_progress with_reducible apply Keeps.mk0
    | with_reducible apply KeepsRes.next
    | exact KeepsRes.fault _
    | with_reducible apply Keeps.issue
    | with_reducible apply Keeps.ite
    | with_reducible apply KeepsRes.ite
    | with_reducible apply Keeps.foldl
    | with_reducible apply Keeps.foldlFst
    | intro _ _ _ _
    | intro _ _ _
    | dsimp only
    | split
    | with_reducible refine Keeps.ofFst ?_ (by assumption)
    | fail_if_no_progress with_reducible refine Keeps.mk' ?_ (by first | exact Nat.le_refl _ | exact Nat.le_succ _ | with_unfolding_all exact Nat.le_add_right _ _) (by first | exact List.prefix_rfl)

theorem Keeps.execUSel {s u : State} (a0 : ℕ) (h : Keeps s u) : KeepsRes s (execUSel a0 u) := by
  unfold Sys2Proof.Machine.execUSel
  repeat' first
    | with_reducible apply Keeps.issue
    | with_reducible apply UOut.ok_go
    | with_reducible apply UOut.ok_jump
    | with_reducible apply UOut.ok_fault
    | with_reducible apply UOut.ok_drop
    | with_reducible apply UOut.ok_accept
    | with_reducible apply UOut.ok_enqueue
    | with_reducible apply UOut.ok_alu2
    | with_reducible apply UOut.ok_alu
    | with_reducible apply Keeps.submitSeq
    | with_reducible assumption
    | fail_if_no_progress with_reducible apply Keeps.mk0
    | with_reducible apply KeepsRes.next
    | exact KeepsRes.fault _
    | with_reducible apply Keeps.issue
    | with_reducible apply Keeps.ite
    | with_reducible apply KeepsRes.ite
    | with_reducible apply Keeps.foldl
    | with_reducible apply Keeps.foldlFst
    | intro _ _ _ _
    | intro _ _ _
    | dsimp only
    | split
    | with_reducible refine Keeps.ofFst ?_ (by assumption)
    | fail_if_no_progress with_reducible refine Keeps.mk' ?_ (by first | exact Nat.le_refl _ | exact Nat.le_succ _ | with_unfolding_all exact Nat.le_add_right _ _) (by first | exact List.prefix_rfl)

theorem Keeps.execUBfx {s u : State} (a0 : ℕ) (h : Keeps s u) : KeepsRes s (execUBfx a0 u) := by
  unfold Sys2Proof.Machine.execUBfx
  repeat' first
    | with_reducible apply Keeps.issue
    | with_reducible apply UOut.ok_go
    | with_reducible apply UOut.ok_jump
    | with_reducible apply UOut.ok_fault
    | with_reducible apply UOut.ok_drop
    | with_reducible apply UOut.ok_accept
    | with_reducible apply UOut.ok_enqueue
    | with_reducible apply UOut.ok_alu2
    | with_reducible apply UOut.ok_alu
    | with_reducible apply Keeps.submitSeq
    | with_reducible assumption
    | fail_if_no_progress with_reducible apply Keeps.mk0
    | with_reducible apply KeepsRes.next
    | exact KeepsRes.fault _
    | with_reducible apply Keeps.issue
    | with_reducible apply Keeps.ite
    | with_reducible apply KeepsRes.ite
    | with_reducible apply Keeps.foldl
    | with_reducible apply Keeps.foldlFst
    | intro _ _ _ _
    | intro _ _ _
    | dsimp only
    | split
    | with_reducible refine Keeps.ofFst ?_ (by assumption)
    | fail_if_no_progress with_reducible refine Keeps.mk' ?_ (by first | exact Nat.le_refl _ | exact Nat.le_succ _ | with_unfolding_all exact Nat.le_add_right _ _) (by first | exact List.prefix_rfl)

theorem Keeps.execUXb {s u : State} (a0 : ℕ) (h : Keeps s u) : KeepsRes s (execUXb a0 u) := by
  unfold Sys2Proof.Machine.execUXb
  repeat' first
    | with_reducible apply Keeps.issue
    | with_reducible apply UOut.ok_go
    | with_reducible apply UOut.ok_jump
    | with_reducible apply UOut.ok_fault
    | with_reducible apply UOut.ok_drop
    | with_reducible apply UOut.ok_accept
    | with_reducible apply UOut.ok_enqueue
    | with_reducible apply UOut.ok_alu2
    | with_reducible apply UOut.ok_alu
    | with_reducible apply Keeps.submitSeq
    | with_reducible assumption
    | fail_if_no_progress with_reducible apply Keeps.mk0
    | with_reducible apply KeepsRes.next
    | exact KeepsRes.fault _
    | with_reducible apply Keeps.issue
    | with_reducible apply Keeps.ite
    | with_reducible apply KeepsRes.ite
    | with_reducible apply Keeps.foldl
    | with_reducible apply Keeps.foldlFst
    | intro _ _ _ _
    | intro _ _ _
    | dsimp only
    | split
    | with_reducible refine Keeps.ofFst ?_ (by assumption)
    | fail_if_no_progress with_reducible refine Keeps.mk' ?_ (by first | exact Nat.le_refl _ | exact Nat.le_succ _ | with_unfolding_all exact Nat.le_add_right _ _) (by first | exact List.prefix_rfl)

theorem Keeps.execUXbit {s u : State} (a0 : ℕ) (h : Keeps s u) : KeepsRes s (execUXbit a0 u) := by
  unfold Sys2Proof.Machine.execUXbit
  repeat' first
    | with_reducible apply Keeps.issue
    | with_reducible apply UOut.ok_go
    | with_reducible apply UOut.ok_jump
    | with_reducible apply UOut.ok_fault
    | with_reducible apply UOut.ok_drop
    | with_reducible apply UOut.ok_accept
    | with_reducible apply UOut.ok_enqueue
    | with_reducible apply UOut.ok_alu2
    | with_reducible apply UOut.ok_alu
    | with_reducible apply Keeps.submitSeq
    | with_reducible assumption
    | fail_if_no_progress with_reducible apply Keeps.mk0
    | with_reducible apply KeepsRes.next
    | exact KeepsRes.fault _
    | with_reducible apply Keeps.issue
    | with_reducible apply Keeps.ite
    | with_reducible apply KeepsRes.ite
    | with_reducible apply Keeps.foldl
    | with_reducible apply Keeps.foldlFst
    | intro _ _ _ _
    | intro _ _ _
    | dsimp only
    | split
    | with_reducible refine Keeps.ofFst ?_ (by assumption)
    | fail_if_no_progress with_reducible refine Keeps.mk' ?_ (by first | exact Nat.le_refl _ | exact Nat.le_succ _ | with_unfolding_all exact Nat.le_add_right _ _) (by first | exact List.prefix_rfl)

theorem Keeps.execUHcrc {s u : State} (a0 : ℕ) (h : Keeps s u) : KeepsRes s (execUHcrc a0 u) := by
  unfold Sys2Proof.Machine.execUHcrc
  repeat' first
    | with_reducible apply Keeps.issue
    | with_reducible apply UOut.ok_go
    | with_reducible apply UOut.ok_jump
    | with_reducible apply UOut.ok_fault
    | with_reducible apply UOut.ok_drop
    | with_reducible apply UOut.ok_accept
    | with_reducible apply UOut.ok_enqueue
    | with_reducible apply UOut.ok_alu2
    | with_reducible apply UOut.ok_alu
    | with_reducible apply Keeps.submitSeq
    | with_reducible assumption
    | fail_if_no_progress with_reducible apply Keeps.mk0
    | with_reducible apply KeepsRes.next
    | exact KeepsRes.fault _
    | with_reducible apply Keeps.issue
    | with_reducible apply Keeps.ite
    | with_reducible apply KeepsRes.ite
    | with_reducible apply Keeps.foldl
    | with_reducible apply Keeps.foldlFst
    | intro _ _ _ _
    | intro _ _ _
    | dsimp only
    | split
    | with_reducible refine Keeps.ofFst ?_ (by assumption)
    | fail_if_no_progress with_reducible refine Keeps.mk' ?_ (by first | exact Nat.le_refl _ | exact Nat.le_succ _ | with_unfolding_all exact Nat.le_add_right _ _) (by first | exact List.prefix_rfl)

theorem Keeps.execUCld {s u : State} (a0 : ℕ) (h : Keeps s u) : KeepsRes s (execUCld a0 u) := by
  unfold Sys2Proof.Machine.execUCld
  repeat' first
    | with_reducible apply Keeps.issue
    | with_reducible apply UOut.ok_go
    | with_reducible apply UOut.ok_jump
    | with_reducible apply UOut.ok_fault
    | with_reducible apply UOut.ok_drop
    | with_reducible apply UOut.ok_accept
    | with_reducible apply UOut.ok_enqueue
    | with_reducible apply UOut.ok_alu2
    | with_reducible apply UOut.ok_alu
    | with_reducible apply Keeps.submitSeq
    | with_reducible assumption
    | fail_if_no_progress with_reducible apply Keeps.mk0
    | with_reducible apply KeepsRes.next
    | exact KeepsRes.fault _
    | with_reducible apply Keeps.issue
    | with_reducible apply Keeps.ite
    | with_reducible apply KeepsRes.ite
    | with_reducible apply Keeps.foldl
    | with_reducible apply Keeps.foldlFst
    | intro _ _ _ _
    | intro _ _ _
    | dsimp only
    | split
    | with_reducible refine Keeps.ofFst ?_ (by assumption)
    | fail_if_no_progress with_reducible refine Keeps.mk' ?_ (by first | exact Nat.le_refl _ | exact Nat.le_succ _ | with_unfolding_all exact Nat.le_add_right _ _) (by first | exact List.prefix_rfl)

theorem Keeps.execUCst {s u : State} (a0 : ℕ) (h : Keeps s u) : KeepsRes s (execUCst a0 u) := by
  unfold Sys2Proof.Machine.execUCst
  repeat' first
    | with_reducible apply Keeps.issue
    | with_reducible apply UOut.ok_go
    | with_reducible apply UOut.ok_jump
    | with_reducible apply UOut.ok_fault
    | with_reducible apply UOut.ok_drop
    | with_reducible apply UOut.ok_accept
    | with_reducible apply UOut.ok_enqueue
    | with_reducible apply UOut.ok_alu2
    | with_reducible apply UOut.ok_alu
    | with_reducible apply Keeps.submitSeq
    | with_reducible assumption
    | fail_if_no_progress with_reducible apply Keeps.mk0
    | with_reducible apply KeepsRes.next
    | exact KeepsRes.fault _
    | with_reducible apply Keeps.issue
    | with_reducible apply Keeps.setReg
    | with_reducible apply Keeps.ite
    | with_reducible apply KeepsRes.ite
    | with_reducible apply Keeps.foldl
    | with_reducible apply Keeps.foldlFst
    | intro _ _ _ _
    | intro _ _ _
    | dsimp only
    | split
    | with_reducible refine Keeps.ofFst ?_ (by assumption)
    | fail_if_no_progress with_reducible refine Keeps.mk' ?_ (by first | exact Nat.le_refl _ | exact Nat.le_succ _ | with_unfolding_all exact Nat.le_add_right _ _) (by first | exact List.prefix_rfl)

theorem Keeps.execUCadd {s u : State} (a0 : ℕ) (h : Keeps s u) : KeepsRes s (execUCadd a0 u) := by
  unfold Sys2Proof.Machine.execUCadd
  repeat' first
    | with_reducible apply Keeps.issue
    | with_reducible apply UOut.ok_go
    | with_reducible apply UOut.ok_jump
    | with_reducible apply UOut.ok_fault
    | with_reducible apply UOut.ok_drop
    | with_reducible apply UOut.ok_accept
    | with_reducible apply UOut.ok_enqueue
    | with_reducible apply UOut.ok_alu2
    | with_reducible apply UOut.ok_alu
    | with_reducible apply Keeps.submitSeq
    | with_reducible assumption
    | fail_if_no_progress with_reducible apply Keeps.mk0
    | with_reducible apply KeepsRes.next
    | exact KeepsRes.fault _
    | with_reducible apply Keeps.issue
    | with_reducible apply Keeps.setReg
    | with_reducible apply Keeps.ite
    | with_reducible apply KeepsRes.ite
    | with_reducible apply Keeps.foldl
    | with_reducible apply Keeps.foldlFst
    | intro _ _ _ _
    | intro _ _ _
    | dsimp only
    | split
    | with_reducible refine Keeps.ofFst ?_ (by assumption)
    | fail_if_no_progress with_reducible refine Keeps.mk' ?_ (by first | exact Nat.le_refl _ | exact Nat.le_succ _ | with_unfolding_all exact Nat.le_add_right _ _) (by first | exact List.prefix_rfl)

theorem Keeps.execUCmax {s u : State} (a0 : ℕ) (h : Keeps s u) : KeepsRes s (execUCmax a0 u) := by
  unfold Sys2Proof.Machine.execUCmax
  repeat' first
    | with_reducible apply Keeps.issue
    | with_reducible apply UOut.ok_go
    | with_reducible apply UOut.ok_jump
    | with_reducible apply UOut.ok_fault
    | with_reducible apply UOut.ok_drop
    | with_reducible apply UOut.ok_accept
    | with_reducible apply UOut.ok_enqueue
    | with_reducible apply UOut.ok_alu2
    | with_reducible apply UOut.ok_alu
    | with_reducible apply Keeps.submitSeq
    | with_reducible assumption
    | fail_if_no_progress with_reducible apply Keeps.mk0
    | with_reducible apply KeepsRes.next
    | exact KeepsRes.fault _
    | with_reducible apply Keeps.issue
    | with_reducible apply Keeps.setReg
    | with_reducible apply Keeps.ite
    | with_reducible apply KeepsRes.ite
    | with_reducible apply Keeps.foldl
    | with_reducible apply Keeps.foldlFst
    | intro _ _ _ _
    | intro _ _ _
    | dsimp only
    | split
    | with_reducible refine Keeps.ofFst ?_ (by assumption)
    | fail_if_no_progress with_reducible refine Keeps.mk' ?_ (by first | exact Nat.le_refl _ | exact Nat.le_succ _ | with_unfolding_all exact Nat.le_add_right _ _) (by first | exact List.prefix_rfl)

theorem Keeps.execUCcas {s u : State} (a0 : ℕ) (h : Keeps s u) : KeepsRes s (execUCcas a0 u) := by
  unfold Sys2Proof.Machine.execUCcas
  repeat' first
    | with_reducible apply Keeps.issue
    | with_reducible apply UOut.ok_go
    | with_reducible apply UOut.ok_jump
    | with_reducible apply UOut.ok_fault
    | with_reducible apply UOut.ok_drop
    | with_reducible apply UOut.ok_accept
    | with_reducible apply UOut.ok_enqueue
    | with_reducible apply UOut.ok_alu2
    | with_reducible apply UOut.ok_alu
    | with_reducible apply Keeps.submitSeq
    | with_reducible assumption
    | fail_if_no_progress with_reducible apply Keeps.mk0
    | with_reducible apply KeepsRes.next
    | exact KeepsRes.fault _
    | with_reducible apply Keeps.issue
    | with_reducible apply Keeps.setReg
    | with_reducible apply Keeps.ite
    | with_reducible apply KeepsRes.ite
    | with_reducible apply Keeps.foldl
    | with_reducible apply Keeps.foldlFst
    | intro _ _ _ _
    | intro _ _ _
    | dsimp only
    | split
    | with_reducible refine Keeps.ofFst ?_ (by assumption)
    | fail_if_no_progress with_reducible refine Keeps.mk' ?_ (by first | exact Nat.le_refl _ | exact Nat.le_succ _ | with_unfolding_all exact Nat.le_add_right _ _) (by first | exact List.prefix_rfl)

theorem Keeps.submitSeq {s u : State} (a1 : ℕ) (a2 : W64) (h : Keeps s u) : Keeps s (State.submitSeq u a1 a2).1 := by
  unfold Sys2Proof.Machine.State.submitSeq
  repeat' first
    | with_reducible assumption
    | fail_if_no_progress with_reducible apply Keeps.mk0
    | with_reducible apply Keeps.setStr
    | with_reducible apply Keeps.setFld
    | with_reducible apply Keeps.count
    | with_reducible apply Keeps.ite
    | with_reducible apply Keeps.foldl
    | with_reducible apply Keeps.foldlFst
    | intro _ _ _ _
    | intro _ _ _
    | dsimp only
    | split

theorem Keeps.execUSeq {s u : State} (a0 : ℕ) (h : Keeps s u) : KeepsRes s (execUSeq a0 u) := by
  unfold Sys2Proof.Machine.execUSeq
  repeat' first
    | with_reducible apply Keeps.issue
    | with_reducible apply UOut.ok_go
    | with_reducible apply UOut.ok_jump
    | with_reducible apply UOut.ok_fault
    | with_reducible apply UOut.ok_drop
    | with_reducible apply UOut.ok_accept
    | with_reducible apply UOut.ok_enqueue
    | with_reducible apply UOut.ok_alu2
    | with_reducible apply UOut.ok_alu
    | with_reducible apply Keeps.submitSeq
    | with_reducible assumption
    | fail_if_no_progress with_reducible apply Keeps.mk0
    | with_reducible apply KeepsRes.next
    | exact KeepsRes.fault _
    | with_reducible apply Keeps.issue
    | with_reducible apply Keeps.submitSeq
    | with_reducible apply Keeps.ite
    | with_reducible apply KeepsRes.ite
    | with_reducible apply Keeps.foldl
    | with_reducible apply Keeps.foldlFst
    | intro _ _ _ _
    | intro _ _ _
    | dsimp only
    | split
    | with_reducible refine Keeps.ofFst ?_ (by assumption)
    | fail_if_no_progress with_reducible refine Keeps.mk' ?_ (by first | exact Nat.le_refl _ | exact Nat.le_succ _ | with_unfolding_all exact Nat.le_add_right _ _) (by first | exact List.prefix_rfl)

theorem Keeps.execUBr {s u : State} (a0 : ℕ) (h : Keeps s u) : KeepsRes s (execUBr a0 u) := by
  unfold Sys2Proof.Machine.execUBr
  repeat' first
    | with_reducible apply Keeps.issue
    | with_reducible apply UOut.ok_go
    | with_reducible apply UOut.ok_jump
    | with_reducible apply UOut.ok_fault
    | with_reducible apply UOut.ok_drop
    | with_reducible apply UOut.ok_accept
    | with_reducible apply UOut.ok_enqueue
    | with_reducible apply UOut.ok_alu2
    | with_reducible apply UOut.ok_alu
    | with_reducible apply Keeps.submitSeq
    | with_reducible assumption
    | fail_if_no_progress with_reducible apply Keeps.mk0
    | with_reducible apply KeepsRes.next
    | exact KeepsRes.fault _
    | with_reducible apply Keeps.issue
    | with_reducible apply Keeps.ite
    | with_reducible apply KeepsRes.ite
    | with_reducible apply Keeps.foldl
    | with_reducible apply Keeps.foldlFst
    | intro _ _ _ _
    | intro _ _ _
    | dsimp only
    | split
    | with_reducible refine Keeps.ofFst ?_ (by assumption)
    | fail_if_no_progress with_reducible refine Keeps.mk' ?_ (by first | exact Nat.le_refl _ | exact Nat.le_succ _ | with_unfolding_all exact Nat.le_add_right _ _) (by first | exact List.prefix_rfl)

theorem Keeps.execUBc {s u : State} (a0 : ℕ) (h : Keeps s u) : KeepsRes s (execUBc a0 u) := by
  unfold Sys2Proof.Machine.execUBc
  repeat' first
    | with_reducible apply Keeps.issue
    | with_reducible apply UOut.ok_go
    | with_reducible apply UOut.ok_jump
    | with_reducible apply UOut.ok_fault
    | with_reducible apply UOut.ok_drop
    | with_reducible apply UOut.ok_accept
    | with_reducible apply UOut.ok_enqueue
    | with_reducible apply UOut.ok_alu2
    | with_reducible apply UOut.ok_alu
    | with_reducible apply Keeps.submitSeq
    | with_reducible assumption
    | fail_if_no_progress with_reducible apply Keeps.mk0
    | with_reducible apply KeepsRes.next
    | exact KeepsRes.fault _
    | with_reducible apply Keeps.issue
    | with_reducible apply Keeps.ite
    | with_reducible apply KeepsRes.ite
    | with_reducible apply Keeps.foldl
    | with_reducible apply Keeps.foldlFst
    | intro _ _ _ _
    | intro _ _ _
    | dsimp only
    | split
    | with_reducible refine Keeps.ofFst ?_ (by assumption)
    | fail_if_no_progress with_reducible refine Keeps.mk' ?_ (by first | exact Nat.le_refl _ | exact Nat.le_succ _ | with_unfolding_all exact Nat.le_add_right _ _) (by first | exact List.prefix_rfl)

theorem Keeps.execUBci {s u : State} (a0 : ℕ) (h : Keeps s u) : KeepsRes s (execUBci a0 u) := by
  unfold Sys2Proof.Machine.execUBci
  repeat' first
    | with_reducible apply Keeps.issue
    | with_reducible apply UOut.ok_go
    | with_reducible apply UOut.ok_jump
    | with_reducible apply UOut.ok_fault
    | with_reducible apply UOut.ok_drop
    | with_reducible apply UOut.ok_accept
    | with_reducible apply UOut.ok_enqueue
    | with_reducible apply UOut.ok_alu2
    | with_reducible apply UOut.ok_alu
    | with_reducible apply Keeps.submitSeq
    | with_reducible assumption
    | fail_if_no_progress with_reducible apply Keeps.mk0
    | with_reducible apply KeepsRes.next
    | exact KeepsRes.fault _
    | with_reducible apply Keeps.issue
    | with_reducible apply Keeps.ite
    | with_reducible apply KeepsRes.ite
    | with_reducible apply Keeps.foldl
    | with_reducible apply Keeps.foldlFst
    | intro _ _ _ _
    | intro _ _ _
    | dsimp only
    | split
    | with_reducible refine Keeps.ofFst ?_ (by assumption)
    | fail_if_no_progress with_reducible refine Keeps.mk' ?_ (by first | exact Nat.le_refl _ | exact Nat.le_succ _ | with_unfolding_all exact Nat.le_add_right _ _) (by first | exact List.prefix_rfl)

theorem Keeps.execURepeat {s u : State} (a0 : ℕ) (h : Keeps s u) : KeepsRes s (execURepeat a0 u) := by
  unfold Sys2Proof.Machine.execURepeat
  repeat' first
    | with_reducible apply Keeps.issue
    | with_reducible apply UOut.ok_go
    | with_reducible apply UOut.ok_jump
    | with_reducible apply UOut.ok_fault
    | with_reducible apply UOut.ok_drop
    | with_reducible apply UOut.ok_accept
    | with_reducible apply UOut.ok_enqueue
    | with_reducible apply UOut.ok_alu2
    | with_reducible apply UOut.ok_alu
    | with_reducible apply Keeps.submitSeq
    | with_reducible assumption
    | fail_if_no_progress with_reducible apply Keeps.mk0
    | with_reducible apply KeepsRes.next
    | exact KeepsRes.fault _
    | with_reducible apply Keeps.issue
    | with_reducible apply Keeps.ite
    | with_reducible apply KeepsRes.ite
    | with_reducible apply Keeps.foldl
    | with_reducible apply Keeps.foldlFst
    | intro _ _ _ _
    | intro _ _ _
    | dsimp only
    | split
    | with_reducible refine Keeps.ofFst ?_ (by assumption)
    | fail_if_no_progress with_reducible refine Keeps.mk' ?_ (by first | exact Nat.le_refl _ | exact Nat.le_succ _ | with_unfolding_all exact Nat.le_add_right _ _) (by first | exact List.prefix_rfl)

theorem Keeps.execUTrigger {s u : State} (a0 : ℕ) (h : Keeps s u) : KeepsRes s (execUTrigger a0 u) := by
  unfold Sys2Proof.Machine.execUTrigger
  repeat' first
    | with_reducible apply Keeps.issue
    | with_reducible apply UOut.ok_go
    | with_reducible apply UOut.ok_jump
    | with_reducible apply UOut.ok_fault
    | with_reducible apply UOut.ok_drop
    | with_reducible apply UOut.ok_accept
    | with_reducible apply UOut.ok_enqueue
    | with_reducible apply UOut.ok_alu2
    | with_reducible apply UOut.ok_alu
    | with_reducible apply Keeps.submitSeq
    | with_reducible assumption
    | fail_if_no_progress with_reducible apply Keeps.mk0
    | with_reducible apply KeepsRes.next
    | exact KeepsRes.fault _
    | with_reducible apply Keeps.issue
    | with_reducible apply Keeps.ite
    | with_reducible apply KeepsRes.ite
    | with_reducible apply Keeps.foldl
    | with_reducible apply Keeps.foldlFst
    | intro _ _ _ _
    | intro _ _ _
    | dsimp only
    | split
    | with_reducible refine Keeps.ofFst ?_ (by assumption)
    | fail_if_no_progress with_reducible refine Keeps.mk' ?_ (by first | exact Nat.le_refl _ | exact Nat.le_succ _ | with_unfolding_all exact Nat.le_add_right _ _) (by first | exact List.prefix_rfl)

theorem Keeps.execUCount {s u : State} (a0 : ℕ) (h : Keeps s u) : KeepsRes s (execUCount a0 u) := by
  unfold Sys2Proof.Machine.execUCount
  repeat' first
    | with_reducible apply Keeps.issue
    | with_reducible apply UOut.ok_go
    | with_reducible apply UOut.ok_jump
    | with_reducible apply UOut.ok_fault
    | with_reducible apply UOut.ok_drop
    | with_reducible apply UOut.ok_accept
    | with_reducible apply UOut.ok_enqueue
    | with_reducible apply UOut.ok_alu2
    | with_reducible apply UOut.ok_alu
    | with_reducible apply Keeps.submitSeq
    | with_reducible assumption
    | fail_if_no_progress with_reducible apply Keeps.mk0
    | with_reducible apply KeepsRes.next
    | exact KeepsRes.fault _
    | with_reducible apply Keeps.issue
    | with_reducible apply Keeps.ite
    | with_reducible apply KeepsRes.ite
    | with_reducible apply Keeps.foldl
    | with_reducible apply Keeps.foldlFst
    | intro _ _ _ _
    | intro _ _ _
    | dsimp only
    | split
    | with_reducible refine Keeps.ofFst ?_ (by assumption)
    | fail_if_no_progress with_reducible refine Keeps.mk' ?_ (by first | exact Nat.le_refl _ | exact Nat.le_succ _ | with_unfolding_all exact Nat.le_add_right _ _) (by first | exact List.prefix_rfl)

theorem Keeps.execUStamp {s u : State} (a0 : ℕ) (h : Keeps s u) : KeepsRes s (execUStamp a0 u) := by
  unfold Sys2Proof.Machine.execUStamp
  repeat' first
    | with_reducible apply Keeps.issue
    | with_reducible apply UOut.ok_go
    | with_reducible apply UOut.ok_jump
    | with_reducible apply UOut.ok_fault
    | with_reducible apply UOut.ok_drop
    | with_reducible apply UOut.ok_accept
    | with_reducible apply UOut.ok_enqueue
    | with_reducible apply UOut.ok_alu2
    | with_reducible apply UOut.ok_alu
    | with_reducible apply Keeps.submitSeq
    | with_reducible assumption
    | fail_if_no_progress with_reducible apply Keeps.mk0
    | with_reducible apply KeepsRes.next
    | exact KeepsRes.fault _
    | with_reducible apply Keeps.issue
    | with_reducible apply Keeps.ite
    | with_reducible apply KeepsRes.ite
    | with_reducible apply Keeps.foldl
    | with_reducible apply Keeps.foldlFst
    | intro _ _ _ _
    | intro _ _ _
    | dsimp only
    | split
    | with_reducible refine Keeps.ofFst ?_ (by assumption)
    | fail_if_no_progress with_reducible refine Keeps.mk' ?_ (by first | exact Nat.le_refl _ | exact Nat.le_succ _ | with_unfolding_all exact Nat.le_add_right _ _) (by first | exact List.prefix_rfl)

theorem Keeps.execUEvent {s u : State} (a0 : ℕ) (h : Keeps s u) : KeepsRes s (execUEvent a0 u) := by
  unfold Sys2Proof.Machine.execUEvent
  repeat' first
    | with_reducible apply Keeps.issue
    | with_reducible apply UOut.ok_go
    | with_reducible apply UOut.ok_jump
    | with_reducible apply UOut.ok_fault
    | with_reducible apply UOut.ok_drop
    | with_reducible apply UOut.ok_accept
    | with_reducible apply UOut.ok_enqueue
    | with_reducible apply UOut.ok_alu2
    | with_reducible apply UOut.ok_alu
    | with_reducible apply Keeps.submitSeq
    | with_reducible assumption
    | fail_if_no_progress with_reducible apply Keeps.mk0
    | with_reducible apply KeepsRes.next
    | exact KeepsRes.fault _
    | with_reducible apply Keeps.issue
    | with_reducible apply Keeps.ite
    | with_reducible apply KeepsRes.ite
    | with_reducible apply Keeps.foldl
    | with_reducible apply Keeps.foldlFst
    | intro _ _ _ _
    | intro _ _ _
    | dsimp only
    | split
    | with_reducible refine Keeps.ofFst ?_ (by assumption)
    | fail_if_no_progress with_reducible refine Keeps.mk' ?_ (by first | exact Nat.le_refl _ | exact Nat.le_succ _ | with_unfolding_all exact Nat.le_add_right _ _) (by first | exact List.prefix_rfl)

theorem Keeps.execUPlace {s u : State} (a0 : ℕ) (h : Keeps s u) : KeepsRes s (execUPlace a0 u) := by
  unfold Sys2Proof.Machine.execUPlace
  repeat' first
    | with_reducible apply Keeps.issue
    | with_reducible apply UOut.ok_go
    | with_reducible apply UOut.ok_jump
    | with_reducible apply UOut.ok_fault
    | with_reducible apply UOut.ok_drop
    | with_reducible apply UOut.ok_accept
    | with_reducible apply UOut.ok_enqueue
    | with_reducible apply UOut.ok_alu2
    | with_reducible apply UOut.ok_alu
    | with_reducible apply Keeps.submitSeq
    | with_reducible assumption
    | fail_if_no_progress with_reducible apply Keeps.mk0
    | with_reducible apply KeepsRes.next
    | exact KeepsRes.fault _
    | with_reducible apply Keeps.issue
    | with_reducible apply Keeps.count
    | with_reducible apply Keeps.freeRecv
    | with_reducible apply Keeps.takeHold
    | with_reducible apply Keeps.acceptProv
    | with_reducible apply Keeps.setStr
    | with_reducible apply Keeps.ite
    | with_reducible apply KeepsRes.ite
    | with_reducible apply Keeps.foldl
    | with_reducible apply Keeps.foldlFst
    | intro _ _ _ _
    | intro _ _ _
    | dsimp only
    | split
    | with_reducible refine Keeps.ofFst ?_ (by assumption)
    | fail_if_no_progress with_reducible refine Keeps.mk' ?_ (by first | exact Nat.le_refl _ | exact Nat.le_succ _ | with_unfolding_all exact Nat.le_add_right _ _) (by first | exact List.prefix_rfl)

theorem Keeps.execUDrop {s u : State} (a0 : ℕ) (h : Keeps s u) : KeepsRes s (execUDrop a0 u) := by
  unfold Sys2Proof.Machine.execUDrop
  repeat' first
    | with_reducible apply Keeps.issue
    | with_reducible apply UOut.ok_go
    | with_reducible apply UOut.ok_jump
    | with_reducible apply UOut.ok_fault
    | with_reducible apply UOut.ok_drop
    | with_reducible apply UOut.ok_accept
    | with_reducible apply UOut.ok_enqueue
    | with_reducible apply UOut.ok_alu2
    | with_reducible apply UOut.ok_alu
    | with_reducible apply Keeps.submitSeq
    | with_reducible assumption
    | fail_if_no_progress with_reducible apply Keeps.mk0
    | with_reducible apply KeepsRes.next
    | exact KeepsRes.fault _
    | with_reducible apply Keeps.issue
    | with_reducible apply Keeps.count
    | with_reducible apply Keeps.setStr
    | with_reducible apply Keeps.ite
    | with_reducible apply KeepsRes.ite
    | with_reducible apply Keeps.foldl
    | with_reducible apply Keeps.foldlFst
    | intro _ _ _ _
    | intro _ _ _
    | dsimp only
    | split
    | with_reducible refine Keeps.ofFst ?_ (by assumption)
    | fail_if_no_progress with_reducible refine Keeps.mk' ?_ (by first | exact Nat.le_refl _ | exact Nat.le_succ _ | with_unfolding_all exact Nat.le_add_right _ _) (by first | exact List.prefix_rfl)

theorem Keeps.execUDivert {s u : State} (a0 : ℕ) (h : Keeps s u) : KeepsRes s (execUDivert a0 u) := by
  unfold Sys2Proof.Machine.execUDivert
  repeat' first
    | with_reducible apply Keeps.issue
    | with_reducible apply UOut.ok_go
    | with_reducible apply UOut.ok_jump
    | with_reducible apply UOut.ok_fault
    | with_reducible apply UOut.ok_drop
    | with_reducible apply UOut.ok_accept
    | with_reducible apply UOut.ok_enqueue
    | with_reducible apply UOut.ok_alu2
    | with_reducible apply UOut.ok_alu
    | with_reducible apply Keeps.submitSeq
    | with_reducible assumption
    | fail_if_no_progress with_reducible apply Keeps.mk0
    | with_reducible apply KeepsRes.next
    | exact KeepsRes.fault _
    | with_reducible apply Keeps.issue
    | with_reducible apply Keeps.count
    | with_reducible apply Keeps.setStr
    | with_reducible apply Keeps.ite
    | with_reducible apply KeepsRes.ite
    | with_reducible apply Keeps.foldl
    | with_reducible apply Keeps.foldlFst
    | intro _ _ _ _
    | intro _ _ _
    | dsimp only
    | split
    | with_reducible refine Keeps.ofFst ?_ (by assumption)
    | fail_if_no_progress with_reducible refine Keeps.mk' ?_ (by first | exact Nat.le_refl _ | exact Nat.le_succ _ | with_unfolding_all exact Nat.le_add_right _ _) (by first | exact List.prefix_rfl)

theorem Keeps.trigger {s u : State} (a1 : ℕ) (a2 : Bool) (a3 : ℕ) (a4 : ℕ) (h : Keeps s u) : Keeps s (State.trigger u a1 a2 a3 a4) := by
  unfold Sys2Proof.Machine.State.trigger
  repeat' first
    | with_reducible assumption
    | fail_if_no_progress with_reducible apply Keeps.mk0
    | with_reducible apply Keeps.decideSpan
    | with_reducible apply Keeps.count
    | with_reducible apply Keeps.ite

theorem Keeps.commitAll {s u : State} (a1 : List ℕ) (a2 : ℕ) (a3 : ℕ) (h : Keeps s u) : Keeps s (State.commitAll u a1 a2 a3) := by
  unfold Sys2Proof.Machine.State.commitAll
  repeat' first
    | with_reducible assumption
    | fail_if_no_progress with_reducible apply Keeps.mk0
    | with_reducible apply Keeps.over
    | with_reducible apply Keeps.trigger
    | with_reducible apply Keeps.ite
    | with_reducible apply Keeps.foldl
    | with_reducible apply Keeps.foldlFst
    | intro _ _ _ _
    | intro _ _ _

theorem Keeps.releaseTrigger {s u : State} (a1 : ℕ) (a2 : Option ℕ) (a3 : Bool) (a4 : Bool) (h : Keeps s u) : Keeps s (State.releaseTrigger u a1 a2 a3 a4) := by
  unfold Sys2Proof.Machine.State.releaseTrigger
  repeat' first
    | with_reducible assumption
    | fail_if_no_progress with_reducible apply Keeps.mk0
    | with_reducible apply Keeps.count
    | with_reducible apply Keeps.commitAll
    | with_reducible apply Keeps.trigger
    | with_reducible apply Keeps.ite
    | with_reducible apply Keeps.foldl
    | with_reducible apply Keeps.foldlFst
    | intro _ _ _ _
    | intro _ _ _
    | dsimp only
    | split

theorem Keeps.releaseStamp {s u : State} (a1 : Thread) (h : Keeps s u) : Keeps s (State.releaseStamp u a1) := by
  unfold Sys2Proof.Machine.State.releaseStamp
  repeat' first
    | with_reducible assumption
    | fail_if_no_progress with_reducible apply Keeps.mk0
    | with_reducible apply Keeps.over
    | with_reducible apply Keeps.setExt
    | with_reducible apply Keeps.setStr
    | with_reducible apply Keeps.ite
    | with_reducible apply Keeps.foldl
    | with_reducible apply Keeps.foldlFst
    | intro _ _ _ _
    | intro _ _ _
    | dsimp only
    | split

theorem Keeps.releaseEntry {s u : State} (a1 : Thread) (a2 : SideEff) (h : Keeps s u) : Keeps s (State.releaseEntry u a1 a2) := by
  unfold Sys2Proof.Machine.State.releaseEntry
  repeat' first
    | with_reducible assumption
    | fail_if_no_progress with_reducible apply Keeps.mk0
    | with_reducible apply Keeps.releaseTrigger
    | with_reducible apply Keeps.setReg
    | with_reducible apply Keeps.releaseStamp
    | with_reducible apply Keeps.raise
    | with_reducible apply Keeps.ite
    | with_reducible apply Keeps.foldl
    | with_reducible apply Keeps.foldlFst
    | intro _ _ _ _
    | intro _ _ _
    | dsimp only
    | split

theorem Keeps.execSideEffectRelease {s u : State} (a0 : ℕ) (h : Keeps s u) : KeepsRes s (execSideEffectRelease a0 u) := by
  unfold Sys2Proof.Machine.execSideEffectRelease
  repeat' first
    | with_reducible assumption
    | fail_if_no_progress with_reducible apply Keeps.mk0
    | with_reducible apply KeepsRes.next
    | exact KeepsRes.fault _
    | with_reducible apply Keeps.releaseEntry
    | with_reducible apply Keeps.endThread
    | with_reducible apply Keeps.ite
    | with_reducible apply KeepsRes.ite
    | with_reducible apply Keeps.foldl
    | with_reducible apply Keeps.foldlFst
    | intro _ _ _ _
    | intro _ _ _
    | dsimp only
    | split

theorem Keeps.execEngFaultRearm {s u : State} (a0 : ℕ) (h : Keeps s u) : KeepsRes s (execEngFaultRearm a0 u) := by
  unfold Sys2Proof.Machine.execEngFaultRearm
  repeat' first
    | with_reducible assumption
    | fail_if_no_progress with_reducible apply Keeps.mk0
    | with_reducible apply KeepsRes.next
    | exact KeepsRes.fault _
    | with_reducible apply Keeps.setFld
    | with_reducible apply Keeps.ite
    | with_reducible apply KeepsRes.ite

end Sys2Proof.Machine
end

