-- ==== Sys2Proof/Laws/KeepsStreams.lean ====
section
/-! SUPPORT. What the operations of Machine/Streams.lean keep. -/

namespace Sys2Proof.Machine

theorem Keeps.execStreamStart {s u : State} (a0 : ℕ) (h : Keeps s u) : KeepsRes s (execStreamStart a0 u) := by
  unfold Sys2Proof.Machine.execStreamStart
  repeat' first
    | with_reducible assumption
    | fail_if_no_progress with_reducible apply Keeps.mk0
    | with_reducible apply KeepsRes.next
    | exact KeepsRes.fault _
    | with_reducible apply Keeps.holdWork
    | with_reducible apply Keeps.setStr
    | with_reducible apply Keeps.setFld
    | with_reducible apply Keeps.strCause
    | with_reducible apply Keeps.ite
    | with_reducible apply KeepsRes.ite
    | with_reducible apply Keeps.foldl
    | with_reducible apply Keeps.foldlFst
    | intro _ _ _ _
    | intro _ _ _
    | dsimp only
    | split
    | with_reducible refine Keeps.ofFst ?_ (by assumption)
    | fail_if_no_progress with_reducible refine Keeps.mk' ?_ (by first | exact Nat.le_refl _ | exact Nat.le_succ _ | with_unfolding_all exact Nat.le_add_right _ _) (by first | exact List.prefix_rfl)

theorem Keeps.closeFilling {s u : State} (a1 : ℕ) (h : Keeps s u) : Keeps s (State.closeFilling u a1) := by
  unfold Sys2Proof.Machine.State.closeFilling
  repeat' first
    | with_reducible assumption
    | with_reducible apply Keeps.closeCur
    | with_reducible apply Keeps.setFld
    | with_reducible apply Keeps.pend
    | with_reducible apply Keeps.setStr
    | split

theorem Keeps.execStreamStop {s u : State} (a0 : ℕ) (h : Keeps s u) : KeepsRes s (execStreamStop a0 u) := by
  unfold Sys2Proof.Machine.execStreamStop
  repeat' first
    | with_reducible assumption
    | with_reducible apply KeepsRes.next
    | with_reducible apply Keeps.closeFilling
    | with_reducible apply Keeps.setFld
    | with_reducible apply KeepsRes.ite

theorem Keeps.execExtentOpen {s u : State} (a0 : ℕ) (a1 : ℕ) (h : Keeps s u) : KeepsRes s (execExtentOpen a0 a1 u) := by
  unfold Sys2Proof.Machine.execExtentOpen
  repeat' first
    | with_reducible assumption
    | with_reducible apply KeepsRes.next
    | with_reducible apply Keeps.addFld
    | with_reducible apply Keeps.setExt
    | with_reducible apply Keeps.decideSpan
    | split

theorem Keeps.applyPart {s u : State} (a1 : ℕ) (a2 : ℕ) (a3 : Placement) (a4 : ℕ) (a5 : Bytes) (h : Keeps s u) : Keeps s (State.applyPart u a1 a2 a3 a4 a5) := by
  unfold Sys2Proof.Machine.State.applyPart
  repeat' first
    | with_reducible assumption
    | with_reducible apply Keeps.writePart
    | with_reducible apply Keeps.seal
    | with_reducible apply Keeps.flushInto
    | dsimp only
    | split

theorem Keeps.settleCut {s u : State} (a1 : ℕ) (a2 : ℕ) (h : Keeps s u) : Keeps s (State.settleCut u a1 a2) := by
  unfold Sys2Proof.Machine.State.settleCut
  repeat' first
    | with_reducible assumption
    | with_reducible apply Keeps.seal
    | split

theorem Keeps.doPart {s u : State} (a1 : ℕ) (a2 : Placement) (a3 : ℕ) (h : Keeps s u) : Keeps s (State.doPart u a1 a2 a3) := by
  unfold Sys2Proof.Machine.State.doPart
  repeat' first
    | with_reducible assumption
    | with_reducible apply Keeps.settleCut
    | with_reducible apply Keeps.dropPart
    | with_reducible apply Keeps.count
    | with_reducible apply Keeps.applyPart
    | with_reducible apply Keeps.ite

theorem Keeps.advanceCursor {s u : State} (a1 : ℕ) (a2 : ℕ) (h : Keeps s u) : Keeps s (State.advanceCursor u a1 a2) := by
  unfold Sys2Proof.Machine.State.advanceCursor
  repeat' first
    | with_reducible assumption
    | with_reducible apply Keeps.over
    | with_reducible apply Keeps.sealExt
    | with_reducible apply Keeps.setFld
    | with_reducible apply Keeps.settleSpans
    | with_reducible apply Keeps.walkCursor
    | with_reducible apply Keeps.ite
    | intro _ _ _

theorem Keeps.execPlacementApply {s u : State} (a0 : ℕ) (h : Keeps s u) : KeepsRes s (execPlacementApply a0 u) := by
  unfold Sys2Proof.Machine.execPlacementApply
  repeat' first
    | with_reducible assumption
    | with_reducible apply KeepsRes.next
    | with_reducible apply Keeps.advanceCursor
    | with_reducible apply Keeps.over
    | with_reducible apply Keeps.doPart
    | intro _ _ _
    | split

theorem Keeps.dropHold {s u : State} (a1 : ℕ) (h : Keeps s u) : Keeps s (State.dropHold u a1) := by
  unfold Sys2Proof.Machine.State.dropHold
  repeat' first
    | with_reducible assumption
    | with_reducible apply Keeps.setHold
    | with_reducible apply Keeps.count

theorem Keeps.applyAll {s u : State} (a1 : ℕ) (h : Keeps s u) : Keeps s (State.applyAll u a1) := by
  unfold Sys2Proof.Machine.State.applyAll
  repeat' first
    | with_reducible assumption
    | with_reducible apply Keeps.over
    | with_reducible apply Keeps.doPart
    | intro _ _ _

theorem Keeps.execStreamStopped {s u : State} (a0 : ℕ) (h : Keeps s u) : KeepsRes s (execStreamStopped a0 u) := by
  unfold Sys2Proof.Machine.execStreamStopped
  repeat' first
    | with_reducible assumption
    | with_reducible apply KeepsRes.next
    | with_reducible apply Keeps.dropHold
    | with_reducible apply Keeps.applyAll
    | with_reducible apply Keeps.over
    | with_reducible apply Keeps.seal
    | with_reducible apply Keeps.strCause
    | with_reducible apply Keeps.setFld
    | with_reducible apply Keeps.ite
    | with_reducible apply KeepsRes.ite
    | intro _ _ _

theorem Keeps.updStore {s u : State} (h : Keeps s u) : Keeps s (State.updStore u) := by
  unfold Sys2Proof.Machine.State.updStore
  repeat' first
    | with_reducible assumption
    | with_reducible apply Keeps.setFld

theorem Keeps.setProgs {s u : State} (a1 : List Prog) (h : Keeps s u) : Keeps s (State.setProgs u a1) := by
  unfold Sys2Proof.Machine.State.setProgs
  repeat' first
    | with_reducible assumption
    | fail_if_no_progress with_reducible apply Keeps.mk0
    | with_reducible apply Keeps.updStore

theorem Keeps.execDetach {s u : State} (a0 : ℕ) (h : Keeps s u) : KeepsRes s (execDetach a0 u) := by
  unfold Sys2Proof.Machine.execDetach
  repeat' first
    | with_reducible assumption
    | with_reducible apply KeepsRes.next
    | with_reducible apply Keeps.setProgs
    | with_reducible apply Keeps.setReg
    | with_reducible apply Keeps.setFld
    | with_reducible apply KeepsRes.ite

theorem Keeps.execOldProgramRelease {s u : State} (a0 : ℕ) (h : Keeps s u) : KeepsRes s (execOldProgramRelease a0 u) := by
  unfold Sys2Proof.Machine.execOldProgramRelease
  repeat' first
    | with_reducible assumption
    | with_reducible apply KeepsRes.next
    | with_reducible apply Keeps.setProgs
    | with_reducible apply KeepsRes.ite

theorem Keeps.execForceSeal {s u : State} (a0 : ℕ) (h : Keeps s u) : KeepsRes s (execForceSeal a0 u) := by
  unfold Sys2Proof.Machine.execForceSeal
  repeat' first
    | with_reducible assumption
    | with_reducible apply KeepsRes.next
    | with_reducible apply Keeps.over
    | with_reducible apply Keeps.sealNow
    | with_reducible apply KeepsRes.ite
    | intro _ _ _

theorem Keeps.execIdleSealExpiry {s u : State} (a0 : ℕ) (a1 : ℕ) (h : Keeps s u) : KeepsRes s (execIdleSealExpiry a0 a1 u) := by
  unfold Sys2Proof.Machine.execIdleSealExpiry
  repeat' first
    | with_reducible assumption
    | with_reducible apply KeepsRes.next
    | with_reducible apply Keeps.sealNow
    | with_reducible apply KeepsRes.ite

theorem Keeps.execSeqhighWrite {s u : State} (a0 : ℕ) (a1 : W64) (h : Keeps s u) : KeepsRes s (execSeqhighWrite a0 a1 u) := by
  unfold Sys2Proof.Machine.execSeqhighWrite
  repeat' first
    | with_reducible assumption
    | with_reducible apply KeepsRes.next
    | with_reducible apply Keeps.setStr
    | with_reducible apply Keeps.setFld
    | with_reducible apply KeepsRes.ite

theorem Keeps.execDivertEntryWrite {s u : State} (a0 : ℕ) (a1 : ℕ) (a2 : ℕ) (h : Keeps s u) : KeepsRes s (execDivertEntryWrite a0 a1 a2 u) := by
  unfold Sys2Proof.Machine.execDivertEntryWrite
  repeat' first
    | with_reducible assumption
    | with_reducible apply KeepsRes.next
    | with_reducible apply Keeps.setStr
    | with_reducible apply Keeps.emit
    | with_reducible apply Keeps.freeDgram
    | with_reducible apply Keeps.setFld
    | with_reducible apply Keeps.strCause
    | dsimp only
    | split

theorem Keeps.execDivHeadWrite {s u : State} (a0 : ℕ) (a1 : ℕ) (a2 : W32) (h : Keeps s u) : KeepsRes s (execDivHeadWrite a0 a1 a2 u) := by
  unfold Sys2Proof.Machine.execDivHeadWrite
  repeat' first
    | with_reducible assumption
    | with_reducible apply KeepsRes.next
    | with_reducible apply Keeps.setFld
    | with_reducible apply KeepsRes.ite

theorem Keeps.execDivEnWrite {s u : State} (a0 : ℕ) (a1 : ℕ) (a2 : Bool) (h : Keeps s u) : KeepsRes s (execDivEnWrite a0 a1 a2 u) := by
  unfold Sys2Proof.Machine.execDivEnWrite
  repeat' first
    | with_reducible assumption
    | with_reducible apply KeepsRes.next
    | with_reducible apply Keeps.setFld
    | with_reducible apply KeepsRes.ite

theorem Keeps.execDivQueueConfig {s u : State} (a0 : ℕ) (a1 : ℕ) (a2 : Bool) (a3 : W64) (h : Keeps s u) : KeepsRes s (execDivQueueConfig a0 a1 a2 a3 u) := by
  unfold Sys2Proof.Machine.execDivQueueConfig
  repeat' first
    | with_reducible assumption
    | with_reducible apply KeepsRes.next
    | with_reducible apply Keeps.setFld
    | with_reducible apply Keeps.setStr
    | with_reducible apply Keeps.ite
    | with_reducible apply KeepsRes.ite

theorem Keeps.disableDivert {s u : State} (h : Keeps s u) : Keeps s (State.disableDivert u) := by
  unfold Sys2Proof.Machine.State.disableDivert
  repeat' first
    | with_reducible assumption
    | fail_if_no_progress with_reducible apply Keeps.mk0
    | with_reducible apply Keeps.over
    | with_reducible apply Keeps.freeDgram
    | with_reducible apply Keeps.setFld
    | with_reducible apply Keeps.setStr
    | with_reducible apply Keeps.ite
    | with_reducible apply Keeps.foldl
    | with_reducible apply Keeps.foldlFst
    | intro _ _ _ _
    | intro _ _ _

theorem Keeps.busMasterOff {s u : State} (h : Keeps s u) : Keeps s (State.busMasterOff u) := by
  unfold Sys2Proof.Machine.State.busMasterOff
  repeat' first
    | with_reducible assumption
    | fail_if_no_progress with_reducible apply Keeps.mk0
    | with_reducible apply Keeps.disableDivert
    | with_reducible apply Keeps.ite
    | with_reducible apply Keeps.foldl
    | with_reducible apply Keeps.foldlFst
    | intro _ _ _ _
    | intro _ _ _
    | dsimp only
    | split
    | with_reducible refine Keeps.ofFst ?_ (by assumption)
    | fail_if_no_progress with_reducible refine Keeps.mk' ?_ (by first | exact Nat.le_refl _ | exact Nat.le_succ _ | with_unfolding_all exact Nat.le_add_right _ _) (by first | exact List.prefix_rfl)

theorem Keeps.execBusMasterDisable {s u : State} (a0 : Bool) (h : Keeps s u) : KeepsRes s (execBusMasterDisable a0 u) := by
  unfold Sys2Proof.Machine.execBusMasterDisable
  repeat' first
    | with_reducible assumption
    | fail_if_no_progress with_reducible apply Keeps.mk0
    | with_reducible apply KeepsRes.next
    | exact KeepsRes.fault _
    | with_reducible apply Keeps.busMasterOff
    | with_reducible apply Keeps.ite
    | with_reducible apply KeepsRes.ite
    | with_reducible apply Keeps.foldl
    | with_reducible apply Keeps.foldlFst
    | intro _ _ _ _
    | intro _ _ _
    | dsimp only
    | split
    | with_reducible refine Keeps.ofFst ?_ (by assumption)
    | fail_if_no_progress with_reducible refine Keeps.mk' ?_ (by first | exact Nat.le_refl _ | exact Nat.le_succ _ | with_unfolding_all exact Nat.le_add_right _ _) (by first | exact List.prefix_rfl)

end Sys2Proof.Machine
end

