-- ==== Sys2Proof/Laws/KeepsFtlOps.lean ====
section
/-! SUPPORT. What the operations of Machine/FtlOps.lean keep. -/

namespace Sys2Proof.Machine

theorem Keeps.setFtl {s u : State} (a1 : Ftl) (h : Keeps s u) : Keeps s (State.setFtl u a1) := by
  unfold Sys2Proof.Machine.State.setFtl
  repeat' first
    | with_reducible assumption
    | fail_if_no_progress with_reducible apply Keeps.mk0

theorem Keeps.setGb {s u : State} (a1 : ℕ) (a2 : Gb) (h : Keeps s u) : Keeps s (State.setGb u a1 a2) := by
  unfold Sys2Proof.Machine.State.setGb
  repeat' first
    | with_reducible assumption
    | with_reducible apply Keeps.setFtl

theorem Keeps.setMedia {s u : State} (a1 : ℕ) (a2 : Media) (h : Keeps s u) : Keeps s (State.setMedia u a1 a2) := by
  unfold Sys2Proof.Machine.State.setMedia
  repeat' first
    | with_reducible assumption
    | fail_if_no_progress with_reducible apply Keeps.mk0
    | with_reducible apply Keeps.setFtl
    | with_reducible apply Keeps.ite
    | with_reducible apply Keeps.foldl
    | with_reducible apply Keeps.foldlFst
    | intro _ _ _ _
    | intro _ _ _
    | dsimp only
    | split
    | with_reducible refine Keeps.ofFst ?_ (by assumption)
    | fail_if_no_progress with_reducible refine Keeps.mk' ?_ (by first | exact Nat.le_refl _ | exact Nat.le_succ _ | with_unfolding_all exact Nat.le_add_right _ _) (by first | exact List.prefix_rfl)

theorem Keeps.updSpare {s u : State} (h : Keeps s u) : Keeps s (State.updSpare u) := by
  unfold Sys2Proof.Machine.State.updSpare
  repeat' first
    | with_reducible assumption
    | with_reducible apply Keeps.setFld

theorem Keeps.takeReserve {s u : State} (h : Keeps s u) : Keeps s (State.takeReserve u) := by
  unfold Sys2Proof.Machine.State.takeReserve
  repeat' first
    | with_reducible assumption
    | with_reducible apply Keeps.updSpare
    | with_reducible apply Keeps.setFtl
    | with_reducible apply Keeps.setFld

theorem Keeps.stopStream {s u : State} (a1 : ℕ) (h : Keeps s u) : Keeps s (State.stopStream u a1) := by
  unfold Sys2Proof.Machine.State.stopStream
  repeat' first
    | with_reducible assumption
    | with_reducible apply Keeps.closeFilling
    | with_reducible apply Keeps.setFld
    | with_reducible apply Keeps.ite

theorem Keeps.stopStreams {s u : State} (a1 : ℕ → Bool) (h : Keeps s u) : Keeps s (State.stopStreams u a1) := by
  unfold Sys2Proof.Machine.State.stopStreams
  repeat' first
    | with_reducible assumption
    | with_reducible apply Keeps.over
    | with_reducible apply Keeps.stopStream

theorem Keeps.beginReadOnly {s u : State} (h : Keeps s u) : Keeps s (State.beginReadOnly u) := by
  unfold Sys2Proof.Machine.State.beginReadOnly
  repeat' first
    | with_reducible assumption
    | with_reducible apply Keeps.stopStreams
    | with_reducible apply Keeps.ftlCause
    | with_reducible apply Keeps.critical
    | with_reducible apply Keeps.setFld
    | with_reducible apply Keeps.ite

theorem Keeps.checkSpare {s u : State} (h : Keeps s u) : Keeps s (State.checkSpare u) := by
  unfold Sys2Proof.Machine.State.checkSpare
  repeat' first
    | with_reducible assumption
    | with_reducible apply Keeps.updSpare
    | with_reducible apply Keeps.ftlCause
    | with_reducible apply Keeps.critical
    | with_reducible apply Keeps.setFld
    | with_reducible apply Keeps.uncritical
    | with_reducible apply Keeps.beginReadOnly
    | with_reducible apply Keeps.ite

theorem Keeps.checkRetired {s u : State} (h : Keeps s u) : Keeps s (State.checkRetired u) := by
  unfold Sys2Proof.Machine.State.checkRetired
  repeat' first
    | with_reducible assumption
    | fail_if_no_progress with_reducible apply Keeps.mk0
    | with_reducible apply Keeps.checkSpare
    | with_reducible apply Keeps.beginReadOnly
    | with_reducible apply Keeps.ite
    | with_reducible apply Keeps.foldl
    | with_reducible apply Keeps.foldlFst
    | intro _ _ _ _
    | intro _ _ _
    | dsimp only
    | split
    | with_reducible refine Keeps.ofFst ?_ (by assumption)
    | fail_if_no_progress with_reducible refine Keeps.mk' ?_ (by first | exact Nat.le_refl _ | exact Nat.le_succ _ | with_unfolding_all exact Nat.le_add_right _ _) (by first | exact List.prefix_rfl)

theorem Keeps.updGroup {s u : State} (a1 : ℕ) (h : Keeps s u) : Keeps s (State.updGroup u a1) := by
  unfold Sys2Proof.Machine.State.updGroup
  repeat' first
    | with_reducible assumption
    | with_reducible apply Keeps.setFld

theorem Keeps.updGroups {s u : State} (h : Keeps s u) : Keeps s (State.updGroups u) := by
  unfold Sys2Proof.Machine.State.updGroups
  repeat' first
    | with_reducible assumption
    | fail_if_no_progress with_reducible apply Keeps.mk0
    | with_reducible apply Keeps.over
    | with_reducible apply Keeps.updGroup
    | with_reducible apply Keeps.ite
    | with_reducible apply Keeps.foldl
    | with_reducible apply Keeps.foldlFst
    | intro _ _ _ _
    | intro _ _ _
    | dsimp only
    | split
    | with_reducible refine Keeps.ofFst ?_ (by assumption)
    | fail_if_no_progress with_reducible refine Keeps.mk' ?_ (by first | exact Nat.le_refl _ | exact Nat.le_succ _ | with_unfolding_all exact Nat.le_add_right _ _) (by first | exact List.prefix_rfl)

theorem Keeps.updErase {s u : State} (h : Keeps s u) : Keeps s (State.updErase u) := by
  unfold Sys2Proof.Machine.State.updErase
  repeat' first
    | with_reducible assumption
    | with_reducible apply Keeps.setFld

theorem Keeps.seqs {s u : State} (a1 : ℕ) (h : Keeps s u) : Keeps s (State.seqs u a1).1 := by
  unfold Sys2Proof.Machine.State.seqs
  repeat' first
    | with_reducible assumption
    | fail_if_no_progress with_reducible apply Keeps.mk0
    | with_reducible apply Keeps.setFtl
    | with_reducible apply Keeps.journal
    | with_reducible apply Keeps.setReg
    | with_reducible apply Keeps.stopStreams
    | with_reducible apply Keeps.ite
    | with_reducible apply Keeps.foldl
    | with_reducible apply Keeps.foldlFst
    | intro _ _ _ _
    | intro _ _ _
    | dsimp only
    | split
    | with_reducible refine Keeps.ofFst ?_ (by assumption)
    | fail_if_no_progress with_reducible refine Keeps.mk' ?_ (by first | exact Nat.le_refl _ | exact Nat.le_succ _ | with_unfolding_all exact Nat.le_add_right _ _) (by first | exact List.prefix_rfl)

theorem Keeps.setChan {s u : State} (a1 : ℕ) (a2 : Chan) (h : Keeps s u) : Keeps s (State.setChan u a1 a2) := by
  unfold Sys2Proof.Machine.State.setChan
  repeat' first
    | with_reducible assumption
    | fail_if_no_progress with_reducible apply Keeps.mk0
    | with_reducible apply Keeps.setFld

theorem Keeps.trySuspend {s u : State} (a1 : ℕ) (a2 : ℕ) (h : Keeps s u) : Keeps s (State.trySuspend u a1 a2) := by
  unfold Sys2Proof.Machine.State.trySuspend
  repeat' first
    | with_reducible assumption
    | with_reducible apply Keeps.count
    | with_reducible apply Keeps.setChan
    | with_reducible apply Keeps.ite

theorem Keeps.admitOp {s u : State} (a1 : ℕ) (a2 : NandOp) (h : Keeps s u) : Keeps s (State.admitOp u a1 a2) := by
  unfold Sys2Proof.Machine.State.admitOp
  repeat' first
    | with_reducible assumption
    | fail_if_no_progress with_reducible apply Keeps.mk0
    | with_reducible apply Keeps.setChan
    | with_reducible apply Keeps.trySuspend
    | with_reducible apply Keeps.ite
    | with_reducible apply Keeps.foldl
    | with_reducible apply Keeps.foldlFst
    | intro _ _ _ _
    | intro _ _ _
    | dsimp only
    | split
    | with_reducible refine Keeps.ofFst ?_ (by assumption)
    | fail_if_no_progress with_reducible refine Keeps.mk' ?_ (by first | exact Nat.le_refl _ | exact Nat.le_succ _ | with_unfolding_all exact Nat.le_add_right _ _) (by first | exact List.prefix_rfl)

theorem Keeps.queueOp {s u : State} (a1 : ℕ) (a2 : ℕ) (a3 : NandOp) (h : Keeps s u) : Keeps s (State.queueOp u a1 a2 a3) := by
  unfold Sys2Proof.Machine.State.queueOp
  repeat' first
    | with_reducible assumption
    | fail_if_no_progress with_reducible apply Keeps.mk0
    | with_reducible apply Keeps.admitOp
    | with_reducible apply Keeps.setChan
    | with_reducible apply Keeps.ite
    | with_reducible apply Keeps.foldl
    | with_reducible apply Keeps.foldlFst
    | intro _ _ _ _
    | intro _ _ _
    | dsimp only
    | split
    | with_reducible refine Keeps.ofFst ?_ (by assumption)
    | fail_if_no_progress with_reducible refine Keeps.mk' ?_ (by first | exact Nat.le_refl _ | exact Nat.le_succ _ | with_unfolding_all exact Nat.le_add_right _ _) (by first | exact List.prefix_rfl)

theorem Keeps.refill {s u : State} (a1 : ℕ) (h : Keeps s u) : Keeps s (State.refill u a1) := by
  unfold Sys2Proof.Machine.State.refill
  repeat' first
    | with_reducible assumption
    | fail_if_no_progress with_reducible apply Keeps.mk0
    | with_reducible apply Keeps.over
    | with_reducible apply Keeps.admitOp
    | with_reducible apply Keeps.setChan
    | with_reducible apply Keeps.ite
    | with_reducible apply Keeps.foldl
    | with_reducible apply Keeps.foldlFst
    | intro _ _ _ _
    | intro _ _ _
    | dsimp only
    | split
    | with_reducible refine Keeps.ofFst ?_ (by assumption)
    | fail_if_no_progress with_reducible refine Keeps.mk' ?_ (by first | exact Nat.le_refl _ | exact Nat.le_succ _ | with_unfolding_all exact Nat.le_add_right _ _) (by first | exact List.prefix_rfl)

theorem Keeps.queueOps {s u : State} (a1 : ℕ) (a2 : List ℕ) (a3 : NandOp) (h : Keeps s u) : Keeps s (State.queueOps u a1 a2 a3) := by
  unfold Sys2Proof.Machine.State.queueOps
  repeat' first
    | with_reducible assumption
    | with_reducible apply Keeps.over
    | with_reducible apply Keeps.queueOp
    | intro _ _ _

theorem Keeps.queuePrograms {s u : State} (a1 : ℕ) (a2 : ℕ) (a3 : ℕ) (a4 : ℕ) (a5 : Bool) (h : Keeps s u) : Keeps s (State.queuePrograms u a1 a2 a3 a4 a5) := by
  unfold Sys2Proof.Machine.State.queuePrograms
  repeat' first
    | with_reducible assumption
    | fail_if_no_progress with_reducible apply Keeps.mk0
    | with_reducible apply Keeps.over
    | with_reducible apply Keeps.queueOp
    | with_reducible apply Keeps.ite
    | with_reducible apply Keeps.foldl
    | with_reducible apply Keeps.foldlFst
    | intro _ _ _ _
    | intro _ _ _
    | dsimp only
    | split
    | with_reducible refine Keeps.ofFst ?_ (by assumption)
    | fail_if_no_progress with_reducible refine Keeps.mk' ?_ (by first | exact Nat.le_refl _ | exact Nat.le_succ _ | with_unfolding_all exact Nat.le_add_right _ _) (by first | exact List.prefix_rfl)

theorem Keeps.queueMedia {s u : State} (a1 : List ℕ) (a2 : Option Reader) (h : Keeps s u) : Keeps s (State.queueMedia u a1 a2) := by
  unfold Sys2Proof.Machine.State.queueMedia
  repeat' first
    | with_reducible assumption
    | fail_if_no_progress with_reducible apply Keeps.mk0
    | with_reducible apply Keeps.over
    | with_reducible apply Keeps.queueOp
    | with_reducible apply Keeps.ite
    | with_reducible apply Keeps.foldl
    | with_reducible apply Keeps.foldlFst
    | intro _ _ _ _
    | intro _ _ _
    | dsimp only
    | split
    | with_reducible refine Keeps.ofFst ?_ (by assumption)
    | fail_if_no_progress with_reducible refine Keeps.mk' ?_ (by first | exact Nat.le_refl _ | exact Nat.le_succ _ | with_unfolding_all exact Nat.le_add_right _ _) (by first | exact List.prefix_rfl)

theorem Keeps.markOpen {s u : State} (a1 : ℕ) (a2 : ℕ) (a3 : GbUse) (h : Keeps s u) : Keeps s (State.markOpen u a1 a2 a3) := by
  unfold Sys2Proof.Machine.State.markOpen
  repeat' first
    | with_reducible assumption
    | fail_if_no_progress with_reducible apply Keeps.mk0
    | with_reducible apply Keeps.setFtl
    | with_reducible apply Keeps.setGb
    | with_reducible apply Keeps.ite
    | with_reducible apply Keeps.foldl
    | with_reducible apply Keeps.foldlFst
    | intro _ _ _ _
    | intro _ _ _
    | dsimp only
    | split
    | with_reducible refine Keeps.ofFst ?_ (by assumption)
    | fail_if_no_progress with_reducible refine Keeps.mk' ?_ (by first | exact Nat.le_refl _ | exact Nat.le_succ _ | with_unfolding_all exact Nat.le_add_right _ _) (by first | exact List.prefix_rfl)

theorem Keeps.openGb {s u : State} (a1 : ℕ) (a2 : ℕ) (a3 : GbUse) (h : Keeps s u) : Keeps s (State.openGb u a1 a2 a3) := by
  unfold Sys2Proof.Machine.State.openGb
  repeat' first
    | with_reducible assumption
    | fail_if_no_progress with_reducible apply Keeps.mk0
    | with_reducible apply Keeps.journal
    | with_reducible apply Keeps.setMedia
    | with_reducible apply Keeps.setFtl
    | with_reducible apply Keeps.updGroup
    | with_reducible apply Keeps.markOpen
    | with_reducible apply Keeps.ftlCause
    | with_reducible apply Keeps.ite
    | with_reducible apply Keeps.foldl
    | with_reducible apply Keeps.foldlFst
    | intro _ _ _ _
    | intro _ _ _
    | dsimp only
    | split
    | with_reducible refine Keeps.ofFst ?_ (by assumption)
    | fail_if_no_progress with_reducible refine Keeps.mk' ?_ (by first | exact Nat.le_refl _ | exact Nat.le_succ _ | with_unfolding_all exact Nat.le_add_right _ _) (by first | exact List.prefix_rfl)

theorem Keeps.closeGb {s u : State} (a1 : ℕ) (a2 : ℕ) (h : Keeps s u) : Keeps s (State.closeGb u a1 a2) := by
  unfold Sys2Proof.Machine.State.closeGb
  repeat' first
    | with_reducible assumption
    | with_reducible apply Keeps.setGb
    | with_reducible apply Keeps.journal

theorem Keeps.padUnits {s u : State} (a1 : ℕ) (a2 : ℕ) (a3 : ℕ) (h : Keeps s u) : Keeps s (State.padUnits u a1 a2 a3) := by
  unfold Sys2Proof.Machine.State.padUnits
  repeat' first
    | with_reducible assumption
    | fail_if_no_progress with_reducible apply Keeps.mk0
    | with_reducible apply Keeps.seqs
    | with_reducible apply Keeps.setFtl
    | with_reducible apply Keeps.queuePrograms
    | with_reducible apply Keeps.setMedia
    | with_reducible apply Keeps.ite
    | with_reducible apply Keeps.foldl
    | with_reducible apply Keeps.foldlFst
    | intro _ _ _ _
    | intro _ _ _
    | dsimp only
    | split
    | with_reducible refine Keeps.ofFst ?_ (by assumption)
    | fail_if_no_progress with_reducible refine Keeps.mk' ?_ (by first | exact Nat.le_refl _ | exact Nat.le_succ _ | with_unfolding_all exact Nat.le_add_right _ _) (by first | exact List.prefix_rfl)

theorem Keeps.fillGb {s u : State} (a1 : ℕ) (a2 : ℕ) (h : Keeps s u) : Keeps s (State.fillGb u a1 a2) := by
  unfold Sys2Proof.Machine.State.fillGb
  repeat' first
    | with_reducible assumption
    | fail_if_no_progress with_reducible apply Keeps.mk0
    | with_reducible apply Keeps.closeGb
    | with_reducible apply Keeps.padUnits
    | with_reducible apply Keeps.ite
    | with_reducible apply Keeps.foldl
    | with_reducible apply Keeps.foldlFst
    | intro _ _ _ _
    | intro _ _ _
    | dsimp only
    | split
    | with_reducible refine Keeps.ofFst ?_ (by assumption)
    | fail_if_no_progress with_reducible refine Keeps.mk' ?_ (by first | exact Nat.le_refl _ | exact Nat.le_succ _ | with_unfolding_all exact Nat.le_add_right _ _) (by first | exact List.prefix_rfl)

theorem Keeps.roomFor {s u : State} (a1 : ℕ) (a2 : GbUse) (a3 : ℕ) (a4 : ℕ) (h : Keeps s u) : Keeps s (State.roomFor u a1 a2 a3 a4).1 := by
  unfold Sys2Proof.Machine.State.roomFor
  repeat' first
    | with_reducible assumption
    | fail_if_no_progress with_reducible apply Keeps.mk0
    | with_reducible apply Keeps.fillGb
    | with_reducible apply Keeps.openGb
    | with_reducible apply Keeps.ite
    | with_reducible apply Keeps.foldl
    | with_reducible apply Keeps.foldlFst
    | intro _ _ _ _
    | intro _ _ _
    | dsimp only
    | split
    | with_reducible refine Keeps.ofFst ?_ (by assumption)
    | fail_if_no_progress with_reducible refine Keeps.mk' ?_ (by first | exact Nat.le_refl _ | exact Nat.le_succ _ | with_unfolding_all exact Nat.le_add_right _ _) (by first | exact List.prefix_rfl)

theorem Keeps.takeSlot {s u : State} (a1 : ℕ) (a2 : GbUse) (h : Keeps s u) : Keeps s (State.takeSlot u a1 a2).1 := by
  unfold Sys2Proof.Machine.State.takeSlot
  repeat' first
    | with_reducible assumption
    | fail_if_no_progress with_reducible apply Keeps.mk0
    | with_reducible apply Keeps.roomFor
    | with_reducible apply Keeps.padUnits
    | with_reducible apply Keeps.setMedia
    | with_reducible apply Keeps.ite
    | with_reducible apply Keeps.foldl
    | with_reducible apply Keeps.foldlFst
    | intro _ _ _ _
    | intro _ _ _
    | dsimp only
    | split
    | with_reducible refine Keeps.ofFst ?_ (by assumption)
    | fail_if_no_progress with_reducible refine Keeps.mk' ?_ (by first | exact Nat.le_refl _ | exact Nat.le_succ _ | with_unfolding_all exact Nat.le_add_right _ _) (by first | exact List.prefix_rfl)

theorem Keeps.takeUnit {s u : State} (a1 : ℕ) (a2 : GbUse) (h : Keeps s u) : Keeps s (State.takeUnit u a1 a2).1 := by
  unfold Sys2Proof.Machine.State.takeUnit
  repeat' first
    | with_reducible assumption
    | fail_if_no_progress with_reducible apply Keeps.mk0
    | with_reducible apply Keeps.roomFor
    | with_reducible apply Keeps.setMedia
    | with_reducible apply Keeps.ite
    | with_reducible apply Keeps.foldl
    | with_reducible apply Keeps.foldlFst
    | intro _ _ _ _
    | intro _ _ _
    | dsimp only
    | split
    | with_reducible refine Keeps.ofFst ?_ (by assumption)
    | fail_if_no_progress with_reducible refine Keeps.mk' ?_ (by first | exact Nat.le_refl _ | exact Nat.le_succ _ | with_unfolding_all exact Nat.le_add_right _ _) (by first | exact List.prefix_rfl)

theorem Keeps.keyMissing {s u : State} (a1 : ℕ) (h : Keeps s u) : Keeps s (State.keyMissing u a1) := by
  unfold Sys2Proof.Machine.State.keyMissing
  repeat' first
    | with_reducible assumption
    | fail_if_no_progress with_reducible apply Keeps.mk0
    | with_reducible apply Keeps.cphCause
    | with_reducible apply Keeps.ite

theorem Keeps.checkExhausted {s u : State} (a1 : ℕ) (h : Keeps s u) : Keeps s (State.checkExhausted u a1) := by
  unfold Sys2Proof.Machine.State.checkExhausted
  repeat' first
    | with_reducible assumption
    | with_reducible apply Keeps.stopStreams
    | with_reducible apply Keeps.cphCause
    | with_reducible apply Keeps.setFld
    | with_reducible apply Keeps.ite

theorem Keeps.gcmWrite {s u : State} (a1 : ℕ) (h : Keeps s u) : Keeps s (State.gcmWrite u a1) := by
  unfold Sys2Proof.Machine.State.gcmWrite
  repeat' first
    | with_reducible assumption
    | fail_if_no_progress with_reducible apply Keeps.mk0
    | with_reducible apply Keeps.ite
    | with_reducible apply Keeps.foldl
    | with_reducible apply Keeps.foldlFst
    | intro _ _ _ _
    | intro _ _ _
    | dsimp only
    | split
    | with_reducible refine Keeps.ofFst ?_ (by assumption)
    | fail_if_no_progress with_reducible refine Keeps.mk' ?_ (by first | exact Nat.le_refl _ | exact Nat.le_succ _ | with_unfolding_all exact Nat.le_add_right _ _) (by first | exact List.prefix_rfl)

theorem Keeps.invoke {s u : State} (a1 : ℕ) (a2 : ℕ) (h : Keeps s u) : Keeps s (State.invoke u a1 a2) := by
  unfold Sys2Proof.Machine.State.invoke
  repeat' first
    | with_reducible assumption
    | fail_if_no_progress with_reducible apply Keeps.mk0
    | with_reducible apply Keeps.setFld
    | with_reducible apply Keeps.gcmWrite
    | with_reducible apply Keeps.checkExhausted
    | with_reducible apply Keeps.cphCause
    | with_reducible apply Keeps.ite
    | with_reducible apply Keeps.foldl
    | with_reducible apply Keeps.foldlFst
    | intro _ _ _ _
    | intro _ _ _
    | dsimp only
    | split
    | with_reducible refine Keeps.ofFst ?_ (by assumption)
    | fail_if_no_progress with_reducible refine Keeps.mk' ?_ (by first | exact Nat.le_refl _ | exact Nat.le_succ _ | with_unfolding_all exact Nat.le_add_right _ _) (by first | exact List.prefix_rfl)

theorem Keeps.setCap {s u : State} (a1 : ℕ) (a2 : ℕ) (a3 : Bool) (a4 : Bool) (a5 : Bool) (a6 : Bool) (a7 : ℕ) (a8 : ℕ) (h : Keeps s u) : Keeps s (State.setCap u a1 a2 a3 a4 a5 a6 a7 a8) := by
  unfold Sys2Proof.Machine.State.setCap
  repeat' first
    | with_reducible assumption
    | with_reducible apply Keeps.setFtl

theorem Keeps.clearCap {s u : State} (a1 : ℕ) (a2 : ℕ) (h : Keeps s u) : Keeps s (State.clearCap u a1 a2) := by
  unfold Sys2Proof.Machine.State.clearCap
  repeat' first
    | with_reducible assumption
    | fail_if_no_progress with_reducible apply Keeps.mk0
    | with_reducible apply Keeps.setCap
    | with_reducible apply Keeps.ite
    | with_reducible apply Keeps.foldl
    | with_reducible apply Keeps.foldlFst
    | intro _ _ _ _
    | intro _ _ _
    | dsimp only
    | split
    | with_reducible refine Keeps.ofFst ?_ (by assumption)
    | fail_if_no_progress with_reducible refine Keeps.mk' ?_ (by first | exact Nat.le_refl _ | exact Nat.le_succ _ | with_unfolding_all exact Nat.le_add_right _ _) (by first | exact List.prefix_rfl)

theorem Keeps.setGap {s u : State} (a1 : ℕ) (a2 : ℕ) (a3 : Option GapRec) (h : Keeps s u) : Keeps s (State.setGap u a1 a2 a3) := by
  unfold Sys2Proof.Machine.State.setGap
  repeat' first
    | with_reducible assumption
    | with_reducible apply Keeps.setFtl

theorem Keeps.setClutch {s u : State} (a1 : ℕ) (a2 : Option Clutch) (h : Keeps s u) : Keeps s (State.setClutch u a1 a2) := by
  unfold Sys2Proof.Machine.State.setClutch
  repeat' first
    | with_reducible assumption
    | with_reducible apply Keeps.setFtl

theorem Keeps.loseClutch {s u : State} (a1 : ℕ) (a2 a3 : List ℕ) (h : Keeps s u) : Keeps s (State.loseClutch u a1 a2 a3) := by
  unfold Sys2Proof.Machine.State.loseClutch
  repeat' first
    | with_reducible assumption
    | with_reducible apply Keeps.setClutch
    | split

theorem Keeps.programExtent {s u : State} (a1 : ℕ) (a2 : ℕ) (a3 : GbUse) (a4 : Mem) (a5 : W64) (a6 : Tbl ℕ) (a7 : Bool) (a8 : ℕ) (a9 : Bool) (h : Keeps s u) : Keeps s (State.programExtent u a1 a2 a3 a4 a5 a6 a7 a8 a9).1 := by
  unfold Sys2Proof.Machine.State.programExtent
  repeat' first
    | with_reducible assumption
    | fail_if_no_progress with_reducible apply Keeps.mk0
    | with_reducible apply Keeps.takeSlot
    | with_reducible apply Keeps.seqs
    | with_reducible apply Keeps.setClutch
    | with_reducible apply Keeps.count
    | with_reducible apply Keeps.invoke
    | with_reducible apply Keeps.queuePrograms
    | with_reducible apply Keeps.ite
    | with_reducible apply Keeps.foldl
    | with_reducible apply Keeps.foldlFst
    | intro _ _ _ _
    | intro _ _ _
    | dsimp only
    | split
    | with_reducible refine Keeps.ofFst ?_ (by assumption)
    | fail_if_no_progress with_reducible refine Keeps.mk' ?_ (by first | exact Nat.le_refl _ | exact Nat.le_succ _ | with_unfolding_all exact Nat.le_add_right _ _) (by first | exact List.prefix_rfl)

theorem Keeps.setGen {s u : State} (a1 : ℕ) (a2 : ℕ) (a3 : ℕ) (h : Keeps s u) : Keeps s (State.setGen u a1 a2 a3) := by
  unfold Sys2Proof.Machine.State.setGen
  repeat' first
    | with_reducible assumption
    | with_reducible apply Keeps.setFtl

theorem Keeps.setUnit {s u : State} (a1 : ℕ) (a2 : Option FUnit) (h : Keeps s u) : Keeps s (State.setUnit u a1 a2) := by
  unfold Sys2Proof.Machine.State.setUnit
  repeat' first
    | with_reducible assumption
    | with_reducible apply Keeps.setFtl

theorem Keeps.setMetaAt {s u : State} (a1 : ℕ) (a2 : ℕ) (a3 : ℕ) (h : Keeps s u) : Keeps s (State.setMetaAt u a1 a2 a3) := by
  unfold Sys2Proof.Machine.State.setMetaAt
  repeat' first
    | with_reducible assumption
    | fail_if_no_progress with_reducible apply Keeps.mk0
    | with_reducible apply Keeps.setFtl
    | with_reducible apply Keeps.ite
    | with_reducible apply Keeps.foldl
    | with_reducible apply Keeps.foldlFst
    | intro _ _ _ _
    | intro _ _ _
    | dsimp only
    | split
    | with_reducible refine Keeps.ofFst ?_ (by assumption)
    | fail_if_no_progress with_reducible refine Keeps.mk' ?_ (by first | exact Nat.le_refl _ | exact Nat.le_succ _ | with_unfolding_all exact Nat.le_add_right _ _) (by first | exact List.prefix_rfl)

theorem Keeps.takeIn1 {s u : State} (a1 : List ℕ) (h : Keeps s u) : Keeps s (State.takeIn1 u a1).1 := by
  induction a1 generalizing u  with
  | nil =>
    unfold Sys2Proof.Machine.State.takeIn1
    repeat' first
      | with_reducible assumption
      | fail_if_no_progress with_reducible apply Keeps.mk0
      | with_reducible apply Keeps.takeUnit
      | with_reducible apply Keeps.ite
      | with_reducible apply Keeps.foldl
      | with_reducible apply Keeps.foldlFst
      | intro _ _ _ _
      | intro _ _ _
      | dsimp only
      | split
      | with_reducible refine Keeps.ofFst ?_ (by assumption)
      | fail_if_no_progress with_reducible refine Keeps.mk' ?_ (by first | exact Nat.le_refl _ | exact Nat.le_succ _ | with_unfolding_all exact Nat.le_add_right _ _) (by first | exact List.prefix_rfl)
  | cons y l ih =>
    unfold Sys2Proof.Machine.State.takeIn1
    repeat' first
      | with_reducible assumption
      | with_reducible apply ih
      | fail_if_no_progress with_reducible apply Keeps.mk0
      | with_reducible apply Keeps.takeUnit
      | with_reducible apply Keeps.ite
      | with_reducible apply Keeps.foldl
      | with_reducible apply Keeps.foldlFst
      | intro _ _ _ _
      | intro _ _ _
      | dsimp only
      | split
      | with_reducible refine Keeps.ofFst ?_ (by assumption)
      | fail_if_no_progress with_reducible refine Keeps.mk' ?_ (by first | exact Nat.le_refl _ | exact Nat.le_succ _ | with_unfolding_all exact Nat.le_add_right _ _) (by first | exact List.prefix_rfl)

theorem Keeps.placeMeta {s u : State} (a1 : ℕ) (a2 : ℕ) (a3 : Bytes) (h : Keeps s u) : Keeps s (State.placeMeta u a1 a2 a3).1 := by
  unfold Sys2Proof.Machine.State.placeMeta
  repeat' first
    | with_reducible assumption
    | fail_if_no_progress with_reducible apply Keeps.mk0
    | with_reducible apply Keeps.takeIn1
    | with_reducible apply Keeps.seqs
    | with_reducible apply Keeps.setMetaAt
    | with_reducible apply Keeps.setUnit
    | with_reducible apply Keeps.queuePrograms
    | with_reducible apply Keeps.ite
    | with_reducible apply Keeps.foldl
    | with_reducible apply Keeps.foldlFst
    | intro _ _ _ _
    | intro _ _ _
    | dsimp only
    | split
    | with_reducible refine Keeps.ofFst ?_ (by assumption)
    | fail_if_no_progress with_reducible refine Keeps.mk' ?_ (by first | exact Nat.le_refl _ | exact Nat.le_succ _ | with_unfolding_all exact Nat.le_add_right _ _) (by first | exact List.prefix_rfl)

theorem Keeps.writeGap {s u : State} (a1 : ℕ) (a2 : ℕ) (h : Keeps s u) : Keeps s (State.writeGap u a1 a2) := by
  unfold Sys2Proof.Machine.State.writeGap
  repeat' first
    | with_reducible assumption
    | fail_if_no_progress with_reducible apply Keeps.mk0
    | with_reducible apply Keeps.placeMeta
    | with_reducible apply Keeps.ite
    | with_reducible apply Keeps.foldl
    | with_reducible apply Keeps.foldlFst
    | intro _ _ _ _
    | intro _ _ _
    | dsimp only
    | split
    | with_reducible refine Keeps.ofFst ?_ (by assumption)
    | fail_if_no_progress with_reducible refine Keeps.mk' ?_ (by first | exact Nat.le_refl _ | exact Nat.le_succ _ | with_unfolding_all exact Nat.le_add_right _ _) (by first | exact List.prefix_rfl)

theorem Keeps.mapExtent {s u : State} (a1 : ℕ) (a2 : ℕ) (a3 : ℕ) (a4 : Bool) (a5 : Bool) (a6 : GapRec) (h : Keeps s u) : Keeps s (State.mapExtent u a1 a2 a3 a4 a5 a6) := by
  unfold Sys2Proof.Machine.State.mapExtent
  repeat' first
    | with_reducible assumption
    | fail_if_no_progress with_reducible apply Keeps.mk0
    | with_reducible apply Keeps.checkSpare
    | with_reducible apply Keeps.setCap
    | with_reducible apply Keeps.writeGap
    | with_reducible apply Keeps.setGap
    | with_reducible apply Keeps.ite
    | with_reducible apply Keeps.foldl
    | with_reducible apply Keeps.foldlFst
    | intro _ _ _ _
    | intro _ _ _
    | dsimp only
    | split
    | with_reducible refine Keeps.ofFst ?_ (by assumption)
    | fail_if_no_progress with_reducible refine Keeps.mk' ?_ (by first | exact Nat.le_refl _ | exact Nat.le_succ _ | with_unfolding_all exact Nat.le_add_right _ _) (by first | exact List.prefix_rfl)

end Sys2Proof.Machine
end

