-- ==== Sys2Proof/Laws/KeepsPersist.lean ====
section
/-! SUPPORT. What the operations of Machine/Persist.lean keep. -/

namespace Sys2Proof.Machine

theorem Keeps.pstStore {s u : State} (a1 : ℕ) (a2 : Bytes) (h : Keeps s u) : Keeps s (State.pstStore u a1 a2) := by
  unfold Sys2Proof.Machine.State.pstStore
  repeat' first
    | with_reducible assumption
    | fail_if_no_progress with_reducible apply Keeps.mk0

theorem Keeps.pstWorn {s u : State} (h : Keeps s u) : Keeps s (State.pstWorn u) := by
  unfold Sys2Proof.Machine.State.pstWorn
  repeat' first
    | with_reducible assumption
    | with_reducible apply Keeps.beginReadOnly
    | with_reducible apply Keeps.pstCause
    | with_reducible apply Keeps.setFld

theorem Keeps.pstRemap {s u : State} (a1 : ℕ) (h : Keeps s u) : Keeps s (State.pstRemap u a1) := by
  unfold Sys2Proof.Machine.State.pstRemap
  repeat' first
    | with_reducible assumption
    | fail_if_no_progress with_reducible apply Keeps.mk0
    | with_reducible apply Keeps.count
    | with_reducible apply Keeps.setFld
    | with_reducible apply Keeps.pstCause
    | with_reducible apply Keeps.critical
    | with_reducible apply Keeps.ite

theorem Keeps.execPstLineWrite {s u : State} (a0 : ℕ) (a1 : Bytes) (a2 : ℕ) (a3 : Bool) (h : Keeps s u) : KeepsRes s (execPstLineWrite a0 a1 a2 a3 u) := by
  unfold Sys2Proof.Machine.execPstLineWrite
  repeat' first
    | with_reducible assumption
    | with_reducible apply KeepsRes.next
    | with_reducible apply Keeps.count
    | with_reducible apply Keeps.pstStore
    | with_reducible apply Keeps.pstWorn
    | with_reducible apply Keeps.pstRemap
    | with_reducible apply KeepsRes.ite

theorem Keeps.setSlot {s u : State} (a1 : ℕ) (a2 : Slot) (h : Keeps s u) : Keeps s (State.setSlot u a1 a2) := by
  unfold Sys2Proof.Machine.State.setSlot
  repeat' first
    | with_reducible assumption
    | fail_if_no_progress with_reducible apply Keeps.mk0

theorem Keeps.setCflOp {s u : State} (a1 : Option CflOp) (h : Keeps s u) : Keeps s (State.setCflOp u a1) := by
  unfold Sys2Proof.Machine.State.setCflOp
  repeat' first
    | with_reducible assumption
    | fail_if_no_progress with_reducible apply Keeps.mk0
    | with_reducible apply Keeps.setFld

theorem Keeps.dropLines {s u : State} (a1 : ℕ) (h : Keeps s u) : Keeps s (State.dropLines u a1) := by
  unfold Sys2Proof.Machine.State.dropLines
  repeat' first
    | with_reducible assumption
    | fail_if_no_progress with_reducible apply Keeps.mk0

theorem Keeps.clearSector {s u : State} (a1 : ℕ) (h : Keeps s u) : Keeps s (State.clearSector u a1) := by
  unfold Sys2Proof.Machine.State.clearSector
  repeat' first
    | with_reducible assumption
    | fail_if_no_progress with_reducible apply Keeps.mk0
    | with_reducible apply Keeps.setSlot
    | with_reducible apply Keeps.ite
    | with_reducible apply Keeps.foldl
    | with_reducible apply Keeps.foldlFst
    | intro _ _ _ _
    | intro _ _ _
    | dsimp only
    | split
    | with_reducible refine Keeps.ofFst ?_ (by assumption)
    | fail_if_no_progress with_reducible refine Keeps.mk' ?_ (by first | exact Nat.le_refl _ | exact Nat.le_succ _ | with_unfolding_all exact Nat.le_add_right _ _) (by first | exact List.prefix_rfl)

theorem Keeps.beginErase {s u : State} (a1 : ℕ) (h : Keeps s u) : Keeps s (State.beginErase u a1) := by
  unfold Sys2Proof.Machine.State.beginErase
  repeat' first
    | with_reducible assumption
    | fail_if_no_progress with_reducible apply Keeps.mk0
    | with_reducible apply Keeps.setCflOp
    | with_reducible apply Keeps.dropLines
    | with_reducible apply Keeps.clearSector
    | with_reducible apply Keeps.ite
    | with_reducible apply Keeps.foldl
    | with_reducible apply Keeps.foldlFst
    | intro _ _ _ _
    | intro _ _ _
    | dsimp only
    | split
    | with_reducible refine Keeps.ofFst ?_ (by assumption)
    | fail_if_no_progress with_reducible refine Keeps.mk' ?_ (by first | exact Nat.le_refl _ | exact Nat.le_succ _ | with_unfolding_all exact Nat.le_add_right _ _) (by first | exact List.prefix_rfl)

theorem Keeps.startErase {s u : State} (a1 : ℕ) (h : Keeps s u) : Keeps s (State.startErase u a1) := by
  unfold Sys2Proof.Machine.State.startErase
  repeat' first
    | with_reducible assumption
    | fail_if_no_progress with_reducible apply Keeps.mk0
    | with_reducible apply Keeps.beginErase
    | with_reducible apply Keeps.ite
    | with_reducible apply Keeps.foldl
    | with_reducible apply Keeps.foldlFst
    | intro _ _ _ _
    | intro _ _ _
    | dsimp only
    | split
    | with_reducible refine Keeps.ofFst ?_ (by assumption)
    | fail_if_no_progress with_reducible refine Keeps.mk' ?_ (by first | exact Nat.le_refl _ | exact Nat.le_succ _ | with_unfolding_all exact Nat.le_add_right _ _) (by first | exact List.prefix_rfl)

theorem Keeps.cflFree {s u : State} (h : Keeps s u) : Keeps s (State.cflFree u) := by
  unfold Sys2Proof.Machine.State.cflFree
  repeat' first
    | with_reducible assumption
    | fail_if_no_progress with_reducible apply Keeps.mk0
    | with_reducible apply Keeps.setCflOp
    | with_reducible apply Keeps.beginErase
    | with_reducible apply Keeps.ite
    | with_reducible apply Keeps.foldl
    | with_reducible apply Keeps.foldlFst
    | intro _ _ _ _
    | intro _ _ _
    | dsimp only
    | split
    | with_reducible refine Keeps.ofFst ?_ (by assumption)
    | fail_if_no_progress with_reducible refine Keeps.mk' ?_ (by first | exact Nat.le_refl _ | exact Nat.le_succ _ | with_unfolding_all exact Nat.le_add_right _ _) (by first | exact List.prefix_rfl)

theorem Keeps.eraseDone {s u : State} (a1 : ℕ) (h : Keeps s u) : Keeps s (State.eraseDone u a1) := by
  unfold Sys2Proof.Machine.State.eraseDone
  repeat' first
    | with_reducible assumption
    | fail_if_no_progress with_reducible apply Keeps.mk0
    | with_reducible apply Keeps.ite
    | with_reducible apply Keeps.foldl
    | with_reducible apply Keeps.foldlFst
    | intro _ _ _ _
    | intro _ _ _
    | dsimp only
    | split
    | with_reducible refine Keeps.ofFst ?_ (by assumption)
    | fail_if_no_progress with_reducible refine Keeps.mk' ?_ (by first | exact Nat.le_refl _ | exact Nat.le_succ _ | with_unfolding_all exact Nat.le_add_right _ _) (by first | exact List.prefix_rfl)

theorem Keeps.sectorBad {s u : State} (a1 : ℕ) (h : Keeps s u) : Keeps s (State.sectorBad u a1) := by
  unfold Sys2Proof.Machine.State.sectorBad
  repeat' first
    | with_reducible assumption
    | fail_if_no_progress with_reducible apply Keeps.mk0
    | with_reducible apply Keeps.cflCause
    | with_reducible apply Keeps.setFld
    | with_reducible apply Keeps.setSlot
    | split

theorem Keeps.execOptionCommit {s u : State} (h : Keeps s u) : KeepsRes s (execOptionCommit u) := by
  unfold Sys2Proof.Machine.execOptionCommit
  repeat' first
    | with_reducible assumption
    | with_reducible apply KeepsRes.next
    | with_reducible apply Keeps.cflCause
    | with_reducible apply Keeps.setFld
    | with_reducible apply Keeps.startErase
    | with_reducible apply KeepsRes.ite

theorem Keeps.cflNext {s u : State} (a1 : ℕ) (a2 : ℕ) (h : Keeps s u) : Keeps s (State.cflNext u a1 a2) := by
  unfold Sys2Proof.Machine.State.cflNext
  repeat' first
    | with_reducible assumption
    | fail_if_no_progress with_reducible apply Keeps.mk0
    | with_reducible apply Keeps.setCflOp
    | with_reducible apply Keeps.cflFree
    | with_reducible apply Keeps.ite
    | with_reducible apply Keeps.foldl
    | with_reducible apply Keeps.foldlFst
    | intro _ _ _ _
    | intro _ _ _
    | dsimp only
    | split
    | with_reducible refine Keeps.ofFst ?_ (by assumption)
    | fail_if_no_progress with_reducible refine Keeps.mk' ?_ (by first | exact Nat.le_refl _ | exact Nat.le_succ _ | with_unfolding_all exact Nat.le_add_right _ _) (by first | exact List.prefix_rfl)

theorem Keeps.execOptionCommitDone {s u : State} (a0 : Bool) (h : Keeps s u) : KeepsRes s (execOptionCommitDone a0 u) := by
  unfold Sys2Proof.Machine.execOptionCommitDone
  repeat' first
    | with_reducible assumption
    | fail_if_no_progress with_reducible apply Keeps.mk0
    | with_reducible apply KeepsRes.next
    | exact KeepsRes.fault _
    | with_reducible apply Keeps.setFld
    | with_reducible apply Keeps.cflCause
    | with_reducible apply Keeps.cflFree
    | with_reducible apply Keeps.eraseDone
    | with_reducible apply Keeps.sectorBad
    | with_reducible apply Keeps.ite
    | with_reducible apply KeepsRes.ite
    | with_reducible apply Keeps.foldl
    | with_reducible apply Keeps.foldlFst
    | intro _ _ _ _
    | intro _ _ _
    | dsimp only
    | split
    | with_reducible refine Keeps.ofFst ?_ (by assumption)
    | fail_if_no_progress with_reducible refine Keeps.mk' ?_ (by first | exact Nat.le_refl _ | exact Nat.le_succ _ | with_unfolding_all exact Nat.le_add_right _ _) (by first | exact List.prefix_rfl)

theorem Keeps.putLine {s u : State} (a1 : ℕ) (a2 : Bytes) (h : Keeps s u) : Keeps s (State.putLine u a1 a2) := by
  unfold Sys2Proof.Machine.State.putLine
  repeat' first
    | with_reducible assumption
    | fail_if_no_progress with_reducible apply Keeps.mk0
    | with_reducible apply Keeps.setSlot
    | with_reducible apply Keeps.ite
    | with_reducible apply Keeps.foldl
    | with_reducible apply Keeps.foldlFst
    | intro _ _ _ _
    | intro _ _ _
    | dsimp only
    | split
    | with_reducible refine Keeps.ofFst ?_ (by assumption)
    | fail_if_no_progress with_reducible refine Keeps.mk' ?_ (by first | exact Nat.le_refl _ | exact Nat.le_succ _ | with_unfolding_all exact Nat.le_add_right _ _) (by first | exact List.prefix_rfl)

theorem Keeps.execCflProgramDone {s u : State} (a0 : Bool) (h : Keeps s u) : KeepsRes s (execCflProgramDone a0 u) := by
  unfold Sys2Proof.Machine.execCflProgramDone
  repeat' first
    | with_reducible assumption
    | fail_if_no_progress with_reducible apply Keeps.mk0
    | with_reducible apply KeepsRes.next
    | exact KeepsRes.fault _
    | with_reducible apply Keeps.cflNext
    | with_reducible apply Keeps.putLine
    | with_reducible apply Keeps.cflFree
    | with_reducible apply Keeps.sectorBad
    | with_reducible apply Keeps.ite
    | with_reducible apply KeepsRes.ite
    | with_reducible apply Keeps.foldl
    | with_reducible apply Keeps.foldlFst
    | intro _ _ _ _
    | intro _ _ _
    | dsimp only
    | split
    | with_reducible refine Keeps.ofFst ?_ (by assumption)
    | fail_if_no_progress with_reducible refine Keeps.mk' ?_ (by first | exact Nat.le_refl _ | exact Nat.le_succ _ | with_unfolding_all exact Nat.le_add_right _ _) (by first | exact List.prefix_rfl)

theorem Keeps.execCflEraseDone {s u : State} (a0 : Bool) (a1 : ℕ) (h : Keeps s u) : KeepsRes s (execCflEraseDone a0 a1 u) := by
  unfold Sys2Proof.Machine.execCflEraseDone
  repeat' first
    | with_reducible assumption
    | fail_if_no_progress with_reducible apply Keeps.mk0
    | with_reducible apply KeepsRes.next
    | exact KeepsRes.fault _
    | with_reducible apply Keeps.cflNext
    | with_reducible apply Keeps.eraseDone
    | with_reducible apply Keeps.cflCause
    | with_reducible apply Keeps.setFld
    | with_reducible apply Keeps.cflFree
    | with_reducible apply Keeps.sectorBad
    | with_reducible apply Keeps.ite
    | with_reducible apply KeepsRes.ite
    | with_reducible apply Keeps.foldl
    | with_reducible apply Keeps.foldlFst
    | intro _ _ _ _
    | intro _ _ _
    | dsimp only
    | split
    | with_reducible refine Keeps.ofFst ?_ (by assumption)
    | fail_if_no_progress with_reducible refine Keeps.mk' ?_ (by first | exact Nat.le_refl _ | exact Nat.le_succ _ | with_unfolding_all exact Nat.le_add_right _ _) (by first | exact List.prefix_rfl)

theorem Keeps.execCflRead {s u : State} (a0 : ℕ) (a1 : ℕ) (a2 : ℕ) (a3 : Bool) (h : Keeps s u) : KeepsRes s (execCflRead a0 a1 a2 a3 u) := by
  unfold Sys2Proof.Machine.execCflRead
  repeat' first
    | with_reducible assumption
    | fail_if_no_progress with_reducible apply Keeps.mk0
    | with_reducible apply KeepsRes.next
    | with_reducible apply Keeps.setFld
    | split

theorem Keeps.execCflEraseResume {s u : State} (h : Keeps s u) : KeepsRes s (execCflEraseResume u) := by
  unfold Sys2Proof.Machine.execCflEraseResume
  repeat' first
    | with_reducible assumption
    | fail_if_no_progress with_reducible apply Keeps.mk0
    | with_reducible apply KeepsRes.next
    | exact KeepsRes.fault _
    | with_reducible apply Keeps.setFld
    | with_reducible apply Keeps.ite
    | with_reducible apply KeepsRes.ite
    | with_reducible apply Keeps.foldl
    | with_reducible apply Keeps.foldlFst
    | intro _ _ _ _
    | intro _ _ _
    | dsimp only
    | split
    | with_reducible refine Keeps.ofFst ?_ (by assumption)
    | fail_if_no_progress with_reducible refine Keeps.mk' ?_ (by first | exact Nat.le_refl _ | exact Nat.le_succ _ | with_unfolding_all exact Nat.le_add_right _ _) (by first | exact List.prefix_rfl)

end Sys2Proof.Machine
end

