-- ==== Sys2Proof/Laws/KeepsDma.lean ====
section
/-! SUPPORT. What the operations of Machine/Dma.lean keep. -/

namespace Sys2Proof.Machine

theorem Keeps.setDma {s u : State} (a1 : ℕ) (a2 : DmaChan) (h : Keeps s u) : Keeps s (State.setDma u a1 a2) := by
  unfold Sys2Proof.Machine.State.setDma
  repeat' first
    | with_reducible assumption
    | fail_if_no_progress with_reducible apply Keeps.mk0

theorem Keeps.dmaPos {s u : State} (a1 : ℕ) (a2 : ℕ) (a3 : ℕ) (h : Keeps s u) : Keeps s (State.dmaPos u a1 a2 a3) := by
  unfold Sys2Proof.Machine.State.dmaPos
  repeat' first
    | with_reducible assumption
    | fail_if_no_progress with_reducible apply Keeps.mk0
    | with_reducible apply Keeps.setFld
    | with_reducible apply Keeps.ite
    | with_reducible apply Keeps.foldl
    | with_reducible apply Keeps.foldlFst
    | intro _ _ _ _
    | intro _ _ _
    | dsimp only
    | split
    | with_reducible refine Keeps.ofFst ?_ (by assumption)
    | fail_if_no_progress with_reducible refine Keeps.mk' ?_ (by first | exact Nat.le_refl _ | exact Nat.le_succ _ | with_unfolding_all exact Nat.le_add_right _ _) (by first | exact List.prefix_rfl)

theorem Keeps.dmaGet {s u : State} (a1 : ℕ) (a2 : ℕ) (a3 : ℕ) (a4 : DmaAt) (a5 : ℕ) (a6 : Bytes) (a7 : Severity) (h : Keeps s u) : Keeps s (State.dmaGet u a1 a2 a3 a4 a5 a6 a7).1 := by
  unfold Sys2Proof.Machine.State.dmaGet
  repeat' first
    | with_reducible assumption
    | fail_if_no_progress with_reducible apply Keeps.mk0
    | with_reducible apply Keeps.bankRead
    | with_reducible apply Keeps.hbmAccess
    | with_reducible apply Keeps.hbmSettle
    | with_reducible apply Keeps.ite
    | with_reducible apply Keeps.foldl
    | with_reducible apply Keeps.foldlFst
    | intro _ _ _ _
    | intro _ _ _
    | dsimp only
    | split
    | with_reducible refine Keeps.ofFst ?_ (by assumption)
    | fail_if_no_progress with_reducible refine Keeps.mk' ?_ (by first | exact Nat.le_refl _ | exact Nat.le_succ _ | with_unfolding_all exact Nat.le_add_right _ _) (by first | exact List.prefix_rfl)

theorem Keeps.dmaPut {s u : State} (a1 : ℕ) (a2 : ℕ) (a3 : ℕ) (a4 : DmaAt) (a5 : Bytes) (a6 : Severity) (h : Keeps s u) : Keeps s (State.dmaPut u a1 a2 a3 a4 a5 a6).1 := by
  unfold Sys2Proof.Machine.State.dmaPut
  repeat' first
    | with_reducible assumption
    | fail_if_no_progress with_reducible apply Keeps.mk0
    | with_reducible apply Keeps.bankWrite
    | with_reducible apply Keeps.emit
    | with_reducible apply Keeps.count
    | with_reducible apply Keeps.pstStore
    | with_reducible apply Keeps.hbmAccess
    | with_reducible apply Keeps.hbmSettle
    | with_reducible apply Keeps.ite
    | with_reducible apply Keeps.foldl
    | with_reducible apply Keeps.foldlFst
    | intro _ _ _ _
    | intro _ _ _
    | dsimp only
    | split
    | with_reducible refine Keeps.ofFst ?_ (by assumption)
    | fail_if_no_progress with_reducible refine Keeps.mk' ?_ (by first | exact Nat.le_refl _ | exact Nat.le_succ _ | with_unfolding_all exact Nat.le_add_right _ _) (by first | exact List.prefix_rfl)

theorem Keeps.dmaHalt {s u : State} (a1 : ℕ) (a2 : ℕ) (a3 : ℕ) (a4 : ℕ) (h : Keeps s u) : Keeps s (State.dmaHalt u a1 a2 a3 a4) := by
  unfold Sys2Proof.Machine.State.dmaHalt
  repeat' first
    | with_reducible assumption
    | with_reducible apply Keeps.setFld
    | with_reducible apply Keeps.dmaCause
    | with_reducible apply Keeps.setDma

theorem Keeps.dmaFail {s u : State} (a1 : ℕ) (a2 : ℕ) (a3 : ℕ) (a4 : ℕ) (h : Keeps s u) : Keeps s (State.dmaFail u a1 a2 a3 a4) := by
  unfold Sys2Proof.Machine.State.dmaFail
  repeat' first
    | with_reducible assumption
    | with_reducible apply Keeps.dmaCause
    | with_reducible apply Keeps.addFld
    | with_reducible apply Keeps.dmaHalt
    | with_reducible apply Keeps.ite

theorem Keeps.execDmaStart {s u : State} (a0 : ℕ) (h : Keeps s u) : KeepsRes s (execDmaStart a0 u) := by
  unfold Sys2Proof.Machine.execDmaStart
  repeat' first
    | with_reducible assumption
    | fail_if_no_progress with_reducible apply Keeps.mk0
    | with_reducible apply KeepsRes.next
    | exact KeepsRes.fault _
    | with_reducible apply Keeps.holdWork
    | with_reducible apply Keeps.setFld
    | with_reducible apply Keeps.setReg
    | with_reducible apply Keeps.setDma
    | with_reducible apply Keeps.ite
    | with_reducible apply KeepsRes.ite
    | with_reducible apply Keeps.foldl
    | with_reducible apply Keeps.foldlFst
    | intro _ _ _ _
    | intro _ _ _
    | dsimp only
    | split
    | with_reducible refine Keeps.ofFst ?_ (by assumption)
    | fail_if_no_progress with_reducible refine Keeps.mk' ?_ (by first | exact Nat.le_refl _ | exact Nat.le_succ _ | with_unfolding_all exact Nat.le_add_right _ _) (by first | exact List.prefix_rfl)

theorem Keeps.dmaPaused {s u : State} (a1 : ℕ) (h : Keeps s u) : Keeps s (State.dmaPaused u a1) := by
  unfold Sys2Proof.Machine.State.dmaPaused
  repeat' first
    | with_reducible assumption
    | with_reducible apply Keeps.dmaCause
    | with_reducible apply Keeps.setFld

theorem Keeps.execDmaPause {s u : State} (a0 : ℕ) (h : Keeps s u) : KeepsRes s (execDmaPause a0 u) := by
  unfold Sys2Proof.Machine.execDmaPause
  repeat' first
    | with_reducible assumption
    | with_reducible apply KeepsRes.next
    | with_reducible apply Keeps.setFld
    | with_reducible apply Keeps.dmaPaused
    | with_reducible apply Keeps.draw
    | with_reducible apply Keeps.setDma
    | with_reducible apply KeepsRes.ite

theorem Keeps.execDmaResume {s u : State} (a0 : ℕ) (h : Keeps s u) : KeepsRes s (execDmaResume a0 u) := by
  unfold Sys2Proof.Machine.execDmaResume
  repeat' first
    | with_reducible assumption
    | fail_if_no_progress with_reducible apply Keeps.mk0
    | with_reducible apply KeepsRes.next
    | exact KeepsRes.fault _
    | with_reducible apply Keeps.holdWork
    | with_reducible apply Keeps.setDma
    | with_reducible apply Keeps.dmaPos
    | with_reducible apply Keeps.setFld
    | with_reducible apply Keeps.ite
    | with_reducible apply KeepsRes.ite
    | with_reducible apply Keeps.foldl
    | with_reducible apply Keeps.foldlFst
    | intro _ _ _ _
    | intro _ _ _
    | dsimp only
    | split
    | with_reducible refine Keeps.ofFst ?_ (by assumption)
    | fail_if_no_progress with_reducible refine Keeps.mk' ?_ (by first | exact Nat.le_refl _ | exact Nat.le_succ _ | with_unfolding_all exact Nat.le_add_right _ _) (by first | exact List.prefix_rfl)

theorem Keeps.dmaWriteBack {s u : State} (a1 : ℕ) (a2 : Bool) (a3 : Bool) (h : Keeps s u) : Keeps s (State.dmaWriteBack u a1 a2 a3).1 := by
  unfold Sys2Proof.Machine.State.dmaWriteBack
  repeat' first
    | with_reducible assumption
    | fail_if_no_progress with_reducible apply Keeps.mk0
    | with_reducible apply Keeps.dmaPut
    | with_reducible apply Keeps.ite
    | with_reducible apply Keeps.foldl
    | with_reducible apply Keeps.foldlFst
    | intro _ _ _ _
    | intro _ _ _
    | dsimp only
    | split
    | with_reducible refine Keeps.ofFst ?_ (by assumption)
    | fail_if_no_progress with_reducible refine Keeps.mk' ?_ (by first | exact Nat.le_refl _ | exact Nat.le_succ _ | with_unfolding_all exact Nat.le_add_right _ _) (by first | exact List.prefix_rfl)

theorem Keeps.dmaIdle {s u : State} (a1 : ℕ) (h : Keeps s u) : Keeps s (State.dmaIdle u a1) := by
  unfold Sys2Proof.Machine.State.dmaIdle
  repeat' first
    | with_reducible assumption
    | fail_if_no_progress with_reducible apply Keeps.mk0
    | with_reducible apply Keeps.setDma
    | with_reducible apply Keeps.dmaPos
    | with_reducible apply Keeps.setFld
    | with_reducible apply Keeps.ite
    | with_reducible apply Keeps.foldl
    | with_reducible apply Keeps.foldlFst
    | intro _ _ _ _
    | intro _ _ _
    | dsimp only
    | split
    | with_reducible refine Keeps.ofFst ?_ (by assumption)
    | fail_if_no_progress with_reducible refine Keeps.mk' ?_ (by first | exact Nat.le_refl _ | exact Nat.le_succ _ | with_unfolding_all exact Nat.le_add_right _ _) (by first | exact List.prefix_rfl)

theorem Keeps.dmaDropping {s u : State} (a1 : ℕ) (h : Keeps s u) : Keeps s (State.dmaDropping u a1) := by
  unfold Sys2Proof.Machine.State.dmaDropping
  exact Keeps.setDma _ _ (Keeps.dmaPos _ _ _ (Keeps.setFld _ _ h))

theorem Keeps.execDmaTaildrop {s u : State} (a0 : ℕ) (h : Keeps s u) : KeepsRes s (execDmaTaildrop a0 u) := by
  unfold Sys2Proof.Machine.execDmaTaildrop
  repeat' first
    | with_reducible assumption
    | fail_if_no_progress with_reducible apply Keeps.mk0
    | with_reducible apply KeepsRes.next
    | exact KeepsRes.fault _
    | with_reducible apply Keeps.dmaDropping
    | with_reducible apply Keeps.setDma
    | with_reducible apply Keeps.setFld
    | with_reducible apply Keeps.dmaIdle
    | with_reducible apply Keeps.dmaCause
    | with_reducible apply Keeps.dmaWriteBack
    | with_reducible apply Keeps.ite
    | with_reducible apply KeepsRes.ite
    | with_reducible apply Keeps.foldl
    | with_reducible apply Keeps.foldlFst
    | intro _ _ _ _
    | intro _ _ _
    | dsimp only
    | split
    | with_reducible refine Keeps.ofFst ?_ (by assumption)
    | fail_if_no_progress with_reducible refine Keeps.mk' ?_ (by first | exact Nat.le_refl _ | exact Nat.le_succ _ | with_unfolding_all exact Nat.le_add_right _ _) (by first | exact List.prefix_rfl)

theorem Keeps.dmaFetch {s u : State} (a1 : ℕ) (a2 : Option Bytes) (h : Keeps s u) : Keeps s (State.dmaFetch u a1 a2).1 := by
  unfold Sys2Proof.Machine.State.dmaFetch
  repeat' first
    | with_reducible assumption
    | fail_if_no_progress with_reducible apply Keeps.mk0
    | with_reducible apply Keeps.dmaGet
    | with_reducible apply Keeps.ite
    | with_reducible apply Keeps.foldl
    | with_reducible apply Keeps.foldlFst
    | intro _ _ _ _
    | intro _ _ _
    | dsimp only
    | split
    | with_reducible refine Keeps.ofFst ?_ (by assumption)
    | fail_if_no_progress with_reducible refine Keeps.mk' ?_ (by first | exact Nat.le_refl _ | exact Nat.le_succ _ | with_unfolding_all exact Nat.le_add_right _ _) (by first | exact List.prefix_rfl)

theorem Keeps.execDmaDescriptorFetch {s u : State} (a0 : ℕ) (a1 : Option Bytes) (h : Keeps s u) : KeepsRes s (execDmaDescriptorFetch a0 a1 u) := by
  unfold Sys2Proof.Machine.execDmaDescriptorFetch
  repeat' first
    | with_reducible assumption
    | fail_if_no_progress with_reducible apply Keeps.mk0
    | with_reducible apply KeepsRes.next
    | exact KeepsRes.fault _
    | with_reducible apply Keeps.dmaFetch
    | with_reducible apply Keeps.dmaFail
    | with_reducible apply Keeps.setDma
    | with_reducible apply Keeps.dmaHalt
    | with_reducible apply Keeps.setFld
    | with_reducible apply Keeps.dmaPaused
    | with_reducible apply Keeps.ite
    | with_reducible apply KeepsRes.ite
    | with_reducible apply Keeps.foldl
    | with_reducible apply Keeps.foldlFst
    | intro _ _ _ _
    | intro _ _ _
    | dsimp only
    | split
    | with_reducible refine Keeps.ofFst ?_ (by assumption)

theorem Keeps.dmaGather {s u : State} (a1 : ℕ) (a2 : Desc) (a3 : List ℕ) (a4 : Bytes) (a5 : List Severity) (h : Keeps s u) : Keeps s (State.dmaGather u a1 a2 a3 a4 a5).1 := by
  induction a3 generalizing u a1 a2 a4 a5 with
  | nil =>
    unfold Sys2Proof.Machine.State.dmaGather
    repeat' first
      | with_reducible assumption
      | fail_if_no_progress with_reducible apply Keeps.mk0
      | with_reducible apply Keeps.dmaGet
      | with_reducible apply Keeps.ite
      | with_reducible apply Keeps.foldl
      | with_reducible apply Keeps.foldlFst
      | intro _ _ _ _
      | intro _ _ _
      | dsimp only
      | split
      | with_reducible refine Keeps.ofFst ?_ (by assumption)
      | fail_if_no_progress with_reducible refine Keeps.mk' ?_ (by first | exact Nat.le_refl _ | exact Nat.le_succ _ | with_unfolding_all exact Nat.le_add_right _ _) (by first | exact List.prefix_rfl)
  | cons y l ih =>
    unfold Sys2Proof.Machine.State.dmaGather
    repeat' first
      | with_reducible assumption
      | with_reducible apply ih
      | fail_if_no_progress with_reducible apply Keeps.mk0
      | with_reducible apply Keeps.dmaGet
      | with_reducible apply Keeps.ite
      | with_reducible apply Keeps.foldl
      | with_reducible apply Keeps.foldlFst
      | intro _ _ _ _
      | intro _ _ _
      | dsimp only
      | split
      | with_reducible refine Keeps.ofFst ?_ (by assumption)
      | fail_if_no_progress with_reducible refine Keeps.mk' ?_ (by first | exact Nat.le_refl _ | exact Nat.le_succ _ | with_unfolding_all exact Nat.le_add_right _ _) (by first | exact List.prefix_rfl)

theorem Keeps.dmaScatter {s u : State} (a1 : ℕ) (a2 : Desc) (a3 : Option ℕ) (a4 : List ℕ) (a5 : Bytes) (a6 : List Severity) (h : Keeps s u) : Keeps s (State.dmaScatter u a1 a2 a3 a4 a5 a6).1 := by
  induction a4 generalizing u a1 a2 a3 a5 a6 with
  | nil =>
    unfold Sys2Proof.Machine.State.dmaScatter
    repeat' first
      | with_reducible assumption
      | fail_if_no_progress with_reducible apply Keeps.mk0
      | with_reducible apply Keeps.dmaPut
      | with_reducible apply Keeps.ite
      | with_reducible apply Keeps.foldl
      | with_reducible apply Keeps.foldlFst
      | intro _ _ _ _
      | intro _ _ _
      | dsimp only
      | split
      | with_reducible refine Keeps.ofFst ?_ (by assumption)
      | fail_if_no_progress with_reducible refine Keeps.mk' ?_ (by first | exact Nat.le_refl _ | exact Nat.le_succ _ | with_unfolding_all exact Nat.le_add_right _ _) (by first | exact List.prefix_rfl)
  | cons y l ih =>
    unfold Sys2Proof.Machine.State.dmaScatter
    repeat' first
      | with_reducible assumption
      | with_reducible apply ih
      | fail_if_no_progress with_reducible apply Keeps.mk0
      | with_reducible apply Keeps.dmaPut
      | with_reducible apply Keeps.ite
      | with_reducible apply Keeps.foldl
      | with_reducible apply Keeps.foldlFst
      | intro _ _ _ _
      | intro _ _ _
      | dsimp only
      | split
      | with_reducible refine Keeps.ofFst ?_ (by assumption)
      | fail_if_no_progress with_reducible refine Keeps.mk' ?_ (by first | exact Nat.le_refl _ | exact Nat.le_succ _ | with_unfolding_all exact Nat.le_add_right _ _) (by first | exact List.prefix_rfl)

theorem Keeps.dmaReads {s u : State} (a1 : ℕ) (a2 : Desc) (a3 : Bool) (a4 : ℕ) (a5 : Option Bytes) (a6 : List Severity) (h : Keeps s u) :
    Keeps s (State.dmaReads u a1 a2 a3 a4 a5 a6).1 := by
  induction a4 generalizing u a5 a6 with
  | zero => exact h
  | succ k ih =>
    unfold Sys2Proof.Machine.State.dmaReads
    dsimp only
    split
    · exact h
    · split
      · exact h
      · have hg := Keeps.dmaGather a1 a2 (elemsOf (u.fld (F.DMA_POS_READ a1)) (a2.burst (u.fld (F.DMA_POS_READ a1))) (2 ^ a2.sW)) (a5.getD []) a6 h
        split
        · next e => rw [e] at hg; exact ih _ _ (Keeps.setDma _ _ (Keeps.dmaPos _ _ _ hg))
        · next e => rw [e] at hg; exact hg

theorem Keeps.dmaWritten {s u : State} (a1 : ℕ) (a2 : Desc) (a3 : ℕ) (h : Keeps s u) : Keeps s (State.dmaWritten u a1 a2 a3) := by
  unfold Sys2Proof.Machine.State.dmaWritten
  repeat' first
    | with_reducible assumption
    | fail_if_no_progress with_reducible apply Keeps.mk0
    | with_reducible apply Keeps.setDma
    | with_reducible apply Keeps.setFld
    | with_reducible apply Keeps.dmaPos
    | with_reducible apply Keeps.dmaPaused
    | with_reducible apply Keeps.ite
    | with_reducible apply Keeps.foldl
    | with_reducible apply Keeps.foldlFst
    | intro _ _ _ _
    | intro _ _ _
    | dsimp only
    | split
    | with_reducible refine Keeps.ofFst ?_ (by assumption)
    | fail_if_no_progress with_reducible refine Keeps.mk' ?_ (by first | exact Nat.le_refl _ | exact Nat.le_succ _ | with_unfolding_all exact Nat.le_add_right _ _) (by first | exact List.prefix_rfl)

theorem Keeps.dmaDrain {s u : State} (n : ℕ) (d : Desc) (ok : Bool) (vs : List Severity) (h : Keeps s u) :
    ∀ t, u.dmaDrain n d ok vs = some t → Keeps s t := by
  intro t e
  unfold Sys2Proof.Machine.State.dmaDrain at e
  extract_lets done nb js stop at e
  have hs := Keeps.dmaScatter n d stop js ((u.dmaCh n).buf.take nb) vs (Keeps.draw h)
  split at e
  · cases e
  · next ev => rw [ev] at hs; cases e; exact Keeps.dmaFail _ _ _ _ hs
  · next ev => rw [ev] at hs; cases e; exact Keeps.dmaWritten _ _ _ hs

theorem Keeps.dmaReadBack {s u : State} (d : Desc) (line : ℕ) (sev : Severity) (h : Keeps s u) :
    ∀ t, u.dmaReadBack d line sev = some t → Keeps s t := by
  intro t e
  unfold Sys2Proof.Machine.State.dmaReadBack at e
  split at e
  · split at e
    · cases e; exact Keeps.hbmAccess _ _ _ _ _ (Keeps.hbmSettle _ _ h)
    · cases e
  · dsimp only at e
    split at e
    · cases e; exact Keeps.hbmAccess _ _ _ _ _ (Keeps.hbmSettle _ _ h)
    · cases e
  · cases e; exact h

theorem Keeps.execDmaBurst {s u : State} (a0 a1 : ℕ) (a2 : Option Bytes) (a3 a4 : Bool) (a5 a6 : List Severity) (h : Keeps s u) :
    KeepsRes s (execDmaBurst a0 a1 a2 a3 a4 a5 a6 u) := by
  unfold Sys2Proof.Machine.execDmaBurst
  dsimp only
  split
  · exact KeepsRes.next h
  · next d _ =>
    split
    · exact KeepsRes.next h
    · have hr := Keeps.dmaReads a0 d a3 (min a1 (u.dmaRoom a0)) a2 a5 h
      split
      · exact KeepsRes.next h
      · next ev => rw [ev] at hr; exact KeepsRes.next (Keeps.dmaFail _ _ _ _ hr)
      · next t _ _ ev =>
        rw [ev] at hr
        split
        · exact KeepsRes.next hr
        · refine KeepsRes.next ?_
          cases e : t.dmaDrain a0 d a4 a6 with
          | none => exact h
          | some v => exact Keeps.dmaDrain _ _ _ _ hr v e

theorem Keeps.dmaEnd {s u : State} (a1 : ℕ) (a2 : Desc) (h : Keeps s u) : Keeps s (State.dmaEnd u a1 a2) := by
  unfold Sys2Proof.Machine.State.dmaEnd
  repeat' first
    | with_reducible assumption
    | with_reducible apply Keeps.dmaIdle
    | with_reducible apply Keeps.dmaCause
    | with_reducible apply Keeps.addFld
    | with_reducible apply Keeps.setDma
    | with_reducible apply Keeps.setFld
    | with_reducible apply Keeps.setReg
    | with_reducible apply Keeps.ite

theorem Keeps.execDmaDescriptorComplete {s u : State} (a0 : ℕ) (a1 a2 : Bool) (a3 : Severity) (h : Keeps s u) :
    KeepsRes s (execDmaDescriptorComplete a0 a1 a2 a3 u) := by
  unfold Sys2Proof.Machine.execDmaDescriptorComplete
  dsimp only
  split
  · exact KeepsRes.next h
  · next d _ =>
    split
    · exact KeepsRes.next h
    · split
      · exact KeepsRes.next (Keeps.dmaFail _ _ _ _ h)
      · next r er =>
        have hr : Keeps s r := by
          split at er
          · cases er; exact h
          · split at er
            · exact Keeps.dmaReadBack _ _ _ h r er
            · cases er
        have hw := Keeps.dmaWriteBack a0 (u.dmaCh a0).dropping false hr
        split
        · split
          · exact KeepsRes.next (Keeps.dmaFail _ _ _ _ hr)
          · split
            · exact KeepsRes.next h
            · next ev => rw [ev] at hw; exact KeepsRes.next (Keeps.dmaFail _ _ _ _ hw)
            · next ev => rw [ev] at hw; exact KeepsRes.next (Keeps.dmaEnd _ _ hw)
        · exact KeepsRes.next (Keeps.dmaEnd _ _ hr)

theorem Keeps.dmaStop1 {s u : State} (a1 : ℕ) (h : Keeps s u) : Keeps s (State.dmaStop1 u a1) := by
  unfold Sys2Proof.Machine.State.dmaStop1
  repeat' first
    | with_reducible assumption
    | fail_if_no_progress with_reducible apply Keeps.mk0
    | with_reducible apply Keeps.dmaPos
    | with_reducible apply Keeps.setFld
    | with_reducible apply Keeps.dmaIdle

theorem Keeps.dmaStop {s u : State} (a1 : ℕ) (h : Keeps s u) : Keeps s (State.dmaStop u a1) := by
  unfold Sys2Proof.Machine.State.dmaStop
  repeat' first
    | with_reducible assumption
    | fail_if_no_progress with_reducible apply Keeps.mk0
    | with_reducible apply Keeps.over
    | with_reducible apply Keeps.dmaStop1

end Sys2Proof.Machine
end

