-- ==== Sys2Proof/Laws/KeepsIoOps.lean ====
section
/-! SUPPORT. What the operations of Machine/IoOps.lean keep. -/

namespace Sys2Proof.Machine

theorem Keeps.ioErr {s u : State} (a1 : ℕ) (a2 : ℕ) (a3 : IoErr) (h : Keeps s u) : Keeps s (State.ioErr u a1 a2 a3) := by
  unfold Sys2Proof.Machine.State.ioErr
  repeat' first
    | with_reducible assumption
    | with_reducible apply Keeps.finish

theorem Keeps.gather {s u : State} (a1 : List Blk) (h : Keeps s u) : Keeps s (State.gather u a1).1 := by
  induction a1 generalizing u  with
  | nil =>
    unfold Sys2Proof.Machine.State.gather
    repeat' first
      | with_reducible assumption
  | cons y l ih =>
    unfold Sys2Proof.Machine.State.gather
    repeat' first
      | with_reducible assumption
      | with_reducible apply ih
      | fail_if_no_progress with_reducible refine Keeps.mk' ?_ (by first | exact Nat.le_refl _ | exact Nat.le_succ _ | with_unfolding_all exact Nat.le_add_right _ _) (by first | exact List.prefix_rfl)

theorem Keeps.countDec {s u : State} (a1 : ℕ) (a2 : List Blk) (h : Keeps s u) : Keeps s (State.countDec u a1 a2) := by
  unfold Sys2Proof.Machine.State.countDec
  repeat' first
    | with_reducible assumption
    | with_reducible apply Keeps.over
    | with_reducible apply Keeps.count
    | with_reducible apply Keeps.ite
    | intro _ _ _

theorem Keeps.endReadKeyed {s u : State} (a1 : ℕ) (a2 : ℕ) (a3 : Tag) (a4 : ℕ) (a5 : List Blk) (a6 : ℕ) (h : Keeps s u) : Keeps s (State.endReadKeyed u a1 a2 a3 a4 a5 a6) := by
  unfold Sys2Proof.Machine.State.endReadKeyed
  repeat' first
    | with_reducible assumption
    | fail_if_no_progress with_reducible apply Keeps.mk0
    | with_reducible apply Keeps.countDec
    | with_reducible apply Keeps.finish
    | with_reducible apply Keeps.gather
    | with_reducible apply Keeps.ioGive
    | with_reducible apply Keeps.over
    | with_reducible apply Keeps.count
    | with_reducible apply Keeps.cphCause
    | with_reducible apply Keeps.ite
    | with_reducible apply Keeps.foldl
    | with_reducible apply Keeps.foldlFst
    | intro _ _ _ _
    | intro _ _ _
    | dsimp only
    | split
    | with_reducible refine Keeps.ofFst ?_ (by assumption)
    | fail_if_no_progress with_reducible refine Keeps.mk' ?_ (by first | exact Nat.le_refl _ | exact Nat.le_succ _ | with_unfolding_all exact Nat.le_add_right _ _) (by first | exact List.prefix_rfl)

theorem Keeps.endRead {s u : State} (a1 : ℕ) (a2 : ℕ) (a3 : Tag) (a4 : ℕ) (a5 : List Blk) (a6 : ℕ) (h : Keeps s u) : Keeps s (State.endRead u a1 a2 a3 a4 a5 a6) := by
  unfold Sys2Proof.Machine.State.endRead
  repeat' first
    | with_reducible assumption
    | fail_if_no_progress with_reducible apply Keeps.mk0
    | with_reducible apply Keeps.finish
    | with_reducible apply Keeps.keyMissing
    | with_reducible apply Keeps.endReadKeyed
    | with_reducible apply Keeps.ite
    | with_reducible apply Keeps.foldl
    | with_reducible apply Keeps.foldlFst
    | intro _ _ _ _
    | intro _ _ _
    | dsimp only
    | split

theorem Keeps.noteSeen {s u : State} (a1 : ℕ) (a2 : ℕ) (a3 : Seen) (a4 : List ℕ) (h : Keeps s u) : Keeps s (State.noteSeen u a1 a2 a3 a4) := by
  unfold Sys2Proof.Machine.State.noteSeen
  repeat' first
    | with_reducible assumption
    | fail_if_no_progress with_reducible apply Keeps.mk0
    | with_reducible apply Keeps.queueMedia
    | with_reducible apply Keeps.setTag
    | with_reducible apply Keeps.ite
    | with_reducible apply Keeps.foldl
    | with_reducible apply Keeps.foldlFst
    | intro _ _ _ _
    | intro _ _ _
    | dsimp only
    | split
    | with_reducible refine Keeps.ofFst ?_ (by assumption)
    | fail_if_no_progress with_reducible refine Keeps.mk' ?_ (by first | exact Nat.le_refl _ | exact Nat.le_succ _ | with_unfolding_all exact Nat.le_add_right _ _) (by first | exact List.prefix_rfl)

theorem Keeps.lookRead {s u : State} (a1 : ℕ) (a2 : ℕ) (a3 : ℕ) (a4 : ℕ) (a5 : ℕ) (a6 : Bool) (h : Keeps s u) : Keeps s (State.lookRead u a1 a2 a3 a4 a5 a6) := by
  unfold Sys2Proof.Machine.State.lookRead
  repeat' first
    | with_reducible assumption
    | fail_if_no_progress with_reducible apply Keeps.mk0
    | with_reducible apply Keeps.noteSeen
    | with_reducible apply Keeps.ite
    | with_reducible apply Keeps.foldl
    | with_reducible apply Keeps.foldlFst
    | intro _ _ _ _
    | intro _ _ _
    | dsimp only
    | split
    | with_reducible refine Keeps.ofFst ?_ (by assumption)
    | fail_if_no_progress with_reducible refine Keeps.mk' ?_ (by first | exact Nat.le_refl _ | exact Nat.le_succ _ | with_unfolding_all exact Nat.le_add_right _ _) (by first | exact List.prefix_rfl)

theorem Keeps.unread {s u : State} (a1 : ℕ × ℕ → Bool) (h : Keeps s u) : Keeps s (State.unread u a1) := by
  unfold Sys2Proof.Machine.State.unread
  repeat' first
    | with_reducible assumption
    | fail_if_no_progress with_reducible apply Keeps.mk0

theorem Keeps.endSeen {s u : State} (a1 : ℕ) (a2 : ℕ) (a3 : Tag) (a4 : ℕ) (a5 : List ℕ) (h : Keeps s u) : Keeps s (State.endSeen u a1 a2 a3 a4 a5) := by
  unfold Sys2Proof.Machine.State.endSeen
  repeat' first
    | with_reducible assumption
    | fail_if_no_progress with_reducible apply Keeps.mk0
    | with_reducible apply Keeps.endRead
    | with_reducible apply Keeps.ite
    | with_reducible apply Keeps.foldl
    | with_reducible apply Keeps.foldlFst
    | intro _ _ _ _
    | intro _ _ _
    | dsimp only
    | split
    | with_reducible refine Keeps.ofFst ?_ (by assumption)
    | fail_if_no_progress with_reducible refine Keeps.mk' ?_ (by first | exact Nat.le_refl _ | exact Nat.le_succ _ | with_unfolding_all exact Nat.le_add_right _ _) (by first | exact List.prefix_rfl)

end Sys2Proof.Machine
end

