-- ==== Sys2Proof/Laws/KeepsSpans.lean ====
section
/-! SUPPORT. What the operations of Machine/Spans.lean keep. -/

namespace Sys2Proof.Machine

theorem Keeps.execTrigEdge {s u : State} (a0 : ℕ) (h : Keeps s u) : KeepsRes s (execTrigEdge a0 u) := by
  unfold Sys2Proof.Machine.execTrigEdge
  repeat' first
    | with_reducible assumption
    | with_reducible apply KeepsRes.next
    | with_reducible apply Keeps.setReg
    | with_reducible apply Keeps.count
    | with_reducible apply Keeps.over
    | with_reducible apply Keeps.commitAll
    | with_reducible apply KeepsRes.ite
    | intro _ _ _

theorem Keeps.awaitSpan {s u : State} (a1 : ℕ) (a2 : ℕ) (a3 : ℕ) (a4 : ℕ) (h : Keeps s u) : Keeps s (State.awaitSpan u a1 a2 a3 a4) := by
  unfold Sys2Proof.Machine.State.awaitSpan
  repeat' first
    | with_reducible assumption
    | with_reducible apply Keeps.setSpan
    | with_reducible apply Keeps.setTag
    | split

theorem Keeps.execCaptureCommit {s u : State} (a0 : ℕ) (a1 : ℕ) (h : Keeps s u) : KeepsRes s (execCaptureCommit a0 a1 u) := by
  unfold Sys2Proof.Machine.execCaptureCommit
  repeat' first
    | with_reducible assumption
    | with_reducible apply KeepsRes.next
    | with_reducible apply Keeps.ioErr
    | with_reducible apply Keeps.awaitSpan
    | with_reducible apply Keeps.finish
    | with_reducible apply Keeps.decideSpan
    | split

theorem Keeps.execCaptureDiscard {s u : State} (a0 : ℕ) (a1 : ℕ) (h : Keeps s u) : KeepsRes s (execCaptureDiscard a0 a1 u) := by
  unfold Sys2Proof.Machine.execCaptureDiscard
  repeat' first
    | with_reducible assumption
    | with_reducible apply KeepsRes.next
    | with_reducible apply Keeps.ioErr
    | with_reducible apply Keeps.finish
    | with_reducible apply Keeps.decideSpan
    | split

theorem Keeps.trimPool {s u : State} (h : Keeps s u) : Keeps s (State.trimPool u) := by
  unfold Sys2Proof.Machine.State.trimPool
  repeat' first
    | with_reducible assumption
    | fail_if_no_progress with_reducible apply Keeps.mk0
    | with_reducible apply Keeps.over
    | with_reducible apply Keeps.setFtl
    | with_reducible apply Keeps.ite
    | with_reducible apply Keeps.foldl
    | with_reducible apply Keeps.foldlFst
    | intro _ _ _ _
    | intro _ _ _
    | dsimp only
    | split
    | with_reducible refine Keeps.ofFst ?_ (by assumption)
    | fail_if_no_progress with_reducible refine Keeps.mk' ?_ (by first | exact Nat.le_refl _ | exact Nat.le_succ _ | with_unfolding_all exact Nat.le_add_right _ _) (by first | exact List.prefix_rfl)

theorem Keeps.keepPool {s u : State} (h : Keeps s u) : Keeps s (State.keepPool u) := by
  unfold Sys2Proof.Machine.State.keepPool
  repeat' first
    | with_reducible assumption
    | fail_if_no_progress with_reducible apply Keeps.mk0
    | with_reducible apply Keeps.updGroups
    | with_reducible apply Keeps.over
    | with_reducible apply Keeps.trimPool
    | with_reducible apply Keeps.setFtl
    | with_reducible apply Keeps.ite
    | with_reducible apply Keeps.foldl
    | with_reducible apply Keeps.foldlFst
    | intro _ _ _ _
    | intro _ _ _
    | dsimp only
    | split
    | with_reducible refine Keeps.ofFst ?_ (by assumption)
    | fail_if_no_progress with_reducible refine Keeps.mk' ?_ (by first | exact Nat.le_refl _ | exact Nat.le_succ _ | with_unfolding_all exact Nat.le_add_right _ _) (by first | exact List.prefix_rfl)

theorem Keeps.returnPool {s u : State} (h : Keeps s u) : Keeps s (State.returnPool u) := by
  unfold Sys2Proof.Machine.State.returnPool
  repeat' first
    | with_reducible assumption
    | fail_if_no_progress with_reducible apply Keeps.mk0
    | with_reducible apply Keeps.updGroups
    | with_reducible apply Keeps.setFtl
    | with_reducible apply Keeps.ite
    | with_reducible apply Keeps.foldl
    | with_reducible apply Keeps.foldlFst
    | intro _ _ _ _
    | intro _ _ _
    | dsimp only
    | split
    | with_reducible refine Keeps.ofFst ?_ (by assumption)
    | fail_if_no_progress with_reducible refine Keeps.mk' ?_ (by first | exact Nat.le_refl _ | exact Nat.le_succ _ | with_unfolding_all exact Nat.le_add_right _ _) (by first | exact List.prefix_rfl)

theorem Keeps.swapIn {s u : State} (a1 : ℕ) (a2 : SpanX) (a3 : ℕ) (h : Keeps s u) : Keeps s (State.swapIn u a1 a2 a3) := by
  unfold Sys2Proof.Machine.State.swapIn
  repeat' first
    | with_reducible assumption
    | fail_if_no_progress with_reducible apply Keeps.mk0
    | with_reducible apply Keeps.mapExtent
    | with_reducible apply Keeps.ite
    | with_reducible apply Keeps.foldl
    | with_reducible apply Keeps.foldlFst
    | intro _ _ _ _
    | intro _ _ _
    | dsimp only
    | split
    | with_reducible refine Keeps.ofFst ?_ (by assumption)
    | fail_if_no_progress with_reducible refine Keeps.mk' ?_ (by first | exact Nat.le_refl _ | exact Nat.le_succ _ | with_unfolding_all exact Nat.le_add_right _ _) (by first | exact List.prefix_rfl)

theorem Keeps.noteDecided {s u : State} (a1 : ℕ) (h : Keeps s u) : Keeps s (State.noteDecided u a1) := by
  unfold Sys2Proof.Machine.State.noteDecided
  repeat' first
    | with_reducible assumption
    | with_reducible apply Keeps.setStr
    | with_reducible apply Keeps.landedMark
    | with_reducible apply Keeps.walkCursor
    | with_reducible apply Keeps.ite

theorem Keeps.endWaits {s u : State} (a1 : List SpanWait) (h : Keeps s u) : Keeps s (State.endWaits u a1) := by
  unfold Sys2Proof.Machine.State.endWaits
  repeat' first
    | with_reducible assumption
    | with_reducible apply Keeps.over
    | with_reducible apply Keeps.finish
    | intro _ _ _

theorem Keeps.execSpanCommitInstant {s u : State} (a0 : ℕ) (h : Keeps s u) : KeepsRes s (execSpanCommitInstant a0 u) := by
  unfold Sys2Proof.Machine.execSpanCommitInstant
  repeat' first
    | with_reducible assumption
    | fail_if_no_progress with_reducible apply Keeps.mk0
    | with_reducible apply KeepsRes.next
    | exact KeepsRes.fault _
    | with_reducible apply Keeps.seqs
    | with_reducible apply Keeps.over
    | with_reducible apply Keeps.swapIn
    | with_reducible apply Keeps.journal
    | with_reducible apply Keeps.subFld
    | with_reducible apply Keeps.count
    | with_reducible apply Keeps.setFld
    | with_reducible apply Keeps.noteDecided
    | with_reducible apply Keeps.setSpan
    | with_reducible apply Keeps.autoFree
    | with_reducible apply Keeps.endWaits
    | with_reducible apply Keeps.keepPool
    | with_reducible apply Keeps.ite
    | with_reducible apply KeepsRes.ite
    | with_reducible apply Keeps.foldl
    | with_reducible apply Keeps.foldlFst
    | intro _ _ _ _
    | intro _ _ _
    | dsimp only
    | split
    | with_reducible refine Keeps.ofFst ?_ (by assumption)
    | fail_if_no_progress with_reducible refine Keeps.mk' ?_ (by first | exact Nat.le_refl _ | exact Nat.le_succ _ | with_unfolding_all exact Nat.le_add_right _ _) (by first | exact List.prefix_rfl)

theorem Keeps.execSpanDiscarded {s u : State} (a0 : ℕ) (h : Keeps s u) : KeepsRes s (execSpanDiscarded a0 u) := by
  unfold Sys2Proof.Machine.execSpanDiscarded
  repeat' first
    | with_reducible assumption
    | with_reducible apply KeepsRes.next
    | with_reducible apply Keeps.over
    | with_reducible apply Keeps.setClutch
    | with_reducible apply Keeps.subFld
    | with_reducible apply Keeps.setFld
    | with_reducible apply Keeps.setSpan
    | with_reducible apply Keeps.autoFree
    | with_reducible apply Keeps.noteDecided
    | intro _ _ _
    | split

theorem Keeps.execSpanTimeout {s u : State} (a0 : ℕ) (h : Keeps s u) : KeepsRes s (execSpanTimeout a0 u) := by
  unfold Sys2Proof.Machine.execSpanTimeout
  repeat' first
    | with_reducible assumption
    | with_reducible apply KeepsRes.next
    | with_reducible apply Keeps.decideSpan
    | split

theorem Keeps.execSpanFree {s u : State} (a0 : ℕ) (h : Keeps s u) : KeepsRes s (execSpanFree a0 u) := by
  unfold Sys2Proof.Machine.execSpanFree
  repeat' first
    | with_reducible assumption
    | with_reducible apply KeepsRes.next
    | with_reducible apply Keeps.freeSpan
    | with_reducible apply KeepsRes.ite

theorem Keeps.programSpan {s u : State} (a1 : ℕ) (a2 : ℕ) (a3 : Extent) (a4 : GbUse) (h : Keeps s u) : Keeps s (State.programSpan u a1 a2 a3 a4).1 := by
  unfold Sys2Proof.Machine.State.programSpan
  repeat' first
    | with_reducible assumption
    | with_reducible apply Keeps.programExtent
    | with_reducible apply Keeps.keyMissing
    | dsimp only
    | split

theorem Keeps.execPoolStore {s u : State} (a0 : ℕ) (a1 : ℕ) (h : Keeps s u) : KeepsRes s (execPoolStore a0 a1 u) := by
  unfold Sys2Proof.Machine.execPoolStore
  repeat' first
    | with_reducible assumption
    | with_reducible apply KeepsRes.next
    | with_reducible apply Keeps.decideSpan
    | with_reducible apply Keeps.programSpan
    | with_reducible apply Keeps.addFld
    | with_reducible apply Keeps.setSpan
    | dsimp only
    | split
    | with_reducible refine Keeps.ofFst ?_ (by assumption)

theorem Keeps.execPoolConfig {s u : State} (a0 : W64) (h : Keeps s u) : KeepsRes s (execPoolConfig a0 u) := by
  unfold Sys2Proof.Machine.execPoolConfig
  repeat' first
    | with_reducible assumption
    | fail_if_no_progress with_reducible apply Keeps.mk0
    | with_reducible apply KeepsRes.next
    | exact KeepsRes.fault _
    | with_reducible apply Keeps.setFld
    | with_reducible apply Keeps.checkSpare
    | with_reducible apply Keeps.updGroups
    | with_reducible apply Keeps.keepPool
    | with_reducible apply Keeps.returnPool
    | with_reducible apply Keeps.ite
    | with_reducible apply KeepsRes.ite
    | with_reducible apply Keeps.foldl
    | with_reducible apply Keeps.foldlFst
    | intro _ _ _ _
    | intro _ _ _
    | dsimp only
    | split
    | with_reducible refine Keeps.ofFst ?_ (by assumption)
    | fail_if_no_progress with_reducible refine Keeps.mk' ?_ (by first | exact Nat.le_refl _ | exact Nat.le_succ _ | with_unfolding_all exact Nat.le_add_right _ _) (by first | exact List.prefix_rfl)

theorem Keeps.lookProv {s u : State} (a1 : ℕ) (a2 : ℕ) (a3 : ℕ) (a4 : ℕ) (a5 : ℕ) (h : Keeps s u) : Keeps s (State.lookProv u a1 a2 a3 a4 a5) := by
  unfold Sys2Proof.Machine.State.lookProv
  repeat' first
    | with_reducible assumption
    | fail_if_no_progress with_reducible apply Keeps.mk0
    | with_reducible apply Keeps.noteSeen
    | with_reducible apply Keeps.ite
    | with_reducible apply Keeps.foldl
    | with_reducible apply Keeps.foldlFst
    | intro _ _ _ _
    | intro _ _ _
    | dsimp only
    | split
    | with_reducible refine Keeps.ofFst ?_ (by assumption)
    | fail_if_no_progress with_reducible refine Keeps.mk' ?_ (by first | exact Nat.le_refl _ | exact Nat.le_succ _ | with_unfolding_all exact Nat.le_add_right _ _) (by first | exact List.prefix_rfl)

theorem Keeps.execProvisionalRead {s u : State} (a0 : ℕ) (a1 : ℕ) (a2 : List ℕ) (h : Keeps s u) : KeepsRes s (execProvisionalRead a0 a1 a2 u) := by
  unfold Sys2Proof.Machine.execProvisionalRead
  repeat' first
    | with_reducible assumption
    | fail_if_no_progress with_reducible apply Keeps.mk0
    | with_reducible apply KeepsRes.next
    | exact KeepsRes.fault _
    | with_reducible apply Keeps.ioErr
    | with_reducible apply Keeps.endSeen
    | with_reducible apply Keeps.lookProv
    | with_reducible apply Keeps.ite
    | with_reducible apply KeepsRes.ite
    | with_reducible apply Keeps.foldl
    | with_reducible apply Keeps.foldlFst
    | intro _ _ _ _
    | intro _ _ _
    | dsimp only
    | split
    | with_reducible refine Keeps.ofFst ?_ (by assumption)
    | fail_if_no_progress with_reducible refine Keeps.mk' ?_ (by first | exact Nat.le_refl _ | exact Nat.le_succ _ | with_unfolding_all exact Nat.le_add_right _ _) (by first | exact List.prefix_rfl)

end Sys2Proof.Machine
end

