-- ==== Sys2Proof/Laws/KeepsIoCommands.lean ====
section
/-! SUPPORT. What the operations of Machine/IoCommands.lean keep. -/

namespace Sys2Proof.Machine

theorem Keeps.readHinted {s u : State} (a1 : Sqe) (h : Keeps s u) : Keeps s (State.readHinted u a1) := by
  unfold Sys2Proof.Machine.State.readHinted
  repeat' first
    | with_reducible assumption
    | fail_if_no_progress with_reducible apply Keeps.mk0
    | with_reducible apply Keeps.queueMedia
    | with_reducible apply Keeps.ite
    | with_reducible apply Keeps.foldl
    | with_reducible apply Keeps.foldlFst
    | intro _ _ _ _
    | intro _ _ _
    | dsimp only
    | split
    | with_reducible refine Keeps.ofFst ?_ (by assumption)
    | fail_if_no_progress with_reducible refine Keeps.mk' ?_ (by first | exact Nat.le_refl _ | exact Nat.le_succ _ | with_unfolding_all exact Nat.le_add_right _ _) (by first | exact List.prefix_rfl)

theorem Keeps.startRead {s u : State} (a1 : ℕ) (a2 : ℕ) (a3 : Sqe) (h : Keeps s u) : Keeps s (State.startRead u a1 a2 a3) := by
  unfold Sys2Proof.Machine.State.startRead
  repeat' first
    | with_reducible assumption
    | fail_if_no_progress with_reducible apply Keeps.mk0
    | with_reducible apply Keeps.lookRead
    | with_reducible apply Keeps.lookProv
    | with_reducible apply Keeps.readHinted
    | with_reducible apply Keeps.ite
    | with_reducible apply Keeps.foldl
    | with_reducible apply Keeps.foldlFst
    | intro _ _ _ _
    | intro _ _ _
    | dsimp only
    | split
    | with_reducible refine Keeps.ofFst ?_ (by assumption)
    | fail_if_no_progress with_reducible refine Keeps.mk' ?_ (by first | exact Nat.le_refl _ | exact Nat.le_succ _ | with_unfolding_all exact Nat.le_add_right _ _) (by first | exact List.prefix_rfl)

theorem Keeps.execCommandStart {s u : State} (a0 : ℕ) (a1 : ℕ) (h : Keeps s u) : KeepsRes s (execCommandStart a0 a1 u) := by
  unfold Sys2Proof.Machine.execCommandStart
  repeat' first
    | with_reducible assumption
    | fail_if_no_progress with_reducible apply Keeps.mk0
    | with_reducible apply KeepsRes.next
    | exact KeepsRes.fault _
    | with_reducible apply Keeps.finish
    | with_reducible apply Keeps.startRead
    | with_reducible apply Keeps.setTag
    | with_reducible apply Keeps.ite
    | with_reducible apply KeepsRes.ite
    | with_reducible apply Keeps.foldl
    | with_reducible apply Keeps.foldlFst
    | intro _ _ _ _
    | intro _ _ _
    | dsimp only
    | split
    | with_reducible refine Keeps.ofFst ?_ (by assumption)
    | fail_if_no_progress with_reducible refine Keeps.mk' ?_ (by first | exact Nat.le_refl _ | exact Nat.le_succ _ | with_unfolding_all exact Nat.le_add_right _ _) (by first | exact List.prefix_rfl)

theorem Keeps.execRead {s u : State} (a0 : ℕ) (a1 : ℕ) (a2 : List ℕ) (h : Keeps s u) : KeepsRes s (execRead a0 a1 a2 u) := by
  unfold Sys2Proof.Machine.execRead
  repeat' first
    | with_reducible assumption
    | fail_if_no_progress with_reducible apply Keeps.mk0
    | with_reducible apply KeepsRes.next
    | exact KeepsRes.fault _
    | with_reducible apply Keeps.ioErr
    | with_reducible apply Keeps.endSeen
    | with_reducible apply Keeps.lookRead
    | with_reducible apply Keeps.ite
    | with_reducible apply KeepsRes.ite
    | with_reducible apply Keeps.foldl
    | with_reducible apply Keeps.foldlFst
    | intro _ _ _ _
    | intro _ _ _
    | dsimp only
    | split
    | with_reducible refine Keeps.ofFst ?_ (by assumption)
    | fail_if_no_progress with_reducible refine Keeps.mk' ?_ (by first | exact Nat.le_refl _ | exact Nat.le_succ _ | with_unfolding_all exact Nat.le_add_right _ _) (by first | exact List.prefix_rfl)

theorem Keeps.execLocatedRead {s u : State} (a0 : ℕ) (a1 : ℕ) (a2 : List ℕ) (h : Keeps s u) : KeepsRes s (execLocatedRead a0 a1 a2 u) := by
  unfold Sys2Proof.Machine.execLocatedRead
  repeat' first
    | with_reducible assumption
    | fail_if_no_progress with_reducible apply Keeps.mk0
    | with_reducible apply KeepsRes.next
    | exact KeepsRes.fault _
    | with_reducible apply Keeps.ioErr
    | with_reducible apply Keeps.endSeen
    | with_reducible apply Keeps.lookRead
    | with_reducible apply Keeps.ite
    | with_reducible apply KeepsRes.ite
    | with_reducible apply Keeps.foldl
    | with_reducible apply Keeps.foldlFst
    | intro _ _ _ _
    | intro _ _ _
    | dsimp only
    | split
    | with_reducible refine Keeps.ofFst ?_ (by assumption)
    | fail_if_no_progress with_reducible refine Keeps.mk' ?_ (by first | exact Nat.le_refl _ | exact Nat.le_succ _ | with_unfolding_all exact Nat.le_add_right _ _) (by first | exact List.prefix_rfl)

theorem Keeps.execGapMapRead {s u : State} (a0 : ℕ) (a1 : ℕ) (h : Keeps s u) : KeepsRes s (execGapMapRead a0 a1 u) := by
  unfold Sys2Proof.Machine.execGapMapRead
  repeat' first
    | with_reducible assumption
    | with_reducible apply KeepsRes.next
    | with_reducible apply Keeps.ioErr
    | with_reducible apply Keeps.finish
    | with_reducible apply Keeps.ioGive
    | dsimp only
    | split

theorem Keeps.charge {s u : State} (a1 : ℕ) (h : Keeps s u) : Keeps s (State.charge u a1) := by
  unfold Sys2Proof.Machine.State.charge
  repeat' first
    | with_reducible assumption
    | with_reducible apply Keeps.addFld

theorem Keeps.releaseUnit {s u : State} (a1 : ℕ) (h : Keeps s u) : Keeps s (State.releaseUnit u a1) := by
  unfold Sys2Proof.Machine.State.releaseUnit
  repeat' first
    | with_reducible assumption
    | with_reducible apply Keeps.setFtl
    | with_reducible apply Keeps.subFld

theorem Keeps.releaseExtent {s u : State} (a1 : ℕ) (a2 : ℕ) (h : Keeps s u) : Keeps s (State.releaseExtent u a1 a2) := by
  unfold Sys2Proof.Machine.State.releaseExtent
  repeat' first
    | with_reducible assumption
    | with_reducible apply Keeps.setFtl
    | with_reducible apply Keeps.subFld

theorem Keeps.enter {s u : State} (a1 : Ledger) (h : Keeps s u) : Keeps s (State.enter u a1) := by
  unfold Sys2Proof.Machine.State.enter
  repeat' first
    | with_reducible assumption
    | with_reducible apply Keeps.setFtl

theorem Keeps.unbuffer {s u : State} (a1 : ℕ) (a2 : ℕ) (h : Keeps s u) : Keeps s (State.unbuffer u a1 a2) := by
  unfold Sys2Proof.Machine.State.unbuffer
  repeat' first
    | with_reducible assumption
    | with_reducible apply Keeps.setFtl
    | with_reducible apply Keeps.releaseUnit
    | split

theorem Keeps.buffer {s u : State} (a1 : ℕ) (a2 : ℕ) (a3 : ℕ) (a4 : Bytes) (a5 : Bool) (a6 : Option ℕ) (a7 : List (ℕ × ℕ)) (h : Keeps s u) : Keeps s (State.buffer u a1 a2 a3 a4 a5 a6 a7) := by
  unfold Sys2Proof.Machine.State.buffer
  repeat' first
    | with_reducible assumption
    | with_reducible apply Keeps.unbuffer
    | with_reducible apply Keeps.setFtl

theorem Keeps.putGeneral {s u : State} (a1 : ℕ) (a2 : ℕ) (a3 : Tag) (a4 : Bool) (h : Keeps s u) : Keeps s (State.putGeneral u a1 a2 a3 a4) := by
  unfold Sys2Proof.Machine.State.putGeneral
  repeat' first
    | with_reducible assumption
    | with_reducible apply Keeps.seqs
    | with_reducible apply Keeps.enter
    | with_reducible apply Keeps.charge
    | with_reducible apply Keeps.over
    | with_reducible apply Keeps.buffer
    | with_reducible apply Keeps.ite
    | intro _ _ _

theorem Keeps.mergeExtent {s u : State} (a1 : ℕ) (a2 : ℕ) (a3 : Tag) (a4 : ℕ) (a5 : Bool) (a6 : Bool) (a7 : Bool) (h : Keeps s u) : Keeps s (State.mergeExtent u a1 a2 a3 a4 a5 a6 a7) := by
  unfold Sys2Proof.Machine.State.mergeExtent
  repeat' first
    | with_reducible assumption
    | with_reducible exact Keeps.mk' (Keeps.setFtl _ h) (Nat.le_add_right _ _) List.prefix_rfl
    | with_reducible apply Keeps.setFtl
    | with_reducible apply Keeps.seqs
    | with_reducible apply Keeps.enter
    | with_reducible apply Keeps.charge
    | with_reducible apply Keeps.ite

theorem Keeps.putCapture {s u : State} (a1 : ℕ) (a2 : ℕ) (a3 : Tag) (a4 : Bool) (h : Keeps s u) : Keeps s (State.putCapture u a1 a2 a3 a4) := by
  unfold Sys2Proof.Machine.State.putCapture
  repeat' first
    | with_reducible assumption
    | with_reducible apply Keeps.over
    | with_reducible apply Keeps.mergeExtent
    | intro _ _ _

theorem Keeps.unmapRange {s u : State} (a1 : ℕ) (a2 : ℕ × ℕ) (h : Keeps s u) : Keeps s (State.unmapRange u a1 a2) := by
  unfold Sys2Proof.Machine.State.unmapRange
  repeat' first
    | with_reducible assumption
    | fail_if_no_progress with_reducible apply Keeps.mk0
    | with_reducible apply Keeps.over
    | with_reducible apply Keeps.releaseExtent
    | with_reducible apply Keeps.setFtl
    | with_reducible apply Keeps.setGap
    | with_reducible apply Keeps.clearCap
    | with_reducible apply Keeps.setGen
    | with_reducible apply Keeps.unbuffer
    | with_reducible apply Keeps.ite
    | with_reducible apply Keeps.foldl
    | with_reducible apply Keeps.foldlFst
    | intro _ _ _ _
    | intro _ _ _
    | dsimp only
    | split
    | with_reducible refine Keeps.ofFst ?_ (by assumption)
    | fail_if_no_progress with_reducible refine Keeps.mk' ?_ (by first | exact Nat.le_refl _ | exact Nat.le_succ _ | with_unfolding_all exact Nat.le_add_right _ _) (by first | exact List.prefix_rfl)

theorem Keeps.putDealloc {s u : State} (a1 : ℕ) (a2 : ℕ) (a3 : Tag) (a4 : Bool) (h : Keeps s u) : Keeps s (State.putDealloc u a1 a2 a3 a4) := by
  unfold Sys2Proof.Machine.State.putDealloc
  repeat' first
    | with_reducible assumption
    | with_reducible apply Keeps.over
    | with_reducible apply Keeps.unmapRange
    | with_reducible apply Keeps.seqs
    | with_reducible apply Keeps.enter
    | with_reducible apply Keeps.charge
    | with_reducible apply Keeps.setFtl
    | with_reducible apply Keeps.ite
    | intro _ _ _

theorem Keeps.takeIn {s u : State} (a1 : ℕ) (a2 : ℕ) (a3 : Tag) (a4 : Bool) (h : Keeps s u) : Keeps s (State.takeIn u a1 a2 a3 a4) := by
  unfold Sys2Proof.Machine.State.takeIn
  repeat' first
    | with_reducible assumption
    | with_reducible apply Keeps.setTag
    | with_reducible apply Keeps.putCapture
    | with_reducible apply Keeps.putGeneral
    | with_reducible apply Keeps.putDealloc
    | with_reducible apply Keeps.ite

theorem Keeps.hold {s u : State} (a1 : ℕ) (a2 : ℕ) (h : Keeps s u) : Keeps s (State.hold u a1 a2) := by
  unfold Sys2Proof.Machine.State.hold
  repeat' first
    | with_reducible assumption
    | with_reducible apply Keeps.setFtl
    | with_reducible apply Keeps.setFld
    | with_reducible apply Keeps.record
    | with_reducible apply Keeps.huCause
    | with_reducible apply Keeps.ite

theorem Keeps.landAll {s u : State} (h : Keeps s u) : Keeps s (State.landAll u) := by
  unfold Sys2Proof.Machine.State.landAll
  repeat' first
    | with_reducible assumption
    | with_reducible apply Keeps.setFtl

theorem Keeps.letIn {s u : State} (a1 : ℕ) (a2 : ℕ) (a3 : Tag) (h : Keeps s u) : Keeps s (State.letIn u a1 a2 a3) := by
  unfold Sys2Proof.Machine.State.letIn
  repeat' first
    | with_reducible assumption
    | with_reducible apply Keeps.landAll
    | with_reducible apply Keeps.takeIn
    | with_reducible apply Keeps.hold
    | with_reducible apply Keeps.ite

theorem Keeps.execWrite {s u : State} (a0 : ℕ) (a1 : ℕ) (h : Keeps s u) : KeepsRes s (execWrite a0 a1 u) := by
  unfold Sys2Proof.Machine.execWrite
  repeat' first
    | with_reducible assumption
    | with_reducible apply KeepsRes.next
    | with_reducible apply Keeps.keyMissing
    | with_reducible apply Keeps.ioErr
    | with_reducible apply Keeps.letIn
    | dsimp only
    | split

theorem Keeps.execWriteZeroes {s u : State} (a0 : ℕ) (a1 : ℕ) (h : Keeps s u) : KeepsRes s (execWriteZeroes a0 a1 u) := by
  unfold Sys2Proof.Machine.execWriteZeroes
  repeat' first
    | with_reducible assumption
    | with_reducible apply KeepsRes.next
    | with_reducible apply Keeps.ioErr
    | with_reducible apply Keeps.letIn
    | dsimp only
    | split

theorem Keeps.execDatasetManagement {s u : State} (a0 : ℕ) (a1 : ℕ) (h : Keeps s u) : KeepsRes s (execDatasetManagement a0 a1 u) := by
  unfold Sys2Proof.Machine.execDatasetManagement
  repeat' first
    | with_reducible assumption
    | with_reducible apply KeepsRes.next
    | with_reducible apply Keeps.ioErr
    | with_reducible apply Keeps.letIn
    | dsimp only
    | split

theorem Keeps.execHeldWriteAdmit {s u : State} (h : Keeps s u) : KeepsRes s (execHeldWriteAdmit u) := by
  unfold Sys2Proof.Machine.execHeldWriteAdmit
  repeat' first
    | with_reducible assumption
    | fail_if_no_progress with_reducible apply Keeps.mk0
    | with_reducible apply KeepsRes.next
    | exact KeepsRes.fault _
    | with_reducible apply Keeps.takeIn
    | with_reducible apply Keeps.setFld
    | with_reducible apply Keeps.setFtl
    | with_reducible apply Keeps.record
    | with_reducible apply Keeps.ite
    | with_reducible apply KeepsRes.ite
    | with_reducible apply Keeps.foldl
    | with_reducible apply Keeps.foldlFst
    | intro _ _ _ _
    | intro _ _ _
    | dsimp only
    | split

theorem Keeps.noteDone {s u : State} (a1 : Tag) (h : Keeps s u) : Keeps s (State.noteDone u a1) := by
  unfold Sys2Proof.Machine.State.noteDone
  repeat' first
    | with_reducible assumption
    | fail_if_no_progress with_reducible apply Keeps.mk0
    | with_reducible apply Keeps.over
    | with_reducible apply Keeps.setFtl
    | with_reducible apply Keeps.ite
    | with_reducible apply Keeps.foldl
    | with_reducible apply Keeps.foldlFst
    | intro _ _ _ _
    | intro _ _ _
    | dsimp only
    | split

theorem Keeps.execWriteComplete {s u : State} (a0 : ℕ) (a1 : ℕ) (h : Keeps s u) : KeepsRes s (execWriteComplete a0 a1 u) := by
  unfold Sys2Proof.Machine.execWriteComplete
  repeat' first
    | with_reducible assumption
    | fail_if_no_progress with_reducible apply Keeps.mk0
    | with_reducible apply KeepsRes.next
    | exact KeepsRes.fault _
    | with_reducible apply Keeps.noteDone
    | with_reducible apply Keeps.finish
    | with_reducible apply Keeps.ite
    | with_reducible apply KeepsRes.ite
    | with_reducible apply Keeps.foldl
    | with_reducible apply Keeps.foldlFst
    | intro _ _ _ _
    | intro _ _ _
    | dsimp only
    | split

theorem Keeps.execFlush {s u : State} (a0 : ℕ) (a1 : ℕ) (h : Keeps s u) : KeepsRes s (execFlush a0 a1 u) := by
  unfold Sys2Proof.Machine.execFlush
  repeat' first
    | with_reducible assumption
    | fail_if_no_progress with_reducible apply Keeps.mk0
    | with_reducible apply KeepsRes.next
    | exact KeepsRes.fault _
    | with_reducible apply Keeps.ioErr
    | with_reducible apply Keeps.setFtl
    | with_reducible apply Keeps.finish
    | with_reducible apply Keeps.ite
    | with_reducible apply KeepsRes.ite
    | with_reducible apply Keeps.foldl
    | with_reducible apply Keeps.foldlFst
    | intro _ _ _ _
    | intro _ _ _
    | dsimp only
    | split

theorem Keeps.execCaptureWriteIdleExpiry {s u : State} (a0 : ℕ) (a1 : ℕ) (h : Keeps s u) : KeepsRes s (execCaptureWriteIdleExpiry a0 a1 u) := by
  unfold Sys2Proof.Machine.execCaptureWriteIdleExpiry
  repeat' first
    | with_reducible assumption
    | fail_if_no_progress with_reducible apply Keeps.mk0
    | with_reducible apply KeepsRes.next
    | exact KeepsRes.fault _
    | with_reducible apply Keeps.setFtl
    | with_reducible apply Keeps.ite
    | with_reducible apply KeepsRes.ite
    | with_reducible apply Keeps.foldl
    | with_reducible apply Keeps.foldlFst
    | intro _ _ _ _
    | intro _ _ _
    | dsimp only
    | split

end Sys2Proof.Machine
end

