-- ==== Sys2Proof/Laws/KeepsFtl.lean ====
section
/-! SUPPORT. What the operations of Machine/Ftl.lean keep. -/

namespace Sys2Proof.Machine

theorem Keeps.landWrite {s u : State} (a1 : CapWrite) (h : Keeps s u) : Keeps s (State.landWrite u a1) := by
  unfold Sys2Proof.Machine.State.landWrite
  repeat' first
    | with_reducible assumption
    | with_reducible apply Keeps.programExtent
    | with_reducible apply Keeps.loseClutch
    | with_reducible apply Keeps.draw
    | with_reducible apply Keeps.mapExtent
    | with_reducible apply Keeps.setFtl
    | with_reducible apply Keeps.releaseExtent
    | split
    | with_reducible refine Keeps.ofFst ?_ (by assumption)

theorem Keeps.noteLanded {s u : State} (a1 : ℕ) (a2 : ℕ) (a3 : ℕ) (a4 : Extent) (h : Keeps s u) : Keeps s (State.noteLanded u a1 a2 a3 a4) := by
  unfold Sys2Proof.Machine.State.noteLanded
  repeat' first
    | with_reducible assumption
    | with_reducible apply Keeps.landedMark
    | with_reducible apply Keeps.count
    | with_reducible apply Keeps.setDrains
    | split
    | with_reducible apply Keeps.setStr

theorem Keeps.landSealed {s u : State} (a1 : ℕ) (a2 : ℕ) (a3 : ℕ) (a4 : Extent) (h : Keeps s u) : Keeps s (State.landSealed u a1 a2 a3 a4) := by
  unfold Sys2Proof.Machine.State.landSealed
  repeat' first
    | with_reducible assumption
    | with_reducible apply Keeps.programExtent
    | with_reducible apply Keeps.noteLanded
    | with_reducible apply Keeps.mapExtent
    | split
    | with_reducible refine Keeps.ofFst ?_ (by assumption)

theorem Keeps.execExtentLand {s u : State} (a0 : ℕ) (a1 : ℕ) (a2 : List ℕ) (h : Keeps s u) : KeepsRes s (execExtentLand a0 a1 a2 u) := by
  unfold Sys2Proof.Machine.execExtentLand
  repeat' first
    | with_reducible assumption
    | fail_if_no_progress with_reducible apply Keeps.mk0
    | with_reducible apply KeepsRes.next
    | exact KeepsRes.fault _
    | with_reducible apply Keeps.keyMissing
    | with_reducible apply Keeps.landWrite
    | with_reducible apply Keeps.landSealed
    | with_reducible apply Keeps.programSpan
    | with_reducible apply Keeps.setSpan
    | with_reducible apply Keeps.ite
    | with_reducible apply KeepsRes.ite
    | with_reducible apply Keeps.foldl
    | with_reducible apply Keeps.foldlFst
    | intro _ _ _ _
    | intro _ _ _
    | dsimp only
    | split
    | with_reducible refine Keeps.ofFst ?_ (by assumption)
    | fail_if_no_progress with_reducible refine Keeps.mk' ?_ (by first | exact Nat.le_refl _ | exact Nat.le_succ _ | with_unfolding_all exact Nat.le_add_right _ _) (by first | exact List.prefix_rfl)

theorem Keeps.execUnitProgramVerified {s u : State} (a0 : ℕ) (a1 : Bool) (h : Keeps s u) : KeepsRes s (execUnitProgramVerified a0 a1 u) := by
  unfold Sys2Proof.Machine.execUnitProgramVerified
  repeat' first
    | with_reducible assumption
    | fail_if_no_progress with_reducible apply Keeps.mk0
    | with_reducible apply KeepsRes.next
    | exact KeepsRes.fault _
    | with_reducible apply Keeps.takeUnit
    | with_reducible apply Keeps.seqs
    | with_reducible apply Keeps.setUnit
    | with_reducible apply Keeps.setFtl
    | with_reducible apply Keeps.setGen
    | with_reducible apply Keeps.releaseUnit
    | with_reducible apply Keeps.keyMissing
    | with_reducible apply Keeps.count
    | with_reducible apply Keeps.ftlCause
    | with_reducible apply Keeps.checkSpare
    | with_reducible apply Keeps.queuePrograms
    | with_reducible apply Keeps.ite
    | with_reducible apply KeepsRes.ite
    | with_reducible apply Keeps.foldl
    | with_reducible apply Keeps.foldlFst
    | intro _ _ _ _
    | intro _ _ _
    | dsimp only
    | split
    | with_reducible refine Keeps.ofFst ?_ (by assumption)
    | fail_if_no_progress with_reducible refine Keeps.mk' ?_ (by first | exact Nat.le_refl _ | exact Nat.le_succ _ | with_unfolding_all exact Nat.le_add_right _ _) (by first | exact List.prefix_rfl)

theorem Keeps.copyClutch {s u : State} (a1 : ℕ) (a2 : ℕ) (a3 : GbUse) (a4 : List ℕ) (h : Keeps s u) : Keeps s (State.copyClutch u a1 a2 a3 a4).1 := by
  unfold Sys2Proof.Machine.State.copyClutch
  repeat' first
    | with_reducible assumption
    | fail_if_no_progress with_reducible apply Keeps.mk0
    | with_reducible apply Keeps.takeSlot
    | with_reducible apply Keeps.seqs
    | with_reducible apply Keeps.setClutch
    | with_reducible apply Keeps.queuePrograms
    | with_reducible apply Keeps.ftlCause
    | with_reducible apply Keeps.setCap
    | with_reducible apply Keeps.setSpan
    | with_reducible apply Keeps.ite
    | with_reducible apply Keeps.foldl
    | with_reducible apply Keeps.foldlFst
    | intro _ _ _ _
    | intro _ _ _
    | dsimp only
    | split
    | with_reducible refine Keeps.ofFst ?_ (by assumption)
    | fail_if_no_progress with_reducible refine Keeps.mk' ?_ (by first | exact Nat.le_refl _ | exact Nat.le_succ _ | with_unfolding_all exact Nat.le_add_right _ _) (by first | exact List.prefix_rfl)

theorem Keeps.copyUnit {s u : State} (a1 : ℕ) (a2 : ℕ) (a3 : GbUse) (a4 : Bool) (h : Keeps s u) : Keeps s (State.copyUnit u a1 a2 a3 a4).1 := by
  unfold Sys2Proof.Machine.State.copyUnit
  repeat' first
    | with_reducible assumption
    | fail_if_no_progress with_reducible apply Keeps.mk0
    | with_reducible apply Keeps.takeUnit
    | with_reducible apply Keeps.seqs
    | with_reducible apply Keeps.setUnit
    | with_reducible apply Keeps.queuePrograms
    | with_reducible apply Keeps.ftlCause
    | with_reducible apply Keeps.setGen
    | with_reducible apply Keeps.setMetaAt
    | with_reducible apply Keeps.ite
    | with_reducible apply Keeps.foldl
    | with_reducible apply Keeps.foldlFst
    | intro _ _ _ _
    | intro _ _ _
    | dsimp only
    | split
    | with_reducible refine Keeps.ofFst ?_ (by assumption)
    | fail_if_no_progress with_reducible refine Keeps.mk' ?_ (by first | exact Nat.le_refl _ | exact Nat.le_succ _ | with_unfolding_all exact Nat.le_add_right _ _) (by first | exact List.prefix_rfl)

theorem Keeps.copyItem {s u : State} (a1 : ℕ) (a2 : ℕ) (a3 : GbUse) (a4 : List ℕ) (h : Keeps s u) : Keeps s (State.copyItem u a1 a2 a3 a4).1 := by
  unfold Sys2Proof.Machine.State.copyItem
  repeat' first
    | with_reducible assumption
    | fail_if_no_progress with_reducible apply Keeps.mk0
    | with_reducible apply Keeps.copyClutch
    | with_reducible apply Keeps.copyUnit
    | with_reducible apply Keeps.ite
    | with_reducible apply Keeps.foldl
    | with_reducible apply Keeps.foldlFst
    | intro _ _ _ _
    | intro _ _ _
    | dsimp only
    | split
    | with_reducible refine Keeps.ofFst ?_ (by assumption)
    | fail_if_no_progress with_reducible refine Keeps.mk' ?_ (by first | exact Nat.le_refl _ | exact Nat.le_succ _ | with_unfolding_all exact Nat.le_add_right _ _) (by first | exact List.prefix_rfl)

theorem Keeps.moveItem {s u : State} (a1 : ℕ) (a2 : ℕ) (a3 : GbUse) (a4 : List ℕ) (h : Keeps s u) : Keeps s (State.moveItem u a1 a2 a3 a4) := by
  have hc := Keeps.copyItem a1 a2 (itemUse a2 a3) a4 h
  unfold Sys2Proof.Machine.State.moveItem
  split
  · next t _ e => rw [e] at hc; exact hc
  · next t e => rw [e] at hc; exact Keeps.setFtl _ hc

theorem Keeps.setGc {s u : State} (a1 : ℕ) (a2 : Option Gc) (h : Keeps s u) : Keeps s (State.setGc u a1 a2) := by
  unfold Sys2Proof.Machine.State.setGc
  repeat' first
    | with_reducible assumption
    | with_reducible apply Keeps.setFtl

theorem Keeps.askErases {s u : State} (a1 : ℕ) (a2 : Gc) (h : Keeps s u) : Keeps s (State.askErases u a1 a2) := by
  unfold Sys2Proof.Machine.State.askErases
  repeat' first
    | with_reducible assumption
    | fail_if_no_progress with_reducible apply Keeps.mk0
    | with_reducible apply Keeps.setGc
    | with_reducible apply Keeps.queueOps
    | with_reducible apply Keeps.ite
    | with_reducible apply Keeps.foldl
    | with_reducible apply Keeps.foldlFst
    | intro _ _ _ _
    | intro _ _ _
    | dsimp only
    | split
    | with_reducible refine Keeps.ofFst ?_ (by assumption)
    | fail_if_no_progress with_reducible refine Keeps.mk' ?_ (by first | exact Nat.le_refl _ | exact Nat.le_succ _ | with_unfolding_all exact Nat.le_add_right _ _) (by first | exact List.prefix_rfl)

theorem Keeps.eraseVictim {s u : State} (a1 : ℕ) (a2 : Gc) (h : Keeps s u) : Keeps s (State.eraseVictim u a1 a2) := by
  unfold Sys2Proof.Machine.State.eraseVictim
  repeat' first
    | with_reducible assumption
    | fail_if_no_progress with_reducible apply Keeps.mk0
    | with_reducible apply Keeps.over
    | with_reducible apply Keeps.journal
    | with_reducible apply Keeps.askErases
    | with_reducible apply Keeps.setGb
    | with_reducible apply Keeps.ite
    | with_reducible apply Keeps.foldl
    | with_reducible apply Keeps.foldlFst
    | intro _ _ _ _
    | intro _ _ _
    | dsimp only
    | split
    | with_reducible refine Keeps.ofFst ?_ (by assumption)
    | fail_if_no_progress with_reducible refine Keeps.mk' ?_ (by first | exact Nat.le_refl _ | exact Nat.le_succ _ | with_unfolding_all exact Nat.le_add_right _ _) (by first | exact List.prefix_rfl)

theorem Keeps.nextItem {s u : State} (a1 : ℕ) (a2 : Gc) (h : Keeps s u) : Keeps s (State.nextItem u a1 a2) := by
  unfold Sys2Proof.Machine.State.nextItem
  repeat' first
    | with_reducible assumption
    | fail_if_no_progress with_reducible apply Keeps.mk0
    | with_reducible apply Keeps.eraseVictim
    | with_reducible apply Keeps.queueMedia
    | with_reducible apply Keeps.setGc
    | with_reducible apply Keeps.ite
    | with_reducible apply Keeps.foldl
    | with_reducible apply Keeps.foldlFst
    | intro _ _ _ _
    | intro _ _ _
    | dsimp only
    | split
    | with_reducible refine Keeps.ofFst ?_ (by assumption)
    | fail_if_no_progress with_reducible refine Keeps.mk' ?_ (by first | exact Nat.le_refl _ | exact Nat.le_succ _ | with_unfolding_all exact Nat.le_add_right _ _) (by first | exact List.prefix_rfl)

theorem Keeps.collect {s u : State} (a1 : ℕ) (a2 : ℕ) (a3 : Bool) (h : Keeps s u) : Keeps s (State.collect u a1 a2 a3) := by
  unfold Sys2Proof.Machine.State.collect
  repeat' first
    | with_reducible assumption
    | fail_if_no_progress with_reducible apply Keeps.mk0
    | with_reducible apply Keeps.nextItem
    | with_reducible apply Keeps.ite
    | with_reducible apply Keeps.foldl
    | with_reducible apply Keeps.foldlFst
    | intro _ _ _ _
    | intro _ _ _
    | dsimp only
    | split
    | with_reducible refine Keeps.ofFst ?_ (by assumption)
    | fail_if_no_progress with_reducible refine Keeps.mk' ?_ (by first | exact Nat.le_refl _ | exact Nat.le_succ _ | with_unfolding_all exact Nat.le_add_right _ _) (by first | exact List.prefix_rfl)

theorem Keeps.yieldWear {s u : State} (a1 : ℕ) (h : Keeps s u) : Keeps s (State.yieldWear u a1) := by
  unfold Sys2Proof.Machine.State.yieldWear
  repeat' first
    | with_reducible assumption
    | fail_if_no_progress with_reducible apply Keeps.mk0
    | with_reducible apply Keeps.setGc
    | with_reducible apply Keeps.ite
    | with_reducible apply Keeps.foldl
    | with_reducible apply Keeps.foldlFst
    | intro _ _ _ _
    | intro _ _ _
    | dsimp only
    | split
    | with_reducible refine Keeps.ofFst ?_ (by assumption)
    | fail_if_no_progress with_reducible refine Keeps.mk' ?_ (by first | exact Nat.le_refl _ | exact Nat.le_succ _ | with_unfolding_all exact Nat.le_add_right _ _) (by first | exact List.prefix_rfl)

theorem Keeps.execGcStart {s u : State} (a0 : ℕ) (h : Keeps s u) : KeepsRes s (execGcStart a0 u) := by
  unfold Sys2Proof.Machine.execGcStart
  repeat' first
    | with_reducible assumption
    | fail_if_no_progress with_reducible apply Keeps.mk0
    | with_reducible apply KeepsRes.next
    | exact KeepsRes.fault _
    | with_reducible apply Keeps.yieldWear
    | with_reducible apply Keeps.collect
    | with_reducible apply Keeps.setFld
    | with_reducible apply Keeps.ite
    | with_reducible apply KeepsRes.ite
    | with_reducible apply Keeps.foldl
    | with_reducible apply Keeps.foldlFst
    | intro _ _ _ _
    | intro _ _ _
    | dsimp only
    | split
    | with_reducible refine Keeps.ofFst ?_ (by assumption)
    | fail_if_no_progress with_reducible refine Keeps.mk' ?_ (by first | exact Nat.le_refl _ | exact Nat.le_succ _ | with_unfolding_all exact Nat.le_add_right _ _) (by first | exact List.prefix_rfl)

theorem Keeps.retryMove {s u : State} (a1 : Move) (a2 : List ℕ) (h : Keeps s u) : Keeps s (State.retryMove u a1 a2) := by
  have hc := Keeps.copyItem a1.g a1.item a1.use (a2.foldl addOnce a1.lost) h
  unfold Sys2Proof.Machine.State.retryMove
  split
  · next t _ e => rw [e] at hc; exact Keeps.setFtl _ hc
  · next t e =>
    rw [e] at hc
    exact Keeps.ite hc (Keeps.setFtl _ h)

theorem Keeps.execGcCopyVerified {s u : State} (a0 : ℕ) (a1 : List ℕ) (h : Keeps s u) : KeepsRes s (execGcCopyVerified a0 a1 u) := by
  unfold Sys2Proof.Machine.execGcCopyVerified
  repeat' first
    | with_reducible assumption
    | fail_if_no_progress with_reducible apply Keeps.mk0
    | with_reducible apply KeepsRes.next
    | exact KeepsRes.fault _
    | with_reducible apply Keeps.retryMove
    | with_reducible apply Keeps.eraseVictim
    | with_reducible apply Keeps.nextItem
    | with_reducible apply Keeps.copyItem
    | with_reducible apply Keeps.ite
    | with_reducible apply KeepsRes.ite
    | with_reducible apply Keeps.foldl
    | with_reducible apply Keeps.foldlFst
    | intro _ _ _ _
    | intro _ _ _
    | dsimp only
    | split
    | with_reducible refine Keeps.ofFst ?_ (by assumption)
    | fail_if_no_progress with_reducible refine Keeps.mk' ?_ (by first | exact Nat.le_refl _ | exact Nat.le_succ _ | with_unfolding_all exact Nat.le_add_right _ _) (by first | exact List.prefix_rfl)

theorem Keeps.countErase {s u : State} (a1 : ℕ) (a2 : ℕ) (a3 : List ℕ) (h : Keeps s u) : Keeps s (State.countErase u a1 a2 a3) := by
  unfold Sys2Proof.Machine.State.countErase
  repeat' first
    | with_reducible assumption
    | fail_if_no_progress with_reducible apply Keeps.mk0
    | with_reducible apply Keeps.setFtl
    | with_reducible apply Keeps.ite
    | with_reducible apply Keeps.foldl
    | with_reducible apply Keeps.foldlFst
    | intro _ _ _ _
    | intro _ _ _
    | dsimp only
    | split
    | with_reducible refine Keeps.ofFst ?_ (by assumption)
    | fail_if_no_progress with_reducible refine Keeps.mk' ?_ (by first | exact Nat.le_refl _ | exact Nat.le_succ _ | with_unfolding_all exact Nat.le_add_right _ _) (by first | exact List.prefix_rfl)

theorem Keeps.wipeGb {s u : State} (a1 : ℕ) (a2 : ℕ) (h : Keeps s u) : Keeps s (State.wipeGb u a1 a2) := by
  unfold Sys2Proof.Machine.State.wipeGb
  repeat' first
    | with_reducible assumption
    | fail_if_no_progress with_reducible apply Keeps.mk0
    | with_reducible apply Keeps.setFtl
    | with_reducible apply Keeps.setMedia
    | with_reducible apply Keeps.ite
    | with_reducible apply Keeps.foldl
    | with_reducible apply Keeps.foldlFst
    | intro _ _ _ _
    | intro _ _ _
    | dsimp only
    | split
    | with_reducible refine Keeps.ofFst ?_ (by assumption)
    | fail_if_no_progress with_reducible refine Keeps.mk' ?_ (by first | exact Nat.le_refl _ | exact Nat.le_succ _ | with_unfolding_all exact Nat.le_add_right _ _) (by first | exact List.prefix_rfl)

theorem Keeps.blockErased {s u : State} (a1 : ℕ) (a2 : ℕ) (a3 : ℕ) (h : Keeps s u) : Keeps s (State.blockErased u a1 a2 a3) := by
  unfold Sys2Proof.Machine.State.blockErased
  repeat' first
    | with_reducible assumption
    | fail_if_no_progress with_reducible apply Keeps.mk0
    | with_reducible apply Keeps.updErase
    | with_reducible apply Keeps.countErase
    | with_reducible apply Keeps.setFtl
    | with_reducible apply Keeps.setMedia
    | with_reducible apply Keeps.setGc
    | with_reducible apply Keeps.wipeGb
    | with_reducible apply Keeps.ite
    | with_reducible apply Keeps.foldl
    | with_reducible apply Keeps.foldlFst
    | intro _ _ _ _
    | intro _ _ _
    | dsimp only
    | split
    | with_reducible refine Keeps.ofFst ?_ (by assumption)
    | fail_if_no_progress with_reducible refine Keeps.mk' ?_ (by first | exact Nat.le_refl _ | exact Nat.le_succ _ | with_unfolding_all exact Nat.le_add_right _ _) (by first | exact List.prefix_rfl)

theorem Keeps.releaseGb {s u : State} (a1 : ℕ) (a2 : ℕ) (h : Keeps s u) : Keeps s (State.releaseGb u a1 a2) := by
  unfold Sys2Proof.Machine.State.releaseGb
  repeat' first
    | with_reducible assumption
    | fail_if_no_progress with_reducible apply Keeps.mk0
    | with_reducible apply Keeps.setGb
    | with_reducible apply Keeps.setFtl
    | with_reducible apply Keeps.ite
    | with_reducible apply Keeps.foldl
    | with_reducible apply Keeps.foldlFst
    | intro _ _ _ _
    | intro _ _ _
    | dsimp only
    | split
    | with_reducible refine Keeps.ofFst ?_ (by assumption)
    | fail_if_no_progress with_reducible refine Keeps.mk' ?_ (by first | exact Nat.le_refl _ | exact Nat.le_succ _ | with_unfolding_all exact Nat.le_add_right _ _) (by first | exact List.prefix_rfl)

theorem Keeps.freeGb {s u : State} (a1 : ℕ) (a2 : ℕ) (h : Keeps s u) : Keeps s (State.freeGb u a1 a2) := by
  unfold Sys2Proof.Machine.State.freeGb
  repeat' first
    | with_reducible assumption
    | fail_if_no_progress with_reducible apply Keeps.mk0
    | with_reducible apply Keeps.checkSpare
    | with_reducible apply Keeps.updErase
    | with_reducible apply Keeps.updGroup
    | with_reducible apply Keeps.keepPool
    | with_reducible apply Keeps.releaseGb
    | with_reducible apply Keeps.ite
    | with_reducible apply Keeps.foldl
    | with_reducible apply Keeps.foldlFst
    | intro _ _ _ _
    | intro _ _ _
    | dsimp only
    | split
    | with_reducible refine Keeps.ofFst ?_ (by assumption)
    | fail_if_no_progress with_reducible refine Keeps.mk' ?_ (by first | exact Nat.le_refl _ | exact Nat.le_succ _ | with_unfolding_all exact Nat.le_add_right _ _) (by first | exact List.prefix_rfl)

theorem Keeps.execGcEraseDone {s u : State} (a0 : ℕ) (h : Keeps s u) : KeepsRes s (execGcEraseDone a0 u) := by
  unfold Sys2Proof.Machine.execGcEraseDone
  repeat' first
    | with_reducible assumption
    | fail_if_no_progress with_reducible apply Keeps.mk0
    | with_reducible apply KeepsRes.next
    | exact KeepsRes.fault _
    | with_reducible apply Keeps.askErases
    | with_reducible apply Keeps.setGc
    | with_reducible apply Keeps.freeGb
    | with_reducible apply Keeps.wipeGb
    | with_reducible apply Keeps.journal
    | with_reducible apply Keeps.setFld
    | with_reducible apply Keeps.setFtl
    | with_reducible apply Keeps.ite
    | with_reducible apply KeepsRes.ite
    | with_reducible apply Keeps.foldl
    | with_reducible apply Keeps.foldlFst
    | intro _ _ _ _
    | intro _ _ _
    | dsimp only
    | split
    | with_reducible refine Keeps.ofFst ?_ (by assumption)
    | fail_if_no_progress with_reducible refine Keeps.mk' ?_ (by first | exact Nat.le_refl _ | exact Nat.le_succ _ | with_unfolding_all exact Nat.le_add_right _ _) (by first | exact List.prefix_rfl)

theorem Keeps.execWlStart {s u : State} (a0 : ℕ) (h : Keeps s u) : KeepsRes s (execWlStart a0 u) := by
  unfold Sys2Proof.Machine.execWlStart
  repeat' first
    | with_reducible assumption
    | fail_if_no_progress with_reducible apply Keeps.mk0
    | with_reducible apply KeepsRes.next
    | exact KeepsRes.fault _
    | with_reducible apply Keeps.closeGb
    | with_reducible apply Keeps.ftlCause
    | with_reducible apply Keeps.openGb
    | with_reducible apply Keeps.collect
    | with_reducible apply Keeps.setFtl
    | with_reducible apply Keeps.ite
    | with_reducible apply KeepsRes.ite
    | with_reducible apply Keeps.foldl
    | with_reducible apply Keeps.foldlFst
    | intro _ _ _ _
    | intro _ _ _
    | dsimp only
    | split

theorem Keeps.retire {s u : State} (a1 : ℕ) (a2 : ℕ) (a3 : ℕ) (a4 : ℕ) (h : Keeps s u) : Keeps s (State.retire u a1 a2 a3 a4) := by
  unfold Sys2Proof.Machine.State.retire
  repeat' first
    | with_reducible assumption
    | fail_if_no_progress with_reducible apply Keeps.mk0
    | with_reducible apply Keeps.journal
    | with_reducible apply Keeps.setFtl
    | with_reducible apply Keeps.checkRetired
    | with_reducible apply Keeps.updErase
    | with_reducible apply Keeps.updGroup
    | with_reducible apply Keeps.ftlCause
    | with_reducible apply Keeps.ite
    | with_reducible apply Keeps.foldl
    | with_reducible apply Keeps.foldlFst
    | intro _ _ _ _
    | intro _ _ _
    | dsimp only
    | split
    | with_reducible refine Keeps.ofFst ?_ (by assumption)
    | fail_if_no_progress with_reducible refine Keeps.mk' ?_ (by first | exact Nat.le_refl _ | exact Nat.le_succ _ | with_unfolding_all exact Nat.le_add_right _ _) (by first | exact List.prefix_rfl)

theorem Keeps.evacuate {s u : State} (a1 : ℕ) (a2 : ℕ) (a3 : ℕ) (a4 : Option ℕ) (a5 : List ℕ) (h : Keeps s u) : Keeps s (State.evacuate u a1 a2 a3 a4 a5) := by
  unfold Sys2Proof.Machine.State.evacuate
  repeat' first
    | with_reducible assumption
    | fail_if_no_progress with_reducible apply Keeps.mk0
    | with_reducible apply Keeps.over
    | with_reducible apply Keeps.queueMedia
    | with_reducible apply Keeps.moveItem
    | with_reducible apply Keeps.ite
    | with_reducible apply Keeps.foldl
    | with_reducible apply Keeps.foldlFst
    | intro _ _ _ _
    | intro _ _ _
    | dsimp only
    | split
    | with_reducible refine Keeps.ofFst ?_ (by assumption)
    | fail_if_no_progress with_reducible refine Keeps.mk' ?_ (by first | exact Nat.le_refl _ | exact Nat.le_succ _ | with_unfolding_all exact Nat.le_add_right _ _) (by first | exact List.prefix_rfl)

theorem Keeps.execProgramFail {s u : State} (a0 : ℕ) (a1 : ℕ) (a2 : ℕ) (a3 : ℕ) (a4 : List ℕ) (h : Keeps s u) : KeepsRes s (execProgramFail a0 a1 a2 a3 a4 u) := by
  unfold Sys2Proof.Machine.execProgramFail
  repeat' first
    | with_reducible assumption
    | fail_if_no_progress with_reducible apply Keeps.mk0
    | with_reducible apply KeepsRes.next
    | exact KeepsRes.fault _
    | with_reducible apply Keeps.closeGb
    | with_reducible apply Keeps.evacuate
    | with_reducible apply Keeps.setFtl
    | with_reducible apply Keeps.retire
    | with_reducible apply Keeps.ftlCause
    | with_reducible apply Keeps.ite
    | with_reducible apply KeepsRes.ite
    | with_reducible apply Keeps.foldl
    | with_reducible apply Keeps.foldlFst
    | intro _ _ _ _
    | intro _ _ _
    | dsimp only
    | split
    | with_reducible refine Keeps.ofFst ?_ (by assumption)
    | fail_if_no_progress with_reducible refine Keeps.mk' ?_ (by first | exact Nat.le_refl _ | exact Nat.le_succ _ | with_unfolding_all exact Nat.le_add_right _ _) (by first | exact List.prefix_rfl)

theorem Keeps.execEraseFail {s u : State} (a0 : ℕ) (a1 : ℕ) (a2 : ℕ) (h : Keeps s u) : KeepsRes s (execEraseFail a0 a1 a2 u) := by
  unfold Sys2Proof.Machine.execEraseFail
  repeat' first
    | with_reducible assumption
    | fail_if_no_progress with_reducible apply Keeps.mk0
    | with_reducible apply KeepsRes.next
    | exact KeepsRes.fault _
    | with_reducible apply Keeps.setFtl
    | with_reducible apply Keeps.retire
    | with_reducible apply Keeps.ftlCause
    | with_reducible apply Keeps.setMedia
    | with_reducible apply Keeps.askErases
    | with_reducible apply Keeps.ite
    | with_reducible apply KeepsRes.ite
    | with_reducible apply Keeps.foldl
    | with_reducible apply Keeps.foldlFst
    | intro _ _ _ _
    | intro _ _ _
    | dsimp only
    | split
    | with_reducible refine Keeps.ofFst ?_ (by assumption)
    | fail_if_no_progress with_reducible refine Keeps.mk' ?_ (by first | exact Nat.le_refl _ | exact Nat.le_succ _ | with_unfolding_all exact Nat.le_add_right _ _) (by first | exact List.prefix_rfl)

theorem Keeps.execCheckpointStart {s u : State} (h : Keeps s u) : KeepsRes s (execCheckpointStart u) := by
  unfold Sys2Proof.Machine.execCheckpointStart
  repeat' first
    | with_reducible assumption
    | fail_if_no_progress with_reducible apply Keeps.mk0
    | with_reducible apply KeepsRes.next
    | exact KeepsRes.fault _
    | with_reducible apply Keeps.setFtl
    | with_reducible apply Keeps.ite
    | with_reducible apply KeepsRes.ite

theorem Keeps.placeAll {s u : State} (a1 : List (ℕ × Bytes)) (h : Keeps s u) : Keeps s (State.placeAll u a1).1 := by
  induction a1 generalizing u  with
  | nil =>
    unfold Sys2Proof.Machine.State.placeAll
    repeat' first
      | with_reducible assumption
      | fail_if_no_progress with_reducible apply Keeps.mk0
      | with_reducible apply Keeps.placeMeta
      | with_reducible apply Keeps.ite
      | with_reducible apply Keeps.foldl
      | with_reducible apply Keeps.foldlFst
      | intro _ _ _ _
      | intro _ _ _
      | dsimp only
      | split
      | with_reducible refine Keeps.ofFst ?_ (by assumption)
      | fail_if_no_progress with_reducible refine Keeps.mk' ?_ (by first | exact Nat.le_refl _ | exact Nat.le_succ _ | with_unfolding_all exact Nat.le_add_right _ _) (by first | exact List.prefix_rfl)
  | cons y l ih =>
    unfold Sys2Proof.Machine.State.placeAll
    repeat' first
      | with_reducible assumption
      | with_reducible apply ih
      | fail_if_no_progress with_reducible apply Keeps.mk0
      | with_reducible apply Keeps.placeMeta
      | with_reducible apply Keeps.ite
      | with_reducible apply Keeps.foldl
      | with_reducible apply Keeps.foldlFst
      | intro _ _ _ _
      | intro _ _ _
      | dsimp only
      | split
      | with_reducible refine Keeps.ofFst ?_ (by assumption)
      | fail_if_no_progress with_reducible refine Keeps.mk' ?_ (by first | exact Nat.le_refl _ | exact Nat.le_succ _ | with_unfolding_all exact Nat.le_add_right _ _) (by first | exact List.prefix_rfl)

/-- A checkpoint that found room for its units. -/
theorem Keeps.checkpoint {s u : State} (seq : ℕ) (h : Keeps s u) : ∀ t, u.checkpoint seq = some t → Keeps s t := by
  intro t e
  unfold Sys2Proof.Machine.State.checkpoint at e
  have hp := Keeps.placeAll (u.ckptUnits (u.ftl.ckpt.getD { seq := 0 })) h
  dsimp only at e
  split at e
  · cases e
  · next v ev =>
    rw [ev] at hp
    cases e
    refine Keeps.checkSpare (Keeps.journal _ ?_)
    exact Keeps.mk' (Keeps.setFtl _ hp) (Nat.le_add_right _ _) List.prefix_rfl

theorem Keeps.checkpointD {s u v : State} (seq : ℕ) (h : Keeps s u) (hv : Keeps s v) : Keeps s ((u.checkpoint seq).getD v) := by
  cases e : u.checkpoint seq with
  | none => exact hv
  | some t => exact Keeps.checkpoint seq h t e

theorem Keeps.execCheckpointComplete {s u : State} (h : Keeps s u) : KeepsRes s (execCheckpointComplete u) := by
  unfold Sys2Proof.Machine.execCheckpointComplete
  split
  · exact KeepsRes.ite (KeepsRes.next (Keeps.checkpointD _ h h)) (KeepsRes.next h)
  · exact KeepsRes.next h

end Sys2Proof.Machine
end

