-- ==== Sys2Proof/Laws/KeepsHoldUp.lean ====
section
/-! SUPPORT. What the operations of Machine/HoldUp.lean keep. -/

namespace Sys2Proof.Machine

theorem Keeps.setHu {s u : State} (a1 : HoldUp) (h : Keeps s u) : Keeps s (State.setHu u a1) := by
  unfold Sys2Proof.Machine.State.setHu
  repeat' first
    | with_reducible assumption
    | fail_if_no_progress with_reducible apply Keeps.mk0

theorem Keeps.setVbank {s u : State} (a1 : ℕ) (h : Keeps s u) : Keeps s (State.setVbank u a1) := by
  unfold Sys2Proof.Machine.State.setVbank
  repeat' first
    | with_reducible assumption
    | with_reducible apply Keeps.setFld
    | with_reducible apply Keeps.setHu
    | with_reducible apply Keeps.ite

theorem Keeps.recompute {s u : State} (a1 : Bool) (h : Keeps s u) : Keeps s (State.recompute u a1) := by
  unfold Sys2Proof.Machine.State.recompute
  repeat' first
    | with_reducible assumption
    | with_reducible apply Keeps.setFld
    | with_reducible apply Keeps.huCause
    | with_reducible apply Keeps.ite

theorem Keeps.setGate {s u : State} (h : Keeps s u) : Keeps s (State.setGate u) := by
  unfold Sys2Proof.Machine.State.setGate
  repeat' first
    | with_reducible assumption
    | fail_if_no_progress with_reducible apply Keeps.mk0
    | with_reducible apply Keeps.setFld
    | with_reducible apply Keeps.ite
    | with_reducible apply Keeps.foldl
    | with_reducible apply Keeps.foldlFst
    | intro _ _ _ _
    | intro _ _ _
    | dsimp only
    | split
    | with_reducible refine Keeps.ofFst ?_ (by assumption)
    | fail_if_no_progress with_reducible refine Keeps.mk' ?_ (by first | exact Nat.le_refl _ | exact Nat.le_succ _ | with_unfolding_all exact Nat.le_add_right _ _) (by first | exact List.prefix_rfl)

theorem Keeps.sampleGate {s u : State} (a1 : Bool) (h : Keeps s u) : Keeps s (State.sampleGate u a1) := by
  unfold Sys2Proof.Machine.State.sampleGate
  repeat' first
    | with_reducible assumption
    | fail_if_no_progress with_reducible apply Keeps.mk0
    | with_reducible apply Keeps.setGate
    | with_reducible apply Keeps.setHu
    | with_reducible apply Keeps.ite
    | with_reducible apply Keeps.foldl
    | with_reducible apply Keeps.foldlFst
    | intro _ _ _ _
    | intro _ _ _
    | dsimp only
    | split
    | with_reducible refine Keeps.ofFst ?_ (by assumption)
    | fail_if_no_progress with_reducible refine Keeps.mk' ?_ (by first | exact Nat.le_refl _ | exact Nat.le_succ _ | with_unfolding_all exact Nat.le_add_right _ _) (by first | exact List.prefix_rfl)

theorem Keeps.discharge {s u : State} (a1 : Bool) (h : Keeps s u) : Keeps s (State.discharge u a1) := by
  unfold Sys2Proof.Machine.State.discharge
  repeat' first
    | with_reducible assumption
    | fail_if_no_progress with_reducible apply Keeps.mk0
    | with_reducible apply Keeps.setGate
    | with_reducible apply Keeps.setHu
    | with_reducible apply Keeps.ite
    | with_reducible apply Keeps.foldl
    | with_reducible apply Keeps.foldlFst
    | intro _ _ _ _
    | intro _ _ _
    | dsimp only
    | split
    | with_reducible refine Keeps.ofFst ?_ (by assumption)
    | fail_if_no_progress with_reducible refine Keeps.mk' ?_ (by first | exact Nat.le_refl _ | exact Nat.le_succ _ | with_unfolding_all exact Nat.le_add_right _ _) (by first | exact List.prefix_rfl)

theorem Keeps.powerOnMeasure {s u : State} (h : Keeps s u) : Keeps s (State.powerOnMeasure u) := by
  unfold Sys2Proof.Machine.State.powerOnMeasure
  repeat' first
    | with_reducible assumption
    | with_reducible apply Keeps.setFld
    | with_reducible apply Keeps.setHu
    | with_reducible apply Keeps.discharge
    | with_reducible apply Keeps.ite

theorem Keeps.huWritten {s u : State} (h : Keeps s u) : Keeps s (State.huWritten u) := by
  unfold Sys2Proof.Machine.State.huWritten
  repeat' first
    | with_reducible assumption
    | with_reducible apply Keeps.powerOnMeasure
    | with_reducible apply Keeps.setHu
    | with_reducible apply Keeps.setFld
    | with_reducible apply Keeps.ite

theorem Keeps.tryMeasure {s u : State} (h : Keeps s u) : Keeps s (State.tryMeasure u) := by
  unfold Sys2Proof.Machine.State.tryMeasure
  repeat' first
    | with_reducible assumption
    | with_reducible apply Keeps.setFld
    | with_reducible apply Keeps.discharge
    | with_reducible apply Keeps.setHu
    | with_reducible apply Keeps.ite

theorem Keeps.askMeasure {s u : State} (h : Keeps s u) : Keeps s (State.askMeasure u) := by
  unfold Sys2Proof.Machine.State.askMeasure
  repeat' first
    | with_reducible assumption
    | with_reducible apply Keeps.tryMeasure
    | with_reducible apply Keeps.setHu
    | with_reducible apply Keeps.ite

theorem Keeps.execMeasure {s u : State} (h : Keeps s u) : KeepsRes s (execMeasure u) := by
  unfold Sys2Proof.Machine.execMeasure
  repeat' first
    | with_reducible assumption
    | with_reducible apply KeepsRes.next
    | with_reducible apply Keeps.askMeasure
    | with_reducible apply KeepsRes.ite

theorem Keeps.execMeasureDue {s u : State} (h : Keeps s u) : KeepsRes s (execMeasureDue u) := by
  unfold Sys2Proof.Machine.execMeasureDue
  repeat' first
    | with_reducible assumption
    | with_reducible apply KeepsRes.next
    | with_reducible apply Keeps.askMeasure
    | with_reducible apply KeepsRes.ite

theorem Keeps.execMeasurePostpone {s u : State} (h : Keeps s u) : KeepsRes s (execMeasurePostpone u) := by
  unfold Sys2Proof.Machine.execMeasurePostpone
  repeat' first
    | with_reducible assumption
    | with_reducible apply KeepsRes.next
    | with_reducible apply Keeps.setHu
    | with_reducible apply KeepsRes.ite

theorem Keeps.measured {s u : State} (a1 : ℕ) (h : Keeps s u) : Keeps s (State.measured u a1) := by
  unfold Sys2Proof.Machine.State.measured
  repeat' first
    | with_reducible assumption
    | with_reducible apply Keeps.setFld
    | with_reducible apply Keeps.setHu
    | with_reducible apply Keeps.huCause

theorem Keeps.measureFailed {s u : State} (h : Keeps s u) : Keeps s (State.measureFailed u) := by
  unfold Sys2Proof.Machine.State.measureFailed
  repeat' first
    | with_reducible assumption
    | with_reducible apply Keeps.setFld
    | with_reducible apply Keeps.huCause
    | with_reducible apply Keeps.setHu

theorem Keeps.execMeasurementDone {s u : State} (a0 : Option ℕ) (a1 : ℕ) (a2 : Bool) (h : Keeps s u) : KeepsRes s (execMeasurementDone a0 a1 a2 u) := by
  unfold Sys2Proof.Machine.execMeasurementDone
  repeat' first
    | with_reducible assumption
    | fail_if_no_progress with_reducible apply Keeps.mk0
    | with_reducible apply KeepsRes.next
    | exact KeepsRes.fault _
    | with_reducible apply Keeps.discharge
    | with_reducible apply Keeps.setHu
    | with_reducible apply Keeps.measured
    | with_reducible apply Keeps.measureFailed
    | with_reducible apply Keeps.recompute
    | with_reducible apply Keeps.setVbank
    | with_reducible apply Keeps.ite
    | with_reducible apply KeepsRes.ite
    | with_reducible apply Keeps.foldl
    | with_reducible apply Keeps.foldlFst
    | intro _ _ _ _
    | intro _ _ _
    | dsimp only
    | split
    | with_reducible refine Keeps.ofFst ?_ (by assumption)
    | fail_if_no_progress with_reducible refine Keeps.mk' ?_ (by first | exact Nat.le_refl _ | exact Nat.le_succ _ | with_unfolding_all exact Nat.le_add_right _ _) (by first | exact List.prefix_rfl)

theorem Keeps.execMeasureRetryExpiry {s u : State} (h : Keeps s u) : KeepsRes s (execMeasureRetryExpiry u) := by
  unfold Sys2Proof.Machine.execMeasureRetryExpiry
  repeat' first
    | with_reducible assumption
    | with_reducible apply KeepsRes.next
    | with_reducible apply Keeps.setHu
    | with_reducible apply Keeps.askMeasure
    | with_reducible apply Keeps.powerOnMeasure
    | with_reducible apply Keeps.ite
    | with_reducible apply KeepsRes.ite

theorem Keeps.execChargeTargetReached {s u : State} (a0 : ℕ) (h : Keeps s u) : KeepsRes s (execChargeTargetReached a0 u) := by
  unfold Sys2Proof.Machine.execChargeTargetReached
  repeat' first
    | with_reducible assumption
    | with_reducible apply KeepsRes.next
    | with_reducible apply Keeps.setFld
    | with_reducible apply Keeps.setVbank
    | with_reducible apply Keeps.setHu
    | with_reducible apply Keeps.recompute
    | with_reducible apply Keeps.huCause
    | with_reducible apply Keeps.ite
    | with_reducible apply KeepsRes.ite

theorem Keeps.execChargeResume {s u : State} (a0 : ℕ) (h : Keeps s u) : KeepsRes s (execChargeResume a0 u) := by
  unfold Sys2Proof.Machine.execChargeResume
  repeat' first
    | with_reducible assumption
    | with_reducible apply KeepsRes.next
    | with_reducible apply Keeps.setVbank
    | with_reducible apply Keeps.setHu
    | with_reducible apply Keeps.setFld
    | with_reducible apply Keeps.ite
    | with_reducible apply KeepsRes.ite

theorem Keeps.execHuFault {s u : State} (a0 : ℕ) (h : Keeps s u) : KeepsRes s (execHuFault a0 u) := by
  unfold Sys2Proof.Machine.execHuFault
  repeat' first
    | with_reducible assumption
    | with_reducible apply KeepsRes.next
    | with_reducible apply Keeps.setFld
    | with_reducible apply Keeps.setVbank
    | with_reducible apply Keeps.setHu
    | with_reducible apply Keeps.recompute
    | with_reducible apply Keeps.huCause
    | with_reducible apply Keeps.discharge
    | with_reducible apply KeepsRes.ite

theorem Keeps.execWindowRecompute {s u : State} (a0 : ℕ) (a1 : Bool) (h : Keeps s u) : KeepsRes s (execWindowRecompute a0 a1 u) := by
  unfold Sys2Proof.Machine.execWindowRecompute
  repeat' first
    | with_reducible assumption
    | fail_if_no_progress with_reducible apply Keeps.mk0
    | with_reducible apply KeepsRes.next
    | exact KeepsRes.fault _
    | with_reducible apply Keeps.recompute
    | with_reducible apply Keeps.sampleGate
    | with_reducible apply Keeps.setVbank
    | with_reducible apply Keeps.tryMeasure
    | with_reducible apply Keeps.ite
    | with_reducible apply KeepsRes.ite
    | with_reducible apply Keeps.foldl
    | with_reducible apply Keeps.foldlFst
    | intro _ _ _ _
    | intro _ _ _
    | dsimp only
    | split
    | with_reducible refine Keeps.ofFst ?_ (by assumption)
    | fail_if_no_progress with_reducible refine Keeps.mk' ?_ (by first | exact Nat.le_refl _ | exact Nat.le_succ _ | with_unfolding_all exact Nat.le_add_right _ _) (by first | exact List.prefix_rfl)

theorem Keeps.openDump {s u : State} (h : Keeps s u) : Keeps s (State.openDump u) := by
  unfold Sys2Proof.Machine.State.openDump
  repeat' first
    | with_reducible assumption
    | fail_if_no_progress with_reducible apply Keeps.mk0
    | with_reducible apply Keeps.over
    | with_reducible apply Keeps.roomFor
    | with_reducible apply Keeps.ite
    | with_reducible apply Keeps.foldl
    | with_reducible apply Keeps.foldlFst
    | intro _ _ _ _
    | intro _ _ _
    | dsimp only
    | split
    | with_reducible refine Keeps.ofFst ?_ (by assumption)
    | fail_if_no_progress with_reducible refine Keeps.mk' ?_ (by first | exact Nat.le_refl _ | exact Nat.le_succ _ | with_unfolding_all exact Nat.le_add_right _ _) (by first | exact List.prefix_rfl)

theorem Keeps.takeDump {s u : State} (a1 : List ℕ) (h : Keeps s u) : Keeps s (State.takeDump u a1).1 := by
  induction a1 generalizing u  with
  | nil =>
    unfold Sys2Proof.Machine.State.takeDump
    repeat' first
      | with_reducible assumption
      | fail_if_no_progress with_reducible apply Keeps.mk0
      | with_reducible apply Keeps.takeUnit
      | with_reducible apply Keeps.ite
      | with_reducible apply Keeps.foldl
      | with_reducible apply Keeps.foldlFst
      | intro _ _ _ _
      | intro _ _ _
      | dsimp only
      | split
      | with_reducible refine Keeps.ofFst ?_ (by assumption)
      | fail_if_no_progress with_reducible refine Keeps.mk' ?_ (by first | exact Nat.le_refl _ | exact Nat.le_succ _ | with_unfolding_all exact Nat.le_add_right _ _) (by first | exact List.prefix_rfl)
  | cons y l ih =>
    unfold Sys2Proof.Machine.State.takeDump
    repeat' first
      | with_reducible assumption
      | with_reducible apply ih
      | fail_if_no_progress with_reducible apply Keeps.mk0
      | with_reducible apply Keeps.takeUnit
      | with_reducible apply Keeps.ite
      | with_reducible apply Keeps.foldl
      | with_reducible apply Keeps.foldlFst
      | intro _ _ _ _
      | intro _ _ _
      | dsimp only
      | split
      | with_reducible refine Keeps.ofFst ?_ (by assumption)
      | fail_if_no_progress with_reducible refine Keeps.mk' ?_ (by first | exact Nat.le_refl _ | exact Nat.le_succ _ | with_unfolding_all exact Nat.le_add_right _ _) (by first | exact List.prefix_rfl)

theorem Keeps.dumpUnit {s u : State} (a1 : WbEntry) (h : Keeps s u) : Keeps s (State.dumpUnit u a1) := by
  unfold Sys2Proof.Machine.State.dumpUnit
  repeat' first
    | with_reducible assumption
    | fail_if_no_progress with_reducible apply Keeps.mk0
    | with_reducible apply Keeps.takeDump
    | with_reducible apply Keeps.seqs
    | with_reducible apply Keeps.queuePrograms
    | with_reducible apply Keeps.setUnit
    | with_reducible apply Keeps.ite
    | with_reducible apply Keeps.foldl
    | with_reducible apply Keeps.foldlFst
    | intro _ _ _ _
    | intro _ _ _
    | dsimp only
    | split
    | with_reducible refine Keeps.ofFst ?_ (by assumption)
    | fail_if_no_progress with_reducible refine Keeps.mk' ?_ (by first | exact Nat.le_refl _ | exact Nat.le_succ _ | with_unfolding_all exact Nat.le_add_right _ _) (by first | exact List.prefix_rfl)

theorem Keeps.dumpExtent {s u : State} (a1 : CapWrite) (h : Keeps s u) : Keeps s (State.dumpExtent u a1) := by
  unfold Sys2Proof.Machine.State.dumpExtent
  repeat' first
    | with_reducible assumption
    | with_reducible apply Keeps.programExtent
    | with_reducible apply Keeps.loseClutch
    | with_reducible apply Keeps.draw
    | with_reducible apply Keeps.mapExtent
    | with_reducible apply Keeps.setFtl
    | split
    | with_reducible refine Keeps.ofFst ?_ (by assumption)

theorem Keeps.dropPrograms {s u : State} (h : Keeps s u) : Keeps s (State.dropPrograms u) := by
  unfold Sys2Proof.Machine.State.dropPrograms
  repeat' first
    | with_reducible assumption
    | fail_if_no_progress with_reducible apply Keeps.mk0
    | with_reducible apply Keeps.ite
    | with_reducible apply Keeps.foldl
    | with_reducible apply Keeps.foldlFst
    | intro _ _ _ _
    | intro _ _ _
    | dsimp only
    | split
    | with_reducible refine Keeps.ofFst ?_ (by assumption)
    | fail_if_no_progress with_reducible refine Keeps.mk' ?_ (by first | exact Nat.le_refl _ | exact Nat.le_succ _ | with_unfolding_all exact Nat.le_add_right _ _) (by first | exact List.prefix_rfl)

theorem Keeps.beginDump {s u : State} (h : Keeps s u) : Keeps s (State.beginDump u) := by
  unfold Sys2Proof.Machine.State.beginDump
  repeat' first
    | with_reducible assumption
    | fail_if_no_progress with_reducible apply Keeps.mk0
    | with_reducible apply Keeps.openDump
    | with_reducible apply Keeps.setFtl
    | with_reducible apply Keeps.dropPrograms
    | with_reducible apply Keeps.over
    | with_reducible apply Keeps.dumpUnit
    | with_reducible apply Keeps.dumpExtent
    | with_reducible apply Keeps.ite
    | with_reducible apply Keeps.foldl
    | with_reducible apply Keeps.foldlFst
    | intro _ _ _ _
    | intro _ _ _
    | dsimp only
    | split
    | with_reducible refine Keeps.ofFst ?_ (by assumption)
    | fail_if_no_progress with_reducible refine Keeps.mk' ?_ (by first | exact Nat.le_refl _ | exact Nat.le_succ _ | with_unfolding_all exact Nat.le_add_right _ _) (by first | exact List.prefix_rfl)

theorem Keeps.shedLoad {s u : State} (h : Keeps s u) : Keeps s (State.shedLoad u) := by
  unfold Sys2Proof.Machine.State.shedLoad
  repeat' first
    | with_reducible assumption
    | fail_if_no_progress with_reducible apply Keeps.mk0
    | with_reducible apply Keeps.over
    | with_reducible apply Keeps.setDom
    | with_reducible apply Keeps.ite
    | with_reducible apply Keeps.foldl
    | with_reducible apply Keeps.foldlFst
    | intro _ _ _ _
    | intro _ _ _
    | dsimp only
    | split
    | with_reducible refine Keeps.ofFst ?_ (by assumption)
    | fail_if_no_progress with_reducible refine Keeps.mk' ?_ (by first | exact Nat.le_refl _ | exact Nat.le_succ _ | with_unfolding_all exact Nat.le_add_right _ _) (by first | exact List.prefix_rfl)

theorem Keeps.wakeForDump {s u : State} (h : Keeps s u) : Keeps s (State.wakeForDump u) := by
  unfold Sys2Proof.Machine.State.wakeForDump
  repeat' first
    | with_reducible assumption
    | fail_if_no_progress with_reducible apply Keeps.mk0
    | with_reducible apply Keeps.over
    | with_reducible apply Keeps.setDom
    | with_reducible apply Keeps.setFld
    | with_reducible apply Keeps.hbmCause
    | with_reducible apply Keeps.ite
    | with_reducible apply Keeps.foldl
    | with_reducible apply Keeps.foldlFst
    | intro _ _ _ _
    | intro _ _ _
    | dsimp only
    | split
    | with_reducible refine Keeps.ofFst ?_ (by assumption)
    | fail_if_no_progress with_reducible refine Keeps.mk' ?_ (by first | exact Nat.le_refl _ | exact Nat.le_succ _ | with_unfolding_all exact Nat.le_add_right _ _) (by first | exact List.prefix_rfl)

theorem Keeps.execPowerFailDetect {s u : State} (h : Keeps s u) : KeepsRes s (execPowerFailDetect u) := by
  unfold Sys2Proof.Machine.execPowerFailDetect
  split
  · exact KeepsRes.next h
  · extract_lets t1 h0 t2 w0 p0 t3 t4
    have h1 : Keeps s t1 := Keeps.setFld _ _ (Keeps.discharge _ h)
    clear_value t1
    have h2 : Keeps s t2 := Keeps.recompute _ (Keeps.setHu _ h1)
    clear_value t2
    have h3 : Keeps s t3 := Keeps.mk0 (Keeps.wakeForDump h2)
    clear_value t3
    have h4 : Keeps s t4 := Keeps.setFld _ _ (Keeps.setFld _ _ h3)
    clear_value t4
    exact KeepsRes.next (Keeps.beginDump (Keeps.shedLoad h4))

theorem Keeps.cutDump {s u : State} (h : Keeps s u) : Keeps s (State.cutDump u) := by
  unfold Sys2Proof.Machine.State.cutDump
  repeat' first
    | with_reducible assumption
    | fail_if_no_progress with_reducible apply Keeps.mk0
    | with_reducible apply Keeps.setFtl
    | with_reducible apply Keeps.ite
    | with_reducible apply Keeps.foldl
    | with_reducible apply Keeps.foldlFst
    | intro _ _ _ _
    | intro _ _ _
    | dsimp only
    | split
    | with_reducible refine Keeps.ofFst ?_ (by assumption)
    | fail_if_no_progress with_reducible refine Keeps.mk' ?_ (by first | exact Nat.le_refl _ | exact Nat.le_succ _ | with_unfolding_all exact Nat.le_add_right _ _) (by first | exact List.prefix_rfl)

theorem Keeps.settleDump {s u : State} (h : Keeps s u) : Keeps s (State.settleDump u) := by
  unfold Sys2Proof.Machine.State.settleDump
  repeat' first
    | with_reducible assumption
    | fail_if_no_progress with_reducible apply Keeps.mk0
    | with_reducible apply Keeps.setFtl
    | with_reducible apply Keeps.over
    | with_reducible apply Keeps.releaseUnit
    | with_reducible apply Keeps.releaseExtent
    | with_reducible apply Keeps.ite
    | with_reducible apply Keeps.foldl
    | with_reducible apply Keeps.foldlFst
    | intro _ _ _ _
    | intro _ _ _
    | dsimp only
    | split
    | with_reducible refine Keeps.ofFst ?_ (by assumption)
    | fail_if_no_progress with_reducible refine Keeps.mk' ?_ (by first | exact Nat.le_refl _ | exact Nat.le_succ _ | with_unfolding_all exact Nat.le_add_right _ _) (by first | exact List.prefix_rfl)

theorem Keeps.redump {s u : State} (a1 : ℕ) (a2 : ℕ) (a3 : ℕ) (a4 : List ℕ) (h : Keeps s u) : Keeps s (State.redump u a1 a2 a3 a4) := by
  unfold Sys2Proof.Machine.State.redump
  repeat' first
    | with_reducible assumption
    | fail_if_no_progress with_reducible apply Keeps.mk0
    | with_reducible apply Keeps.closeGb
    | with_reducible apply Keeps.setFtl
    | with_reducible apply Keeps.retire
    | with_reducible apply Keeps.ftlCause
    | with_reducible apply Keeps.over
    | with_reducible apply Keeps.dumpUnit
    | with_reducible apply Keeps.dumpExtent
    | with_reducible apply Keeps.ite
    | with_reducible apply Keeps.foldl
    | with_reducible apply Keeps.foldlFst
    | intro _ _ _ _
    | intro _ _ _
    | dsimp only
    | split
    | with_reducible refine Keeps.ofFst ?_ (by assumption)
    | fail_if_no_progress with_reducible refine Keeps.mk' ?_ (by first | exact Nat.le_refl _ | exact Nat.le_succ _ | with_unfolding_all exact Nat.le_add_right _ _) (by first | exact List.prefix_rfl)

theorem Keeps.endDump {s u : State} (a1 : Bool) (h : Keeps s u) : Keeps s (State.endDump u a1) := by
  unfold Sys2Proof.Machine.State.endDump
  repeat' first
    | with_reducible assumption
    | fail_if_no_progress with_reducible apply Keeps.mk0
    | with_reducible apply Keeps.settleDump
    | with_reducible apply Keeps.cutDump
    | with_reducible apply Keeps.setFtl
    | with_reducible apply Keeps.journal
    | with_reducible apply Keeps.ite
    | with_reducible apply Keeps.foldl
    | with_reducible apply Keeps.foldlFst
    | intro _ _ _ _
    | intro _ _ _
    | dsimp only
    | split
    | with_reducible refine Keeps.ofFst ?_ (by assumption)
    | fail_if_no_progress with_reducible refine Keeps.mk' ?_ (by first | exact Nat.le_refl _ | exact Nat.le_succ _ | with_unfolding_all exact Nat.le_add_right _ _) (by first | exact List.prefix_rfl)

theorem Keeps.execRegrowRequest {s u : State} (h : Keeps s u) : KeepsRes s (execRegrowRequest u) := by
  unfold Sys2Proof.Machine.execRegrowRequest
  repeat' first
    | with_reducible assumption
    | fail_if_no_progress with_reducible apply Keeps.mk0
    | with_reducible apply KeepsRes.next
    | exact KeepsRes.fault _
    | with_reducible apply Keeps.setFtl
    | with_reducible apply Keeps.setFld
    | with_reducible apply Keeps.ite
    | with_reducible apply KeepsRes.ite

end Sys2Proof.Machine
end

