-- ==== Sys2Proof/Laws/KeepsRestart.lean ====
section
/-! SUPPORT. What the operations of Machine/Restart.lean keep. -/

namespace Sys2Proof.Machine

theorem Keeps.restorePage {s u : State} (old : State) (k : Nat) (h : Keeps s u) : Keeps s (old.restorePage u k) := by
  unfold Sys2Proof.Machine.State.restorePage
  split
  · exact Keeps.setFld _ _ (Keeps.setFld _ _ (Keeps.setFld _ _ (Keeps.setReg _ _ h)))
  · exact h

theorem Keeps.endGrant {s u : State} (a1 : ℕ) (h : Keeps s u) : Keeps s (State.endGrant u a1) := by
  unfold Sys2Proof.Machine.State.endGrant
  repeat' first
    | with_reducible assumption
    | fail_if_no_progress with_reducible apply Keeps.mk0
    | with_reducible apply Keeps.setReg
    | with_reducible apply Keeps.record
    | with_reducible apply Keeps.setFld
    | with_reducible apply Keeps.secCause
    | with_reducible apply Keeps.ite

theorem Keeps.partReset {s u : State} (cause dom : Nat) (h : Keeps s u) : Keeps s (State.partReset u cause dom) := by
  unfold Sys2Proof.Machine.State.partReset
  have h0 : Keeps s (u.endGrant 0) := Keeps.endGrant _ h
  generalize u.endGrant 0 = v at h0
  extract_lets v0 e0 m0 x0 t1 t2 t3 t4 t5 t6 t7
  have h1 : Keeps s t1 := Keeps.mkRegs h0 (fun w => RegsOk.foldSet _ (RegsOk.filter _ w)) (Nat.le_refl _) List.prefix_rfl
  clear_value t1
  have h2 : Keeps s t2 := Keeps.setFld _ _ (Keeps.setFld _ _ h1)
  clear_value t2
  have h3 : Keeps s t3 := Keeps.setFld _ _ (Keeps.setFld _ _ h2)
  clear_value t3
  have h4 : Keeps s t4 := Keeps.setFld _ _ (Keeps.setFld _ _ (Keeps.setFld _ _ (Keeps.setFld _ _ h3)))
  clear_value t4
  have h5 : Keeps s t5 := Keeps.setFld _ _ h4
  clear_value t5
  have h6 : Keeps s t6 := Keeps.setHu _ (Keeps.setFld _ _ h5)
  clear_value t6
  have h7 : Keeps s t7 := Keeps.over _ (fun _ _ k => Keeps.setFld _ _ k) h6
  clear_value t7
  exact Keeps.over _ (fun _ _ k => Keeps.restorePage _ _ k) h7

theorem Keeps.resetAndRun {s u : State} (a1 : ℕ) (a2 : ℕ) (h : Keeps s u) : Keeps s (State.resetAndRun u a1 a2) := by
  unfold Sys2Proof.Machine.State.resetAndRun
  repeat' first
    | with_reducible assumption
    | fail_if_no_progress with_reducible apply Keeps.mk0
    | with_reducible apply Keeps.partReset

theorem Keeps.execDumpEnd {s u : State} (a0 : Bool) (h : Keeps s u) : KeepsRes s (execDumpEnd a0 u) := by
  unfold Sys2Proof.Machine.execDumpEnd
  repeat' first
    | with_reducible assumption
    | fail_if_no_progress with_reducible apply Keeps.mk0
    | with_reducible apply KeepsRes.next
    | exact KeepsRes.fault _
    | with_reducible apply Keeps.partReset
    | with_reducible apply Keeps.endDump
    | with_reducible apply Keeps.discharge
    | with_reducible apply Keeps.ite
    | with_reducible apply KeepsRes.ite
    | with_reducible apply Keeps.foldl
    | with_reducible apply Keeps.foldlFst
    | intro _ _ _ _
    | intro _ _ _
    | dsimp only
    | split
    | with_reducible refine Keeps.ofFst ?_ (by assumption)
    | fail_if_no_progress with_reducible refine Keeps.mk' ?_ (by first | exact Nat.le_refl _ | exact Nat.le_succ _ | with_unfolding_all exact Nat.le_add_right _ _) (by first | exact List.prefix_rfl)

theorem Keeps.rebuildGen {s u : State} (a1 : Scan) (h : Keeps s u) : Keeps s (State.rebuildGen u a1) := by
  unfold Sys2Proof.Machine.State.rebuildGen
  repeat' first
    | with_reducible assumption
    | fail_if_no_progress with_reducible apply Keeps.mk0
    | with_reducible apply Keeps.over
    | with_reducible apply Keeps.setGen
    | with_reducible apply Keeps.ite
    | with_reducible apply Keeps.foldl
    | with_reducible apply Keeps.foldlFst
    | intro _ _ _ _
    | intro _ _ _
    | dsimp only
    | split
    | with_reducible refine Keeps.ofFst ?_ (by assumption)
    | fail_if_no_progress with_reducible refine Keeps.mk' ?_ (by first | exact Nat.le_refl _ | exact Nat.le_succ _ | with_unfolding_all exact Nat.le_add_right _ _) (by first | exact List.prefix_rfl)

theorem Keeps.fixGap {s u : State} (a1 : ℕ) (a2 : ℕ) (a3 : Copy) (a4 : Clutch) (h : Keeps s u) : Keeps s (State.fixGap u a1 a2 a3 a4) := by
  unfold Sys2Proof.Machine.State.fixGap
  repeat' first
    | with_reducible assumption
    | fail_if_no_progress with_reducible apply Keeps.mk0
    | with_reducible apply Keeps.draw
    | with_reducible apply Keeps.setGap
    | with_reducible apply Keeps.ite
    | with_reducible apply Keeps.foldl
    | with_reducible apply Keeps.foldlFst
    | intro _ _ _ _
    | intro _ _ _
    | dsimp only
    | split
    | with_reducible refine Keeps.ofFst ?_ (by assumption)
    | fail_if_no_progress with_reducible refine Keeps.mk' ?_ (by first | exact Nat.le_refl _ | exact Nat.le_succ _ | with_unfolding_all exact Nat.le_add_right _ _) (by first | exact List.prefix_rfl)

theorem Keeps.rebuildCap1 {s u : State} (a1 : Scan) (a2 : ℕ) (a3 : ℕ) (h : Keeps s u) : Keeps s (State.rebuildCap1 u a1 a2 a3) := by
  unfold Sys2Proof.Machine.State.rebuildCap1
  repeat' first
    | with_reducible assumption
    | fail_if_no_progress with_reducible apply Keeps.mk0
    | with_reducible apply Keeps.setCap
    | with_reducible apply Keeps.fixGap
    | with_reducible apply Keeps.setGap
    | with_reducible apply Keeps.clearCap
    | with_reducible apply Keeps.ite
    | with_reducible apply Keeps.foldl
    | with_reducible apply Keeps.foldlFst
    | intro _ _ _ _
    | intro _ _ _
    | dsimp only
    | split
    | with_reducible refine Keeps.ofFst ?_ (by assumption)
    | fail_if_no_progress with_reducible refine Keeps.mk' ?_ (by first | exact Nat.le_refl _ | exact Nat.le_succ _ | with_unfolding_all exact Nat.le_add_right _ _) (by first | exact List.prefix_rfl)

theorem Keeps.rebuildCap {s u : State} (a1 : Scan) (h : Keeps s u) : Keeps s (State.rebuildCap u a1) := by
  unfold Sys2Proof.Machine.State.rebuildCap
  repeat' first
    | with_reducible assumption
    | fail_if_no_progress with_reducible apply Keeps.mk0
    | with_reducible apply Keeps.over
    | with_reducible apply Keeps.rebuildCap1
    | with_reducible apply Keeps.ite
    | with_reducible apply Keeps.foldl
    | with_reducible apply Keeps.foldlFst
    | intro _ _ _ _
    | intro _ _ _
    | dsimp only
    | split
    | with_reducible refine Keeps.ofFst ?_ (by assumption)
    | fail_if_no_progress with_reducible refine Keeps.mk' ?_ (by first | exact Nat.le_refl _ | exact Nat.le_succ _ | with_unfolding_all exact Nat.le_add_right _ _) (by first | exact List.prefix_rfl)

theorem Keeps.findMeta {s u : State} (a1 : List ℕ) (h : Keeps s u) : Keeps s (State.findMeta u a1) := by
  unfold Sys2Proof.Machine.State.findMeta
  repeat' first
    | with_reducible assumption
    | fail_if_no_progress with_reducible apply Keeps.mk0
    | with_reducible apply Keeps.over
    | with_reducible apply Keeps.setMetaAt
    | with_reducible apply Keeps.ite
    | with_reducible apply Keeps.foldl
    | with_reducible apply Keeps.foldlFst
    | intro _ _ _ _
    | intro _ _ _
    | dsimp only
    | split
    | with_reducible refine Keeps.ofFst ?_ (by assumption)
    | fail_if_no_progress with_reducible refine Keeps.mk' ?_ (by first | exact Nat.le_refl _ | exact Nat.le_succ _ | with_unfolding_all exact Nat.le_add_right _ _) (by first | exact List.prefix_rfl)

theorem Keeps.loadGap {s u : State} (a1 : ℕ) (a2 : Bytes) (h : Keeps s u) : Keeps s (State.loadGap u a1 a2) := by
  unfold Sys2Proof.Machine.State.loadGap
  repeat' first
    | with_reducible assumption
    | fail_if_no_progress with_reducible apply Keeps.mk0
    | with_reducible apply Keeps.over
    | with_reducible apply Keeps.setGap
    | with_reducible apply Keeps.ite
    | with_reducible apply Keeps.foldl
    | with_reducible apply Keeps.foldlFst
    | intro _ _ _ _
    | intro _ _ _
    | dsimp only
    | split
    | with_reducible refine Keeps.ofFst ?_ (by assumption)
    | fail_if_no_progress with_reducible refine Keeps.mk' ?_ (by first | exact Nat.le_refl _ | exact Nat.le_succ _ | with_unfolding_all exact Nat.le_add_right _ _) (by first | exact List.prefix_rfl)

theorem Keeps.loadGaps {s u : State} (h : Keeps s u) : Keeps s (State.loadGaps u) := by
  unfold Sys2Proof.Machine.State.loadGaps
  repeat' first
    | with_reducible assumption
    | fail_if_no_progress with_reducible apply Keeps.mk0
    | with_reducible apply Keeps.over
    | with_reducible apply Keeps.loadGap
    | with_reducible apply Keeps.ite
    | with_reducible apply Keeps.foldl
    | with_reducible apply Keeps.foldlFst
    | intro _ _ _ _
    | intro _ _ _
    | dsimp only
    | split
    | with_reducible refine Keeps.ofFst ?_ (by assumption)
    | fail_if_no_progress with_reducible refine Keeps.mk' ?_ (by first | exact Nat.le_refl _ | exact Nat.le_succ _ | with_unfolding_all exact Nat.le_add_right _ _) (by first | exact List.prefix_rfl)

theorem Keeps.loadCkpt {s u : State} (h : Keeps s u) : Keeps s (State.loadCkpt u) := by
  unfold Sys2Proof.Machine.State.loadCkpt
  repeat' first
    | with_reducible assumption
    | fail_if_no_progress with_reducible apply Keeps.mk0
    | with_reducible apply Keeps.setFtl
    | with_reducible apply Keeps.ite
    | with_reducible apply Keeps.foldl
    | with_reducible apply Keeps.foldlFst
    | intro _ _ _ _
    | intro _ _ _
    | dsimp only
    | split
    | with_reducible refine Keeps.ofFst ?_ (by assumption)
    | fail_if_no_progress with_reducible refine Keeps.mk' ?_ (by first | exact Nat.le_refl _ | exact Nat.le_succ _ | with_unfolding_all exact Nat.le_add_right _ _) (by first | exact List.prefix_rfl)

theorem Keeps.replay1 {s u : State} (a1 : ℕ) (a2 : JRec) (h : Keeps s u) : Keeps s (State.replay1 u a1 a2) := by
  unfold Sys2Proof.Machine.State.replay1
  repeat' first
    | with_reducible assumption
    | fail_if_no_progress with_reducible apply Keeps.mk0
    | with_reducible apply Keeps.markOpen
    | with_reducible apply Keeps.setFtl
    | with_reducible apply Keeps.setGb
    | with_reducible apply Keeps.releaseGb
    | with_reducible apply Keeps.countErase
    | with_reducible apply Keeps.ite
    | with_reducible apply Keeps.foldl
    | with_reducible apply Keeps.foldlFst
    | intro _ _ _ _
    | intro _ _ _
    | dsimp only
    | split
    | with_reducible refine Keeps.ofFst ?_ (by assumption)
    | fail_if_no_progress with_reducible refine Keeps.mk' ?_ (by first | exact Nat.le_refl _ | exact Nat.le_succ _ | with_unfolding_all exact Nat.le_add_right _ _) (by first | exact List.prefix_rfl)

theorem Keeps.replay {s u : State} (a1 : ℕ) (a2 : List JRec) (h : Keeps s u) : Keeps s (State.replay u a1 a2) := by
  induction a2 generalizing u a1 with
  | nil =>
    unfold Sys2Proof.Machine.State.replay
    repeat' first
      | with_reducible assumption
      | fail_if_no_progress with_reducible apply Keeps.mk0
      | with_reducible apply Keeps.replay1
      | with_reducible apply Keeps.ite
      | with_reducible apply Keeps.foldl
      | with_reducible apply Keeps.foldlFst
      | intro _ _ _ _
      | intro _ _ _
      | dsimp only
      | split
      | with_reducible refine Keeps.ofFst ?_ (by assumption)
      | fail_if_no_progress with_reducible refine Keeps.mk' ?_ (by first | exact Nat.le_refl _ | exact Nat.le_succ _ | with_unfolding_all exact Nat.le_add_right _ _) (by first | exact List.prefix_rfl)
  | cons y l ih =>
    unfold Sys2Proof.Machine.State.replay
    repeat' first
      | with_reducible assumption
      | with_reducible apply ih
      | fail_if_no_progress with_reducible apply Keeps.mk0
      | with_reducible apply Keeps.replay1
      | with_reducible apply Keeps.ite
      | with_reducible apply Keeps.foldl
      | with_reducible apply Keeps.foldlFst
      | intro _ _ _ _
      | intro _ _ _
      | dsimp only
      | split
      | with_reducible refine Keeps.ofFst ?_ (by assumption)
      | fail_if_no_progress with_reducible refine Keeps.mk' ?_ (by first | exact Nat.le_refl _ | exact Nat.le_succ _ | with_unfolding_all exact Nat.le_add_right _ _) (by first | exact List.prefix_rfl)

theorem Keeps.dropNss {s u : State} (h : Keeps s u) : Keeps s (State.dropNss u) := by
  unfold Sys2Proof.Machine.State.dropNss
  repeat' first
    | with_reducible assumption
    | fail_if_no_progress with_reducible apply Keeps.mk0
    | with_reducible apply Keeps.setFtl
    | with_reducible apply Keeps.ite
    | with_reducible apply Keeps.foldl
    | with_reducible apply Keeps.foldlFst
    | intro _ _ _ _
    | intro _ _ _
    | dsimp only
    | split
    | with_reducible refine Keeps.ofFst ?_ (by assumption)
    | fail_if_no_progress with_reducible refine Keeps.mk' ?_ (by first | exact Nat.le_refl _ | exact Nat.le_succ _ | with_unfolding_all exact Nat.le_add_right _ _) (by first | exact List.prefix_rfl)

theorem Keeps.putSpan {s u : State} (a1 : ℕ) (a2 : SpanRow) (a3 : ℕ) (a4 : ℕ) (a5 : Tbl (Option Extent)) (h : Keeps s u) : Keeps s (State.putSpan u a1 a2 a3 a4 a5) := by
  unfold Sys2Proof.Machine.State.putSpan
  repeat' first
    | with_reducible assumption
    | with_reducible apply Keeps.setSpan
    | with_reducible apply Keeps.setReg
    | with_reducible apply Keeps.subFld
    | with_reducible apply Keeps.addFld
    | with_reducible apply Keeps.setFld
    | with_reducible apply Keeps.foldl
    | intro _ _ _

theorem Keeps.dropPool {s u : State} (a1 : ℕ) (h : Keeps s u) : Keeps s (State.dropPool u a1) := by
  unfold Sys2Proof.Machine.State.dropPool
  repeat' first
    | with_reducible assumption
    | with_reducible apply Keeps.setFtl

theorem Keeps.restoreSpan {s u : State} (a1 : ℕ) (a2 : SpanRow) (h : Keeps s u) : Keeps s (State.restoreSpan u a1 a2) := by
  unfold Sys2Proof.Machine.State.restoreSpan
  repeat' first
    | with_reducible assumption
    | with_reducible apply Keeps.putSpan
    | with_reducible apply Keeps.dropPool
    | with_reducible apply Keeps.ite

theorem Keeps.restoreSpans {s u : State} (h : Keeps s u) : Keeps s (State.restoreSpans u) := by
  unfold Sys2Proof.Machine.State.restoreSpans
  repeat' first
    | with_reducible assumption
    | with_reducible apply Keeps.over
    | with_reducible apply Keeps.restoreSpan
    | with_reducible apply Keeps.setFtl
    | intro _ _ _
    | split

theorem Keeps.reErase {s u : State} (a1 : List ℕ) (a2 : ℕ) (a3 : ℕ) (a4 : ℕ) (h : Keeps s u) : Keeps s (State.reErase u a1 a2 a3 a4) := by
  unfold Sys2Proof.Machine.State.reErase
  repeat' first
    | with_reducible assumption
    | fail_if_no_progress with_reducible apply Keeps.mk0
    | with_reducible apply Keeps.count
    | with_reducible apply Keeps.ftlCause
    | with_reducible apply Keeps.chCause
    | with_reducible apply Keeps.retire
    | with_reducible apply Keeps.setFtl
    | with_reducible apply Keeps.countErase
    | with_reducible apply Keeps.ite
    | with_reducible apply Keeps.foldl
    | with_reducible apply Keeps.foldlFst
    | intro _ _ _ _
    | intro _ _ _
    | dsimp only
    | split
    | with_reducible refine Keeps.ofFst ?_ (by assumption)
    | fail_if_no_progress with_reducible refine Keeps.mk' ?_ (by first | exact Nat.le_refl _ | exact Nat.le_succ _ | with_unfolding_all exact Nat.le_add_right _ _) (by first | exact List.prefix_rfl)

theorem Keeps.finishErase {s u : State} (a1 : List ℕ) (a2 : ℕ) (a3 : ℕ) (h : Keeps s u) : Keeps s (State.finishErase u a1 a2 a3) := by
  unfold Sys2Proof.Machine.State.finishErase
  repeat' first
    | with_reducible assumption
    | fail_if_no_progress with_reducible apply Keeps.mk0
    | with_reducible apply Keeps.over
    | with_reducible apply Keeps.countErase
    | with_reducible apply Keeps.reErase
    | with_reducible apply Keeps.releaseGb
    | with_reducible apply Keeps.wipeGb
    | with_reducible apply Keeps.journal
    | with_reducible apply Keeps.setMedia
    | with_reducible apply Keeps.setFtl
    | with_reducible apply Keeps.ite
    | with_reducible apply Keeps.foldl
    | with_reducible apply Keeps.foldlFst
    | intro _ _ _ _
    | intro _ _ _
    | dsimp only
    | split
    | with_reducible refine Keeps.ofFst ?_ (by assumption)
    | fail_if_no_progress with_reducible refine Keeps.mk' ?_ (by first | exact Nat.le_refl _ | exact Nat.le_succ _ | with_unfolding_all exact Nat.le_add_right _ _) (by first | exact List.prefix_rfl)

theorem Keeps.finishErases {s u : State} (a1 : List ℕ) (h : Keeps s u) : Keeps s (State.finishErases u a1) := by
  unfold Sys2Proof.Machine.State.finishErases
  repeat' first
    | with_reducible assumption
    | fail_if_no_progress with_reducible apply Keeps.mk0
    | with_reducible apply Keeps.over
    | with_reducible apply Keeps.finishErase
    | with_reducible apply Keeps.reErase
    | with_reducible apply Keeps.setFtl
    | with_reducible apply Keeps.ite
    | with_reducible apply Keeps.foldl
    | with_reducible apply Keeps.foldlFst
    | intro _ _ _ _
    | intro _ _ _
    | dsimp only
    | split
    | with_reducible refine Keeps.ofFst ?_ (by assumption)
    | fail_if_no_progress with_reducible refine Keeps.mk' ?_ (by first | exact Nat.le_refl _ | exact Nat.le_succ _ | with_unfolding_all exact Nat.le_add_right _ _) (by first | exact List.prefix_rfl)

theorem Keeps.closeDumps {s u : State} (h : Keeps s u) : Keeps s (State.closeDumps u) := by
  unfold Sys2Proof.Machine.State.closeDumps
  repeat' first
    | with_reducible assumption
    | with_reducible apply Keeps.over
    | with_reducible apply Keeps.closeGb
    | intro _ _ _

theorem Keeps.checkLedger {s u : State} (h : Keeps s u) : Keeps s (State.checkLedger u) := by
  unfold Sys2Proof.Machine.State.checkLedger
  repeat' first
    | with_reducible assumption
    | with_reducible apply Keeps.over
    | with_reducible apply Keeps.record
    | with_reducible apply Keeps.critical
    | with_reducible apply Keeps.huCause
    | with_reducible apply Keeps.setFtl
    | with_reducible apply Keeps.ite
    | intro _ _ _

theorem Keeps.firstFormat {s u : State} (h : Keeps s u) : Keeps s (State.firstFormat u) := by
  unfold Sys2Proof.Machine.State.firstFormat
  repeat' first
    | with_reducible assumption
    | with_reducible apply Keeps.takeReserve
    | with_reducible apply Keeps.setFtl
    | with_reducible apply Keeps.setFld
    | with_reducible apply Keeps.ite

theorem Keeps.endRestart {s u : State} (h : Keeps s u) : Keeps s (State.endRestart u) := by
  unfold Sys2Proof.Machine.State.endRestart
  repeat' first
    | with_reducible assumption
    | fail_if_no_progress with_reducible apply Keeps.mk0
    | with_reducible apply Keeps.setReg
    | with_reducible apply Keeps.checkSpare
    | with_reducible apply Keeps.updErase
    | with_reducible apply Keeps.updGroups
    | with_reducible apply Keeps.ftlCause
    | with_reducible apply Keeps.setFld
    | with_reducible apply Keeps.ite
    | with_reducible apply Keeps.foldl
    | with_reducible apply Keeps.foldlFst
    | intro _ _ _ _
    | intro _ _ _
    | dsimp only
    | split
    | with_reducible refine Keeps.ofFst ?_ (by assumption)
    | fail_if_no_progress with_reducible refine Keeps.mk' ?_ (by first | exact Nat.le_refl _ | exact Nat.le_succ _ | with_unfolding_all exact Nat.le_add_right _ _) (by first | exact List.prefix_rfl)

theorem Keeps.execMapRebuild {s u : State} (a0 : RestartFacts) (h : Keeps s u) : KeepsRes s (execMapRebuild a0 u) := by
  unfold Sys2Proof.Machine.execMapRebuild
  repeat' first
    | with_reducible assumption
    | fail_if_no_progress with_reducible apply Keeps.mk0
    | with_reducible apply KeepsRes.next
    | exact KeepsRes.fault _
    | with_reducible apply Keeps.findMeta
    | with_reducible apply Keeps.replay
    | with_reducible apply Keeps.dropNss
    | with_reducible apply Keeps.loadCkpt
    | with_reducible apply Keeps.firstFormat
    | with_reducible apply Keeps.loadGaps
    | with_reducible apply Keeps.rebuildCap
    | with_reducible apply Keeps.rebuildGen
    | with_reducible apply Keeps.endRestart
    | with_reducible apply Keeps.checkLedger
    | with_reducible apply Keeps.restoreSpans
    | with_reducible apply Keeps.closeDumps
    | with_reducible apply Keeps.finishErases
    | with_reducible apply Keeps.ite
    | with_reducible apply KeepsRes.ite
    | with_reducible apply Keeps.foldl
    | with_reducible apply Keeps.foldlFst
    | intro _ _ _ _
    | intro _ _ _
    | dsimp only
    | split
    | with_reducible refine Keeps.ofFst ?_ (by assumption)
    | fail_if_no_progress with_reducible refine Keeps.mk' ?_ (by first | exact Nat.le_refl _ | exact Nat.le_succ _ | with_unfolding_all exact Nat.le_add_right _ _) (by first | exact List.prefix_rfl)

theorem Keeps.freeGen {s u : State} (a1 : ℕ) (h : Keeps s u) : Keeps s (State.freeGen u a1) := by
  unfold Sys2Proof.Machine.State.freeGen
  repeat' first
    | with_reducible assumption
    | with_reducible apply Keeps.draw
    | with_reducible apply Keeps.setFtl
    | with_reducible apply Keeps.ite

theorem Keeps.scanGbs {s u : State} (h : Keeps s u) : Keeps s (State.scanGbs u) := by
  unfold Sys2Proof.Machine.State.scanGbs
  repeat' first
    | with_reducible assumption
    | fail_if_no_progress with_reducible apply Keeps.mk0
    | with_reducible apply Keeps.setFtl
    | with_reducible apply Keeps.over
    | with_reducible apply Keeps.markOpen
    | with_reducible apply Keeps.setGb
    | with_reducible apply Keeps.ite
    | with_reducible apply Keeps.foldl
    | with_reducible apply Keeps.foldlFst
    | intro _ _ _ _
    | intro _ _ _
    | dsimp only
    | split
    | with_reducible refine Keeps.ofFst ?_ (by assumption)
    | fail_if_no_progress with_reducible refine Keeps.mk' ?_ (by first | exact Nat.le_refl _ | exact Nat.le_succ _ | with_unfolding_all exact Nat.le_add_right _ _) (by first | exact List.prefix_rfl)

theorem Keeps.scanErases {s u : State} (h : Keeps s u) : Keeps s (State.scanErases u) := by
  unfold Sys2Proof.Machine.State.scanErases
  repeat' first
    | with_reducible assumption
    | fail_if_no_progress with_reducible apply Keeps.mk0
    | with_reducible apply Keeps.setFtl
    | with_reducible apply Keeps.over
    | with_reducible apply Keeps.countErase
    | with_reducible apply Keeps.ite
    | with_reducible apply Keeps.foldl
    | with_reducible apply Keeps.foldlFst
    | intro _ _ _ _
    | intro _ _ _
    | dsimp only
    | split
    | with_reducible refine Keeps.ofFst ?_ (by assumption)
    | fail_if_no_progress with_reducible refine Keeps.mk' ?_ (by first | exact Nat.le_refl _ | exact Nat.le_succ _ | with_unfolding_all exact Nat.le_add_right _ _) (by first | exact List.prefix_rfl)

theorem Keeps.execRegrowth {s u : State} (a0 : RestartFacts) (h : Keeps s u) : KeepsRes s (execRegrowth a0 u) := by
  unfold Sys2Proof.Machine.execRegrowth
  split
  · extract_lets t1 f0 t2 t3 r t4 t5 t6 f1 t7 t8
    have h1 : Keeps s t1 := Keeps.scanGbs (Keeps.scanErases (Keeps.firstFormat (Keeps.ftlCause _ h)))
    clear_value t1
    have h2 : Keeps s t2 := Keeps.ite (Keeps.setFtl _ h1) h1
    clear_value t2
    have h3 : Keeps s t3 := Keeps.loadGaps (Keeps.findMeta _ h2)
    clear_value t3 r
    have h4 : Keeps s t4 := Keeps.rebuildCap _ (Keeps.rebuildGen _ h3)
    clear_value t4
    have h5 : Keeps s t5 := Keeps.over _ (fun _ _ k => Keeps.freeGen _ k) h4
    clear_value t5
    have h6 : Keeps s t6 := Keeps.checkLedger (Keeps.restoreSpans (Keeps.closeDumps (Keeps.finishErases _ h5)))
    clear_value t6
    have h7 : Keeps s t7 := Keeps.setFtl _ h6
    clear_value t7
    have h8 : Keeps s t8 := Keeps.checkpointD _ h7 h7
    clear_value t8
    exact KeepsRes.next (Keeps.endRestart (Keeps.setFld _ _ (Keeps.setFld _ _ h8)))
  · exact KeepsRes.next h

end Sys2Proof.Machine
end

