-- ==== Sys2Proof/Laws/KeepsControllers.lean ====
section
/-! SUPPORT. What the operations of Machine/Controllers.lean keep. -/

namespace Sys2Proof.Machine

theorem Keeps.execSqTailDoorbell {s u : State} (a0 : ℕ) (a1 : ℕ) (a2 : ℕ) (h : Keeps s u) : KeepsRes s (execSqTailDoorbell a0 a1 a2 u) := by
  unfold Sys2Proof.Machine.execSqTailDoorbell
  repeat' first
    | with_reducible assumption
    | fail_if_no_progress with_reducible apply Keeps.mk0
    | with_reducible apply KeepsRes.next
    | exact KeepsRes.fault _
    | with_reducible apply Keeps.setFn
    | with_reducible apply Keeps.notice
    | with_reducible apply Keeps.setSq
    | with_reducible apply Keeps.ite
    | with_reducible apply KeepsRes.ite
    | with_reducible apply Keeps.foldl
    | with_reducible apply Keeps.foldlFst
    | intro _ _ _ _
    | intro _ _ _
    | dsimp only
    | split
    | with_reducible refine Keeps.ofFst ?_ (by assumption)
    | fail_if_no_progress with_reducible refine Keeps.mk' ?_ (by first | exact Nat.le_refl _ | exact Nat.le_succ _ | with_unfolding_all exact Nat.le_add_right _ _) (by first | exact List.prefix_rfl)

theorem Keeps.execLaneFetch {s u : State} (h : Keeps s u) : KeepsRes s (execLaneFetch u) := by
  unfold Sys2Proof.Machine.execLaneFetch
  repeat' first
    | with_reducible assumption
    | fail_if_no_progress with_reducible apply Keeps.mk0
    | with_reducible apply KeepsRes.next
    | with_reducible apply Keeps.over
    | with_reducible apply Keeps.setTag
    | with_reducible apply Keeps.setLane
    | with_reducible apply Keeps.setSq
    | with_reducible apply Keeps.emit
    | intro _ _ _
    | split

theorem Keeps.execFetchComplete {s u : State} (a0 : ℕ) (a1 : List Fetched) (h : Keeps s u) : KeepsRes s (execFetchComplete a0 a1 u) := by
  unfold Sys2Proof.Machine.execFetchComplete
  repeat' first
    | with_reducible assumption
    | with_reducible apply KeepsRes.next
    | with_reducible apply Keeps.setLane
    | with_reducible apply Keeps.over
    | with_reducible apply Keeps.setTag
    | with_reducible apply Keeps.addFld
    | with_reducible apply Keeps.settleLane
    | with_reducible apply Keeps.release
    | intro _ _ _
    | split

theorem Keeps.execCcEnable {s u : State} (a0 : ℕ) (a1 : W32) (h : Keeps s u) : KeepsRes s (execCcEnable a0 a1 u) := by
  unfold Sys2Proof.Machine.execCcEnable
  repeat' first
    | with_reducible assumption
    | with_reducible apply KeepsRes.next
    | with_reducible apply Keeps.setReg
    | with_reducible apply Keeps.setFld
    | with_reducible apply Keeps.setFn
    | with_reducible apply KeepsRes.ite

theorem Keeps.execControllerReady {s u : State} (a0 : ℕ) (h : Keeps s u) : KeepsRes s (execControllerReady a0 u) := by
  unfold Sys2Proof.Machine.execControllerReady
  repeat' first
    | with_reducible assumption
    | with_reducible apply KeepsRes.next
    | with_reducible apply Keeps.setFld
    | with_reducible apply KeepsRes.ite

theorem Keeps.forget {s u : State} (a1 : List ℕ) (h : Keeps s u) : Keeps s (State.forget u a1) := by
  unfold Sys2Proof.Machine.State.forget
  repeat' first
    | with_reducible assumption
    | fail_if_no_progress with_reducible apply Keeps.mk0
    | with_reducible apply Keeps.setFtl
    | with_reducible apply Keeps.setFld
    | with_reducible apply Keeps.unread

theorem Keeps.dropQueues {s u : State} (a1 : ℕ) (h : Keeps s u) : Keeps s (State.dropQueues u a1) := by
  unfold Sys2Proof.Machine.State.dropQueues
  repeat' first
    | with_reducible assumption
    | with_reducible apply Keeps.over
    | with_reducible apply Keeps.unrefSq
    | with_reducible apply Keeps.forget
    | with_reducible apply Keeps.unbind
    | with_reducible apply Keeps.setFn
    | intro _ _ _
    | split

theorem Keeps.dropStaged {s u : State} (a1 : ℕ) (h : Keeps s u) : Keeps s (State.dropStaged u a1) := by
  unfold Sys2Proof.Machine.State.dropStaged
  repeat' first
    | with_reducible assumption
    | fail_if_no_progress with_reducible apply Keeps.mk0
    | with_reducible apply Keeps.ite
    | with_reducible apply Keeps.foldl
    | with_reducible apply Keeps.foldlFst
    | intro _ _ _ _
    | intro _ _ _
    | dsimp only
    | split
    | with_reducible refine Keeps.ofFst ?_ (by assumption)
    | fail_if_no_progress with_reducible refine Keeps.mk' ?_ (by first | exact Nat.le_refl _ | exact Nat.le_succ _ | with_unfolding_all exact Nat.le_add_right _ _) (by first | exact List.prefix_rfl)

theorem Keeps.forgetAdmin {s u : State} (a1 : ℕ) (h : Keeps s u) : Keeps s (State.forgetAdmin u a1) := by
  unfold Sys2Proof.Machine.State.forgetAdmin
  repeat' first
    | with_reducible assumption
    | fail_if_no_progress with_reducible apply Keeps.mk0
    | with_reducible apply Keeps.ite
    | with_reducible apply Keeps.foldl
    | with_reducible apply Keeps.foldlFst
    | intro _ _ _ _
    | intro _ _ _
    | dsimp only
    | split
    | with_reducible refine Keeps.ofFst ?_ (by assumption)
    | fail_if_no_progress with_reducible refine Keeps.mk' ?_ (by first | exact Nat.le_refl _ | exact Nat.le_succ _ | with_unfolding_all exact Nat.le_add_right _ _) (by first | exact List.prefix_rfl)

theorem Keeps.controllerReset {s u : State} (a1 : ℕ) (h : Keeps s u) : Keeps s (State.controllerReset u a1) := by
  unfold Sys2Proof.Machine.State.controllerReset
  repeat' first
    | with_reducible assumption
    | fail_if_no_progress with_reducible apply Keeps.mk0
    | with_reducible apply Keeps.setReg
    | with_reducible apply Keeps.dropQueues
    | with_reducible apply Keeps.setFn
    | with_reducible apply Keeps.dropStaged
    | with_reducible apply Keeps.forgetAdmin
    | with_reducible apply Keeps.dmaStop
    | with_reducible apply Keeps.disableDivert
    | with_reducible apply Keeps.ite
    | with_reducible apply Keeps.foldl
    | with_reducible apply Keeps.foldlFst
    | intro _ _ _ _
    | intro _ _ _
    | dsimp only
    | split
    | with_reducible refine Keeps.ofFst ?_ (by assumption)
    | fail_if_no_progress with_reducible refine Keeps.mk' ?_ (by first | exact Nat.le_refl _ | exact Nat.le_succ _ | with_unfolding_all exact Nat.le_add_right _ _) (by first | exact List.prefix_rfl)

theorem Keeps.execControllerReset {s u : State} (a0 : ℕ) (h : Keeps s u) : KeepsRes s (execControllerReset a0 u) := by
  unfold Sys2Proof.Machine.execControllerReset
  repeat' first
    | with_reducible assumption
    | with_reducible apply KeepsRes.next
    | with_reducible apply Keeps.controllerReset
    | with_reducible apply KeepsRes.ite

theorem Keeps.functionReset {s u : State} (a1 : ℕ) (h : Keeps s u) : Keeps s (State.functionReset u a1) := by
  unfold Sys2Proof.Machine.State.functionReset
  repeat' first
    | with_reducible assumption
    | fail_if_no_progress with_reducible apply Keeps.mk0
    | with_reducible apply Keeps.dmaStop
    | with_reducible apply Keeps.controllerReset
    | with_reducible apply Keeps.setFn

theorem Keeps.execFunctionLevelReset {s u : State} (a0 : ℕ) (h : Keeps s u) : KeepsRes s (execFunctionLevelReset a0 u) := by
  unfold Sys2Proof.Machine.execFunctionLevelReset
  repeat' first
    | with_reducible assumption
    | fail_if_no_progress with_reducible apply Keeps.mk0
    | with_reducible apply KeepsRes.next
    | exact KeepsRes.fault _
    | with_reducible apply Keeps.busMasterOff
    | with_reducible apply Keeps.functionReset
    | with_reducible apply Keeps.ite
    | with_reducible apply KeepsRes.ite
    | with_reducible apply Keeps.foldl
    | with_reducible apply Keeps.foldlFst
    | intro _ _ _ _
    | intro _ _ _
    | dsimp only
    | split
    | with_reducible refine Keeps.ofFst ?_ (by assumption)
    | fail_if_no_progress with_reducible refine Keeps.mk' ?_ (by first | exact Nat.le_refl _ | exact Nat.le_succ _ | with_unfolding_all exact Nat.le_add_right _ _) (by first | exact List.prefix_rfl)

theorem Keeps.allFunctionsReset {s u : State} (h : Keeps s u) : Keeps s (State.allFunctionsReset u) := by
  unfold Sys2Proof.Machine.State.allFunctionsReset
  repeat' first
    | with_reducible assumption
    | fail_if_no_progress with_reducible apply Keeps.mk0
    | with_reducible apply Keeps.over
    | with_reducible apply Keeps.functionReset
    | with_reducible apply Keeps.busMasterOff
    | with_reducible apply Keeps.ite
    | with_reducible apply Keeps.foldl
    | with_reducible apply Keeps.foldlFst
    | intro _ _ _ _
    | intro _ _ _
    | dsimp only
    | split
    | with_reducible refine Keeps.ofFst ?_ (by assumption)
    | fail_if_no_progress with_reducible refine Keeps.mk' ?_ (by first | exact Nat.le_refl _ | exact Nat.le_succ _ | with_unfolding_all exact Nat.le_add_right _ _) (by first | exact List.prefix_rfl)

theorem Keeps.execPcieConventionalReset {s u : State} (h : Keeps s u) : KeepsRes s (execPcieConventionalReset u) := by
  unfold Sys2Proof.Machine.execPcieConventionalReset
  repeat' first
    | with_reducible assumption
    | fail_if_no_progress with_reducible apply Keeps.mk0
    | with_reducible apply KeepsRes.next
    | with_reducible apply Keeps.allFunctionsReset
    | with_reducible apply Keeps.ite
    | with_reducible apply KeepsRes.ite

theorem Keeps.execVfEnable {s u : State} (a0 : Bool) (a1 : ℕ) (h : Keeps s u) : KeepsRes s (execVfEnable a0 a1 u) := by
  unfold Sys2Proof.Machine.execVfEnable
  repeat' first
    | with_reducible assumption
    | fail_if_no_progress with_reducible apply Keeps.mk0
    | with_reducible apply KeepsRes.next
    | with_reducible apply Keeps.over
    | with_reducible apply Keeps.functionReset
    | with_reducible apply KeepsRes.ite

theorem Keeps.execLaneOwnerWrite {s u : State} (a0 : ℕ) (a1 : ℕ) (h : Keeps s u) : KeepsRes s (execLaneOwnerWrite a0 a1 u) := by
  unfold Sys2Proof.Machine.execLaneOwnerWrite
  repeat' first
    | with_reducible assumption
    | with_reducible apply KeepsRes.next
    | with_reducible apply Keeps.setFld
    | with_reducible apply KeepsRes.ite

theorem Keeps.adminFetched {s u : State} (a1 : ℕ) (h : Keeps s u) : Keeps s (State.adminFetched u a1) := by
  unfold Sys2Proof.Machine.State.adminFetched
  repeat' first
    | with_reducible assumption
    | fail_if_no_progress with_reducible apply Keeps.mk0
    | with_reducible apply Keeps.setFn
    | with_reducible apply Keeps.ite
    | with_reducible apply Keeps.foldl
    | with_reducible apply Keeps.foldlFst
    | intro _ _ _ _
    | intro _ _ _
    | dsimp only
    | split
    | with_reducible refine Keeps.ofFst ?_ (by assumption)
    | fail_if_no_progress with_reducible refine Keeps.mk' ?_ (by first | exact Nat.le_refl _ | exact Nat.le_succ _ | with_unfolding_all exact Nat.le_add_right _ _) (by first | exact List.prefix_rfl)

/-- An admin command keeps what its effect keeps. -/
theorem Keeps.adminRun {s u : State} (f : ℕ) (c : Sqe) (opc : ℕ) {k : State → Res} (hk : ∀ v, Keeps s v → KeepsRes s (k v)) (h : Keeps s u) :
    KeepsRes s (u.adminRun f c opc k) := by
  unfold Sys2Proof.Machine.State.adminRun
  split
  · exact KeepsRes.next h
  · split
    · exact hk _ (Keeps.adminFetched _ h)
    · split
      · exact KeepsRes.next h
      · exact KeepsRes.next (Keeps.admin _ _ _ _ _ (Keeps.adminFetched _ h))

theorem Keeps.execDeleteIoSq {s u : State} (a0 : ℕ) (a1 : Sqe) (h : Keeps s u) : KeepsRes s (execDeleteIoSq a0 a1 u) := by
  unfold Sys2Proof.Machine.execDeleteIoSq
  repeat' first
    | refine Keeps.adminRun _ _ _ (fun v hv => ?_) (by assumption)
    | with_reducible assumption
    | fail_if_no_progress with_reducible apply Keeps.mk0
    | with_reducible apply KeepsRes.next
    | exact KeepsRes.fault _
    | with_reducible apply Keeps.adminRun
    | with_reducible apply Keeps.admin
    | with_reducible apply Keeps.settleLane
    | with_reducible apply Keeps.abortWaiting
    | with_reducible apply Keeps.setSq
    | with_reducible apply Keeps.ite
    | with_reducible apply KeepsRes.ite
    | with_reducible apply Keeps.foldl
    | with_reducible apply Keeps.foldlFst
    | intro _ _ _ _
    | intro _ _ _
    | dsimp only
    | split
    | with_reducible refine Keeps.ofFst ?_ (by assumption)
    | fail_if_no_progress with_reducible refine Keeps.mk' ?_ (by first | exact Nat.le_refl _ | exact Nat.le_succ _ | with_unfolding_all exact Nat.le_add_right _ _) (by first | exact List.prefix_rfl)

theorem Keeps.adminErr {s u : State} (a1 : ℕ) (a2 : Sqe) (a3 : IoErr) (h : Keeps s u) : Keeps s (State.adminErr u a1 a2 a3) := by
  unfold Sys2Proof.Machine.State.adminErr
  repeat' first
    | with_reducible assumption
    | with_reducible apply Keeps.admin

theorem Keeps.execCreateIoSq {s u : State} (a0 : ℕ) (a1 : Sqe) (h : Keeps s u) : KeepsRes s (execCreateIoSq a0 a1 u) := by
  unfold Sys2Proof.Machine.execCreateIoSq
  repeat' first
    | refine Keeps.adminRun _ _ _ (fun v hv => ?_) (by assumption)
    | with_reducible assumption
    | fail_if_no_progress with_reducible apply Keeps.mk0
    | with_reducible apply KeepsRes.next
    | exact KeepsRes.fault _
    | with_reducible apply Keeps.adminRun
    | with_reducible apply Keeps.adminErr
    | with_reducible apply Keeps.setSq
    | with_reducible apply Keeps.unbind
    | with_reducible apply Keeps.setFld
    | with_reducible apply Keeps.addFld
    | with_reducible apply Keeps.admin
    | with_reducible apply Keeps.ite
    | with_reducible apply KeepsRes.ite
    | with_reducible apply Keeps.foldl
    | with_reducible apply Keeps.foldlFst
    | intro _ _ _ _
    | intro _ _ _
    | dsimp only
    | split
    | with_reducible refine Keeps.ofFst ?_ (by assumption)
    | fail_if_no_progress with_reducible refine Keeps.mk' ?_ (by first | exact Nat.le_refl _ | exact Nat.le_succ _ | with_unfolding_all exact Nat.le_add_right _ _) (by first | exact List.prefix_rfl)

theorem Keeps.execDeleteIoCq {s u : State} (a0 : ℕ) (a1 : Sqe) (h : Keeps s u) : KeepsRes s (execDeleteIoCq a0 a1 u) := by
  unfold Sys2Proof.Machine.execDeleteIoCq
  repeat' first
    | refine Keeps.adminRun _ _ _ (fun v hv => ?_) (by assumption)
    | with_reducible assumption
    | fail_if_no_progress with_reducible apply Keeps.mk0
    | with_reducible apply KeepsRes.next
    | exact KeepsRes.fault _
    | with_reducible apply Keeps.adminRun
    | with_reducible apply Keeps.admin
    | with_reducible apply Keeps.setFn
    | with_reducible apply Keeps.ite
    | with_reducible apply KeepsRes.ite
    | with_reducible apply Keeps.foldl
    | with_reducible apply Keeps.foldlFst
    | intro _ _ _ _
    | intro _ _ _
    | dsimp only
    | split
    | with_reducible refine Keeps.ofFst ?_ (by assumption)
    | fail_if_no_progress with_reducible refine Keeps.mk' ?_ (by first | exact Nat.le_refl _ | exact Nat.le_succ _ | with_unfolding_all exact Nat.le_add_right _ _) (by first | exact List.prefix_rfl)

theorem Keeps.execCreateIoCq {s u : State} (a0 : ℕ) (a1 : Sqe) (h : Keeps s u) : KeepsRes s (execCreateIoCq a0 a1 u) := by
  unfold Sys2Proof.Machine.execCreateIoCq
  repeat' first
    | refine Keeps.adminRun _ _ _ (fun v hv => ?_) (by assumption)
    | with_reducible assumption
    | fail_if_no_progress with_reducible apply Keeps.mk0
    | with_reducible apply KeepsRes.next
    | exact KeepsRes.fault _
    | with_reducible apply Keeps.adminRun
    | with_reducible apply Keeps.admin
    | with_reducible apply Keeps.badField
    | with_reducible apply Keeps.setFn
    | with_reducible apply Keeps.ite
    | with_reducible apply KeepsRes.ite
    | with_reducible apply Keeps.foldl
    | with_reducible apply Keeps.foldlFst
    | intro _ _ _ _
    | intro _ _ _
    | dsimp only
    | split
    | with_reducible refine Keeps.ofFst ?_ (by assumption)
    | fail_if_no_progress with_reducible refine Keeps.mk' ?_ (by first | exact Nat.le_refl _ | exact Nat.le_succ _ | with_unfolding_all exact Nat.le_add_right _ _) (by first | exact List.prefix_rfl)

theorem Keeps.execAbort {s u : State} (a0 : ℕ) (a1 : Sqe) (a2 : ℕ) (h : Keeps s u) : KeepsRes s (execAbort a0 a1 a2 u) := by
  unfold Sys2Proof.Machine.execAbort
  repeat' first
    | refine Keeps.adminRun _ _ _ (fun v hv => ?_) (by assumption)
    | with_reducible assumption
    | fail_if_no_progress with_reducible apply Keeps.mk0
    | with_reducible apply KeepsRes.next
    | exact KeepsRes.fault _
    | with_reducible apply Keeps.adminRun
    | with_reducible apply Keeps.admin
    | with_reducible apply Keeps.finish
    | with_reducible apply Keeps.ite
    | with_reducible apply KeepsRes.ite
    | with_reducible apply Keeps.foldl
    | with_reducible apply Keeps.foldlFst
    | intro _ _ _ _
    | intro _ _ _
    | dsimp only
    | split
    | with_reducible refine Keeps.ofFst ?_ (by assumption)
    | fail_if_no_progress with_reducible refine Keeps.mk' ?_ (by first | exact Nat.le_refl _ | exact Nat.le_succ _ | with_unfolding_all exact Nat.le_add_right _ _) (by first | exact List.prefix_rfl)

theorem Keeps.execLaneResume {s u : State} (a0 : ℕ) (a1 : Sqe) (h : Keeps s u) : KeepsRes s (execLaneResume a0 a1 u) := by
  unfold Sys2Proof.Machine.execLaneResume
  repeat' first
    | refine Keeps.adminRun _ _ _ (fun v hv => ?_) (by assumption)
    | with_reducible assumption
    | fail_if_no_progress with_reducible apply Keeps.mk0
    | with_reducible apply KeepsRes.next
    | exact KeepsRes.fault _
    | with_reducible apply Keeps.adminRun
    | with_reducible apply Keeps.badField
    | with_reducible apply Keeps.admin
    | with_reducible apply Keeps.setLane
    | with_reducible apply Keeps.settleLane
    | with_reducible apply Keeps.ite
    | with_reducible apply KeepsRes.ite
    | with_reducible apply Keeps.foldl
    | with_reducible apply Keeps.foldlFst
    | intro _ _ _ _
    | intro _ _ _
    | dsimp only
    | split
    | with_reducible refine Keeps.ofFst ?_ (by assumption)
    | fail_if_no_progress with_reducible refine Keeps.mk' ?_ (by first | exact Nat.le_refl _ | exact Nat.le_succ _ | with_unfolding_all exact Nat.le_add_right _ _) (by first | exact List.prefix_rfl)

theorem Keeps.execMsixUnmask {s u : State} (a0 : MsixOpen) (h : Keeps s u) : KeepsRes s (execMsixUnmask a0 u) := by
  unfold Sys2Proof.Machine.execMsixUnmask
  repeat' first
    | with_reducible assumption
    | fail_if_no_progress with_reducible apply Keeps.mk0
    | with_reducible apply KeepsRes.next
    | exact KeepsRes.fault _
    | with_reducible apply Keeps.setFn
    | with_reducible apply Keeps.over
    | with_reducible apply Keeps.emit
    | with_reducible apply Keeps.ite
    | with_reducible apply KeepsRes.ite
    | with_reducible apply Keeps.foldl
    | with_reducible apply Keeps.foldlFst
    | intro _ _ _ _
    | intro _ _ _
    | dsimp only
    | split

theorem Keeps.execInterruptCoalescingTime {s u : State} (a0 : ℕ) (a1 : ℕ) (h : Keeps s u) : KeepsRes s (execInterruptCoalescingTime a0 a1 u) := by
  unfold Sys2Proof.Machine.execInterruptCoalescingTime
  repeat' first
    | with_reducible assumption
    | fail_if_no_progress with_reducible apply Keeps.mk0
    | with_reducible apply KeepsRes.next
    | exact KeepsRes.fault _
    | with_reducible apply Keeps.msix
    | with_reducible apply Keeps.setFn
    | with_reducible apply Keeps.ite
    | with_reducible apply KeepsRes.ite
    | with_reducible apply Keeps.foldl
    | with_reducible apply Keeps.foldlFst
    | intro _ _ _ _
    | intro _ _ _
    | dsimp only
    | split

end Sys2Proof.Machine
end

