-- ==== Sys2Proof/Laws/KeepsEthernet.lean ====
section
/-! SUPPORT. What the operations of Machine/Ethernet.lean keep. -/

namespace Sys2Proof.Machine

theorem Keeps.sendFrame {s u : State} (a1 : ℕ) (a2 : ℕ) (a3 : Bytes) (h : Keeps s u) : Keeps s (State.sendFrame u a1 a2 a3) := by
  unfold Sys2Proof.Machine.State.sendFrame
  repeat' first
    | with_reducible assumption
    | fail_if_no_progress with_reducible apply Keeps.mk0
    | with_reducible apply Keeps.count
    | with_reducible apply Keeps.emit
    | with_reducible apply Keeps.ite
    | with_reducible apply Keeps.foldl
    | with_reducible apply Keeps.foldlFst
    | intro _ _ _ _
    | intro _ _ _
    | dsimp only
    | split
    | with_reducible refine Keeps.ofFst ?_ (by assumption)
    | fail_if_no_progress with_reducible refine Keeps.mk' ?_ (by first | exact Nat.le_refl _ | exact Nat.le_succ _ | with_unfolding_all exact Nat.le_add_right _ _) (by first | exact List.prefix_rfl)

theorem Keeps.announce {s u : State} (a1 : ℕ) (a2 : ℕ) (h : Keeps s u) : Keeps s (State.announce u a1 a2) := by
  unfold Sys2Proof.Machine.State.announce
  repeat' first
    | with_reducible assumption
    | fail_if_no_progress with_reducible apply Keeps.mk0
    | with_reducible apply Keeps.over
    | with_reducible apply Keeps.sendFrame
    | with_reducible apply Keeps.ite
    | with_reducible apply Keeps.foldl
    | with_reducible apply Keeps.foldlFst
    | intro _ _ _ _
    | intro _ _ _
    | dsimp only
    | split
    | with_reducible refine Keeps.ofFst ?_ (by assumption)
    | fail_if_no_progress with_reducible refine Keeps.mk' ?_ (by first | exact Nat.le_refl _ | exact Nat.le_succ _ | with_unfolding_all exact Nat.le_add_right _ _) (by first | exact List.prefix_rfl)

theorem Keeps.announceDue {s u : State} (h : Keeps s u) : Keeps s (State.announceDue u) := by
  unfold Sys2Proof.Machine.State.announceDue
  repeat' first
    | with_reducible assumption
    | fail_if_no_progress with_reducible apply Keeps.mk0
    | with_reducible apply Keeps.over
    | with_reducible apply Keeps.announce
    | intro _ _ _

theorem Keeps.passPn {s u : State} (a1 : ℕ) (a2 : ℕ) (a3 : ℕ) (h : Keeps s u) : Keeps s (State.passPn u a1 a2 a3) := by
  unfold Sys2Proof.Machine.State.passPn
  repeat' first
    | with_reducible assumption
    | fail_if_no_progress with_reducible apply Keeps.mk0
    | with_reducible apply Keeps.ethCause
    | with_reducible apply Keeps.ite
    | with_reducible apply Keeps.foldl
    | with_reducible apply Keeps.foldlFst
    | intro _ _ _ _
    | intro _ _ _
    | dsimp only
    | split
    | with_reducible refine Keeps.ofFst ?_ (by assumption)
    | fail_if_no_progress with_reducible refine Keeps.mk' ?_ (by first | exact Nat.le_refl _ | exact Nat.le_succ _ | with_unfolding_all exact Nat.le_add_right _ _) (by first | exact List.prefix_rfl)

theorem Keeps.reply {s u : State} (a1 : MgmtReq) (h : Keeps s u) : Keeps s (State.reply u a1) := by
  unfold Sys2Proof.Machine.State.reply
  repeat' first
    | with_reducible assumption
    | fail_if_no_progress with_reducible apply Keeps.mk0
    | with_reducible apply Keeps.sendFrame
    | with_reducible apply Keeps.ethCause
    | with_reducible apply Keeps.passPn
    | with_reducible apply Keeps.setFld
    | with_reducible apply Keeps.ite
    | with_reducible apply Keeps.foldl
    | with_reducible apply Keeps.foldlFst
    | intro _ _ _ _
    | intro _ _ _
    | dsimp only
    | split
    | with_reducible refine Keeps.ofFst ?_ (by assumption)
    | fail_if_no_progress with_reducible refine Keeps.mk' ?_ (by first | exact Nat.le_refl _ | exact Nat.le_succ _ | with_unfolding_all exact Nat.le_add_right _ _) (by first | exact List.prefix_rfl)

theorem Keeps.execArpReply {s u : State} (a0 : ℕ) (a1 : ℕ) (h : Keeps s u) : KeepsRes s (execArpReply a0 a1 u) := by
  unfold Sys2Proof.Machine.execArpReply
  repeat' first
    | with_reducible assumption
    | fail_if_no_progress with_reducible apply Keeps.mk0
    | with_reducible apply KeepsRes.next
    | with_reducible apply Keeps.reply
    | split

theorem Keeps.execMgmtTokenRefill {s u : State} (a0 : ℕ) (a1 : ℕ) (h : Keeps s u) : KeepsRes s (execMgmtTokenRefill a0 a1 u) := by
  unfold Sys2Proof.Machine.execMgmtTokenRefill
  repeat' first
    | with_reducible assumption
    | fail_if_no_progress with_reducible apply Keeps.mk0
    | with_reducible apply KeepsRes.next

theorem Keeps.setBit {s u : State} (a1 : Field) (a2 : ℕ) (a3 : Bool) (h : Keeps s u) : Keeps s (State.setBit u a1 a2 a3) := by
  unfold Sys2Proof.Machine.State.setBit
  repeat' first
    | with_reducible assumption
    | with_reducible apply Keeps.setFld

theorem Keeps.dropLink {s u : State} (a1 : ℕ) (a2 : ℕ) (h : Keeps s u) : Keeps s (State.dropLink u a1 a2) := by
  unfold Sys2Proof.Machine.State.dropLink
  repeat' first
    | with_reducible assumption
    | fail_if_no_progress with_reducible apply Keeps.mk0
    | with_reducible apply Keeps.ethCause
    | with_reducible apply Keeps.setBit
    | with_reducible apply Keeps.ite

theorem Keeps.execLinkUp {s u : State} (a0 : ℕ) (a1 : ℕ) (h : Keeps s u) : KeepsRes s (execLinkUp a0 a1 u) := by
  unfold Sys2Proof.Machine.execLinkUp
  repeat' first
    | with_reducible assumption
    | fail_if_no_progress with_reducible apply Keeps.mk0
    | with_reducible apply KeepsRes.next
    | with_reducible apply Keeps.ethCause
    | with_reducible apply Keeps.setBit
    | with_reducible apply Keeps.announce
    | with_reducible apply KeepsRes.ite

theorem Keeps.execRemoteFault {s u : State} (a0 : ℕ) (a1 : ℕ) (a2 : Bool) (h : Keeps s u) : KeepsRes s (execRemoteFault a0 a1 a2 u) := by
  unfold Sys2Proof.Machine.execRemoteFault
  repeat' first
    | with_reducible assumption
    | with_reducible apply KeepsRes.next
    | with_reducible apply Keeps.setBit
    | with_reducible apply KeepsRes.ite

theorem Keeps.execFecSerWindow {s u : State} (a0 : ℕ) (a1 : ℕ) (a2 : ℕ) (a3 : ℕ) (a4 : ℕ) (h : Keeps s u) : KeepsRes s (execFecSerWindow a0 a1 a2 a3 a4 u) := by
  unfold Sys2Proof.Machine.execFecSerWindow
  repeat' first
    | with_reducible assumption
    | fail_if_no_progress with_reducible apply Keeps.mk0
    | with_reducible apply KeepsRes.next
    | exact KeepsRes.fault _
    | with_reducible apply Keeps.count
    | with_reducible apply Keeps.setBit
    | with_reducible apply Keeps.ethCause
    | with_reducible apply Keeps.ite
    | with_reducible apply KeepsRes.ite
    | with_reducible apply Keeps.foldl
    | with_reducible apply Keeps.foldlFst
    | intro _ _ _ _
    | intro _ _ _
    | dsimp only
    | split
    | with_reducible refine Keeps.ofFst ?_ (by assumption)
    | fail_if_no_progress with_reducible refine Keeps.mk' ?_ (by first | exact Nat.le_refl _ | exact Nat.le_succ _ | with_unfolding_all exact Nat.le_add_right _ _) (by first | exact List.prefix_rfl)

theorem Keeps.passSa {s u : State} (a1 : ℕ) (a2 : ℕ) (a3 : Frame) (h : Keeps s u) : Keeps s (State.passSa u a1 a2 a3) := by
  unfold Sys2Proof.Machine.State.passSa
  repeat' first
    | with_reducible assumption
    | with_reducible apply Keeps.count
    | with_reducible apply Keeps.setFld
    | with_reducible apply Keeps.draw
    | with_reducible apply Keeps.ite

theorem Keeps.updSaRefs {s u : State} (a1 : ℕ) (h : Keeps s u) : Keeps s (State.updSaRefs u a1) := by
  unfold Sys2Proof.Machine.State.updSaRefs
  repeat' first
    | with_reducible assumption
    | with_reducible apply Keeps.setFld

theorem Keeps.execSaInUseWrite {s u : State} (a0 : ℕ) (a1 : Bool) (a2 : ℕ) (a3 : Bool) (h : Keeps s u) : KeepsRes s (execSaInUseWrite a0 a1 a2 a3 u) := by
  unfold Sys2Proof.Machine.execSaInUseWrite
  repeat' first
    | with_reducible assumption
    | fail_if_no_progress with_reducible apply Keeps.mk0
    | with_reducible apply KeepsRes.next
    | with_reducible apply Keeps.updSaRefs
    | with_reducible apply Keeps.setFld
    | with_reducible apply KeepsRes.ite

theorem Keeps.stranger {s u : State} (a1 : ℕ) (a2 : ℕ) (a3 : Frame) (a4 : Pkt) (h : Keeps s u) : Keeps s (State.stranger u a1 a2 a3 a4) := by
  unfold Sys2Proof.Machine.State.stranger
  repeat' first
    | with_reducible assumption
    | fail_if_no_progress with_reducible apply Keeps.mk0
    | with_reducible apply Keeps.ethCause
    | with_reducible apply Keeps.satFld
    | with_reducible apply Keeps.setWords
    | with_reducible apply Keeps.ite
    | with_reducible apply Keeps.foldl
    | with_reducible apply Keeps.foldlFst
    | intro _ _ _ _
    | intro _ _ _
    | dsimp only
    | split
    | with_reducible refine Keeps.ofFst ?_ (by assumption)
    | fail_if_no_progress with_reducible refine Keeps.mk' ?_ (by first | exact Nat.le_refl _ | exact Nat.le_succ _ | with_unfolding_all exact Nat.le_add_right _ _) (by first | exact List.prefix_rfl)

theorem Keeps.admitFrame {s u : State} (a1 : ℕ) (a2 : ℕ) (a3 : ℕ) (a4 : Frame) (a5 : Pkt) (h : Keeps s u) : Keeps s (State.admitFrame u a1 a2 a3 a4 a5) := by
  unfold Sys2Proof.Machine.State.admitFrame
  repeat' first
    | with_reducible assumption
    | fail_if_no_progress with_reducible apply Keeps.mk0
    | with_reducible apply Keeps.takeRecv
    | with_reducible apply Keeps.addFld
    | with_reducible apply Keeps.count
    | with_reducible apply Keeps.setRing
    | with_reducible apply Keeps.ite
    | with_reducible apply Keeps.foldl
    | with_reducible apply Keeps.foldlFst
    | intro _ _ _ _
    | intro _ _ _
    | dsimp only
    | split
    | with_reducible refine Keeps.ofFst ?_ (by assumption)
    | fail_if_no_progress with_reducible refine Keeps.mk' ?_ (by first | exact Nat.le_refl _ | exact Nat.le_succ _ | with_unfolding_all exact Nat.le_add_right _ _) (by first | exact List.prefix_rfl)

theorem Keeps.unstage {s u : State} (a1 : ℕ) (a2 : ℕ) (a3 : Frame) (h : Keeps s u) : Keeps s (State.unstage u a1 a2 a3) := by
  unfold Sys2Proof.Machine.State.unstage
  repeat' first
    | with_reducible assumption
    | fail_if_no_progress with_reducible apply Keeps.mk0
    | with_reducible apply Keeps.freeRecv
    | with_reducible apply Keeps.takeRecv
    | with_reducible apply Keeps.ite
    | with_reducible apply Keeps.foldl
    | with_reducible apply Keeps.foldlFst
    | intro _ _ _ _
    | intro _ _ _
    | dsimp only
    | split
    | with_reducible refine Keeps.ofFst ?_ (by assumption)
    | fail_if_no_progress with_reducible refine Keeps.mk' ?_ (by first | exact Nat.le_refl _ | exact Nat.le_succ _ | with_unfolding_all exact Nat.le_add_right _ _) (by first | exact List.prefix_rfl)

theorem Keeps.receiveUdp {s u : State} (a1 : ℕ) (a2 : ℕ) (a3 : Frame) (a4 : Pkt) (h : Keeps s u) : Keeps s (State.receiveUdp u a1 a2 a3 a4) := by
  unfold Sys2Proof.Machine.State.receiveUdp
  repeat' first
    | with_reducible assumption
    | fail_if_no_progress with_reducible apply Keeps.mk0
    | with_reducible apply Keeps.count
    | with_reducible apply Keeps.stranger
    | with_reducible apply Keeps.admitFrame
    | with_reducible apply Keeps.ethCause
    | with_reducible apply Keeps.ite
    | with_reducible apply Keeps.foldl
    | with_reducible apply Keeps.foldlFst
    | intro _ _ _ _
    | intro _ _ _
    | dsimp only
    | split
    | with_reducible refine Keeps.ofFst ?_ (by assumption)
    | fail_if_no_progress with_reducible refine Keeps.mk' ?_ (by first | exact Nat.le_refl _ | exact Nat.le_succ _ | with_unfolding_all exact Nat.le_add_right _ _) (by first | exact List.prefix_rfl)

theorem Keeps.receiveMgmt {s u : State} (a1 : ℕ) (a2 : ℕ) (a3 : Frame) (a4 : Pkt) (h : Keeps s u) : Keeps s (State.receiveMgmt u a1 a2 a3 a4) := by
  unfold Sys2Proof.Machine.State.receiveMgmt
  repeat' first
    | with_reducible assumption
    | fail_if_no_progress with_reducible apply Keeps.mk0
    | with_reducible apply Keeps.count
    | with_reducible apply Keeps.ethCause
    | with_reducible apply Keeps.ite
    | with_reducible apply Keeps.foldl
    | with_reducible apply Keeps.foldlFst
    | intro _ _ _ _
    | intro _ _ _
    | dsimp only
    | split
    | with_reducible refine Keeps.ofFst ?_ (by assumption)
    | fail_if_no_progress with_reducible refine Keeps.mk' ?_ (by first | exact Nat.le_refl _ | exact Nat.le_succ _ | with_unfolding_all exact Nat.le_add_right _ _) (by first | exact List.prefix_rfl)

theorem Keeps.receiveClear {s u : State} (a1 : ℕ) (a2 : ℕ) (a3 : Frame) (a4 : Pkt) (h : Keeps s u) : Keeps s (State.receiveClear u a1 a2 a3 a4) := by
  unfold Sys2Proof.Machine.State.receiveClear
  repeat' first
    | with_reducible assumption
    | fail_if_no_progress with_reducible apply Keeps.mk0
    | with_reducible apply Keeps.count
    | with_reducible apply Keeps.receiveMgmt
    | with_reducible apply Keeps.receiveUdp
    | with_reducible apply Keeps.ite
    | with_reducible apply Keeps.foldl
    | with_reducible apply Keeps.foldlFst
    | intro _ _ _ _
    | intro _ _ _
    | dsimp only
    | split
    | with_reducible refine Keeps.ofFst ?_ (by assumption)
    | fail_if_no_progress with_reducible refine Keeps.mk' ?_ (by first | exact Nat.le_refl _ | exact Nat.le_succ _ | with_unfolding_all exact Nat.le_add_right _ _) (by first | exact List.prefix_rfl)

theorem Keeps.receiveMacsec {s u : State} (a1 : ℕ) (a2 : ℕ) (a3 : Frame) (h : Keeps s u) : Keeps s (State.receiveMacsec u a1 a2 a3) := by
  unfold Sys2Proof.Machine.State.receiveMacsec
  repeat' first
    | with_reducible assumption
    | fail_if_no_progress with_reducible apply Keeps.mk0
    | with_reducible apply Keeps.count
    | with_reducible apply Keeps.receiveClear
    | with_reducible apply Keeps.unstage
    | with_reducible apply Keeps.ethCause
    | with_reducible apply Keeps.passSa
    | with_reducible apply Keeps.ite
    | with_reducible apply Keeps.foldl
    | with_reducible apply Keeps.foldlFst
    | intro _ _ _ _
    | intro _ _ _
    | dsimp only
    | split
    | with_reducible refine Keeps.ofFst ?_ (by assumption)
    | fail_if_no_progress with_reducible refine Keeps.mk' ?_ (by first | exact Nat.le_refl _ | exact Nat.le_succ _ | with_unfolding_all exact Nat.le_add_right _ _) (by first | exact List.prefix_rfl)

theorem Keeps.receive {s u : State} (a1 : ℕ) (a2 : ℕ) (a3 : Frame) (h : Keeps s u) : Keeps s (State.receive u a1 a2 a3) := by
  unfold Sys2Proof.Machine.State.receive
  repeat' first
    | with_reducible assumption
    | fail_if_no_progress with_reducible apply Keeps.mk0
    | with_reducible apply Keeps.count
    | with_reducible apply Keeps.unstage
    | with_reducible apply Keeps.receiveMacsec
    | with_reducible apply Keeps.ite
    | with_reducible apply Keeps.foldl
    | with_reducible apply Keeps.foldlFst
    | intro _ _ _ _
    | intro _ _ _
    | dsimp only
    | split
    | with_reducible refine Keeps.ofFst ?_ (by assumption)
    | fail_if_no_progress with_reducible refine Keeps.mk' ?_ (by first | exact Nat.le_refl _ | exact Nat.le_succ _ | with_unfolding_all exact Nat.le_add_right _ _) (by first | exact List.prefix_rfl)

theorem Keeps.execEthFrameReceive {s u : State} (a0 : ℕ) (a1 : ℕ) (a2 : Frame) (h : Keeps s u) : KeepsRes s (execEthFrameReceive a0 a1 a2 u) := by
  unfold Sys2Proof.Machine.execEthFrameReceive
  repeat' first
    | with_reducible assumption
    | with_reducible apply KeepsRes.next
    | with_reducible apply Keeps.count
    | with_reducible apply Keeps.receive
    | with_reducible apply KeepsRes.ite

theorem Keeps.execLinkDown {s u : State} (a0 : ℕ) (a1 : ℕ) (a2 : Option Frame) (h : Keeps s u) : KeepsRes s (execLinkDown a0 a1 a2 u) := by
  unfold Sys2Proof.Machine.execLinkDown
  repeat' first
    | with_reducible assumption
    | with_reducible apply KeepsRes.next
    | with_reducible apply Keeps.receive
    | with_reducible apply Keeps.dropLink
    | with_reducible apply Keeps.setBit
    | split

theorem Keeps.execStrangerRearm {s u : State} (a0 : ℕ) (h : Keeps s u) : KeepsRes s (execStrangerRearm a0 u) := by
  unfold Sys2Proof.Machine.execStrangerRearm
  repeat' first
    | with_reducible assumption
    | with_reducible apply KeepsRes.next
    | with_reducible apply Keeps.setFld
    | with_reducible apply KeepsRes.ite

theorem Keeps.execXoffRepeat {s u : State} (a0 : ℕ) (a1 : ℕ) (h : Keeps s u) : KeepsRes s (execXoffRepeat a0 a1 u) := by
  unfold Sys2Proof.Machine.execXoffRepeat
  repeat' first
    | with_reducible assumption
    | fail_if_no_progress with_reducible apply Keeps.mk0
    | with_reducible apply KeepsRes.next
    | exact KeepsRes.fault _
    | with_reducible apply Keeps.sendXoff
    | with_reducible apply Keeps.ite
    | with_reducible apply KeepsRes.ite
    | with_reducible apply Keeps.foldl
    | with_reducible apply Keeps.foldlFst
    | intro _ _ _ _
    | intro _ _ _
    | dsimp only
    | split
    | with_reducible refine Keeps.ofFst ?_ (by assumption)
    | fail_if_no_progress with_reducible refine Keeps.mk' ?_ (by first | exact Nat.le_refl _ | exact Nat.le_succ _ | with_unfolding_all exact Nat.le_add_right _ _) (by first | exact List.prefix_rfl)

end Sys2Proof.Machine
end

