-- ==== Sys2Proof/Laws/KeepsCipher.lean ====
section
/-! SUPPORT. What the operations of Machine/Cipher.lean keep. -/

namespace Sys2Proof.Machine

theorem Keeps.execCipherLock {s u : State} (h : Keeps s u) : KeepsRes s (execCipherLock u) := by
  unfold Sys2Proof.Machine.execCipherLock
  repeat' first
    | with_reducible assumption
    | with_reducible apply KeepsRes.next
    | with_reducible apply Keeps.setFld
    | with_reducible apply KeepsRes.ite

theorem Keeps.execRngHealthFail {s u : State} (h : Keeps s u) : KeepsRes s (execRngHealthFail u) := by
  unfold Sys2Proof.Machine.execRngHealthFail
  repeat' first
    | with_reducible assumption
    | with_reducible apply KeepsRes.next
    | with_reducible apply Keeps.cphCause
    | with_reducible apply Keeps.setFld
    | with_reducible apply KeepsRes.ite

theorem Keeps.execRngHealthPass {s u : State} (h : Keeps s u) : KeepsRes s (execRngHealthPass u) := by
  unfold Sys2Proof.Machine.execRngHealthPass
  repeat' first
    | with_reducible assumption
    | with_reducible apply KeepsRes.next
    | with_reducible apply Keeps.setFld
    | with_reducible apply KeepsRes.ite

theorem Keeps.execKeyPageOwnerWrite {s u : State} (a0 : ℕ) (a1 : ℕ) (a2 : ℕ) (h : Keeps s u) : KeepsRes s (execKeyPageOwnerWrite a0 a1 a2 u) := by
  unfold Sys2Proof.Machine.execKeyPageOwnerWrite
  repeat' first
    | with_reducible assumption
    | with_reducible apply KeepsRes.next
    | with_reducible apply Keeps.setFld
    | with_reducible apply KeepsRes.ite

theorem Keeps.erasePage {s u : State} (a1 : ℕ) (h : Keeps s u) : Keeps s (State.erasePage u a1) := by
  unfold Sys2Proof.Machine.State.erasePage
  repeat' first
    | with_reducible assumption
    | fail_if_no_progress with_reducible apply Keeps.mk0
    | with_reducible apply Keeps.gcmWrite
    | with_reducible apply Keeps.setReg
    | with_reducible apply Keeps.setFld
    | with_reducible apply Keeps.ite
    | with_reducible apply Keeps.foldl
    | with_reducible apply Keeps.foldlFst
    | intro _ _ _ _
    | intro _ _ _
    | dsimp only
    | split
    | with_reducible refine Keeps.ofFst ?_ (by assumption)
    | fail_if_no_progress with_reducible refine Keeps.mk' ?_ (by first | exact Nat.le_refl _ | exact Nat.le_succ _ | with_unfolding_all exact Nat.le_add_right _ _) (by first | exact List.prefix_rfl)

theorem Keeps.loadPage {s u : State} (a1 : ℕ) (a2 : ℕ) (a3 : ℕ) (a4 : Bytes) (h : Keeps s u) : Keeps s (State.loadPage u a1 a2 a3 a4) := by
  unfold Sys2Proof.Machine.State.loadPage
  repeat' first
    | with_reducible assumption
    | fail_if_no_progress with_reducible apply Keeps.mk0
    | with_reducible apply Keeps.erasePage
    | with_reducible apply Keeps.gcmWrite
    | with_reducible apply Keeps.setFld
    | with_reducible apply Keeps.ite
    | with_reducible apply Keeps.foldl
    | with_reducible apply Keeps.foldlFst
    | intro _ _ _ _
    | intro _ _ _
    | dsimp only
    | split
    | with_reducible refine Keeps.ofFst ?_ (by assumption)
    | fail_if_no_progress with_reducible refine Keeps.mk' ?_ (by first | exact Nat.le_refl _ | exact Nat.le_succ _ | with_unfolding_all exact Nat.le_add_right _ _) (by first | exact List.prefix_rfl)

theorem Keeps.execKeyPageInstall {s u : State} (a0 : ℕ) (a1 : Sqe) (a2 : Bytes) (h : Keeps s u) : KeepsRes s (execKeyPageInstall a0 a1 a2 u) := by
  unfold Sys2Proof.Machine.execKeyPageInstall
  repeat' first
    | refine Keeps.adminRun _ _ _ (fun v hv => ?_) (by assumption)
    | with_reducible assumption
    | fail_if_no_progress with_reducible apply Keeps.mk0
    | with_reducible apply KeepsRes.next
    | exact KeepsRes.fault _
    | with_reducible apply Keeps.adminRun
    | with_reducible apply Keeps.admin
    | with_reducible apply Keeps.badField
    | with_reducible apply Keeps.cphCause
    | with_reducible apply Keeps.erasePage
    | with_reducible apply Keeps.loadPage
    | with_reducible apply Keeps.ite
    | with_reducible apply KeepsRes.ite
    | with_reducible apply Keeps.foldl
    | with_reducible apply Keeps.foldlFst
    | intro _ _ _ _
    | intro _ _ _
    | dsimp only
    | split
    | with_reducible refine Keeps.ofFst ?_ (by assumption)
    | fail_if_no_progress with_reducible refine Keeps.mk' ?_ (by first | exact Nat.le_refl _ | exact Nat.le_succ _ | with_unfolding_all exact Nat.le_add_right _ _) (by first | exact List.prefix_rfl)

theorem Keeps.zeroKeys {s u : State} (h : Keeps s u) : Keeps s (State.zeroKeys u) := by
  unfold Sys2Proof.Machine.State.zeroKeys
  repeat' first
    | with_reducible assumption
    | fail_if_no_progress with_reducible apply Keeps.mk0
    | with_reducible apply Keeps.over
    | with_reducible apply Keeps.setFld
    | with_reducible apply Keeps.cphCause
    | with_reducible apply Keeps.ite
    | intro _ _ _

theorem Keeps.execTamperAlarm {s u : State} (a0 : ℕ) (h : Keeps s u) : KeepsRes s (execTamperAlarm a0 u) := by
  unfold Sys2Proof.Machine.execTamperAlarm
  repeat' first
    | with_reducible assumption
    | with_reducible apply KeepsRes.next
    | with_reducible apply Keeps.setFld
    | with_reducible apply Keeps.endGrant
    | with_reducible apply Keeps.startWipe
    | with_reducible apply Keeps.zeroKeys
    | with_reducible apply Keeps.secCause
    | with_reducible apply Keeps.record
    | with_reducible apply KeepsRes.ite

end Sys2Proof.Machine
end

