-- ==== Sys2Proof/Laws/KeepsAdmin.lean ====
section
/-! SUPPORT. What the operations of Machine/Admin.lean keep. -/

namespace Sys2Proof.Machine

theorem Keeps.drawBytes {s u : State} (a1 : ℕ) (h : Keeps s u) : Keeps s (State.drawBytes u a1).1 := by
  unfold Sys2Proof.Machine.State.drawBytes
  repeat' first
    | with_reducible assumption
    | fail_if_no_progress with_reducible refine Keeps.mk' ?_ (by first | exact Nat.le_refl _ | exact Nat.le_succ _ | with_unfolding_all exact Nat.le_add_right _ _) (by first | exact List.prefix_rfl)

theorem Keeps.logSmart {s u : State} (h : Keeps s u) : Keeps s (State.logSmart u).1 := by
  unfold Sys2Proof.Machine.State.logSmart
  repeat' first
    | with_reducible assumption
    | with_reducible apply Keeps.drawBytes

theorem Keeps.logPage {s u : State} (f lid : Nat) (h : Keeps s u) : ∀ x, State.logPage u f lid = some x → Keeps s x.1 := by
  unfold Sys2Proof.Machine.State.logPage
  intro x hx
  split at hx <;> (try split at hx) <;>
    first
      | (cases hx; exact h)
      | (cases hx; exact Keeps.logSmart h)
      | cases hx

theorem Keeps.execGetLogPage {s u : State} (a0 : ℕ) (a1 : Sqe) (h : Keeps s u) : KeepsRes s (execGetLogPage a0 a1 u) := by
  unfold Sys2Proof.Machine.execGetLogPage
  refine Keeps.adminRun _ _ _ (fun v hv => ?_) h
  split
  · exact KeepsRes.next (Keeps.admin _ _ _ _ _ hv)
  · next x e =>
    have hx := Keeps.logPage _ _ hv x e
    exact KeepsRes.ite (KeepsRes.next (Keeps.badField _ _ _ _ _ hv)) (KeepsRes.ite (KeepsRes.next (Keeps.badField _ _ _ _ _ hv))
      (KeepsRes.next (Keeps.admin _ _ _ _ _ (Keeps.give _ _ _ _ hx))))

theorem Keeps.idController {s u : State} (a1 : ℕ) (h : Keeps s u) : Keeps s (State.idController u a1).1 := by
  unfold Sys2Proof.Machine.State.idController
  repeat' first
    | with_reducible assumption
    | with_reducible apply Keeps.drawBytes

theorem Keeps.identify {s u : State} (f : Nat) (c : Sqe) (h : Keeps s u) : ∀ x, State.identify u f c = .inr x → Keeps s x.1 := by
  unfold Sys2Proof.Machine.State.identify
  intro x hx
  dsimp only at hx
  split at hx <;> (try split at hx) <;> (try split at hx) <;>
    first
      | (cases hx; exact h)
      | (cases hx; exact Keeps.idController _ h)
      | cases hx

theorem Keeps.execIdentify {s u : State} (a0 : ℕ) (a1 : Sqe) (h : Keeps s u) : KeepsRes s (execIdentify a0 a1 u) := by
  unfold Sys2Proof.Machine.execIdentify
  refine Keeps.adminRun _ _ _ (fun v hv => ?_) h
  split
  · exact KeepsRes.next (Keeps.admin _ _ _ _ _ hv)
  · next x e => exact KeepsRes.next (Keeps.admin _ _ _ _ _ (Keeps.give _ _ _ _ (Keeps.identify _ _ hv x e)))

theorem Keeps.setFeat {s u : State} (a1 : ℕ) (a2 : ℕ) (a3 : ℕ) (h : Keeps s u) : Keeps s (State.setFeat u a1 a2 a3) := by
  unfold Sys2Proof.Machine.State.setFeat
  repeat' first
    | with_reducible assumption
    | with_reducible apply Keeps.setFn

theorem Keeps.execSetFeatures {s u : State} (a0 : ℕ) (a1 : Sqe) (a2 : Bytes) (h : Keeps s u) : KeepsRes s (execSetFeatures a0 a1 a2 u) := by
  unfold Sys2Proof.Machine.execSetFeatures
  repeat' first
    | refine Keeps.adminRun _ _ _ (fun v hv => ?_) (by assumption)
    | with_reducible assumption
    | fail_if_no_progress with_reducible apply Keeps.mk0
    | with_reducible apply KeepsRes.next
    | exact KeepsRes.fault _
    | with_reducible apply Keeps.adminRun
    | with_reducible apply Keeps.badField
    | with_reducible apply Keeps.admin
    | with_reducible apply Keeps.setFeat
    | with_reducible apply Keeps.ite
    | with_reducible apply KeepsRes.ite
    | with_reducible apply Keeps.foldl
    | with_reducible apply Keeps.foldlFst
    | intro _ _ _ _
    | intro _ _ _
    | dsimp only
    | split
    | with_reducible refine Keeps.ofFst ?_ (by assumption)
    | fail_if_no_progress with_reducible refine Keeps.mk' ?_ (by first | exact Nat.le_refl _ | exact Nat.le_succ _ | with_unfolding_all exact Nat.le_add_right _ _) (by first | exact List.prefix_rfl)

theorem Keeps.execGetFeatures {s u : State} (a0 : ℕ) (a1 : Sqe) (h : Keeps s u) : KeepsRes s (execGetFeatures a0 a1 u) := by
  unfold Sys2Proof.Machine.execGetFeatures
  repeat' first
    | refine Keeps.adminRun _ _ _ (fun v hv => ?_) (by assumption)
    | with_reducible assumption
    | fail_if_no_progress with_reducible apply Keeps.mk0
    | with_reducible apply KeepsRes.next
    | exact KeepsRes.fault _
    | with_reducible apply Keeps.adminRun
    | with_reducible apply Keeps.badField
    | with_reducible apply Keeps.admin
    | with_reducible apply Keeps.give
    | with_reducible apply Keeps.ite
    | with_reducible apply KeepsRes.ite
    | with_reducible apply Keeps.foldl
    | with_reducible apply Keeps.foldlFst
    | intro _ _ _ _
    | intro _ _ _
    | dsimp only
    | split
    | with_reducible refine Keeps.ofFst ?_ (by assumption)
    | fail_if_no_progress with_reducible refine Keeps.mk' ?_ (by first | exact Nat.le_refl _ | exact Nat.le_succ _ | with_unfolding_all exact Nat.le_add_right _ _) (by first | exact List.prefix_rfl)

theorem Keeps.execSetFeaturesTimestamp {s u : State} (a0 : ℕ) (a1 : Sqe) (a2 : Bytes) (h : Keeps s u) : KeepsRes s (execSetFeaturesTimestamp a0 a1 a2 u) := by
  unfold Sys2Proof.Machine.execSetFeaturesTimestamp
  repeat' first
    | refine Keeps.adminRun _ _ _ (fun v hv => ?_) (by assumption)
    | with_reducible assumption
    | fail_if_no_progress with_reducible apply Keeps.mk0
    | with_reducible apply KeepsRes.next
    | exact KeepsRes.fault _
    | with_reducible apply Keeps.adminRun
    | with_reducible apply Keeps.badField
    | with_reducible apply Keeps.admin
    | with_reducible apply Keeps.setFld
    | with_reducible apply Keeps.tmrCause
    | with_reducible apply Keeps.record
    | with_reducible apply Keeps.ite
    | with_reducible apply KeepsRes.ite
    | with_reducible apply Keeps.foldl
    | with_reducible apply Keeps.foldlFst
    | intro _ _ _ _
    | intro _ _ _
    | dsimp only
    | split
    | with_reducible refine Keeps.ofFst ?_ (by assumption)
    | fail_if_no_progress with_reducible refine Keeps.mk' ?_ (by first | exact Nat.le_refl _ | exact Nat.le_succ _ | with_unfolding_all exact Nat.le_add_right _ _) (by first | exact List.prefix_rfl)

theorem Keeps.execAsyncEventRequest {s u : State} (a0 : ℕ) (a1 : Sqe) (h : Keeps s u) : KeepsRes s (execAsyncEventRequest a0 a1 u) := by
  unfold Sys2Proof.Machine.execAsyncEventRequest
  repeat' first
    | refine Keeps.adminRun _ _ _ (fun v hv => ?_) (by assumption)
    | with_reducible assumption
    | fail_if_no_progress with_reducible apply Keeps.mk0
    | with_reducible apply KeepsRes.next
    | exact KeepsRes.fault _
    | with_reducible apply Keeps.adminRun
    | with_reducible apply Keeps.admin
    | with_reducible apply Keeps.setFn
    | with_reducible apply Keeps.ite
    | with_reducible apply KeepsRes.ite
    | with_reducible apply Keeps.foldl
    | with_reducible apply Keeps.foldlFst
    | intro _ _ _ _
    | intro _ _ _
    | dsimp only
    | split
    | with_reducible refine Keeps.ofFst ?_ (by assumption)
    | fail_if_no_progress with_reducible refine Keeps.mk' ?_ (by first | exact Nat.le_refl _ | exact Nat.le_succ _ | with_unfolding_all exact Nat.le_add_right _ _) (by first | exact List.prefix_rfl)

theorem Keeps.execMapHintExport {s u : State} (a0 : ℕ) (a1 : Sqe) (h : Keeps s u) : KeepsRes s (execMapHintExport a0 a1 u) := by
  unfold Sys2Proof.Machine.execMapHintExport
  repeat' first
    | refine Keeps.adminRun _ _ _ (fun v hv => ?_) (by assumption)
    | with_reducible assumption
    | fail_if_no_progress with_reducible apply Keeps.mk0
    | with_reducible apply KeepsRes.next
    | exact KeepsRes.fault _
    | with_reducible apply Keeps.adminRun
    | with_reducible apply Keeps.admin
    | with_reducible apply Keeps.badField
    | with_reducible apply Keeps.give
    | with_reducible apply Keeps.ite
    | with_reducible apply KeepsRes.ite
    | with_reducible apply Keeps.foldl
    | with_reducible apply Keeps.foldlFst
    | intro _ _ _ _
    | intro _ _ _
    | dsimp only
    | split
    | with_reducible refine Keeps.ofFst ?_ (by assumption)
    | fail_if_no_progress with_reducible refine Keeps.mk' ?_ (by first | exact Nat.le_refl _ | exact Nat.le_succ _ | with_unfolding_all exact Nat.le_add_right _ _) (by first | exact List.prefix_rfl)

theorem Keeps.execEventRecordRead {s u : State} (a0 : ℕ) (a1 : Sqe) (h : Keeps s u) : KeepsRes s (execEventRecordRead a0 a1 u) := by
  unfold Sys2Proof.Machine.execEventRecordRead
  repeat' first
    | refine Keeps.adminRun _ _ _ (fun v hv => ?_) (by assumption)
    | with_reducible assumption
    | fail_if_no_progress with_reducible apply Keeps.mk0
    | with_reducible apply KeepsRes.next
    | exact KeepsRes.fault _
    | with_reducible apply Keeps.adminRun
    | with_reducible apply Keeps.admin
    | with_reducible apply Keeps.badField
    | with_reducible apply Keeps.give
    | with_reducible apply Keeps.ite
    | with_reducible apply KeepsRes.ite
    | with_reducible apply Keeps.foldl
    | with_reducible apply Keeps.foldlFst
    | intro _ _ _ _
    | intro _ _ _
    | dsimp only
    | split
    | with_reducible refine Keeps.ofFst ?_ (by assumption)
    | fail_if_no_progress with_reducible refine Keeps.mk' ?_ (by first | exact Nat.le_refl _ | exact Nat.le_succ _ | with_unfolding_all exact Nat.le_add_right _ _) (by first | exact List.prefix_rfl)

end Sys2Proof.Machine
end

