-- ==== Sys2Proof/Laws/KeepsFlash.lean ====
section
/-! SUPPORT. What the operations of Machine/Flash.lean keep. -/

namespace Sys2Proof.Machine

theorem Keeps.enterRoutine {s u : State} (a1 : ℕ) (a2 : NandOp) (h : Keeps s u) : Keeps s (State.enterRoutine u a1 a2) := by
  unfold Sys2Proof.Machine.State.enterRoutine
  repeat' first
    | with_reducible assumption
    | with_reducible apply Keeps.setChan
    | split
    | fail_if_no_progress with_reducible refine Keeps.mk' ?_ (by first | exact Nat.le_refl _ | exact Nat.le_succ _ | with_unfolding_all exact Nat.le_add_right _ _) (by first | exact List.prefix_rfl)

theorem Keeps.startOp {s u : State} (a1 : ℕ) (a2 : ℕ) (a3 : NandOp) (h : Keeps s u) : Keeps s (State.startOp u a1 a2 a3) := by
  unfold Sys2Proof.Machine.State.startOp
  repeat' first
    | with_reducible assumption
    | with_reducible apply Keeps.setChan
    | with_reducible apply Keeps.count
    | with_reducible apply Keeps.emit
    | with_reducible apply Keeps.enterRoutine
    | split

theorem Keeps.endOp {s u : State} (a1 : ℕ) (a2 : ℕ) (h : Keeps s u) : Keeps s (State.endOp u a1 a2) := by
  unfold Sys2Proof.Machine.State.endOp
  repeat' first
    | with_reducible assumption
    | fail_if_no_progress with_reducible apply Keeps.mk0
    | with_reducible apply Keeps.refill
    | with_reducible apply Keeps.setChan
    | with_reducible apply Keeps.ite
    | with_reducible apply Keeps.foldl
    | with_reducible apply Keeps.foldlFst
    | intro _ _ _ _
    | intro _ _ _
    | dsimp only
    | split
    | with_reducible refine Keeps.ofFst ?_ (by assumption)
    | fail_if_no_progress with_reducible refine Keeps.mk' ?_ (by first | exact Nat.le_refl _ | exact Nat.le_succ _ | with_unfolding_all exact Nat.le_add_right _ _) (by first | exact List.prefix_rfl)

theorem Keeps.gcLost {s u : State} (a1 : ℕ) (a2 : List ℕ) (h : Keeps s u) : Keeps s (State.gcLost u a1 a2) := by
  unfold Sys2Proof.Machine.State.gcLost
  repeat' first
    | with_reducible assumption
    | fail_if_no_progress with_reducible apply Keeps.mk0
    | with_reducible apply Keeps.setGc
    | with_reducible apply Keeps.ite
    | with_reducible apply Keeps.foldl
    | with_reducible apply Keeps.foldlFst
    | intro _ _ _ _
    | intro _ _ _
    | dsimp only
    | split
    | with_reducible refine Keeps.ofFst ?_ (by assumption)
    | fail_if_no_progress with_reducible refine Keeps.mk' ?_ (by first | exact Nat.le_refl _ | exact Nat.le_succ _ | with_unfolding_all exact Nat.le_add_right _ _) (by first | exact List.prefix_rfl)

theorem Keeps.readLost {s u : State} (a1 : ℕ) (a2 : NandOp) (a3 : List ℕ) (h : Keeps s u) : Keeps s (State.readLost u a1 a2 a3) := by
  unfold Sys2Proof.Machine.State.readLost
  repeat' first
    | with_reducible assumption
    | fail_if_no_progress with_reducible apply Keeps.mk0
    | with_reducible apply Keeps.chCause
    | with_reducible apply Keeps.finish
    | with_reducible apply Keeps.unread
    | with_reducible apply Keeps.gcLost
    | with_reducible apply Keeps.ite
    | with_reducible apply Keeps.foldl
    | with_reducible apply Keeps.foldlFst
    | intro _ _ _ _
    | intro _ _ _
    | dsimp only
    | split
    | with_reducible refine Keeps.ofFst ?_ (by assumption)
    | fail_if_no_progress with_reducible refine Keeps.mk' ?_ (by first | exact Nat.le_refl _ | exact Nat.le_succ _ | with_unfolding_all exact Nat.le_add_right _ _) (by first | exact List.prefix_rfl)

theorem Keeps.progLost {s u : State} (a1 : ℕ) (a2 : NandOp) (h : Keeps s u) : Keeps s (State.progLost u a1 a2) := by
  unfold Sys2Proof.Machine.State.progLost
  repeat' first
    | with_reducible assumption
    | fail_if_no_progress with_reducible apply Keeps.mk0
    | with_reducible apply Keeps.chCause
    | with_reducible apply Keeps.count
    | with_reducible apply Keeps.redump
    | with_reducible apply Keeps.ite
    | with_reducible apply Keeps.foldl
    | with_reducible apply Keeps.foldlFst
    | intro _ _ _ _
    | intro _ _ _
    | dsimp only
    | split
    | with_reducible refine Keeps.ofFst ?_ (by assumption)
    | fail_if_no_progress with_reducible refine Keeps.mk' ?_ (by first | exact Nat.le_refl _ | exact Nat.le_succ _ | with_unfolding_all exact Nat.le_add_right _ _) (by first | exact List.prefix_rfl)

theorem Keeps.eraseLost {s u : State} (a1 : ℕ) (h : Keeps s u) : Keeps s (State.eraseLost u a1) := by
  unfold Sys2Proof.Machine.State.eraseLost
  repeat' first
    | with_reducible assumption
    | with_reducible apply Keeps.chCause
    | with_reducible apply Keeps.count

theorem Keeps.opLost {s u : State} (a1 : ℕ) (a2 : NandOp) (h : Keeps s u) : Keeps s (State.opLost u a1 a2) := by
  unfold Sys2Proof.Machine.State.opLost
  repeat' first
    | with_reducible assumption
    | fail_if_no_progress with_reducible apply Keeps.mk0
    | with_reducible apply Keeps.readLost
    | with_reducible apply Keeps.progLost
    | with_reducible apply Keeps.eraseLost
    | with_reducible apply Keeps.ite
    | with_reducible apply Keeps.foldl
    | with_reducible apply Keeps.foldlFst
    | intro _ _ _ _
    | intro _ _ _
    | dsimp only
    | split
    | with_reducible refine Keeps.ofFst ?_ (by assumption)
    | fail_if_no_progress with_reducible refine Keeps.mk' ?_ (by first | exact Nat.le_refl _ | exact Nat.le_succ _ | with_unfolding_all exact Nat.le_add_right _ _) (by first | exact List.prefix_rfl)

theorem Keeps.opDone {s u : State} (a1 : ℕ) (a2 : NandOp) (h : Keeps s u) : Keeps s (State.opDone u a1 a2) := by
  unfold Sys2Proof.Machine.State.opDone
  repeat' first
    | with_reducible assumption
    | fail_if_no_progress with_reducible apply Keeps.mk0
    | with_reducible apply Keeps.blockErased
    | with_reducible apply Keeps.ite
    | with_reducible apply Keeps.foldl
    | with_reducible apply Keeps.foldlFst
    | intro _ _ _ _
    | intro _ _ _
    | dsimp only
    | split
    | with_reducible refine Keeps.ofFst ?_ (by assumption)
    | fail_if_no_progress with_reducible refine Keeps.mk' ?_ (by first | exact Nat.le_refl _ | exact Nat.le_succ _ | with_unfolding_all exact Nat.le_add_right _ _) (by first | exact List.prefix_rfl)

theorem Keeps.setTimeouts {s u : State} (a1 : ℕ) (a2 : ℕ) (a3 : ℕ) (h : Keeps s u) : Keeps s (State.setTimeouts u a1 a2 a3) := by
  unfold Sys2Proof.Machine.State.setTimeouts
  repeat' first
    | with_reducible assumption
    | with_reducible apply Keeps.setChan

theorem Keeps.decodeCw {s u : State} (a1 : ℕ) (a2 : NandOp) (a3 : DecodeStep) (h : Keeps s u) : Keeps s (State.decodeCw u a1 a2 a3).1 := by
  unfold Sys2Proof.Machine.State.decodeCw
  repeat' first
    | with_reducible assumption
    | fail_if_no_progress with_reducible apply Keeps.mk0
    | with_reducible apply Keeps.count
    | with_reducible apply Keeps.setFld
    | with_reducible apply Keeps.chCause
    | with_reducible apply Keeps.ite
    | with_reducible apply Keeps.foldl
    | with_reducible apply Keeps.foldlFst
    | intro _ _ _ _
    | intro _ _ _
    | dsimp only
    | split

theorem Keeps.decodeAll {s u : State} (a1 : ℕ) (a2 : NandOp) (a3 : List (ℕ × DecodeStep)) (h : Keeps s u) : Keeps s (State.decodeAll u a1 a2 a3).1 := by
  induction a3 generalizing u a1 a2 with
  | nil =>
    unfold Sys2Proof.Machine.State.decodeAll
    repeat' first
      | with_reducible assumption
      | fail_if_no_progress with_reducible apply Keeps.mk0
      | with_reducible apply Keeps.decodeCw
      | with_reducible apply Keeps.ite
      | with_reducible apply Keeps.foldl
      | with_reducible apply Keeps.foldlFst
      | intro _ _ _ _
      | intro _ _ _
      | dsimp only
      | split
      | with_reducible refine Keeps.ofFst ?_ (by assumption)
      | fail_if_no_progress with_reducible refine Keeps.mk' ?_ (by first | exact Nat.le_refl _ | exact Nat.le_succ _ | with_unfolding_all exact Nat.le_add_right _ _) (by first | exact List.prefix_rfl)
  | cons y l ih =>
    unfold Sys2Proof.Machine.State.decodeAll
    repeat' first
      | with_reducible assumption
      | with_reducible apply ih
      | fail_if_no_progress with_reducible apply Keeps.mk0
      | with_reducible apply Keeps.decodeCw
      | with_reducible apply Keeps.ite
      | with_reducible apply Keeps.foldl
      | with_reducible apply Keeps.foldlFst
      | intro _ _ _ _
      | intro _ _ _
      | dsimp only
      | split
      | with_reducible refine Keeps.ofFst ?_ (by assumption)
      | fail_if_no_progress with_reducible refine Keeps.mk' ?_ (by first | exact Nat.le_refl _ | exact Nat.le_succ _ | with_unfolding_all exact Nat.le_add_right _ _) (by first | exact List.prefix_rfl)

theorem Keeps.reclaim {s u : State} (a1 : ℕ) (a2 : NandOp) (a3 : List ℕ) (h : Keeps s u) : Keeps s (State.reclaim u a1 a2 a3) := by
  unfold Sys2Proof.Machine.State.reclaim
  repeat' first
    | with_reducible assumption
    | fail_if_no_progress with_reducible apply Keeps.mk0
    | with_reducible apply Keeps.chCause
    | with_reducible apply Keeps.evacuate
    | with_reducible apply Keeps.ite
    | with_reducible apply Keeps.foldl
    | with_reducible apply Keeps.foldlFst
    | intro _ _ _ _
    | intro _ _ _
    | dsimp only
    | split
    | with_reducible refine Keeps.ofFst ?_ (by assumption)
    | fail_if_no_progress with_reducible refine Keeps.mk' ?_ (by first | exact Nat.le_refl _ | exact Nat.le_succ _ | with_unfolding_all exact Nat.le_add_right _ _) (by first | exact List.prefix_rfl)

theorem Keeps.execNandReadDone {s u : State} (a0 : ℕ) (a1 : ℕ) (a2 : List DecodeStep) (a3 : List ℕ) (h : Keeps s u) : KeepsRes s (execNandReadDone a0 a1 a2 a3 u) := by
  unfold Sys2Proof.Machine.execNandReadDone
  repeat' first
    | with_reducible assumption
    | fail_if_no_progress with_reducible apply Keeps.mk0
    | with_reducible apply KeepsRes.next
    | exact KeepsRes.fault _
    | with_reducible apply Keeps.decodeAll
    | with_reducible apply Keeps.setTimeouts
    | with_reducible apply Keeps.endOp
    | with_reducible apply Keeps.reclaim
    | with_reducible apply Keeps.readLost
    | with_reducible apply Keeps.ite
    | with_reducible apply KeepsRes.ite
    | with_reducible apply Keeps.foldl
    | with_reducible apply Keeps.foldlFst
    | intro _ _ _ _
    | intro _ _ _
    | dsimp only
    | split
    | with_reducible refine Keeps.ofFst ?_ (by assumption)
    | fail_if_no_progress with_reducible refine Keeps.mk' ?_ (by first | exact Nat.le_refl _ | exact Nat.le_succ _ | with_unfolding_all exact Nat.le_add_right _ _) (by first | exact List.prefix_rfl)

theorem Keeps.execNandProgramDone {s u : State} (a0 : ℕ) (a1 : ℕ) (a2 : Bool) (a3 : Bool) (h : Keeps s u) : KeepsRes s (execNandProgramDone a0 a1 a2 a3 u) := by
  unfold Sys2Proof.Machine.execNandProgramDone
  repeat' first
    | with_reducible assumption
    | fail_if_no_progress with_reducible apply Keeps.mk0
    | with_reducible apply KeepsRes.next
    | exact KeepsRes.fault _
    | with_reducible apply Keeps.setTimeouts
    | with_reducible apply Keeps.endOp
    | with_reducible apply Keeps.chCause
    | with_reducible apply Keeps.progLost
    | with_reducible apply Keeps.ite
    | with_reducible apply KeepsRes.ite
    | with_reducible apply Keeps.foldl
    | with_reducible apply Keeps.foldlFst
    | intro _ _ _ _
    | intro _ _ _
    | dsimp only
    | split
    | with_reducible refine Keeps.ofFst ?_ (by assumption)
    | fail_if_no_progress with_reducible refine Keeps.mk' ?_ (by first | exact Nat.le_refl _ | exact Nat.le_succ _ | with_unfolding_all exact Nat.le_add_right _ _) (by first | exact List.prefix_rfl)

theorem Keeps.execNandEraseDone {s u : State} (a0 : ℕ) (a1 : ℕ) (a2 : Bool) (a3 : Bool) (h : Keeps s u) : KeepsRes s (execNandEraseDone a0 a1 a2 a3 u) := by
  unfold Sys2Proof.Machine.execNandEraseDone
  repeat' first
    | with_reducible assumption
    | fail_if_no_progress with_reducible apply Keeps.mk0
    | with_reducible apply KeepsRes.next
    | exact KeepsRes.fault _
    | with_reducible apply Keeps.setTimeouts
    | with_reducible apply Keeps.endOp
    | with_reducible apply Keeps.eraseLost
    | with_reducible apply Keeps.opDone
    | with_reducible apply Keeps.chCause
    | with_reducible apply Keeps.ite
    | with_reducible apply KeepsRes.ite
    | with_reducible apply Keeps.foldl
    | with_reducible apply Keeps.foldlFst
    | intro _ _ _ _
    | intro _ _ _
    | dsimp only
    | split
    | with_reducible refine Keeps.ofFst ?_ (by assumption)
    | fail_if_no_progress with_reducible refine Keeps.mk' ?_ (by first | exact Nat.le_refl _ | exact Nat.le_succ _ | with_unfolding_all exact Nat.le_add_right _ _) (by first | exact List.prefix_rfl)

theorem Keeps.execEraseResume {s u : State} (a0 : ℕ) (a1 : ℕ) (h : Keeps s u) : KeepsRes s (execEraseResume a0 a1 u) := by
  unfold Sys2Proof.Machine.execEraseResume
  repeat' first
    | with_reducible assumption
    | with_reducible apply KeepsRes.next
    | with_reducible apply Keeps.trySuspend
    | with_reducible apply Keeps.setChan
    | with_reducible apply KeepsRes.ite

theorem Keeps.showRate {s u : State} (a1 : ℕ) (h : Keeps s u) : Keeps s (State.showRate u a1) := by
  unfold Sys2Proof.Machine.State.showRate
  repeat' first
    | with_reducible assumption
    | fail_if_no_progress with_reducible apply Keeps.mk0
    | with_reducible apply Keeps.setFld
    | with_reducible apply Keeps.ite
    | with_reducible apply Keeps.foldl
    | with_reducible apply Keeps.foldlFst
    | intro _ _ _ _
    | intro _ _ _
    | dsimp only
    | split
    | with_reducible refine Keeps.ofFst ?_ (by assumption)
    | fail_if_no_progress with_reducible refine Keeps.mk' ?_ (by first | exact Nat.le_refl _ | exact Nat.le_succ _ | with_unfolding_all exact Nat.le_add_right _ _) (by first | exact List.prefix_rfl)

theorem Keeps.dieOut {s u : State} (a1 : ℕ) (a2 : ℕ) (h : Keeps s u) : Keeps s (State.dieOut u a1 a2) := by
  unfold Sys2Proof.Machine.State.dieOut
  repeat' first
    | with_reducible assumption
    | fail_if_no_progress with_reducible apply Keeps.mk0
    | with_reducible apply Keeps.checkSpare
    | with_reducible apply Keeps.updGroup
    | with_reducible apply Keeps.showRate
    | with_reducible apply Keeps.setFld
    | with_reducible apply Keeps.ite
    | with_reducible apply Keeps.foldl
    | with_reducible apply Keeps.foldlFst
    | intro _ _ _ _
    | intro _ _ _
    | dsimp only
    | split
    | with_reducible refine Keeps.ofFst ?_ (by assumption)
    | fail_if_no_progress with_reducible refine Keeps.mk' ?_ (by first | exact Nat.le_refl _ | exact Nat.le_succ _ | with_unfolding_all exact Nat.le_add_right _ _) (by first | exact List.prefix_rfl)

theorem Keeps.failDie {s u : State} (a1 : ℕ) (a2 : ℕ) (h : Keeps s u) : Keeps s (State.failDie u a1 a2) := by
  unfold Sys2Proof.Machine.State.failDie
  repeat' first
    | with_reducible assumption
    | with_reducible apply Keeps.setChan
    | with_reducible apply Keeps.chCause
    | with_reducible apply Keeps.setFld
    | with_reducible apply Keeps.dieOut
    | with_reducible apply Keeps.over
    | with_reducible apply Keeps.opLost
    | intro _ _ _

theorem Keeps.timeOutOp {s u : State} (a1 : ℕ) (a2 : ℕ) (a3 : ℕ) (a4 : NandOp) (h : Keeps s u) : Keeps s (State.timeOutOp u a1 a2 a3 a4) := by
  unfold Sys2Proof.Machine.State.timeOutOp
  repeat' first
    | with_reducible assumption
    | with_reducible apply Keeps.emit
    | with_reducible apply Keeps.chCause
    | with_reducible apply Keeps.count
    | with_reducible apply Keeps.setTimeouts
    | with_reducible apply Keeps.endOp
    | with_reducible apply Keeps.setChan
    | with_reducible apply Keeps.opLost
    | with_reducible apply Keeps.failDie
    | with_reducible apply Keeps.ite

theorem Keeps.execNandOpTimeout {s u : State} (a0 : ℕ) (a1 : ℕ) (a2 : Bool) (h : Keeps s u) : KeepsRes s (execNandOpTimeout a0 a1 a2 u) := by
  unfold Sys2Proof.Machine.execNandOpTimeout
  repeat' first
    | with_reducible assumption
    | fail_if_no_progress with_reducible apply Keeps.mk0
    | with_reducible apply KeepsRes.next
    | exact KeepsRes.fault _
    | with_reducible apply Keeps.timeOutOp
    | with_reducible apply Keeps.ite
    | with_reducible apply KeepsRes.ite
    | with_reducible apply Keeps.foldl
    | with_reducible apply Keeps.foldlFst
    | intro _ _ _ _
    | intro _ _ _
    | dsimp only
    | split
    | with_reducible refine Keeps.ofFst ?_ (by assumption)
    | fail_if_no_progress with_reducible refine Keeps.mk' ?_ (by first | exact Nat.le_refl _ | exact Nat.le_succ _ | with_unfolding_all exact Nat.le_add_right _ _) (by first | exact List.prefix_rfl)

theorem Keeps.moveCw {s u : State} (a1 : ℕ) (a2 : NandOp) (h : Keeps s u) : Keeps s (State.moveCw u a1 a2) := by
  unfold Sys2Proof.Machine.State.moveCw
  repeat' first
    | with_reducible assumption
    | fail_if_no_progress with_reducible apply Keeps.mk0
    | with_reducible apply Keeps.emit
    | with_reducible apply Keeps.ite
    | with_reducible apply Keeps.foldl
    | with_reducible apply Keeps.foldlFst
    | intro _ _ _ _
    | intro _ _ _
    | dsimp only
    | split
    | with_reducible refine Keeps.ofFst ?_ (by assumption)
    | fail_if_no_progress with_reducible refine Keeps.mk' ?_ (by first | exact Nat.le_refl _ | exact Nat.le_succ _ | with_unfolding_all exact Nat.le_add_right _ _) (by first | exact List.prefix_rfl)

theorem Keeps.execBusPhase {s u : State} (a0 : ℕ) (h : Keeps s u) : KeepsRes s (execBusPhase a0 u) := by
  unfold Sys2Proof.Machine.execBusPhase
  repeat' first
    | with_reducible assumption
    | fail_if_no_progress with_reducible apply Keeps.mk0
    | with_reducible apply KeepsRes.next
    | exact KeepsRes.fault _
    | with_reducible apply Keeps.opLost
    | with_reducible apply Keeps.endOp
    | with_reducible apply Keeps.moveCw
    | with_reducible apply Keeps.count
    | with_reducible apply Keeps.setChan
    | with_reducible apply Keeps.startOp
    | with_reducible apply Keeps.ite
    | with_reducible apply KeepsRes.ite
    | with_reducible apply Keeps.foldl
    | with_reducible apply Keeps.foldlFst
    | intro _ _ _ _
    | intro _ _ _
    | dsimp only
    | split
    | with_reducible refine Keeps.ofFst ?_ (by assumption)
    | fail_if_no_progress with_reducible refine Keeps.mk' ?_ (by first | exact Nat.le_refl _ | exact Nat.le_succ _ | with_unfolding_all exact Nat.le_add_right _ _) (by first | exact List.prefix_rfl)

theorem Keeps.timeOutCh {s u : State} (a1 : ℕ) (h : Keeps s u) : Keeps s (State.timeOutCh u a1) := by
  unfold Sys2Proof.Machine.State.timeOutCh
  repeat' first
    | with_reducible assumption
    | with_reducible apply Keeps.over
    | with_reducible apply Keeps.timeOutOp
    | intro _ _ _
    | split

theorem Keeps.loseDie {s u : State} (a1 : ℕ) (a2 : ℕ) (h : Keeps s u) : Keeps s (State.loseDie u a1 a2) := by
  unfold Sys2Proof.Machine.State.loseDie
  repeat' first
    | with_reducible assumption
    | with_reducible apply Keeps.setFtl

theorem Keeps.execDieForget {s u : State} (a0 : ℕ) (a1 : ℕ) (h : Keeps s u) : KeepsRes s (execDieForget a0 a1 u) := by
  unfold Sys2Proof.Machine.execDieForget
  repeat' first
    | with_reducible assumption
    | fail_if_no_progress with_reducible apply Keeps.mk0
    | with_reducible apply KeepsRes.next
    | with_reducible apply Keeps.loseDie
    | with_reducible apply Keeps.dieOut
    | with_reducible apply Keeps.setFld
    | with_reducible apply KeepsRes.ite

theorem Keeps.setDie {s u : State} (a1 : ℕ) (a2 : DieFound) (a3 : ℕ) (h : Keeps s u) : Keeps s (State.setDie u a1 a2 a3) := by
  unfold Sys2Proof.Machine.State.setDie
  repeat' first
    | with_reducible assumption
    | with_reducible apply Keeps.setReg
    | with_reducible apply Keeps.setFld
    | split

theorem Keeps.discoverCh {s u : State} (a1 : ℕ) (h : Keeps s u) : Keeps s (State.discoverCh u a1) := by
  unfold Sys2Proof.Machine.State.discoverCh
  repeat' first
    | with_reducible assumption
    | fail_if_no_progress with_reducible apply Keeps.mk0
    | with_reducible apply Keeps.setChan
    | with_reducible apply Keeps.over
    | with_reducible apply Keeps.setDie
    | with_reducible apply Keeps.setFld
    | with_reducible apply Keeps.showRate
    | with_reducible apply Keeps.chCause
    | with_reducible apply Keeps.ite
    | with_reducible apply Keeps.foldl
    | with_reducible apply Keeps.foldlFst
    | intro _ _ _ _
    | intro _ _ _
    | dsimp only
    | split
    | with_reducible refine Keeps.ofFst ?_ (by assumption)
    | fail_if_no_progress with_reducible refine Keeps.mk' ?_ (by first | exact Nat.le_refl _ | exact Nat.le_succ _ | with_unfolding_all exact Nat.le_add_right _ _) (by first | exact List.prefix_rfl)

theorem Keeps.discover {s u : State} (a1 : List (ℕ × DieFound)) (h : Keeps s u) : Keeps s (State.discover u a1) := by
  unfold Sys2Proof.Machine.State.discover
  repeat' first
    | with_reducible assumption
    | fail_if_no_progress with_reducible apply Keeps.mk0
    | with_reducible apply Keeps.over
    | with_reducible apply Keeps.discoverCh

end Sys2Proof.Machine
end

