-- ==== Sys2Proof/Laws/KeepsCcs.lean ====
section
/-! SUPPORT. What the operations of Machine/Ccs.lean keep. -/

namespace Sys2Proof.Machine

theorem Keeps.setSeq {s u : State} (a1 : ℕ) (a2 : Option Useq) (h : Keeps s u) : Keeps s (State.setSeq u a1 a2) := by
  unfold Sys2Proof.Machine.State.setSeq
  repeat' first
    | with_reducible assumption
    | with_reducible apply Keeps.setChan

theorem Keeps.busCycle {s u : State} (a1 : ℕ) (a2 : Useq) (a3 : BitVec 192) (h : Keeps s u) : Keeps s (State.busCycle u a1 a2 a3).1 := by
  unfold Sys2Proof.Machine.State.busCycle
  repeat' first
    | with_reducible assumption
    | fail_if_no_progress with_reducible apply Keeps.mk0
    | with_reducible apply Keeps.count
    | with_reducible apply Keeps.emit
    | with_reducible apply Keeps.draw
    | with_reducible apply Keeps.ite
    | with_reducible apply Keeps.foldl
    | with_reducible apply Keeps.foldlFst
    | intro _ _ _ _
    | intro _ _ _
    | dsimp only
    | split
    | with_reducible refine Keeps.ofFst ?_ (by assumption)
    | fail_if_no_progress with_reducible refine Keeps.mk' ?_ (by first | exact Nat.le_refl _ | exact Nat.le_succ _ | with_unfolding_all exact Nat.le_add_right _ _) (by first | exact List.prefix_rfl)

theorem Keeps.busPart {s u : State} (a1 : ℕ) (a2 : Useq) (a3 : BitVec 192) (h : Keeps s u) : Keeps s (State.busPart u a1 a2 a3).1 := by
  unfold Sys2Proof.Machine.State.busPart
  repeat' first
    | with_reducible assumption
    | with_reducible apply Keeps.busCycle
    | with_reducible apply Keeps.count
    | with_reducible apply Keeps.emit
    | with_reducible apply Keeps.draw
    | dsimp only
    | split

theorem Keeps.seqCond {s u : State} (a1 : ℕ) (a2 : Useq) (a3 : BitVec 192) (h : Keeps s u) : Keeps s (State.seqCond u a1 a2 a3).1 := by
  unfold Sys2Proof.Machine.State.seqCond
  repeat' first
    | with_reducible assumption
    | with_reducible apply Keeps.draw
    | split

theorem Keeps.wordPart {s u : State} (a1 : ℕ) (a2 : Useq) (a3 : BitVec 192) (h : Keeps s u) : Keeps s (State.wordPart u a1 a2 a3).1 := by
  unfold Sys2Proof.Machine.State.wordPart
  repeat' first
    | with_reducible assumption
    | with_reducible apply Keeps.busPart
    | split

theorem Keeps.seqEnd {s u : State} (a1 : ℕ) (a2 : Useq) (a3 : ℕ) (h : Keeps s u) : Keeps s (State.seqEnd u a1 a2 a3) := by
  unfold Sys2Proof.Machine.State.seqEnd
  repeat' first
    | with_reducible assumption
    | fail_if_no_progress with_reducible apply Keeps.mk0
    | with_reducible apply Keeps.setSeq
    | with_reducible apply Keeps.setFld
    | with_reducible apply Keeps.endOp
    | with_reducible apply Keeps.opDone
    | with_reducible apply Keeps.setTimeouts
    | with_reducible apply Keeps.opLost
    | with_reducible apply Keeps.ite
    | with_reducible apply Keeps.foldl
    | with_reducible apply Keeps.foldlFst
    | intro _ _ _ _
    | intro _ _ _
    | dsimp only
    | split
    | with_reducible refine Keeps.ofFst ?_ (by assumption)
    | fail_if_no_progress with_reducible refine Keeps.mk' ?_ (by first | exact Nat.le_refl _ | exact Nat.le_succ _ | with_unfolding_all exact Nat.le_add_right _ _) (by first | exact List.prefix_rfl)

theorem Keeps.runWord {s u : State} (c code : Nat) {next : State → Useq → BitVec 192 → State}
    (hn : ∀ v q w, Keeps s v → Keeps s (next v q w)) (h : Keeps s u) : KeepsRes s (u.runWord c code next) := by
  unfold State.runWord
  split
  · exact KeepsRes.next h
  · next q _ =>
    dsimp only
    split
    · exact KeepsRes.next (Keeps.ite (hn _ _ _ (Keeps.wordPart _ _ _ h)) (Keeps.setSeq _ _ (Keeps.wordPart _ _ _ h)))
    · exact KeepsRes.next h

theorem Keeps.goSeq {s u : State} (a1 : ℕ) (a2 : Useq) (a3 : ℕ) (h : Keeps s u) : Keeps s (State.goSeq u a1 a2 a3) := by
  unfold Sys2Proof.Machine.State.goSeq
  repeat' first
    | with_reducible assumption
    | with_reducible apply Keeps.setSeq

theorem Keeps.execWNext {s u : State} (a0 : ℕ) (h : Keeps s u) : KeepsRes s (execWNext a0 u) := by
  unfold Sys2Proof.Machine.execWNext
  repeat' first
    | with_reducible assumption
    | with_reducible apply Keeps.runWord
    | with_reducible apply Keeps.goSeq
    | intro _ _ _ _

theorem Keeps.execWJump {s u : State} (a0 : ℕ) (h : Keeps s u) : KeepsRes s (execWJump a0 u) := by
  unfold Sys2Proof.Machine.execWJump
  repeat' first
    | with_reducible assumption
    | with_reducible apply Keeps.runWord
    | with_reducible apply Keeps.goSeq
    | intro _ _ _ _

theorem Keeps.exportCall {s u : State} (a1 : ℕ) (a2 : Useq) (h : Keeps s u) : Keeps s (State.exportCall u a1 a2) := by
  unfold Sys2Proof.Machine.State.exportCall
  repeat' first
    | with_reducible assumption
    | with_reducible apply Keeps.goSeq
    | with_reducible apply Keeps.draw

theorem Keeps.execWCall {s u : State} (a0 : ℕ) (h : Keeps s u) : KeepsRes s (execWCall a0 u) := by
  unfold Sys2Proof.Machine.execWCall
  repeat' first
    | with_reducible assumption
    | with_reducible apply Keeps.runWord
    | with_reducible apply Keeps.seqEnd
    | with_reducible apply Keeps.exportCall
    | with_reducible apply Keeps.goSeq
    | with_reducible apply Keeps.ite
    | intro _ _ _ _

theorem Keeps.execWRet {s u : State} (a0 : ℕ) (h : Keeps s u) : KeepsRes s (execWRet a0 u) := by
  unfold Sys2Proof.Machine.execWRet
  repeat' first
    | with_reducible assumption
    | fail_if_no_progress with_reducible apply Keeps.mk0
    | with_reducible apply KeepsRes.next
    | exact KeepsRes.fault _
    | with_reducible apply Keeps.runWord
    | with_reducible apply Keeps.seqEnd
    | with_reducible apply Keeps.goSeq
    | with_reducible apply Keeps.ite
    | with_reducible apply KeepsRes.ite
    | with_reducible apply Keeps.foldl
    | with_reducible apply Keeps.foldlFst
    | intro _ _ _ _
    | intro _ _ _
    | dsimp only
    | split

theorem Keeps.execWBrt {s u : State} (a0 : ℕ) (h : Keeps s u) : KeepsRes s (execWBrt a0 u) := by
  unfold Sys2Proof.Machine.execWBrt
  repeat' first
    | with_reducible assumption
    | with_reducible apply Keeps.runWord
    | with_reducible apply Keeps.seqCond
    | with_reducible apply Keeps.goSeq
    | intro _ _ _ _

theorem Keeps.execWBrf {s u : State} (a0 : ℕ) (h : Keeps s u) : KeepsRes s (execWBrf a0 u) := by
  unfold Sys2Proof.Machine.execWBrf
  repeat' first
    | with_reducible assumption
    | with_reducible apply Keeps.runWord
    | with_reducible apply Keeps.seqCond
    | with_reducible apply Keeps.goSeq
    | intro _ _ _ _

theorem Keeps.execWWait {s u : State} (a0 : ℕ) (h : Keeps s u) : KeepsRes s (execWWait a0 u) := by
  unfold Sys2Proof.Machine.execWWait
  repeat' first
    | with_reducible assumption
    | with_reducible apply Keeps.runWord
    | with_reducible apply Keeps.seqCond
    | with_reducible apply Keeps.goSeq
    | with_reducible apply Keeps.setSeq
    | with_reducible apply Keeps.ite
    | intro _ _ _ _

theorem Keeps.execWLoop {s u : State} (a0 : ℕ) (h : Keeps s u) : KeepsRes s (execWLoop a0 u) := by
  unfold Sys2Proof.Machine.execWLoop
  repeat' first
    | with_reducible assumption
    | with_reducible apply Keeps.runWord
    | with_reducible apply Keeps.goSeq
    | with_reducible apply Keeps.ite
    | intro _ _ _ _

theorem Keeps.execWDone {s u : State} (a0 : ℕ) (h : Keeps s u) : KeepsRes s (execWDone a0 u) := by
  unfold Sys2Proof.Machine.execWDone
  repeat' first
    | with_reducible assumption
    | with_reducible apply Keeps.runWord
    | with_reducible apply Keeps.seqEnd
    | intro _ _ _ _

theorem Keeps.execCcsFault {s u : State} (a0 : ℕ) (h : Keeps s u) : KeepsRes s (execCcsFault a0 u) := by
  unfold Sys2Proof.Machine.execCcsFault
  repeat' first
    | with_reducible assumption
    | with_reducible apply KeepsRes.next
    | with_reducible apply Keeps.setFld
    | with_reducible apply Keeps.chCause
    | with_reducible apply KeepsRes.ite

theorem Keeps.execCcsRewriteDone {s u : State} (a0 : ℕ) (h : Keeps s u) : KeepsRes s (execCcsRewriteDone a0 u) := by
  unfold Sys2Proof.Machine.execCcsRewriteDone
  repeat' first
    | with_reducible assumption
    | with_reducible apply KeepsRes.next
    | with_reducible apply Keeps.setFld
    | with_reducible apply Keeps.setSeq
    | with_reducible apply Keeps.opLost
    | with_reducible apply Keeps.endOp
    | split

theorem Keeps.loadRegion {s u : State} (a1 : ℕ) (a2 : ℕ) (a3 : List (BitVec 192)) (h : Keeps s u) : Keeps s (State.loadRegion u a1 a2 a3) := by
  unfold Sys2Proof.Machine.State.loadRegion
  repeat' first
    | with_reducible assumption
    | with_reducible apply Keeps.over
    | with_reducible apply Keeps.setChan
    | with_reducible apply Keeps.setReg
    | intro _ _ _

theorem Keeps.showKept {s u : State} (h : Keeps s u) : Keeps s (State.showKept u) := by
  unfold Sys2Proof.Machine.State.showKept
  repeat' first
    | with_reducible assumption
    | with_reducible apply Keeps.setFld
    | with_reducible apply Keeps.setReg
    | split

theorem Keeps.claimCh {s u : State} (a1 : ℕ) (h : Keeps s u) : Keeps s (State.claimCh u a1).1 := by
  unfold Sys2Proof.Machine.State.claimCh
  repeat' first
    | with_reducible assumption
    | fail_if_no_progress with_reducible apply Keeps.mk0
    | with_reducible apply Keeps.over
    | with_reducible apply Keeps.setDie
    | with_reducible apply Keeps.setFld
    | with_reducible apply Keeps.showRate
    | with_reducible apply Keeps.checkSpare
    | with_reducible apply Keeps.updGroup
    | with_reducible apply Keeps.chCause
    | with_reducible apply Keeps.ite
    | with_reducible apply Keeps.foldl
    | with_reducible apply Keeps.foldlFst
    | intro _ _ _ _
    | intro _ _ _
    | dsimp only
    | split
    | with_reducible refine Keeps.ofFst ?_ (by assumption)
    | fail_if_no_progress with_reducible refine Keeps.mk' ?_ (by first | exact Nat.le_refl _ | exact Nat.le_succ _ | with_unfolding_all exact Nat.le_add_right _ _) (by first | exact List.prefix_rfl)

theorem Keeps.claimAll {s u : State} (a1 : ℕ) (a2 : ℕ) (h : Keeps s u) : Keeps s (State.claimAll u a1 a2).1 := by
  unfold Sys2Proof.Machine.State.claimAll
  repeat' first
    | with_reducible assumption
    | with_reducible apply Keeps.claimCh
    | with_reducible apply Keeps.foldlFst
    | intro _ _ _

theorem Keeps.execMicrocodeLoad {s u : State} (a0 : ℕ) (a1 : Sqe) (a2 : Bytes) (a3 : Bool) (h : Keeps s u) : KeepsRes s (execMicrocodeLoad a0 a1 a2 a3 u) := by
  unfold Sys2Proof.Machine.execMicrocodeLoad
  repeat' first
    | refine Keeps.adminRun _ _ _ (fun v hv => ?_) (by assumption)
    | with_reducible assumption
    | fail_if_no_progress with_reducible apply Keeps.mk0
    | with_reducible apply KeepsRes.next
    | exact KeepsRes.fault _
    | with_reducible apply Keeps.adminRun
    | with_reducible apply Keeps.admin
    | with_reducible apply Keeps.badField
    | with_reducible apply Keeps.showKept
    | with_reducible apply Keeps.sectorBad
    | with_reducible apply Keeps.claimAll
    | with_reducible apply Keeps.loadRegion
    | with_reducible apply Keeps.ite
    | with_reducible apply KeepsRes.ite
    | with_reducible apply Keeps.foldl
    | with_reducible apply Keeps.foldlFst
    | intro _ _ _ _
    | intro _ _ _
    | dsimp only
    | split
    | with_reducible refine Keeps.ofFst ?_ (by assumption)
    | fail_if_no_progress with_reducible refine Keeps.mk' ?_ (by first | exact Nat.le_refl _ | exact Nat.le_succ _ | with_unfolding_all exact Nat.le_add_right _ _) (by first | exact List.prefix_rfl)

theorem Keeps.execKeptDiscard {s u : State} (h : Keeps s u) : KeepsRes s (execKeptDiscard u) := by
  unfold Sys2Proof.Machine.execKeptDiscard
  repeat' first
    | with_reducible assumption
    | with_reducible apply KeepsRes.next
    | with_reducible apply Keeps.setFld
    | with_reducible apply KeepsRes.ite

theorem Keeps.loadVendor {s u : State} (h : Keeps s u) : Keeps s (State.loadVendor u) := by
  unfold Sys2Proof.Machine.State.loadVendor
  repeat' first
    | with_reducible assumption
    | fail_if_no_progress with_reducible apply Keeps.mk0
    | with_reducible apply Keeps.over
    | with_reducible apply Keeps.setChan
    | with_reducible apply Keeps.ite
    | with_reducible apply Keeps.foldl
    | with_reducible apply Keeps.foldlFst
    | intro _ _ _ _
    | intro _ _ _
    | dsimp only
    | split
    | with_reducible refine Keeps.ofFst ?_ (by assumption)
    | fail_if_no_progress with_reducible refine Keeps.mk' ?_ (by first | exact Nat.le_refl _ | exact Nat.le_succ _ | with_unfolding_all exact Nat.le_add_right _ _) (by first | exact List.prefix_rfl)

theorem Keeps.loadKept {s u : State} (a1 : Bool) (h : Keeps s u) : Keeps s (State.loadKept u a1) := by
  unfold Sys2Proof.Machine.State.loadKept
  repeat' first
    | with_reducible assumption
    | fail_if_no_progress with_reducible apply Keeps.mk0
    | with_reducible apply Keeps.showKept
    | with_reducible apply Keeps.loadRegion
    | with_reducible apply Keeps.ite
    | with_reducible apply Keeps.foldl
    | with_reducible apply Keeps.foldlFst
    | intro _ _ _ _
    | intro _ _ _
    | dsimp only
    | split

end Sys2Proof.Machine
end

