-- ==== Sys2Proof/Laws/KeepsDebug.lean ====
section
/-! SUPPORT. What the operations of Machine/Debug.lean keep. -/

namespace Sys2Proof.Machine

theorem Keeps.setSec {s u : State} (a1 : Sec) (h : Keeps s u) : Keeps s (State.setSec u a1) := by
  unfold Sys2Proof.Machine.State.setSec
  repeat' first
    | with_reducible assumption
    | fail_if_no_progress with_reducible apply Keeps.mk0

theorem Keeps.execDebugGrant {s u : State} (a0 : ℕ) (a1 : Sqe) (a2 : BitVec 128) (h : Keeps s u) : KeepsRes s (execDebugGrant a0 a1 a2 u) := by
  unfold Sys2Proof.Machine.execDebugGrant
  repeat' first
    | refine Keeps.adminRun _ _ _ (fun v hv => ?_) (by assumption)
    | with_reducible assumption
    | fail_if_no_progress with_reducible apply Keeps.mk0
    | with_reducible apply KeepsRes.next
    | exact KeepsRes.fault _
    | with_reducible apply Keeps.adminRun
    | with_reducible apply Keeps.admin
    | with_reducible apply Keeps.setFld
    | with_reducible apply Keeps.setSec
    | with_reducible apply Keeps.badField
    | with_reducible apply Keeps.record
    | with_reducible apply Keeps.secCause
    | with_reducible apply Keeps.ite
    | with_reducible apply KeepsRes.ite
    | with_reducible apply Keeps.foldl
    | with_reducible apply Keeps.foldlFst
    | intro _ _ _ _
    | intro _ _ _
    | dsimp only
    | split
    | with_reducible refine Keeps.ofFst ?_ (by assumption)
    | fail_if_no_progress with_reducible refine Keeps.mk' ?_ (by first | exact Nat.le_refl _ | exact Nat.le_succ _ | with_unfolding_all exact Nat.le_add_right _ _) (by first | exact List.prefix_rfl)

theorem Keeps.execDebugRevoke {s u : State} (h : Keeps s u) : KeepsRes s (execDebugRevoke u) := by
  unfold Sys2Proof.Machine.execDebugRevoke
  repeat' first
    | with_reducible assumption
    | with_reducible apply KeepsRes.next
    | with_reducible apply Keeps.endGrant
    | with_reducible apply KeepsRes.ite

theorem Keeps.attach {s u : State} (h : Keeps s u) : Keeps s (State.attach u) := by
  unfold Sys2Proof.Machine.State.attach
  repeat' first
    | with_reducible assumption
    | with_reducible apply Keeps.setFld

theorem Keeps.haltCore {s u : State} (a1 : ℕ) (h : Keeps s u) : Keeps s (State.haltCore u a1) := by
  unfold Sys2Proof.Machine.State.haltCore
  repeat' first
    | with_reducible assumption
    | with_reducible apply Keeps.attach
    | with_reducible apply Keeps.setFld
    | with_reducible apply Keeps.setSec

theorem Keeps.debugWrite {s u : State} (a1 : DbgAcc) (a2 : Bytes) (h : Keeps s u) : Keeps s (State.debugWrite u a1 a2) := by
  unfold Sys2Proof.Machine.State.debugWrite
  repeat' first
    | with_reducible assumption
    | fail_if_no_progress with_reducible apply Keeps.mk0
    | with_reducible apply Keeps.setBank
    | with_reducible apply Keeps.setStk
    | with_reducible apply Keeps.ite
    | with_reducible apply Keeps.foldl
    | with_reducible apply Keeps.foldlFst
    | intro _ _ _ _
    | intro _ _ _
    | dsimp only
    | split
    | with_reducible refine Keeps.ofFst ?_ (by assumption)
    | fail_if_no_progress with_reducible refine Keeps.mk' ?_ (by first | exact Nat.le_refl _ | exact Nat.le_succ _ | with_unfolding_all exact Nat.le_add_right _ _) (by first | exact List.prefix_rfl)

theorem Keeps.debugAccess {s u : State} (a1 : ℕ) (a2 : DbgAcc) (h : Keeps s u) : Keeps s (State.debugAccess u a1 a2) := by
  unfold Sys2Proof.Machine.State.debugAccess
  repeat' first
    | with_reducible assumption
    | fail_if_no_progress with_reducible apply Keeps.mk0
    | with_reducible apply Keeps.debugWrite
    | with_reducible apply Keeps.draw
    | with_reducible apply Keeps.emit
    | with_reducible apply Keeps.ite
    | with_reducible apply Keeps.foldl
    | with_reducible apply Keeps.foldlFst
    | intro _ _ _ _
    | intro _ _ _
    | dsimp only
    | split
    | with_reducible refine Keeps.ofFst ?_ (by assumption)
    | fail_if_no_progress with_reducible refine Keeps.mk' ?_ (by first | exact Nat.le_refl _ | exact Nat.le_succ _ | with_unfolding_all exact Nat.le_add_right _ _) (by first | exact List.prefix_rfl)

theorem Keeps.debugCore {s u : State} (a1 : ℕ × List DbgAcc) (h : Keeps s u) : Keeps s (State.debugCore u a1) := by
  unfold Sys2Proof.Machine.State.debugCore
  repeat' first
    | with_reducible assumption
    | fail_if_no_progress with_reducible apply Keeps.mk0
    | with_reducible apply Keeps.over
    | with_reducible apply Keeps.haltCore
    | with_reducible apply Keeps.debugAccess
    | with_reducible apply Keeps.ite
    | with_reducible apply Keeps.foldl
    | with_reducible apply Keeps.foldlFst
    | intro _ _ _ _
    | intro _ _ _
    | dsimp only
    | split
    | with_reducible refine Keeps.ofFst ?_ (by assumption)
    | fail_if_no_progress with_reducible refine Keeps.mk' ?_ (by first | exact Nat.le_refl _ | exact Nat.le_succ _ | with_unfolding_all exact Nat.le_add_right _ _) (by first | exact List.prefix_rfl)

theorem Keeps.execCoreHalt {s u : State} (a0 : ℕ) (a1 : List DbgAcc) (h : Keeps s u) : KeepsRes s (execCoreHalt a0 a1 u) := by
  unfold Sys2Proof.Machine.execCoreHalt
  repeat' first
    | with_reducible assumption
    | fail_if_no_progress with_reducible apply Keeps.mk0
    | with_reducible apply KeepsRes.next
    | exact KeepsRes.fault _
    | with_reducible apply Keeps.setSec
    | with_reducible apply Keeps.debugCore
    | with_reducible apply Keeps.ite
    | with_reducible apply KeepsRes.ite
    | with_reducible apply Keeps.foldl
    | with_reducible apply Keeps.foldlFst
    | intro _ _ _ _
    | intro _ _ _
    | dsimp only
    | split
    | with_reducible refine Keeps.ofFst ?_ (by assumption)
    | fail_if_no_progress with_reducible refine Keeps.mk' ?_ (by first | exact Nat.le_refl _ | exact Nat.le_succ _ | with_unfolding_all exact Nat.le_add_right _ _) (by first | exact List.prefix_rfl)

theorem Keeps.execCoreDebugResume {s u : State} (a0 : ℕ) (a1 : Bool) (h : Keeps s u) : KeepsRes s (execCoreDebugResume a0 a1 u) := by
  unfold Sys2Proof.Machine.execCoreDebugResume
  repeat' first
    | with_reducible assumption
    | with_reducible apply KeepsRes.next
    | with_reducible apply Keeps.setFld
    | with_reducible apply Keeps.setSec
    | with_reducible apply Keeps.attach
    | with_reducible apply Keeps.ite
    | with_reducible apply KeepsRes.ite

theorem Keeps.obsDrive {s u : State} (a1 : W32) (h : Keeps s u) : Keeps s (State.obsDrive u a1) := by
  unfold Sys2Proof.Machine.State.obsDrive
  repeat' first
    | with_reducible assumption
    | with_reducible apply Keeps.setReg
    | with_reducible apply Keeps.attach
    | with_reducible apply Keeps.setFld
    | with_reducible apply Keeps.setSec

theorem Keeps.execObsEnable {s u : State} (a0 : W32) (h : Keeps s u) : KeepsRes s (execObsEnable a0 u) := by
  unfold Sys2Proof.Machine.execObsEnable
  repeat' first
    | with_reducible assumption
    | with_reducible apply KeepsRes.next
    | with_reducible apply Keeps.setSec
    | with_reducible apply Keeps.obsDrive
    | with_reducible apply KeepsRes.ite

theorem Keeps.serveHeld {s u : State} (h : Keeps s u) : Keeps s (State.serveHeld u) := by
  unfold Sys2Proof.Machine.State.serveHeld
  repeat' first
    | with_reducible assumption
    | fail_if_no_progress with_reducible apply Keeps.mk0
    | with_reducible apply Keeps.setSec
    | with_reducible apply Keeps.over
    | with_reducible apply Keeps.debugCore
    | with_reducible apply Keeps.obsDrive
    | with_reducible apply Keeps.ite
    | with_reducible apply Keeps.foldl
    | with_reducible apply Keeps.foldlFst
    | intro _ _ _ _
    | intro _ _ _
    | dsimp only
    | split
    | with_reducible refine Keeps.ofFst ?_ (by assumption)
    | fail_if_no_progress with_reducible refine Keeps.mk' ?_ (by first | exact Nat.le_refl _ | exact Nat.le_succ _ | with_unfolding_all exact Nat.le_add_right _ _) (by first | exact List.prefix_rfl)

theorem Keeps.obsClock {s u : State} (h : Keeps s u) : Keeps s (State.obsClock u) := by
  unfold Sys2Proof.Machine.State.obsClock
  repeat' first
    | with_reducible assumption
    | fail_if_no_progress with_reducible apply Keeps.mk0
    | with_reducible apply Keeps.draw
    | with_reducible apply Keeps.emit
    | with_reducible apply Keeps.ite
    | with_reducible apply Keeps.foldl
    | with_reducible apply Keeps.foldlFst
    | intro _ _ _ _
    | intro _ _ _
    | dsimp only
    | split
    | with_reducible refine Keeps.ofFst ?_ (by assumption)
    | fail_if_no_progress with_reducible refine Keeps.mk' ?_ (by first | exact Nat.le_refl _ | exact Nat.le_succ _ | with_unfolding_all exact Nat.le_add_right _ _) (by first | exact List.prefix_rfl)

end Sys2Proof.Machine
end

