-- ==== Sys2Proof/Laws/KeepsEvents.lean ====
section
/-! SUPPORT. What the operations of Machine/Events.lean keep. -/

namespace Sys2Proof.Machine

theorem Keeps.execEventRaise {s u : State} (a0 : ℕ) (a1 : W32) (h : Keeps s u) : KeepsRes s (execEventRaise a0 a1 u) := by
  unfold Sys2Proof.Machine.execEventRaise
  repeat' first
    | with_reducible assumption
    | with_reducible apply KeepsRes.next
    | with_reducible apply Keeps.over
    | with_reducible apply Keeps.raise
    | with_reducible apply KeepsRes.ite
    | intro _ _ _

theorem Keeps.execEventTakenByCore {s u : State} (a0 : ℕ) (a1 : Bool) (h : Keeps s u) : KeepsRes s (execEventTakenByCore a0 a1 u) := by
  unfold Sys2Proof.Machine.execEventTakenByCore
  repeat' first
    | with_reducible assumption
    | fail_if_no_progress with_reducible apply Keeps.mk0
    | with_reducible apply KeepsRes.next
    | exact KeepsRes.fault _
    | with_reducible apply Keeps.record
    | with_reducible apply Keeps.setFld
    | with_reducible apply Keeps.ite
    | with_reducible apply KeepsRes.ite
    | with_reducible apply Keeps.foldl
    | with_reducible apply Keeps.foldlFst
    | intro _ _ _ _
    | intro _ _ _
    | dsimp only
    | split
    | with_reducible refine Keeps.ofFst ?_ (by assumption)
    | fail_if_no_progress with_reducible refine Keeps.mk' ?_ (by first | exact Nat.le_refl _ | exact Nat.le_succ _ | with_unfolding_all exact Nat.le_add_right _ _) (by first | exact List.prefix_rfl)

theorem Keeps.execRtcStop {s u : State} (h : Keeps s u) : KeepsRes s (execRtcStop u) := by
  unfold Sys2Proof.Machine.execRtcStop
  repeat' first
    | with_reducible assumption
    | with_reducible apply KeepsRes.next
    | with_reducible apply Keeps.tmrCause
    | with_reducible apply Keeps.setFld
    | with_reducible apply KeepsRes.ite

theorem Keeps.restartPort {s u : State} (a1 : ℕ) (h : Keeps s u) : Keeps s (State.restartPort u a1) := by
  unfold Sys2Proof.Machine.State.restartPort
  repeat' first
    | with_reducible assumption
    | with_reducible apply Keeps.over
    | with_reducible apply Keeps.dropLink
    | with_reducible apply Keeps.setBit
    | with_reducible apply Keeps.ite
    | intro _ _ _

theorem Keeps.restartEngines {s u : State} (h : Keeps s u) : Keeps s (State.restartEngines u) := by
  unfold Sys2Proof.Machine.State.restartEngines
  repeat' first
    | with_reducible assumption
    | with_reducible apply Keeps.over
    | with_reducible apply Keeps.endFault
    | intro _ _ _
    | split

theorem Keeps.execGroupWatchdogExpiry {s u : State} (a0 : ℕ) (a1 : Bool) (h : Keeps s u) : KeepsRes s (execGroupWatchdogExpiry a0 a1 u) := by
  unfold Sys2Proof.Machine.execGroupWatchdogExpiry
  repeat' first
    | with_reducible assumption
    | fail_if_no_progress with_reducible apply Keeps.mk0
    | with_reducible apply KeepsRes.next
    | exact KeepsRes.fault _
    | with_reducible apply Keeps.record
    | with_reducible apply Keeps.tmrCause
    | with_reducible apply Keeps.setFld
    | with_reducible apply Keeps.pulse
    | with_reducible apply Keeps.over
    | with_reducible apply Keeps.timeOutCh
    | with_reducible apply Keeps.restartPort
    | with_reducible apply Keeps.restartEngines
    | with_reducible apply Keeps.resetAndRun
    | with_reducible apply Keeps.ite
    | with_reducible apply KeepsRes.ite
    | with_reducible apply Keeps.foldl
    | with_reducible apply Keeps.foldlFst
    | intro _ _ _ _
    | intro _ _ _
    | dsimp only
    | split
    | with_reducible refine Keeps.ofFst ?_ (by assumption)
    | fail_if_no_progress with_reducible refine Keeps.mk' ?_ (by first | exact Nat.le_refl _ | exact Nat.le_succ _ | with_unfolding_all exact Nat.le_add_right _ _) (by first | exact List.prefix_rfl)

theorem Keeps.execDieWatchdogService {s u : State} (a0 : ℕ) (h : Keeps s u) : KeepsRes s (execDieWatchdogService a0 u) := by
  unfold Sys2Proof.Machine.execDieWatchdogService
  repeat' first
    | with_reducible assumption
    | fail_if_no_progress with_reducible apply Keeps.mk0
    | with_reducible apply KeepsRes.next
    | with_reducible apply KeepsRes.ite

theorem Keeps.watchdogReset {s u : State} (a1 : Bool) (a2 : Bool) (h : Keeps s u) : Keeps s (State.watchdogReset u a1 a2) := by
  unfold Sys2Proof.Machine.State.watchdogReset
  repeat' first
    | with_reducible assumption
    | fail_if_no_progress with_reducible apply Keeps.mk0
    | with_reducible apply Keeps.satFld
    | with_reducible apply Keeps.resetAndRun
    | with_reducible apply Keeps.ite
    | with_reducible apply Keeps.foldl
    | with_reducible apply Keeps.foldlFst
    | intro _ _ _ _
    | intro _ _ _
    | dsimp only
    | split
    | with_reducible refine Keeps.ofFst ?_ (by assumption)
    | fail_if_no_progress with_reducible refine Keeps.mk' ?_ (by first | exact Nat.le_refl _ | exact Nat.le_succ _ | with_unfolding_all exact Nat.le_add_right _ _) (by first | exact List.prefix_rfl)

theorem Keeps.execDieWatchdogExpiry {s u : State} (a0 : Bool) (a1 : Bool) (h : Keeps s u) : KeepsRes s (execDieWatchdogExpiry a0 a1 u) := by
  unfold Sys2Proof.Machine.execDieWatchdogExpiry
  repeat' first
    | with_reducible assumption
    | fail_if_no_progress with_reducible apply Keeps.mk0
    | with_reducible apply KeepsRes.next
    | exact KeepsRes.fault _
    | with_reducible apply Keeps.watchdogReset
    | with_reducible apply Keeps.ite
    | with_reducible apply KeepsRes.ite
    | with_reducible apply Keeps.foldl
    | with_reducible apply Keeps.foldlFst
    | intro _ _ _ _
    | intro _ _ _
    | dsimp only
    | split
    | with_reducible refine Keeps.ofFst ?_ (by assumption)
    | fail_if_no_progress with_reducible refine Keeps.mk' ?_ (by first | exact Nat.le_refl _ | exact Nat.le_succ _ | with_unfolding_all exact Nat.le_add_right _ _) (by first | exact List.prefix_rfl)

theorem Keeps.execPackageWatchdogService {s u : State} (h : Keeps s u) : KeepsRes s (execPackageWatchdogService u) := by
  unfold Sys2Proof.Machine.execPackageWatchdogService
  repeat' first
    | with_reducible assumption
    | fail_if_no_progress with_reducible apply Keeps.mk0
    | with_reducible apply KeepsRes.next
    | with_reducible apply KeepsRes.ite

theorem Keeps.execPackageWatchdogExpiry {s u : State} (a0 : Bool) (a1 : Bool) (h : Keeps s u) : KeepsRes s (execPackageWatchdogExpiry a0 a1 u) := by
  unfold Sys2Proof.Machine.execPackageWatchdogExpiry
  repeat' first
    | with_reducible assumption
    | fail_if_no_progress with_reducible apply Keeps.mk0
    | with_reducible apply KeepsRes.next
    | exact KeepsRes.fault _
    | with_reducible apply Keeps.watchdogReset
    | with_reducible apply Keeps.ite
    | with_reducible apply KeepsRes.ite
    | with_reducible apply Keeps.foldl
    | with_reducible apply Keeps.foldlFst
    | intro _ _ _ _
    | intro _ _ _
    | dsimp only
    | split
    | with_reducible refine Keeps.ofFst ?_ (by assumption)
    | fail_if_no_progress with_reducible refine Keeps.mk' ?_ (by first | exact Nat.le_refl _ | exact Nat.le_succ _ | with_unfolding_all exact Nat.le_add_right _ _) (by first | exact List.prefix_rfl)

end Sys2Proof.Machine
end

