-- ==== Sys2Proof/Laws/KeepsNamespaces.lean ====
section
/-! SUPPORT. What the operations of Machine/Namespaces.lean keep. -/

namespace Sys2Proof.Machine

theorem Keeps.nsNotice {s u : State} (a1 : ℕ) (h : Keeps s u) : Keeps s (State.nsNotice u a1) := by
  unfold Sys2Proof.Machine.State.nsNotice
  repeat' first
    | with_reducible assumption
    | with_reducible apply Keeps.notice
    | with_reducible apply Keeps.ite

theorem Keeps.refNs {s u : State} (a1 : Option ℕ) (a2 : Bool) (h : Keeps s u) : Keeps s (State.refNs u a1 a2) := by
  unfold Sys2Proof.Machine.State.refNs
  repeat' first
    | with_reducible assumption
    | with_reducible apply Keeps.addFld
    | with_reducible apply Keeps.subFld
    | split

theorem Keeps.execNamespaceCreate {s u : State} (a0 : ℕ) (a1 : Sqe) (a2 : Bytes) (h : Keeps s u) : KeepsRes s (execNamespaceCreate a0 a1 a2 u) := by
  unfold Sys2Proof.Machine.execNamespaceCreate
  repeat' first
    | refine Keeps.adminRun _ _ _ (fun v hv => ?_) (by assumption)
    | with_reducible assumption
    | fail_if_no_progress with_reducible apply Keeps.mk0
    | with_reducible apply KeepsRes.next
    | exact KeepsRes.fault _
    | with_reducible apply Keeps.adminRun
    | with_reducible apply Keeps.badField
    | with_reducible apply Keeps.admin
    | with_reducible apply Keeps.setNs
    | with_reducible apply Keeps.journal
    | with_reducible apply Keeps.checkSpare
    | with_reducible apply Keeps.refNs
    | with_reducible apply Keeps.ite
    | with_reducible apply KeepsRes.ite
    | with_reducible apply Keeps.foldl
    | with_reducible apply Keeps.foldlFst
    | intro _ _ _ _
    | intro _ _ _
    | dsimp only
    | split
    | with_reducible refine Keeps.ofFst ?_ (by assumption)
    | fail_if_no_progress with_reducible refine Keeps.mk' ?_ (by first | exact Nat.le_refl _ | exact Nat.le_succ _ | with_unfolding_all exact Nat.le_add_right _ _) (by first | exact List.prefix_rfl)

theorem Keeps.newWindow {s u : State} (a1 : ℕ) (h : Keeps s u) : Keeps s (State.newWindow u a1) := by
  unfold Sys2Proof.Machine.State.newWindow
  repeat' first
    | with_reducible assumption
    | with_reducible apply Keeps.drainAway
    | with_reducible apply Keeps.setFld

theorem Keeps.streamsLose {s u : State} (a1 : ℕ) (h : Keeps s u) : Keeps s (State.streamsLose u a1) := by
  unfold Sys2Proof.Machine.State.streamsLose
  repeat' first
    | with_reducible assumption
    | with_reducible apply Keeps.over
    | with_reducible apply Keeps.setFld
    | with_reducible apply Keeps.newWindow
    | with_reducible apply Keeps.setStr
    | with_reducible apply Keeps.setDrains
    | intro _ _ _

theorem Keeps.purge {s u : State} (a1 : ℕ) (h : Keeps s u) : Keeps s (State.purge u a1) := by
  unfold Sys2Proof.Machine.State.purge
  repeat' first
    | with_reducible assumption
    | fail_if_no_progress with_reducible apply Keeps.mk0
    | with_reducible apply Keeps.over
    | with_reducible apply Keeps.unbuffer
    | with_reducible apply Keeps.releaseExtent
    | with_reducible apply Keeps.clearCap
    | with_reducible apply Keeps.setFtl
    | with_reducible apply Keeps.ite
    | with_reducible apply Keeps.foldl
    | with_reducible apply Keeps.foldlFst
    | intro _ _ _ _
    | intro _ _ _
    | dsimp only
    | split
    | with_reducible refine Keeps.ofFst ?_ (by assumption)
    | fail_if_no_progress with_reducible refine Keeps.mk' ?_ (by first | exact Nat.le_refl _ | exact Nat.le_succ _ | with_unfolding_all exact Nat.le_add_right _ _) (by first | exact List.prefix_rfl)

theorem Keeps.deleteNs {s u : State} (a1 : ℕ) (h : Keeps s u) : Keeps s (State.deleteNs u a1) := by
  unfold Sys2Proof.Machine.State.deleteNs
  repeat' first
    | with_reducible assumption
    | with_reducible apply Keeps.purge
    | with_reducible apply Keeps.journal
    | with_reducible apply Keeps.streamsLose
    | with_reducible apply Keeps.refNs
    | with_reducible apply Keeps.setNs
    | with_reducible apply Keeps.nsNotice
    | with_reducible apply Keeps.checkSpare
    | split

theorem Keeps.execNamespaceDelete {s u : State} (a0 : ℕ) (a1 : Sqe) (h : Keeps s u) : KeepsRes s (execNamespaceDelete a0 a1 u) := by
  unfold Sys2Proof.Machine.execNamespaceDelete
  repeat' first
    | refine Keeps.adminRun _ _ _ (fun v hv => ?_) (by assumption)
    | with_reducible assumption
    | fail_if_no_progress with_reducible apply Keeps.mk0
    | with_reducible apply KeepsRes.next
    | exact KeepsRes.fault _
    | with_reducible apply Keeps.adminRun
    | with_reducible apply Keeps.admin
    | with_reducible apply Keeps.over
    | with_reducible apply Keeps.deleteNs
    | with_reducible apply Keeps.ite
    | with_reducible apply KeepsRes.ite
    | with_reducible apply Keeps.foldl
    | with_reducible apply Keeps.foldlFst
    | intro _ _ _ _
    | intro _ _ _
    | dsimp only
    | split
    | with_reducible refine Keeps.ofFst ?_ (by assumption)
    | fail_if_no_progress with_reducible refine Keeps.mk' ?_ (by first | exact Nat.le_refl _ | exact Nat.le_succ _ | with_unfolding_all exact Nat.le_add_right _ _) (by first | exact List.prefix_rfl)

theorem Keeps.execNamespaceAttachment {s u : State} (a0 : ℕ) (a1 : Sqe) (a2 : Bytes) (h : Keeps s u) : KeepsRes s (execNamespaceAttachment a0 a1 a2 u) := by
  unfold Sys2Proof.Machine.execNamespaceAttachment
  repeat' first
    | refine Keeps.adminRun _ _ _ (fun v hv => ?_) (by assumption)
    | with_reducible assumption
    | fail_if_no_progress with_reducible apply Keeps.mk0
    | with_reducible apply KeepsRes.next
    | exact KeepsRes.fault _
    | with_reducible apply Keeps.adminRun
    | with_reducible apply Keeps.admin
    | with_reducible apply Keeps.badField
    | with_reducible apply Keeps.nsNotice
    | with_reducible apply Keeps.setNs
    | with_reducible apply Keeps.ite
    | with_reducible apply KeepsRes.ite
    | with_reducible apply Keeps.foldl
    | with_reducible apply Keeps.foldlFst
    | intro _ _ _ _
    | intro _ _ _
    | dsimp only
    | split
    | with_reducible refine Keeps.ofFst ?_ (by assumption)
    | fail_if_no_progress with_reducible refine Keeps.mk' ?_ (by first | exact Nat.le_refl _ | exact Nat.le_succ _ | with_unfolding_all exact Nat.le_add_right _ _) (by first | exact List.prefix_rfl)

theorem Keeps.formatNs {s u : State} (a1 : ℕ) (a2 : ℕ) (h : Keeps s u) : Keeps s (State.formatNs u a1 a2) := by
  unfold Sys2Proof.Machine.State.formatNs
  repeat' first
    | with_reducible assumption
    | with_reducible apply Keeps.streamsLose
    | with_reducible apply Keeps.purge
    | with_reducible apply Keeps.journal
    | with_reducible apply Keeps.cphCause
    | with_reducible apply Keeps.erasePage
    | split

theorem Keeps.startFormat {s u : State} (a1 : ℕ) (a2 : Sqe) (a3 : List ℕ) (a4 : ℕ) (h : Keeps s u) : Keeps s (State.startFormat u a1 a2 a3 a4) := by
  unfold Sys2Proof.Machine.State.startFormat
  repeat' first
    | with_reducible assumption
    | fail_if_no_progress with_reducible apply Keeps.mk0
    | with_reducible apply Keeps.over
    | with_reducible apply Keeps.setNs
    | with_reducible apply Keeps.ite
    | with_reducible apply Keeps.foldl
    | with_reducible apply Keeps.foldlFst
    | intro _ _ _ _
    | intro _ _ _
    | dsimp only
    | split
    | with_reducible refine Keeps.ofFst ?_ (by assumption)
    | fail_if_no_progress with_reducible refine Keeps.mk' ?_ (by first | exact Nat.le_refl _ | exact Nat.le_succ _ | with_unfolding_all exact Nat.le_add_right _ _) (by first | exact List.prefix_rfl)

theorem Keeps.endFormat {s u : State} (a1 : Formatting) (h : Keeps s u) : Keeps s (State.endFormat u a1) := by
  unfold Sys2Proof.Machine.State.endFormat
  repeat' first
    | with_reducible assumption
    | fail_if_no_progress with_reducible apply Keeps.mk0
    | with_reducible apply Keeps.over
    | with_reducible apply Keeps.formatNs
    | with_reducible apply Keeps.setNs
    | with_reducible apply Keeps.admin
    | with_reducible apply Keeps.ite
    | with_reducible apply Keeps.foldl
    | with_reducible apply Keeps.foldlFst
    | intro _ _ _ _
    | intro _ _ _
    | dsimp only
    | split
    | with_reducible refine Keeps.ofFst ?_ (by assumption)
    | fail_if_no_progress with_reducible refine Keeps.mk' ?_ (by first | exact Nat.le_refl _ | exact Nat.le_succ _ | with_unfolding_all exact Nat.le_add_right _ _) (by first | exact List.prefix_rfl)

theorem Keeps.execFormatNvm {s u : State} (a0 : ℕ) (a1 : Sqe) (h : Keeps s u) : KeepsRes s (execFormatNvm a0 a1 u) := by
  unfold Sys2Proof.Machine.execFormatNvm
  repeat' first
    | refine Keeps.adminRun _ _ _ (fun v hv => ?_) (by assumption)
    | with_reducible assumption
    | fail_if_no_progress with_reducible apply Keeps.mk0
    | with_reducible apply KeepsRes.next
    | exact KeepsRes.fault _
    | with_reducible apply Keeps.endFormat
    | with_reducible apply Keeps.adminRun
    | with_reducible apply Keeps.admin
    | with_reducible apply Keeps.badField
    | with_reducible apply Keeps.startFormat
    | with_reducible apply Keeps.ite
    | with_reducible apply KeepsRes.ite
    | with_reducible apply Keeps.foldl
    | with_reducible apply Keeps.foldlFst
    | intro _ _ _ _
    | intro _ _ _
    | dsimp only
    | split
    | with_reducible refine Keeps.ofFst ?_ (by assumption)
    | fail_if_no_progress with_reducible refine Keeps.mk' ?_ (by first | exact Nat.le_refl _ | exact Nat.le_succ _ | with_unfolding_all exact Nat.le_add_right _ _) (by first | exact List.prefix_rfl)

end Sys2Proof.Machine
end

