-- ==== Sys2Proof/Laws/KeepsFirmware.lean ====
section
/-! SUPPORT. What the operations of Machine/Firmware.lean keep. -/

namespace Sys2Proof.Machine

theorem Keeps.execFirmwareImageDownload {s u : State} (a0 : ℕ) (a1 : Sqe) (a2 : Bytes) (h : Keeps s u) : KeepsRes s (execFirmwareImageDownload a0 a1 a2 u) := by
  unfold Sys2Proof.Machine.execFirmwareImageDownload
  repeat' first
    | refine Keeps.adminRun _ _ _ (fun v hv => ?_) (by assumption)
    | with_reducible assumption
    | fail_if_no_progress with_reducible apply Keeps.mk0
    | with_reducible apply KeepsRes.next
    | exact KeepsRes.fault _
    | with_reducible apply Keeps.adminRun
    | with_reducible apply Keeps.badField
    | with_reducible apply Keeps.admin
    | with_reducible apply Keeps.ite
    | with_reducible apply KeepsRes.ite
    | with_reducible apply Keeps.foldl
    | with_reducible apply Keeps.foldlFst
    | intro _ _ _ _
    | intro _ _ _
    | dsimp only
    | split
    | with_reducible refine Keeps.ofFst ?_ (by assumption)
    | fail_if_no_progress with_reducible refine Keeps.mk' ?_ (by first | exact Nat.le_refl _ | exact Nat.le_succ _ | with_unfolding_all exact Nat.le_add_right _ _) (by first | exact List.prefix_rfl)

theorem Keeps.execFirmwareCommit {s u : State} (a0 : ℕ) (a1 : Sqe) (a2 : Bool) (a3 : List Profile) (h : Keeps s u) : KeepsRes s (execFirmwareCommit a0 a1 a2 a3 u) := by
  unfold Sys2Proof.Machine.execFirmwareCommit
  repeat' first
    | refine Keeps.adminRun _ _ _ (fun v hv => ?_) (by assumption)
    | with_reducible assumption
    | fail_if_no_progress with_reducible apply Keeps.mk0
    | with_reducible apply KeepsRes.next
    | exact KeepsRes.fault _
    | with_reducible apply Keeps.adminRun
    | with_reducible apply Keeps.badField
    | with_reducible apply Keeps.admin
    | with_reducible apply Keeps.startErase
    | with_reducible apply Keeps.setFld
    | with_reducible apply Keeps.ite
    | with_reducible apply KeepsRes.ite
    | with_reducible apply Keeps.foldl
    | with_reducible apply Keeps.foldlFst
    | intro _ _ _ _
    | intro _ _ _
    | dsimp only
    | split
    | with_reducible refine Keeps.ofFst ?_ (by assumption)
    | fail_if_no_progress with_reducible refine Keeps.mk' ?_ (by first | exact Nat.le_refl _ | exact Nat.le_succ _ | with_unfolding_all exact Nat.le_add_right _ _) (by first | exact List.prefix_rfl)

theorem Keeps.endCommit {s u : State} (a1 : SlotWrite) (a2 : Status) (a3 : ℕ) (h : Keeps s u) : Keeps s (State.endCommit u a1 a2 a3) := by
  unfold Sys2Proof.Machine.State.endCommit
  repeat' first
    | with_reducible assumption
    | with_reducible apply Keeps.admin
    | split

theorem Keeps.dropWrite {s u : State} (h : Keeps s u) : Keeps s (State.dropWrite u) := by
  unfold Sys2Proof.Machine.State.dropWrite
  repeat' first
    | with_reducible assumption
    | fail_if_no_progress with_reducible apply Keeps.mk0
    | with_reducible apply Keeps.setFld

theorem Keeps.slotPut {s u : State} (a1 : SlotWrite) (h : Keeps s u) : Keeps s (State.slotPut u a1) := by
  unfold Sys2Proof.Machine.State.slotPut
  repeat' first
    | with_reducible assumption
    | with_reducible apply Keeps.setSlot

theorem Keeps.finishWrite {s u : State} (a1 : SlotWrite) (h : Keeps s u) : Keeps s (State.finishWrite u a1) := by
  unfold Sys2Proof.Machine.State.finishWrite
  repeat' first
    | with_reducible assumption
    | fail_if_no_progress with_reducible apply Keeps.mk0
    | with_reducible apply Keeps.slotPut
    | with_reducible apply Keeps.setSlot
    | with_reducible apply Keeps.record
    | with_reducible apply Keeps.dropWrite
    | with_reducible apply Keeps.endCommit
    | with_reducible apply Keeps.ite

theorem Keeps.execSlotWriteSector {s u : State} (a0 : Bool) (a1 : Bool) (a2 : Bool) (h : Keeps s u) : KeepsRes s (execSlotWriteSector a0 a1 a2 u) := by
  unfold Sys2Proof.Machine.execSlotWriteSector
  repeat' first
    | with_reducible assumption
    | fail_if_no_progress with_reducible apply Keeps.mk0
    | with_reducible apply KeepsRes.next
    | exact KeepsRes.fault _
    | with_reducible apply Keeps.endCommit
    | with_reducible apply Keeps.dropWrite
    | with_reducible apply Keeps.cflFree
    | with_reducible apply Keeps.sectorBad
    | with_reducible apply Keeps.eraseDone
    | with_reducible apply Keeps.finishWrite
    | with_reducible apply Keeps.slotPut
    | with_reducible apply Keeps.startErase
    | with_reducible apply Keeps.ite
    | with_reducible apply KeepsRes.ite
    | with_reducible apply Keeps.foldl
    | with_reducible apply Keeps.foldlFst
    | intro _ _ _ _
    | intro _ _ _
    | dsimp only
    | split
    | with_reducible refine Keeps.ofFst ?_ (by assumption)
    | fail_if_no_progress with_reducible refine Keeps.mk' ?_ (by first | exact Nat.le_refl _ | exact Nat.le_succ _ | with_unfolding_all exact Nat.le_add_right _ _) (by first | exact List.prefix_rfl)

theorem Keeps.rematch {s u : State} (h : Keeps s u) : Keeps s (State.rematch u) := by
  unfold Sys2Proof.Machine.State.rematch
  repeat' first
    | with_reducible assumption
    | with_reducible apply Keeps.over
    | with_reducible apply Keeps.setFld
    | intro _ _ _
    | split

theorem Keeps.execMolt {s u : State} (a0 : Bool) (h : Keeps s u) : KeepsRes s (execMolt a0 u) := by
  unfold Sys2Proof.Machine.execMolt
  repeat' first
    | with_reducible assumption
    | fail_if_no_progress with_reducible apply Keeps.mk0
    | with_reducible apply KeepsRes.next
    | with_reducible apply Keeps.admin
    | with_reducible apply Keeps.setFld
    | with_reducible apply Keeps.rematch
    | with_reducible apply Keeps.over
    | with_reducible apply Keeps.notice
    | intro _ _ _
    | split

end Sys2Proof.Machine
end

