-- ==== Sys2Proof/Laws/KeepsPower.lean ====
section
/-! SUPPORT. What the operations of Machine/Power.lean keep. -/

namespace Sys2Proof.Machine

theorem Keeps.setDoms {s u : State} (a1 : ℕ) (h : Keeps s u) : Keeps s (State.setDoms u a1) := by
  unfold Sys2Proof.Machine.State.setDoms
  repeat' first
    | with_reducible assumption
    | with_reducible apply Keeps.over
    | with_reducible apply Keeps.setDom
    | intro _ _ _

theorem Keeps.setBias {s u : State} (a1 : ℕ) (h : Keeps s u) : Keeps s (State.setBias u a1) := by
  unfold Sys2Proof.Machine.State.setBias
  repeat' first
    | with_reducible assumption
    | fail_if_no_progress with_reducible apply Keeps.mk0
    | with_reducible apply Keeps.ite
    | with_reducible apply Keeps.foldl
    | with_reducible apply Keeps.foldlFst
    | intro _ _ _ _
    | intro _ _ _
    | dsimp only
    | split
    | with_reducible refine Keeps.ofFst ?_ (by assumption)
    | fail_if_no_progress with_reducible refine Keeps.mk' ?_ (by first | exact Nat.le_refl _ | exact Nat.le_succ _ | with_unfolding_all exact Nat.le_add_right _ _) (by first | exact List.prefix_rfl)

theorem Keeps.setPower {s u : State} (a1 : Power) (h : Keeps s u) : Keeps s (State.setPower u a1) := by
  unfold Sys2Proof.Machine.State.setPower
  repeat' first
    | with_reducible assumption
    | fail_if_no_progress with_reducible apply Keeps.mk0

theorem Keeps.suspendErases {s u : State} (h : Keeps s u) : Keeps s (State.suspendErases u) := by
  unfold Sys2Proof.Machine.State.suspendErases
  repeat' first
    | with_reducible assumption
    | with_reducible apply Keeps.over
    | with_reducible apply Keeps.setChan
    | with_reducible apply Keeps.ite
    | intro _ _ _

theorem Keeps.resumeErases {s u : State} (h : Keeps s u) : Keeps s (State.resumeErases u) := by
  unfold Sys2Proof.Machine.State.resumeErases
  repeat' first
    | with_reducible assumption
    | with_reducible apply Keeps.over
    | with_reducible apply Keeps.setChan
    | with_reducible apply Keeps.ite
    | intro _ _ _

theorem Keeps.endAsked {s u : State} (a1 : Option (ℕ × BitVec 16)) (a2 : Status) (h : Keeps s u) : Keeps s (State.endAsked u a1 a2) := by
  unfold Sys2Proof.Machine.State.endAsked
  repeat' first
    | with_reducible assumption
    | with_reducible apply Keeps.admin
    | split

theorem Keeps.entryAccepted {s u : State} (a1 : Entry) (h : Keeps s u) : Keeps s (State.entryAccepted u a1) := by
  unfold Sys2Proof.Machine.State.entryAccepted
  repeat' first
    | with_reducible assumption
    | fail_if_no_progress with_reducible apply Keeps.mk0
    | with_reducible apply Keeps.endAsked
    | with_reducible apply Keeps.setFld
    | with_reducible apply Keeps.setPower
    | with_reducible apply Keeps.setBias
    | with_reducible apply Keeps.endGrant
    | with_reducible apply Keeps.record
    | with_reducible apply Keeps.ite
    | with_reducible apply Keeps.foldl
    | with_reducible apply Keeps.foldlFst
    | intro _ _ _ _
    | intro _ _ _
    | dsimp only
    | split
    | with_reducible refine Keeps.ofFst ?_ (by assumption)
    | fail_if_no_progress with_reducible refine Keeps.mk' ?_ (by first | exact Nat.le_refl _ | exact Nat.le_succ _ | with_unfolding_all exact Nat.le_add_right _ _) (by first | exact List.prefix_rfl)

theorem Keeps.doWork {s u : State} (a1 : HeldWork) (h : Keeps s u) : Keeps s (State.doWork u a1) := by
  unfold Sys2Proof.Machine.State.doWork
  cases a1 with
  | stream n => split <;> first | exact Keeps.execStreamStart n h _ (by assumption) | exact h
  | dmaStart n => split <;> first | exact Keeps.execDmaStart n h _ (by assumption) | exact h
  | dmaResume n => split <;> first | exact Keeps.execDmaResume n h _ (by assumption) | exact h
  | hbm k a n wr sev => split <;> first | exact Keeps.execHbmRequest k a n wr sev h _ (by assumption) | exact h

theorem Keeps.resumeWork {s u : State} (h : Keeps s u) : Keeps s (State.resumeWork u) := by
  unfold Sys2Proof.Machine.State.resumeWork
  repeat' first
    | with_reducible assumption
    | fail_if_no_progress with_reducible apply Keeps.mk0
    | with_reducible apply Keeps.over
    | with_reducible apply Keeps.setPower
    | with_reducible apply Keeps.doWork
    | with_reducible apply Keeps.ite
    | with_reducible apply Keeps.foldl
    | with_reducible apply Keeps.foldlFst
    | intro _ _ _ _
    | intro _ _ _
    | dsimp only
    | split
    | with_reducible refine Keeps.ofFst ?_ (by assumption)
    | fail_if_no_progress with_reducible refine Keeps.mk' ?_ (by first | exact Nat.le_refl _ | exact Nat.le_succ _ | with_unfolding_all exact Nat.le_add_right _ _) (by first | exact List.prefix_rfl)

theorem Keeps.abandon {s u : State} (a1 : Entry) (a2 : ℕ) (a3 : ℕ) (h : Keeps s u) : Keeps s (State.abandon u a1 a2 a3) := by
  unfold Sys2Proof.Machine.State.abandon
  repeat' first
    | with_reducible assumption
    | fail_if_no_progress with_reducible apply Keeps.mk0
    | with_reducible apply Keeps.addFld
    | with_reducible apply Keeps.setFld
    | with_reducible apply Keeps.pwrCause
    | with_reducible apply Keeps.setPower
    | with_reducible apply Keeps.endAsked
    | with_reducible apply Keeps.resumeErases
    | with_reducible apply Keeps.setDom
    | with_reducible apply Keeps.resumeWork
    | with_reducible apply Keeps.serveHeld
    | with_reducible apply Keeps.ite
    | with_reducible apply Keeps.foldl
    | with_reducible apply Keeps.foldlFst
    | intro _ _ _ _
    | intro _ _ _
    | dsimp only
    | split
    | with_reducible refine Keeps.ofFst ?_ (by assumption)
    | fail_if_no_progress with_reducible refine Keeps.mk' ?_ (by first | exact Nat.le_refl _ | exact Nat.le_succ _ | with_unfolding_all exact Nat.le_add_right _ _) (by first | exact List.prefix_rfl)

theorem Keeps.startEntry {s u : State} (a1 : ℕ) (a2 : Option (ℕ × BitVec 16)) (a3 : Bool) (h : Keeps s u) : Keeps s (State.startEntry u a1 a2 a3) := by
  unfold Sys2Proof.Machine.State.startEntry
  repeat' first
    | with_reducible assumption
    | with_reducible apply Keeps.marchAbort
    | with_reducible apply Keeps.suspendErases
    | with_reducible apply Keeps.setFld
    | with_reducible apply Keeps.setPower
    | with_reducible apply Keeps.abandon
    | with_reducible apply Keeps.entryAccepted
    | dsimp only
    | split

theorem Keeps.answerOf {s u : State} (a1 : Entry) (a2 : ℕ) (h : Keeps s u) : Keeps s (State.answerOf u a1 a2) := by
  unfold Sys2Proof.Machine.State.answerOf
  repeat' first
    | with_reducible assumption
    | fail_if_no_progress with_reducible apply Keeps.mk0
    | with_reducible apply Keeps.entryAccepted
    | with_reducible apply Keeps.setPower
    | with_reducible apply Keeps.abandon
    | with_reducible apply Keeps.ite
    | with_reducible apply Keeps.foldl
    | with_reducible apply Keeps.foldlFst
    | intro _ _ _ _
    | intro _ _ _
    | dsimp only
    | split

theorem Keeps.execAgentAnswer {s u : State} (a0 : ℕ) (h : Keeps s u) : KeepsRes s (execAgentAnswer a0 u) := by
  unfold Sys2Proof.Machine.execAgentAnswer
  repeat' first
    | with_reducible assumption
    | with_reducible apply KeepsRes.next
    | with_reducible apply Keeps.answerOf
    | split

theorem Keeps.execDelayCapExpiry {s u : State} (h : Keeps s u) : KeepsRes s (execDelayCapExpiry u) := by
  unfold Sys2Proof.Machine.execDelayCapExpiry
  repeat' first
    | with_reducible assumption
    | with_reducible apply KeepsRes.next
    | with_reducible apply Keeps.abandon
    | split

theorem Keeps.brumate {s u : State} (h : Keeps s u) : Keeps s (State.brumate u) :=
  Keeps.mkRegs h (RegsOk.filter _) (Nat.le_refl _) List.prefix_rfl

theorem Keeps.startExit {s u : State} (a1 : WakeSrc) (a2 : ℕ) (a3 : Bool) (h : Keeps s u) : Keeps s (State.startExit u a1 a2 a3) := by
  unfold Sys2Proof.Machine.State.startExit
  repeat' first
    | with_reducible assumption
    | fail_if_no_progress with_reducible apply Keeps.mk0
    | with_reducible apply Keeps.setFld
    | with_reducible apply Keeps.setPower
    | with_reducible apply Keeps.pwrCause
    | with_reducible apply Keeps.over
    | with_reducible apply Keeps.emit
    | with_reducible apply Keeps.ite
    | intro _ _ _

theorem Keeps.execWake {s u : State} (a0 : WakeSrc) (h : Keeps s u) : KeepsRes s (execWake a0 u) := by
  unfold Sys2Proof.Machine.execWake
  repeat' first
    | with_reducible assumption
    | with_reducible apply KeepsRes.next
    | with_reducible apply Keeps.startExit
    | with_reducible apply Keeps.setPower
    | split

theorem Keeps.losePort {s u : State} (a1 : ℕ) (h : Keeps s u) : Keeps s (State.losePort u a1) := by
  unfold Sys2Proof.Machine.State.losePort
  exact Keeps.over _ (fun _ _ k => Keeps.updSaRefs _ k) (Keeps.mkRegs h (RegsOk.filter _) (Nat.le_refl _) List.prefix_rfl)

theorem Keeps.bask {s u : State} (a1 : Entry) (h : Keeps s u) : Keeps s (State.bask u a1) := by
  unfold Sys2Proof.Machine.State.bask
  repeat' first
    | with_reducible assumption
    | with_reducible apply Keeps.setPower
    | with_reducible apply Keeps.setDoms
    | with_reducible apply Keeps.setFld
    | with_reducible apply Keeps.over
    | with_reducible apply Keeps.losePort
    | with_reducible apply Keeps.setStk
    | intro _ _ _

theorem Keeps.execPowerStateReached {s u : State} (h : Keeps s u) : KeepsRes s (execPowerStateReached u) := by
  unfold Sys2Proof.Machine.execPowerStateReached
  repeat' first
    | with_reducible assumption
    | fail_if_no_progress with_reducible apply Keeps.mk0
    | with_reducible apply KeepsRes.next
    | exact KeepsRes.fault _
    | with_reducible apply Keeps.setFld
    | with_reducible apply Keeps.setPower
    | with_reducible apply Keeps.setBias
    | with_reducible apply Keeps.setDoms
    | with_reducible apply Keeps.bask
    | with_reducible apply Keeps.brumate
    | with_reducible apply Keeps.pwrCause
    | with_reducible apply Keeps.startExit
    | with_reducible apply Keeps.ite
    | with_reducible apply KeepsRes.ite
    | with_reducible apply Keeps.foldl
    | with_reducible apply Keeps.foldlFst
    | intro _ _ _ _
    | intro _ _ _
    | dsimp only
    | split
    | with_reducible refine Keeps.ofFst ?_ (by assumption)
    | fail_if_no_progress with_reducible refine Keeps.mk' ?_ (by first | exact Nat.le_refl _ | exact Nat.le_succ _ | with_unfolding_all exact Nat.le_add_right _ _) (by first | exact List.prefix_rfl)

theorem Keeps.execSetFeaturesPowerMgmt {s u : State} (a0 : ℕ) (a1 : Sqe) (h : Keeps s u) : KeepsRes s (execSetFeaturesPowerMgmt a0 a1 u) := by
  unfold Sys2Proof.Machine.execSetFeaturesPowerMgmt
  repeat' first
    | refine Keeps.adminRun _ _ _ (fun v hv => ?_) (by assumption)
    | with_reducible assumption
    | fail_if_no_progress with_reducible apply Keeps.mk0
    | with_reducible apply KeepsRes.next
    | exact KeepsRes.fault _
    | with_reducible apply Keeps.adminRun
    | with_reducible apply Keeps.badField
    | with_reducible apply Keeps.admin
    | with_reducible apply Keeps.startEntry
    | with_reducible apply Keeps.ite
    | with_reducible apply KeepsRes.ite
    | with_reducible apply Keeps.foldl
    | with_reducible apply Keeps.foldlFst
    | intro _ _ _ _
    | intro _ _ _
    | dsimp only
    | split
    | with_reducible refine Keeps.ofFst ?_ (by assumption)
    | fail_if_no_progress with_reducible refine Keeps.mk' ?_ (by first | exact Nat.le_refl _ | exact Nat.le_succ _ | with_unfolding_all exact Nat.le_add_right _ _) (by first | exact List.prefix_rfl)

theorem Keeps.execSetFeaturesApst {s u : State} (a0 : ℕ) (a1 : Sqe) (a2 : Bytes) (h : Keeps s u) : KeepsRes s (execSetFeaturesApst a0 a1 a2 u) := by
  unfold Sys2Proof.Machine.execSetFeaturesApst
  repeat' first
    | refine Keeps.adminRun _ _ _ (fun v hv => ?_) (by assumption)
    | with_reducible assumption
    | fail_if_no_progress with_reducible apply Keeps.mk0
    | with_reducible apply KeepsRes.next
    | exact KeepsRes.fault _
    | with_reducible apply Keeps.adminRun
    | with_reducible apply Keeps.badField
    | with_reducible apply Keeps.admin
    | with_reducible apply Keeps.setFn
    | with_reducible apply Keeps.ite
    | with_reducible apply KeepsRes.ite
    | with_reducible apply Keeps.foldl
    | with_reducible apply Keeps.foldlFst
    | intro _ _ _ _
    | intro _ _ _
    | dsimp only
    | split
    | with_reducible refine Keeps.ofFst ?_ (by assumption)
    | fail_if_no_progress with_reducible refine Keeps.mk' ?_ (by first | exact Nat.le_refl _ | exact Nat.le_succ _ | with_unfolding_all exact Nat.le_add_right _ _) (by first | exact List.prefix_rfl)

theorem Keeps.execApstTransition {s u : State} (h : Keeps s u) : KeepsRes s (execApstTransition u) := by
  unfold Sys2Proof.Machine.execApstTransition
  repeat' first
    | with_reducible assumption
    | with_reducible apply KeepsRes.next
    | with_reducible apply Keeps.setFld
    | with_reducible apply Keeps.startEntry
    | with_reducible apply KeepsRes.ite

theorem Keeps.execPcieLinkL2 {s u : State} (h : Keeps s u) : KeepsRes s (execPcieLinkL2 u) := by
  unfold Sys2Proof.Machine.execPcieLinkL2
  repeat' first
    | with_reducible assumption
    | fail_if_no_progress with_reducible apply Keeps.mk0
    | with_reducible apply KeepsRes.next
    | with_reducible apply Keeps.pwrCause
    | with_reducible apply Keeps.setPower
    | with_reducible apply Keeps.startEntry
    | with_reducible apply Keeps.setDom
    | with_reducible apply KeepsRes.ite

theorem Keeps.execBrumationRetry {s u : State} (h : Keeps s u) : KeepsRes s (execBrumationRetry u) := by
  unfold Sys2Proof.Machine.execBrumationRetry
  repeat' first
    | with_reducible assumption
    | with_reducible apply KeepsRes.next
    | with_reducible apply Keeps.startEntry
    | with_reducible apply KeepsRes.ite

theorem Keeps.execPerstRelease {s u : State} (h : Keeps s u) : KeepsRes s (execPerstRelease u) := by
  unfold Sys2Proof.Machine.execPerstRelease
  repeat' first
    | with_reducible assumption
    | fail_if_no_progress with_reducible apply Keeps.mk0
    | with_reducible apply KeepsRes.next
    | exact KeepsRes.fault _
    | with_reducible apply Keeps.startExit
    | with_reducible apply Keeps.setDom
    | with_reducible apply Keeps.ite
    | with_reducible apply KeepsRes.ite

theorem Keeps.execBaskingExitDone {s u : State} (h : Keeps s u) : KeepsRes s (execBaskingExitDone u) := by
  unfold Sys2Proof.Machine.execBaskingExitDone
  repeat' first
    | with_reducible assumption
    | fail_if_no_progress with_reducible apply Keeps.mk0
    | with_reducible apply KeepsRes.next
    | exact KeepsRes.fault _
    | with_reducible apply Keeps.setPower
    | with_reducible apply Keeps.setFld
    | with_reducible apply Keeps.setDoms
    | with_reducible apply Keeps.over
    | with_reducible apply Keeps.hbmCause
    | with_reducible apply Keeps.serveHeld
    | with_reducible apply Keeps.resumeWork
    | with_reducible apply Keeps.announceDue
    | with_reducible apply Keeps.resumeErases
    | with_reducible apply Keeps.pwrCause
    | with_reducible apply Keeps.setBias
    | with_reducible apply Keeps.ite
    | with_reducible apply KeepsRes.ite
    | with_reducible apply Keeps.foldl
    | with_reducible apply Keeps.foldlFst
    | intro _ _ _ _
    | intro _ _ _
    | dsimp only
    | split
    | with_reducible refine Keeps.ofFst ?_ (by assumption)
    | fail_if_no_progress with_reducible refine Keeps.mk' ?_ (by first | exact Nat.le_refl _ | exact Nat.le_succ _ | with_unfolding_all exact Nat.le_add_right _ _) (by first | exact List.prefix_rfl)

theorem Keeps.startMarch {s u : State} (a1 : List ℕ) (a2 : List ℕ) (h : Keeps s u) : Keeps s (State.startMarch u a1 a2) := by
  unfold Sys2Proof.Machine.State.startMarch
  repeat' first
    | with_reducible assumption
    | fail_if_no_progress with_reducible apply Keeps.mk0
    | with_reducible apply Keeps.over
    | with_reducible apply Keeps.setFld
    | with_reducible apply Keeps.setBank
    | with_reducible apply Keeps.recordFailure
    | with_reducible apply Keeps.fatal
    | with_reducible apply Keeps.ite
    | with_reducible apply Keeps.foldl
    | with_reducible apply Keeps.foldlFst
    | intro _ _ _ _
    | intro _ _ _

theorem Keeps.restoreKeys {s u : State} (h : Keeps s u) : Keeps s (State.restoreKeys u) := by
  unfold Sys2Proof.Machine.State.restoreKeys
  repeat' first
    | with_reducible assumption
    | fail_if_no_progress with_reducible apply Keeps.mk0
    | with_reducible apply Keeps.over
    | with_reducible apply Keeps.setFld
    | with_reducible apply Keeps.ite
    | with_reducible apply Keeps.foldl
    | with_reducible apply Keeps.foldlFst
    | intro _ _ _ _
    | intro _ _ _

theorem Keeps.bridge {s u : State} (h : Keeps s u) : Keeps s (State.bridge u) := by
  unfold Sys2Proof.Machine.State.bridge
  repeat' first
    | with_reducible assumption
    | fail_if_no_progress with_reducible apply Keeps.mk0
    | with_reducible apply Keeps.record
    | with_reducible apply Keeps.satFld
    | with_reducible apply Keeps.tmrCause
    | with_reducible apply Keeps.over
    | with_reducible apply Keeps.ite
    | with_reducible apply Keeps.foldl
    | with_reducible apply Keeps.foldlFst
    | intro _ _ _ _
    | intro _ _ _

theorem Keeps.ftlResume {s u : State} (h : Keeps s u) : Keeps s (State.ftlResume u) := by
  unfold Sys2Proof.Machine.State.ftlResume
  repeat' first
    | with_reducible assumption
    | fail_if_no_progress with_reducible apply Keeps.mk0
    | with_reducible apply Keeps.setReg
    | with_reducible apply Keeps.setFld
    | with_reducible apply Keeps.returnPool
    | with_reducible apply Keeps.restoreSpans
    | with_reducible apply Keeps.setFtl
    | with_reducible apply Keeps.checkSpare
    | with_reducible apply Keeps.updErase
    | with_reducible apply Keeps.updGroups
    | with_reducible apply Keeps.ite
    | with_reducible apply Keeps.foldl
    | with_reducible apply Keeps.foldlFst
    | intro _ _ _ _
    | intro _ _ _
    | dsimp only
    | split
    | with_reducible refine Keeps.ofFst ?_ (by assumption)
    | fail_if_no_progress with_reducible refine Keeps.mk' ?_ (by first | exact Nat.le_refl _ | exact Nat.le_succ _ | with_unfolding_all exact Nat.le_add_right _ _) (by first | exact List.prefix_rfl)

theorem Keeps.execBrumationExit {s u : State} (a0 : StartFacts) (h : Keeps s u) : KeepsRes s (execBrumationExit a0 u) := by
  unfold Sys2Proof.Machine.execBrumationExit
  repeat' first
    | with_reducible refine Keeps.mkRegs ?_ (fun w => RegsOk.foldSet _ w) (Nat.le_refl _) List.prefix_rfl
    | with_reducible assumption
    | fail_if_no_progress with_reducible apply Keeps.mk0
    | with_reducible apply KeepsRes.next
    | exact KeepsRes.fault _
    | with_reducible apply Keeps.setDoms
    | with_reducible apply Keeps.setFld
    | with_reducible apply Keeps.bridge
    | with_reducible apply Keeps.startMarch
    | with_reducible apply Keeps.over
    | with_reducible apply Keeps.hbmCause
    | with_reducible apply Keeps.count
    | with_reducible apply Keeps.failStack
    | with_reducible apply Keeps.discover
    | with_reducible apply Keeps.loadKept
    | with_reducible apply Keeps.loadVendor
    | with_reducible apply Keeps.restoreKeys
    | with_reducible apply Keeps.pwrCause
    | with_reducible apply Keeps.ftlResume
    | with_reducible apply Keeps.setBias
    | with_reducible apply Keeps.ite
    | with_reducible apply KeepsRes.ite
    | with_reducible apply Keeps.foldl
    | with_reducible apply Keeps.foldlFst
    | intro _ _ _ _
    | intro _ _ _
    | dsimp only
    | split
    | with_reducible refine Keeps.ofFst ?_ (by assumption)
    | fail_if_no_progress with_reducible refine Keeps.mk' ?_ (by first | exact Nat.le_refl _ | exact Nat.le_succ _ | with_unfolding_all exact Nat.le_add_right _ _) (by first | exact List.prefix_rfl)

theorem Keeps.execDomainFault {s u : State} (a0 : ℕ) (h : Keeps s u) : KeepsRes s (execDomainFault a0 u) := by
  unfold Sys2Proof.Machine.execDomainFault
  repeat' first
    | with_reducible assumption
    | fail_if_no_progress with_reducible apply Keeps.mk0
    | with_reducible apply KeepsRes.next
    | exact KeepsRes.fault _
    | with_reducible apply Keeps.resetAndRun
    | with_reducible apply Keeps.pwrCause
    | with_reducible apply Keeps.ite
    | with_reducible apply KeepsRes.ite

theorem Keeps.execThermalLimitOn {s u : State} (h : Keeps s u) : KeepsRes s (execThermalLimitOn u) := by
  unfold Sys2Proof.Machine.execThermalLimitOn
  repeat' first
    | with_reducible assumption
    | fail_if_no_progress with_reducible apply Keeps.mk0
    | with_reducible apply KeepsRes.next
    | exact KeepsRes.fault _
    | with_reducible apply Keeps.pwrCause
    | with_reducible apply Keeps.setFld
    | with_reducible apply Keeps.ite
    | with_reducible apply KeepsRes.ite

theorem Keeps.execThermalLimitOff {s u : State} (h : Keeps s u) : KeepsRes s (execThermalLimitOff u) := by
  unfold Sys2Proof.Machine.execThermalLimitOff
  repeat' first
    | with_reducible assumption
    | fail_if_no_progress with_reducible apply Keeps.mk0
    | with_reducible apply KeepsRes.next
    | exact KeepsRes.fault _
    | with_reducible apply Keeps.pwrCause
    | with_reducible apply Keeps.setFld
    | with_reducible apply Keeps.ite
    | with_reducible apply KeepsRes.ite

end Sys2Proof.Machine
end

