-- ==== Sys2Proof/Laws/KeepsBoot.lean ====
section
/-! SUPPORT. What the operations of Machine/Boot.lean keep. -/

namespace Sys2Proof.Machine

theorem Keeps.takeOptions {s u : State} (h : Keeps s u) : Keeps s (State.takeOptions u) := by
  unfold Sys2Proof.Machine.State.takeOptions
  repeat' first
    | with_reducible assumption
    | fail_if_no_progress with_reducible apply Keeps.mk0
    | with_reducible apply Keeps.setFld

theorem Keeps.recordStart {s u : State} (h : Keeps s u) : Keeps s (State.recordStart u) := by
  unfold Sys2Proof.Machine.State.recordStart
  repeat' first
    | with_reducible assumption
    | with_reducible apply Keeps.record

theorem Keeps.takeCal {s u : State} (h : Keeps s u) : Keeps s (State.takeCal u) := by
  unfold Sys2Proof.Machine.State.takeCal
  repeat' first
    | with_reducible assumption
    | with_reducible apply Keeps.setFld
    | with_reducible apply Keeps.fatal
    | with_reducible apply Keeps.recordFailure
    | with_reducible apply Keeps.ite

theorem Keeps.finishCflErases {s u : State} (h : Keeps s u) : Keeps s (State.finishCflErases u) := by
  unfold Sys2Proof.Machine.State.finishCflErases
  repeat' first
    | with_reducible assumption
    | fail_if_no_progress with_reducible apply Keeps.mk0
    | with_reducible apply Keeps.over
    | with_reducible apply Keeps.setCflOp
    | with_reducible apply Keeps.eraseDone
    | with_reducible apply Keeps.beginErase
    | with_reducible apply Keeps.ite
    | with_reducible apply Keeps.foldl
    | with_reducible apply Keeps.foldlFst
    | intro _ _ _ _
    | intro _ _ _
    | dsimp only
    | split
    | with_reducible refine Keeps.ofFst ?_ (by assumption)
    | fail_if_no_progress with_reducible refine Keeps.mk' ?_ (by first | exact Nat.le_refl _ | exact Nat.le_succ _ | with_unfolding_all exact Nat.le_add_right _ _) (by first | exact List.prefix_rfl)

theorem Keeps.recordBoot {s u : State} (a1 : ℕ) (a2 : ℕ) (a3 : ℕ) (a4 : ℕ) (h : Keeps s u) : Keeps s (State.recordBoot u a1 a2 a3 a4) := by
  unfold Sys2Proof.Machine.State.recordBoot
  repeat' first
    | with_reducible assumption
    | with_reducible apply Keeps.record

theorem Keeps.runSlot {s u : State} (a1 : StartFacts) (a2 : ℕ) (a3 : Bool) (h : Keeps s u) : Keeps s (State.runSlot u a1 a2 a3) := by
  unfold Sys2Proof.Machine.State.runSlot
  repeat' first
    | with_reducible assumption
    | fail_if_no_progress with_reducible apply Keeps.mk0
    | with_reducible apply Keeps.setFld
    | with_reducible apply Keeps.secCause
    | with_reducible apply Keeps.ite

theorem Keeps.trainStacks {s u : State} (a1 : List (ℕ × ℕ)) (h : Keeps s u) : Keeps s (State.trainStacks u a1) := by
  unfold Sys2Proof.Machine.State.trainStacks
  repeat' first
    | with_reducible assumption
    | with_reducible apply Keeps.over
    | with_reducible apply Keeps.setFld
    | with_reducible apply Keeps.failStack
    | intro _ _ _

theorem Keeps.lcOptions {s u : State} (a1 : ℕ) (h : Keeps s u) : Keeps s (State.lcOptions u a1) := by
  unfold Sys2Proof.Machine.State.lcOptions
  repeat' first
    | with_reducible assumption
    | fail_if_no_progress with_reducible apply Keeps.mk0
    | with_reducible apply Keeps.ite

theorem Keeps.lcErase {s u : State} (h : Keeps s u) : Keeps s (State.lcErase u) := by
  unfold Sys2Proof.Machine.State.lcErase
  repeat' first
    | with_reducible assumption
    | fail_if_no_progress with_reducible apply Keeps.mk0
    | with_reducible apply Keeps.over
    | with_reducible apply Keeps.deleteNs
    | with_reducible apply Keeps.releaseGb
    | with_reducible apply Keeps.wipeGb
    | with_reducible apply Keeps.countErase
    | with_reducible apply Keeps.setFtl
    | with_reducible apply Keeps.ite
    | with_reducible apply Keeps.foldl
    | with_reducible apply Keeps.foldlFst
    | intro _ _ _ _
    | intro _ _ _
    | dsimp only
    | split
    | with_reducible refine Keeps.ofFst ?_ (by assumption)
    | fail_if_no_progress with_reducible refine Keeps.mk' ?_ (by first | exact Nat.le_refl _ | exact Nat.le_succ _ | with_unfolding_all exact Nat.le_add_right _ _) (by first | exact List.prefix_rfl)

theorem Keeps.finishTransition {s u : State} (a1 : ℕ) (a2 : ℕ) (h : Keeps s u) : Keeps s (State.finishTransition u a1 a2) := by
  unfold Sys2Proof.Machine.State.finishTransition
  repeat' first
    | with_reducible assumption
    | fail_if_no_progress with_reducible apply Keeps.mk0
    | with_reducible apply Keeps.lcOptions
    | with_reducible apply Keeps.setFld
    | with_reducible apply Keeps.lcErase
    | with_reducible apply Keeps.secCause
    | with_reducible apply Keeps.resetAndRun
    | with_reducible apply Keeps.record
    | with_reducible apply Keeps.ite

theorem Keeps.beginTransition {s u : State} (a1 : ℕ) (h : Keeps s u) : Keeps s (State.beginTransition u a1) := by
  unfold Sys2Proof.Machine.State.beginTransition
  repeat' first
    | with_reducible assumption
    | fail_if_no_progress with_reducible apply Keeps.mk0
    | with_reducible apply Keeps.setFld
    | with_reducible apply Keeps.endGrant
    | with_reducible apply Keeps.startWipe
    | with_reducible apply Keeps.zeroKeys

theorem Keeps.execLifecycleTransition {s u : State} (a0 : ℕ) (a1 : ℕ) (h : Keeps s u) : KeepsRes s (execLifecycleTransition a0 a1 u) := by
  unfold Sys2Proof.Machine.execLifecycleTransition
  repeat' first
    | with_reducible assumption
    | with_reducible apply KeepsRes.next
    | with_reducible apply Keeps.setFld
    | with_reducible apply Keeps.beginTransition
    | with_reducible apply Keeps.ite
    | with_reducible apply KeepsRes.ite

theorem Keeps.execLifecycleTransitionDone {s u : State} (h : Keeps s u) : KeepsRes s (execLifecycleTransitionDone u) := by
  unfold Sys2Proof.Machine.execLifecycleTransitionDone
  repeat' first
    | with_reducible assumption
    | with_reducible apply KeepsRes.next
    | with_reducible apply Keeps.finishTransition
    | split

theorem Keeps.execFactoryTestInstruction {s u : State} (a0 : ℕ) (h : Keeps s u) : KeepsRes s (execFactoryTestInstruction a0 u) := by
  unfold Sys2Proof.Machine.execFactoryTestInstruction
  repeat' first
    | with_reducible assumption
    | with_reducible apply KeepsRes.next
    | with_reducible apply Keeps.beginTransition
    | with_reducible apply KeepsRes.ite

theorem Keeps.startFirmware {s u : State} (a1 : StartFacts) (a2 : ℕ) (h : Keeps s u) : Keeps s (State.startFirmware u a1 a2) := by
  unfold Sys2Proof.Machine.State.startFirmware
  repeat' first
    | with_reducible assumption
    | fail_if_no_progress with_reducible apply Keeps.mk0
    | with_reducible apply Keeps.loadKept
    | with_reducible apply Keeps.loadVendor
    | with_reducible apply Keeps.trainStacks
    | with_reducible apply Keeps.discover
    | with_reducible apply Keeps.startErase
    | with_reducible apply Keeps.setFld
    | with_reducible apply Keeps.recordBoot
    | with_reducible apply Keeps.journal
    | with_reducible apply Keeps.setFtl
    | with_reducible apply Keeps.ite
    | with_reducible apply Keeps.foldl
    | with_reducible apply Keeps.foldlFst
    | intro _ _ _ _
    | intro _ _ _
    | dsimp only
    | split
    | with_reducible refine Keeps.ofFst ?_ (by assumption)
    | fail_if_no_progress with_reducible refine Keeps.mk' ?_ (by first | exact Nat.le_refl _ | exact Nat.le_succ _ | with_unfolding_all exact Nat.le_add_right _ _) (by first | exact List.prefix_rfl)

theorem Keeps.startBare {s u : State} (h : Keeps s u) : Keeps s (State.startBare u) := by
  unfold Sys2Proof.Machine.State.startBare
  repeat' first
    | with_reducible assumption
    | with_reducible apply Keeps.recordBoot
    | with_reducible apply Keeps.fatal

theorem Keeps.readFuses {s u : State} (h : Keeps s u) : Keeps s (State.readFuses u) := by
  unfold Sys2Proof.Machine.State.readFuses
  repeat' first
    | with_reducible assumption
    | fail_if_no_progress with_reducible apply Keeps.mk0
    | with_reducible apply Keeps.draw
    | with_reducible apply Keeps.setFld
    | with_reducible apply Keeps.ite
    | with_reducible apply Keeps.foldl
    | with_reducible apply Keeps.foldlFst
    | intro _ _ _ _
    | intro _ _ _
    | dsimp only
    | split
    | with_reducible refine Keeps.ofFst ?_ (by assumption)
    | fail_if_no_progress with_reducible refine Keeps.mk' ?_ (by first | exact Nat.le_refl _ | exact Nat.le_succ _ | with_unfolding_all exact Nat.le_add_right _ _) (by first | exact List.prefix_rfl)

theorem Keeps.startRom {s u : State} (a1 : StartFacts) (h : Keeps s u) : Keeps s (State.startRom u a1) := by
  unfold Sys2Proof.Machine.State.startRom
  repeat' first
    | with_reducible assumption
    | fail_if_no_progress with_reducible apply Keeps.mk0
    | with_reducible apply Keeps.readFuses
    | with_reducible apply Keeps.recordStart
    | with_reducible apply Keeps.takeOptions
    | with_reducible apply Keeps.tmrCause
    | with_reducible apply Keeps.finishCflErases
    | with_reducible apply Keeps.takeCal
    | with_reducible apply Keeps.startMarch
    | with_reducible apply Keeps.setBias
    | with_reducible apply Keeps.setDoms
    | with_reducible apply Keeps.sampleGate
    | with_reducible apply Keeps.setFld
    | with_reducible apply Keeps.ite
    | with_reducible apply Keeps.foldl
    | with_reducible apply Keeps.foldlFst
    | intro _ _ _ _
    | intro _ _ _
    | dsimp only
    | split
    | with_reducible refine Keeps.ofFst ?_ (by assumption)
    | fail_if_no_progress with_reducible refine Keeps.mk' ?_ (by first | exact Nat.le_refl _ | exact Nat.le_succ _ | with_unfolding_all exact Nat.le_add_right _ _) (by first | exact List.prefix_rfl)

theorem Keeps.resumeTransition {s u : State} (h : Keeps s u) : Keeps s (State.resumeTransition u) := by
  unfold Sys2Proof.Machine.State.resumeTransition
  repeat' first
    | with_reducible assumption
    | fail_if_no_progress with_reducible apply Keeps.mk0
    | with_reducible apply Keeps.finishTransition
    | with_reducible apply Keeps.ite
    | with_reducible apply Keeps.foldl
    | with_reducible apply Keeps.foldlFst
    | intro _ _ _ _
    | intro _ _ _
    | dsimp only
    | split
    | with_reducible refine Keeps.ofFst ?_ (by assumption)
    | fail_if_no_progress with_reducible refine Keeps.mk' ?_ (by first | exact Nat.le_refl _ | exact Nat.le_succ _ | with_unfolding_all exact Nat.le_add_right _ _) (by first | exact List.prefix_rfl)

theorem Keeps.startSlot {s u : State} (a1 : StartFacts) (a2 : ℕ) (a3 : Bool) (h : Keeps s u) : Keeps s (State.startSlot u a1 a2 a3) := by
  unfold Sys2Proof.Machine.State.startSlot
  exact Keeps.resumeTransition (Keeps.setPower _ (Keeps.setReg _ _ (Keeps.startFirmware _ _ (Keeps.runSlot _ _ _ h))))

theorem Keeps.execPartStart {s u : State} (a0 : StartFacts) (h : Keeps s u) : KeepsRes s (execPartStart a0 u) := by
  unfold Sys2Proof.Machine.execPartStart
  repeat' first
    | with_reducible assumption
    | fail_if_no_progress with_reducible apply Keeps.mk0
    | with_reducible apply KeepsRes.next
    | exact KeepsRes.fault _
    | with_reducible apply Keeps.startRom
    | with_reducible apply Keeps.setPower
    | with_reducible apply Keeps.setReg
    | with_reducible apply Keeps.startBare
    | with_reducible apply Keeps.startSlot
    | with_reducible apply Keeps.ite
    | with_reducible apply KeepsRes.ite
    | with_reducible apply Keeps.foldl
    | with_reducible apply Keeps.foldlFst
    | intro _ _ _ _
    | intro _ _ _
    | dsimp only
    | split
    | with_reducible refine Keeps.ofFst ?_ (by assumption)
    | fail_if_no_progress with_reducible refine Keeps.mk' ?_ (by first | exact Nat.le_refl _ | exact Nat.le_succ _ | with_unfolding_all exact Nat.le_add_right _ _) (by first | exact List.prefix_rfl)

theorem Keeps.execPowerOn {s u : State} (a0 : List Bool) (h : Keeps s u) : KeepsRes s (execPowerOn a0 u) := by
  unfold Sys2Proof.Machine.execPowerOn
  repeat' first
    | with_reducible assumption
    | fail_if_no_progress with_reducible apply Keeps.mk0
    | with_reducible apply KeepsRes.next
    | exact KeepsRes.fault _
    | with_reducible apply Keeps.setReg
    | with_reducible apply Keeps.partReset
    | with_reducible apply Keeps.setSec
    | with_reducible apply Keeps.ite
    | with_reducible apply KeepsRes.ite
    | with_reducible apply Keeps.foldl
    | with_reducible apply Keeps.foldlFst
    | intro _ _ _ _
    | intro _ _ _
    | dsimp only
    | split
    | with_reducible refine Keeps.ofFst ?_ (by assumption)
    | fail_if_no_progress with_reducible refine Keeps.mk' ?_ (by first | exact Nat.le_refl _ | exact Nat.le_succ _ | with_unfolding_all exact Nat.le_add_right _ _) (by first | exact List.prefix_rfl)

theorem Keeps.ballReset {s u : State} (a1 : HoldWhy) (h : Keeps s u) : Keeps s (State.ballReset u a1) := by
  unfold Sys2Proof.Machine.State.ballReset
  repeat' first
    | with_reducible assumption
    | fail_if_no_progress with_reducible apply Keeps.mk0
    | with_reducible apply Keeps.setPower
    | with_reducible apply Keeps.partReset
    | with_reducible apply Keeps.beginDump
    | with_reducible apply Keeps.ite
    | with_reducible apply Keeps.foldl
    | with_reducible apply Keeps.foldlFst
    | intro _ _ _ _
    | intro _ _ _
    | dsimp only
    | split
    | with_reducible refine Keeps.ofFst ?_ (by assumption)
    | fail_if_no_progress with_reducible refine Keeps.mk' ?_ (by first | exact Nat.le_refl _ | exact Nat.le_succ _ | with_unfolding_all exact Nat.le_add_right _ _) (by first | exact List.prefix_rfl)

theorem Keeps.letGo {s u : State} (a1 : HoldWhy) (h : Keeps s u) : Keeps s (State.letGo u a1) := by
  unfold Sys2Proof.Machine.State.letGo
  repeat' first
    | with_reducible assumption
    | with_reducible apply Keeps.setPower
    | with_reducible apply Keeps.ite

theorem Keeps.execResetBallAssert {s u : State} (h : Keeps s u) : KeepsRes s (execResetBallAssert u) := by
  unfold Sys2Proof.Machine.execResetBallAssert
  repeat' first
    | with_reducible assumption
    | fail_if_no_progress with_reducible apply Keeps.mk0
    | with_reducible apply KeepsRes.next
    | exact KeepsRes.fault _
    | with_reducible apply Keeps.setPower
    | with_reducible apply Keeps.ballReset
    | with_reducible apply Keeps.ite
    | with_reducible apply KeepsRes.ite

theorem Keeps.execResetBallRelease {s u : State} (h : Keeps s u) : KeepsRes s (execResetBallRelease u) := by
  unfold Sys2Proof.Machine.execResetBallRelease
  repeat' first
    | with_reducible assumption
    | fail_if_no_progress with_reducible apply Keeps.mk0
    | with_reducible apply KeepsRes.next
    | exact KeepsRes.fault _
    | with_reducible apply Keeps.setPower
    | with_reducible apply Keeps.letGo
    | with_reducible apply Keeps.ite
    | with_reducible apply KeepsRes.ite

theorem Keeps.execSuppliesOff {s u : State} (h : Keeps s u) : KeepsRes s (execSuppliesOff u) := by
  unfold Sys2Proof.Machine.execSuppliesOff
  repeat' first
    | with_reducible assumption
    | fail_if_no_progress with_reducible apply Keeps.mk0
    | with_reducible apply KeepsRes.next
    | exact KeepsRes.fault _
    | with_reducible apply Keeps.partReset
    | with_reducible apply Keeps.setPower
    | with_reducible apply Keeps.ite
    | with_reducible apply KeepsRes.ite

theorem Keeps.tapLoad {s u : State} (a1 : ℕ) (h : Keeps s u) : Keeps s (State.tapLoad u a1) := by
  unfold Sys2Proof.Machine.State.tapLoad
  repeat' first
    | with_reducible assumption
    | fail_if_no_progress with_reducible apply Keeps.mk0
    | with_reducible apply Keeps.setSec

theorem Keeps.tapHold {s u : State} (a1 : ℕ) (h : Keeps s u) : Keeps s (State.tapHold u a1) := by
  unfold Sys2Proof.Machine.State.tapHold
  repeat' first
    | with_reducible assumption
    | fail_if_no_progress with_reducible apply Keeps.mk0
    | with_reducible apply Keeps.ballReset
    | with_reducible apply Keeps.tapLoad
    | with_reducible apply Keeps.ite

theorem Keeps.execTapExtest {s u : State} (h : Keeps s u) : KeepsRes s (execTapExtest u) := by
  unfold Sys2Proof.Machine.execTapExtest
  repeat' first
    | with_reducible assumption
    | fail_if_no_progress with_reducible apply Keeps.mk0
    | with_reducible apply KeepsRes.next
    | exact KeepsRes.fault _
    | with_reducible apply Keeps.tapHold

theorem Keeps.execTapClamp {s u : State} (h : Keeps s u) : KeepsRes s (execTapClamp u) := by
  unfold Sys2Proof.Machine.execTapClamp
  repeat' first
    | with_reducible assumption
    | fail_if_no_progress with_reducible apply Keeps.mk0
    | with_reducible apply KeepsRes.next
    | exact KeepsRes.fault _
    | with_reducible apply Keeps.tapHold

theorem Keeps.execTapHighz {s u : State} (h : Keeps s u) : KeepsRes s (execTapHighz u) := by
  unfold Sys2Proof.Machine.execTapHighz
  repeat' first
    | with_reducible assumption
    | fail_if_no_progress with_reducible apply Keeps.mk0
    | with_reducible apply KeepsRes.next
    | exact KeepsRes.fault _
    | with_reducible apply Keeps.tapHold

theorem Keeps.execTapIdcode {s u : State} (h : Keeps s u) : KeepsRes s (execTapIdcode u) := by
  unfold Sys2Proof.Machine.execTapIdcode
  repeat' first
    | with_reducible assumption
    | fail_if_no_progress with_reducible apply Keeps.mk0
    | with_reducible apply KeepsRes.next
    | exact KeepsRes.fault _
    | with_reducible apply Keeps.emit
    | with_reducible apply Keeps.tapLoad
    | with_reducible apply Keeps.ite
    | with_reducible apply KeepsRes.ite

theorem Keeps.execTapBypass {s u : State} (a0 : ℕ) (h : Keeps s u) : KeepsRes s (execTapBypass a0 u) := by
  unfold Sys2Proof.Machine.execTapBypass
  repeat' first
    | with_reducible assumption
    | fail_if_no_progress with_reducible apply Keeps.mk0
    | with_reducible apply KeepsRes.next
    | exact KeepsRes.fault _
    | with_reducible apply Keeps.emit
    | with_reducible apply Keeps.tapLoad
    | with_reducible apply Keeps.ite
    | with_reducible apply KeepsRes.ite

theorem Keeps.execTapSamplePreload {s u : State} (a0 : List Bool) (h : Keeps s u) : KeepsRes s (execTapSamplePreload a0 u) := by
  unfold Sys2Proof.Machine.execTapSamplePreload
  repeat' first
    | with_reducible assumption
    | fail_if_no_progress with_reducible apply Keeps.mk0
    | with_reducible apply KeepsRes.next
    | exact KeepsRes.fault _
    | with_reducible apply Keeps.draw
    | with_reducible apply Keeps.emit
    | with_reducible apply Keeps.setSec
    | with_reducible apply Keeps.tapLoad
    | with_reducible apply Keeps.ite
    | with_reducible apply KeepsRes.ite

theorem Keeps.execTapTestLogicReset {s u : State} (h : Keeps s u) : KeepsRes s (execTapTestLogicReset u) := by
  unfold Sys2Proof.Machine.execTapTestLogicReset
  repeat' first
    | with_reducible assumption
    | fail_if_no_progress with_reducible apply Keeps.mk0
    | with_reducible apply KeepsRes.next
    | exact KeepsRes.fault _
    | with_reducible apply Keeps.letGo
    | with_reducible apply Keeps.tapLoad
    | with_reducible apply Keeps.ite
    | with_reducible apply KeepsRes.ite

end Sys2Proof.Machine
end

