-- ==== Sys2Proof/Laws/KeepsPrograms.lean ====
section
/-! SUPPORT. What the operations of Machine/Programs.lean keep. -/

namespace Sys2Proof.Machine

theorem Keeps.placeProg {s u : State} (a1 : ℕ) (a2 : ℕ) (a3 : Bytes) (a4 : List W64) (h : Keeps s u) : Keeps s (State.placeProg u a1 a2 a3 a4) := by
  unfold Sys2Proof.Machine.State.placeProg
  repeat' first
    | with_reducible assumption
    | fail_if_no_progress with_reducible apply Keeps.mk0
    | with_reducible apply Keeps.setProgs
    | with_reducible apply Keeps.setFld
    | with_reducible apply Keeps.setReg
    | with_reducible apply Keeps.over
    | with_reducible apply Keeps.ite
    | intro _ _ _

theorem Keeps.execStreamProgramLoad {s u : State} (a0 : ℕ) (a1 : Sqe) (a2 : Bytes) (h : Keeps s u) : KeepsRes s (execStreamProgramLoad a0 a1 a2 u) := by
  unfold Sys2Proof.Machine.execStreamProgramLoad
  refine Keeps.adminRun _ _ _ (fun v hv => ?_) h
  refine KeepsRes.ite (KeepsRes.next (Keeps.admin _ _ _ _ _ hv)) ?_
  split
  · exact KeepsRes.next (Keeps.badField _ _ _ _ _ hv)
  · extract_lets len img
    clear_value img len
    split
    · exact KeepsRes.next (Keeps.admin _ _ _ _ _ hv)
    · split
      · exact KeepsRes.next (Keeps.admin _ _ _ _ _ hv)
      · exact KeepsRes.next (Keeps.admin _ _ _ _ _ (Keeps.placeProg _ _ _ _ hv))

end Sys2Proof.Machine
end

