-- ==== Sys2Proof/Laws/KeepsRegisters.lean ====
section
/-! SUPPORT. What the operations of Machine/Registers.lean keep. -/

namespace Sys2Proof.Machine

theorem Keeps.keeping {s u : State} (a1 : State) (a2 : List Field) (k1 : Keeps s a1) (h : Keeps s u) : Keeps s (State.keeping u a1 a2) := by
  unfold Sys2Proof.Machine.State.keeping
  repeat' first
    | with_reducible assumption
    | with_reducible apply Keeps.over
    | with_reducible apply Keeps.setFld
    | intro _ _ _

theorem Keeps.clamp {s u : State} (a1 : Field) (a2 : ℕ) (a3 : ℕ) (h : Keeps s u) : Keeps s (State.clamp u a1 a2 a3) := by
  unfold Sys2Proof.Machine.State.clamp
  repeat' first
    | with_reducible assumption
    | with_reducible apply Keeps.setFld

theorem Keeps.pauseAll {s u : State} (h : Keeps s u) : Keeps s (State.pauseAll u) := by
  unfold Sys2Proof.Machine.State.pauseAll
  repeat' first
    | with_reducible assumption
    | with_reducible apply Keeps.over
    | with_reducible apply Keeps.pauseCheck
    | with_reducible apply Keeps.ite
    | intro _ _ _

theorem Keeps.writeStream {s u : State} (a1 : State) (a2 : ℕ) (k1 : Keeps s a1) (h : Keeps s u) : Keeps s (State.writeStream u a1 a2) := by
  unfold Sys2Proof.Machine.State.writeStream
  repeat' first
    | with_reducible assumption
    | with_reducible apply Keeps.keeping
    | with_reducible apply Keeps.pauseAll
    | with_reducible apply Keeps.clamp
    | with_reducible apply Keeps.newWindow
    | with_reducible apply Keeps.drainAway
    | with_reducible apply Keeps.ite

theorem Keeps.writeFilter {s u : State} (a1 : State) (a2 : ℕ) (a3 : W64) (k1 : Keeps s a1) (h : Keeps s u) : Keeps s (State.writeFilter u a1 a2 a3) := by
  unfold Sys2Proof.Machine.State.writeFilter
  repeat' first
    | with_reducible assumption
    | with_reducible apply Keeps.pauseAll
    | with_reducible apply Keeps.setFld
    | with_reducible apply Keeps.ite

theorem Keeps.writePortCtrl {s u : State} (a1 : ℕ) (a2 : W64) (h : Keeps s u) : Keeps s (State.writePortCtrl u a1 a2) := by
  unfold Sys2Proof.Machine.State.writePortCtrl
  repeat' first
    | with_reducible assumption
    | with_reducible apply Keeps.setFld
    | with_reducible apply Keeps.over
    | with_reducible apply Keeps.dropLink
    | with_reducible apply Keeps.setDom
    | with_reducible apply Keeps.ite
    | intro _ _ _

theorem Keeps.writeSub {s u : State} (a1 : State) (a2 : ℕ) (a3 : ℕ) (a4 : ℕ) (k1 : Keeps s a1) (h : Keeps s u) : Keeps s (State.writeSub u a1 a2 a3 a4) := by
  unfold Sys2Proof.Machine.State.writeSub
  repeat' first
    | with_reducible assumption
    | with_reducible apply Keeps.keeping
    | with_reducible apply Keeps.clamp
    | with_reducible apply Keeps.setFld
    | with_reducible apply Keeps.ite

theorem Keeps.raisePn {s u : State} (a1 : ℕ) (a2 : W64) (h : Keeps s u) : Keeps s (State.raisePn u a1 a2) := by
  unfold Sys2Proof.Machine.State.raisePn
  repeat' first
    | with_reducible assumption
    | fail_if_no_progress with_reducible apply Keeps.mk0
    | with_reducible apply Keeps.setReg
    | with_reducible apply Keeps.passPn
    | with_reducible apply Keeps.ite
    | with_reducible apply Keeps.foldl
    | with_reducible apply Keeps.foldlFst
    | intro _ _ _ _
    | intro _ _ _
    | dsimp only
    | split
    | with_reducible refine Keeps.ofFst ?_ (by assumption)
    | fail_if_no_progress with_reducible refine Keeps.mk' ?_ (by first | exact Nat.le_refl _ | exact Nat.le_succ _ | with_unfolding_all exact Nat.le_add_right _ _) (by first | exact List.prefix_rfl)

theorem Keeps.writeSa {s u : State} (a1 : State) (a2 : ℕ) (a3 : ℕ) (a4 : W64) (k1 : Keeps s a1) (h : Keeps s u) : Keeps s (State.writeSa u a1 a2 a3 a4) := by
  unfold Sys2Proof.Machine.State.writeSa
  repeat' first
    | with_reducible assumption
    | fail_if_no_progress with_reducible apply Keeps.mk0
    | with_reducible apply Keeps.raisePn
    | with_reducible apply Keeps.keeping
    | with_reducible apply Keeps.passPn
    | with_reducible apply Keeps.ite
    | with_reducible apply Keeps.foldl
    | with_reducible apply Keeps.foldlFst
    | intro _ _ _ _
    | intro _ _ _
    | dsimp only
    | split
    | with_reducible refine Keeps.ofFst ?_ (by assumption)
    | fail_if_no_progress with_reducible refine Keeps.mk' ?_ (by first | exact Nat.le_refl _ | exact Nat.le_succ _ | with_unfolding_all exact Nat.le_add_right _ _) (by first | exact List.prefix_rfl)

theorem Keeps.writePort {s u : State} (a1 : State) (a2 : ℕ) (a3 : W64) (k1 : Keeps s a1) (h : Keeps s u) : Keeps s (State.writePort u a1 a2 a3) := by
  unfold Sys2Proof.Machine.State.writePort
  repeat' first
    | with_reducible assumption
    | with_reducible apply Keeps.writePortCtrl
    | with_reducible apply Keeps.over
    | with_reducible apply Keeps.pauseCheck
    | with_reducible apply Keeps.writeSub
    | with_reducible apply Keeps.setFld
    | with_reducible apply Keeps.writeSa
    | with_reducible apply Keeps.ite
    | intro _ _ _

theorem Keeps.writeChannel {s u : State} (a1 : ℕ) (h : Keeps s u) : Keeps s (State.writeChannel u a1) := by
  unfold Sys2Proof.Machine.State.writeChannel
  repeat' first
    | with_reducible assumption
    | with_reducible apply Keeps.setFld
    | with_reducible apply Keeps.clamp
    | with_reducible apply Keeps.ite

theorem Keeps.writeFtl {s u : State} (a1 : State) (a2 : ℕ) (k1 : Keeps s a1) (h : Keeps s u) : Keeps s (State.writeFtl u a1 a2) := by
  unfold Sys2Proof.Machine.State.writeFtl
  repeat' first
    | with_reducible assumption
    | with_reducible apply Keeps.checkSpare
    | with_reducible apply Keeps.takeReserve
    | with_reducible apply Keeps.clamp
    | with_reducible apply Keeps.ite

theorem Keeps.writeStack {s u : State} (a1 : State) (a2 : ℕ) (k1 : Keeps s a1) (h : Keeps s u) : Keeps s (State.writeStack u a1 a2) := by
  unfold Sys2Proof.Machine.State.writeStack
  repeat' first
    | with_reducible assumption
    | with_reducible apply Keeps.setFld
    | with_reducible apply Keeps.clamp
    | with_reducible apply Keeps.ite

theorem Keeps.writeSram {s u : State} (a1 : State) (a2 : ℕ) (k1 : Keeps s a1) (h : Keeps s u) : Keeps s (State.writeSram u a1 a2) := by
  unfold Sys2Proof.Machine.State.writeSram
  repeat' first
    | with_reducible assumption
    | with_reducible apply Keeps.ite

theorem Keeps.writeDma {s u : State} (a1 : State) (a2 : ℕ) (k1 : Keeps s a1) (h : Keeps s u) : Keeps s (State.writeDma u a1 a2) := by
  unfold Sys2Proof.Machine.State.writeDma
  repeat' first
    | with_reducible assumption
    | with_reducible apply Keeps.clamp
    | with_reducible apply Keeps.keeping
    | with_reducible apply Keeps.ite

theorem Keeps.writeCipher {s u : State} (a1 : State) (a2 : ℕ) (k1 : Keeps s a1) (h : Keeps s u) : Keeps s (State.writeCipher u a1 a2) := by
  unfold Sys2Proof.Machine.State.writeCipher
  repeat' first
    | with_reducible assumption
    | with_reducible apply Keeps.ite

theorem Keeps.writeEvents {s u : State} (a1 : State) (a2 : ℕ) (k1 : Keeps s a1) (h : Keeps s u) : Keeps s (State.writeEvents u a1 a2) := by
  unfold Sys2Proof.Machine.State.writeEvents
  repeat' first
    | with_reducible assumption
    | with_reducible apply Keeps.over
    | with_reducible apply Keeps.setFld
    | with_reducible apply Keeps.ite
    | intro _ _ _

theorem Keeps.writePower {s u : State} (a1 : ℕ) (h : Keeps s u) : Keeps s (State.writePower u a1) := by
  unfold Sys2Proof.Machine.State.writePower
  repeat' first
    | with_reducible assumption
    | with_reducible apply Keeps.clamp
    | with_reducible apply Keeps.huWritten
    | with_reducible apply Keeps.ite

theorem Keeps.writeSec {s u : State} (a1 : State) (a2 : ℕ) (a3 : W64) (k1 : Keeps s a1) (h : Keeps s u) : Keeps s (State.writeSec u a1 a2 a3) := by
  unfold Sys2Proof.Machine.State.writeSec
  repeat' first
    | with_reducible assumption
    | with_reducible apply Keeps.obsDrive
    | with_reducible apply Keeps.ite

theorem Keeps.writeStage {s u : State} (a1 : ℕ) (a2 : W64) (h : Keeps s u) : Keeps s (State.writeStage u a1 a2) := by
  unfold Sys2Proof.Machine.State.writeStage
  repeat' first
    | with_reducible assumption
    | fail_if_no_progress with_reducible apply Keeps.mk0
    | with_reducible apply Keeps.ite

theorem Keeps.writePf {s u : State} (a1 : ℕ) (a2 : W64) (a3 : W64) (h : Keeps s u) : Keeps s (State.writePf u a1 a2 a3) := by
  unfold Sys2Proof.Machine.State.writePf
  repeat' first
    | with_reducible assumption
    | fail_if_no_progress with_reducible apply Keeps.mk0
    | with_reducible apply Keeps.writeStage
    | with_reducible apply Keeps.setReg
    | with_reducible apply Keeps.writeStream
    | with_reducible apply Keeps.writeFilter
    | with_reducible apply Keeps.writePort
    | with_reducible apply Keeps.writeChannel
    | with_reducible apply Keeps.writeFtl
    | with_reducible apply Keeps.writeStack
    | with_reducible apply Keeps.writeSram
    | with_reducible apply Keeps.writeDma
    | with_reducible apply Keeps.writeCipher
    | with_reducible apply Keeps.clamp
    | with_reducible apply Keeps.writeEvents
    | with_reducible apply Keeps.writePower
    | with_reducible apply Keeps.writeSec
    | with_reducible apply Keeps.ite
    | with_reducible apply Keeps.foldl
    | with_reducible apply Keeps.foldlFst
    | intro _ _ _ _
    | intro _ _ _
    | dsimp only
    | split
    | with_reducible refine Keeps.ofFst ?_ (by assumption)
    | fail_if_no_progress with_reducible refine Keeps.mk' ?_ (by first | exact Nat.le_refl _ | exact Nat.le_succ _ | with_unfolding_all exact Nat.le_add_right _ _) (by first | exact List.prefix_rfl)

theorem Keeps.writeNvme {s u : State} (a1 : ℕ) (a2 : ℕ) (a3 : W64) (h : Keeps s u) : Keeps s (State.writeNvme u a1 a2 a3) := by
  unfold Sys2Proof.Machine.State.writeNvme
  repeat' first
    | with_reducible assumption
    | fail_if_no_progress with_reducible apply Keeps.mk0
    | with_reducible apply Keeps.setFtl
    | with_reducible apply Keeps.setFld
    | with_reducible apply Keeps.setReg
    | with_reducible apply Keeps.ite
    | with_reducible apply Keeps.foldl
    | with_reducible apply Keeps.foldlFst
    | intro _ _ _ _
    | intro _ _ _
    | dsimp only
    | split
    | with_reducible refine Keeps.ofFst ?_ (by assumption)
    | fail_if_no_progress with_reducible refine Keeps.mk' ?_ (by first | exact Nat.le_refl _ | exact Nat.le_succ _ | with_unfolding_all exact Nat.le_add_right _ _) (by first | exact List.prefix_rfl)

theorem Keeps.writeOne {s u : State} (a1 : ℕ) (a2 : ℕ) (a3 : W64) (a4 : W64) (h : Keeps s u) : Keeps s (State.writeOne u a1 a2 a3 a4) := by
  unfold Sys2Proof.Machine.State.writeOne
  repeat' first
    | with_reducible assumption
    | fail_if_no_progress with_reducible apply Keeps.mk0
    | with_reducible apply Keeps.writeNvme
    | with_reducible apply Keeps.writePf
    | with_reducible apply Keeps.ite
    | with_reducible apply Keeps.foldl
    | with_reducible apply Keeps.foldlFst
    | intro _ _ _ _
    | intro _ _ _
    | dsimp only
    | split
    | with_reducible refine Keeps.ofFst ?_ (by assumption)
    | fail_if_no_progress with_reducible refine Keeps.mk' ?_ (by first | exact Nat.le_refl _ | exact Nat.le_succ _ | with_unfolding_all exact Nat.le_add_right _ _) (by first | exact List.prefix_rfl)

theorem Keeps.writeFull {s u : State} (a1 : ℕ) (a2 : ℕ) (a3 : ℕ) (a4 : W64) (a5 : W64) (h : Keeps s u) : Keeps s (State.writeFull u a1 a2 a3 a4 a5) := by
  unfold Sys2Proof.Machine.State.writeFull
  repeat' first
    | with_reducible assumption
    | fail_if_no_progress with_reducible apply Keeps.mk0
    | with_reducible apply Keeps.writeOne
    | with_reducible apply Keeps.ite
    | with_reducible apply Keeps.foldl
    | with_reducible apply Keeps.foldlFst
    | intro _ _ _ _
    | intro _ _ _
    | dsimp only
    | split
    | with_reducible refine Keeps.ofFst ?_ (by assumption)
    | fail_if_no_progress with_reducible refine Keeps.mk' ?_ (by first | exact Nat.le_refl _ | exact Nat.le_succ _ | with_unfolding_all exact Nat.le_add_right _ _) (by first | exact List.prefix_rfl)

theorem Keeps.writeDword {s u : State} (a1 : Bool) (a2 a3 : ℕ) (a4 a5 : W64) (h : Keeps s u) : Keeps s (State.writeDword u a1 a2 a3 a4 a5) := by
  unfold Sys2Proof.Machine.State.writeDword
  exact Keeps.ite (Keeps.raise _ h) (Keeps.ite (Keeps.writeOne _ _ _ _ h) h)

theorem Keeps.barWrite {s u : State} (a1 : Bool) (a2 : ℕ) (a3 : ℕ) (a4 : ℕ) (a5 : W64) (a6 : W64) (h : Keeps s u) : KeepsRes s (State.barWrite u a1 a2 a3 a4 a5 a6) := by
  unfold Sys2Proof.Machine.State.barWrite
  repeat' first
    | with_reducible assumption
    | fail_if_no_progress with_reducible apply Keeps.mk0
    | with_reducible apply KeepsRes.next
    | exact KeepsRes.fault _
    | with_reducible apply Keeps.writeDword
    | with_reducible apply Keeps.raise
    | with_reducible apply Keeps.writeFull
    | with_reducible apply Keeps.pulse
    | with_reducible apply Keeps.ite
    | with_reducible apply KeepsRes.ite
    | with_reducible apply Keeps.foldl
    | with_reducible apply Keeps.foldlFst
    | intro _ _ _ _
    | intro _ _ _
    | dsimp only
    | split
    | with_reducible refine Keeps.ofFst ?_ (by assumption)
    | fail_if_no_progress with_reducible refine Keeps.mk' ?_ (by first | exact Nat.le_refl _ | exact Nat.le_succ _ | with_unfolding_all exact Nat.le_add_right _ _) (by first | exact List.prefix_rfl)

theorem Keeps.execRegisterWrite {s u : State} (a0 : ℕ) (a1 : ℕ) (a2 : ℕ) (a3 : W64) (a4 : W64) (h : Keeps s u) : KeepsRes s (execRegisterWrite a0 a1 a2 a3 a4 u) := by
  unfold Sys2Proof.Machine.execRegisterWrite
  repeat' first
    | with_reducible assumption
    | fail_if_no_progress with_reducible apply Keeps.mk0
    | with_reducible apply KeepsRes.next
    | exact KeepsRes.fault _
    | with_reducible apply Keeps.barWrite
    | with_reducible apply Keeps.ite
    | with_reducible apply KeepsRes.ite
    | with_reducible apply Keeps.foldl
    | with_reducible apply Keeps.foldlFst
    | intro _ _ _ _
    | intro _ _ _
    | dsimp only
    | split
    | with_reducible refine Keeps.ofFst ?_ (by assumption)
    | fail_if_no_progress with_reducible refine Keeps.mk' ?_ (by first | exact Nat.le_refl _ | exact Nat.le_succ _ | with_unfolding_all exact Nat.le_add_right _ _) (by first | exact List.prefix_rfl)

theorem Keeps.execNarrowWriteDiscard {s u : State} (a0 : ℕ) (a1 : ℕ) (a2 : ℕ) (a3 : W64) (h : Keeps s u) : KeepsRes s (execNarrowWriteDiscard a0 a1 a2 a3 u) := by
  unfold Sys2Proof.Machine.execNarrowWriteDiscard
  repeat' first
    | with_reducible assumption
    | fail_if_no_progress with_reducible apply Keeps.mk0
    | with_reducible apply KeepsRes.next
    | exact KeepsRes.fault _
    | with_reducible apply Keeps.barWrite
    | with_reducible apply Keeps.ite
    | with_reducible apply KeepsRes.ite
    | with_reducible apply Keeps.foldl
    | with_reducible apply Keeps.foldlFst
    | intro _ _ _ _
    | intro _ _ _
    | dsimp only
    | split
    | with_reducible refine Keeps.ofFst ?_ (by assumption)
    | fail_if_no_progress with_reducible refine Keeps.mk' ?_ (by first | exact Nat.le_refl _ | exact Nat.le_succ _ | with_unfolding_all exact Nat.le_add_right _ _) (by first | exact List.prefix_rfl)

end Sys2Proof.Machine
end

