-- ==== Sys2Proof/Laws/State.lean ====
section
/-! SUPPORT. What each named update of the state leaves: one lemma per field. -/

namespace Sys2Proof.Machine

/-! ### setReg -/

@[simp] theorem State.setReg_part (s : State) (off : Nat) (v : W64) : (s.setReg off v).part = s.part := rfl
@[simp] theorem State.setReg_ur (s : State) (off : Nat) (v : W64) : (s.setReg off v).ur = s.ur := rfl
@[simp] theorem State.setReg_cap (s : State) (off : Nat) (v : W64) : (s.setReg off v).cap = s.cap := rfl
@[simp] theorem State.setReg_eth (s : State) (off : Nat) (v : W64) : (s.setReg off v).eth = s.eth := rfl
@[simp] theorem State.setReg_nvme (s : State) (off : Nat) (v : W64) : (s.setReg off v).nvme = s.nvme := rfl
@[simp] theorem State.setReg_ftl (s : State) (off : Nat) (v : W64) : (s.setReg off v).ftl = s.ftl := rfl
@[simp] theorem State.setReg_hu (s : State) (off : Nat) (v : W64) : (s.setReg off v).hu = s.hu := rfl
@[simp] theorem State.setReg_nand (s : State) (off : Nat) (v : W64) : (s.setReg off v).nand = s.nand := rfl
@[simp] theorem State.setReg_buf (s : State) (off : Nat) (v : W64) : (s.setReg off v).buf = s.buf := rfl
@[simp] theorem State.setReg_dma (s : State) (off : Nat) (v : W64) : (s.setReg off v).dma = s.dma := rfl
@[simp] theorem State.setReg_cph (s : State) (off : Nat) (v : W64) : (s.setReg off v).cph = s.cph := rfl
@[simp] theorem State.setReg_pst (s : State) (off : Nat) (v : W64) : (s.setReg off v).pst = s.pst := rfl
@[simp] theorem State.setReg_cfl (s : State) (off : Nat) (v : W64) : (s.setReg off v).cfl = s.cfl := rfl
@[simp] theorem State.setReg_evt (s : State) (off : Nat) (v : W64) : (s.setReg off v).evt = s.evt := rfl
@[simp] theorem State.setReg_time (s : State) (off : Nat) (v : W64) : (s.setReg off v).time = s.time := rfl
@[simp] theorem State.setReg_power (s : State) (off : Nat) (v : W64) : (s.setReg off v).power = s.power := rfl
@[simp] theorem State.setReg_sec (s : State) (off : Nat) (v : W64) : (s.setReg off v).sec = s.sec := rfl
@[simp] theorem State.setReg_free (s : State) (off : Nat) (v : W64) : (s.setReg off v).free = s.free := rfl
@[simp] theorem State.setReg_out (s : State) (off : Nat) (v : W64) : (s.setReg off v).out = s.out := rfl
@[simp] theorem State.setReg_pending (s : State) (off : Nat) (v : W64) : (s.setReg off v).pending = s.pending := rfl

/-! ### clearRegs -/

@[simp] theorem State.clearRegs_part (s : State) (p : Nat → Bool) : (s.clearRegs p).part = s.part := rfl
@[simp] theorem State.clearRegs_ur (s : State) (p : Nat → Bool) : (s.clearRegs p).ur = s.ur := rfl
@[simp] theorem State.clearRegs_cap (s : State) (p : Nat → Bool) : (s.clearRegs p).cap = s.cap := rfl
@[simp] theorem State.clearRegs_eth (s : State) (p : Nat → Bool) : (s.clearRegs p).eth = s.eth := rfl
@[simp] theorem State.clearRegs_nvme (s : State) (p : Nat → Bool) : (s.clearRegs p).nvme = s.nvme := rfl
@[simp] theorem State.clearRegs_ftl (s : State) (p : Nat → Bool) : (s.clearRegs p).ftl = s.ftl := rfl
@[simp] theorem State.clearRegs_hu (s : State) (p : Nat → Bool) : (s.clearRegs p).hu = s.hu := rfl
@[simp] theorem State.clearRegs_nand (s : State) (p : Nat → Bool) : (s.clearRegs p).nand = s.nand := rfl
@[simp] theorem State.clearRegs_buf (s : State) (p : Nat → Bool) : (s.clearRegs p).buf = s.buf := rfl
@[simp] theorem State.clearRegs_dma (s : State) (p : Nat → Bool) : (s.clearRegs p).dma = s.dma := rfl
@[simp] theorem State.clearRegs_cph (s : State) (p : Nat → Bool) : (s.clearRegs p).cph = s.cph := rfl
@[simp] theorem State.clearRegs_pst (s : State) (p : Nat → Bool) : (s.clearRegs p).pst = s.pst := rfl
@[simp] theorem State.clearRegs_cfl (s : State) (p : Nat → Bool) : (s.clearRegs p).cfl = s.cfl := rfl
@[simp] theorem State.clearRegs_evt (s : State) (p : Nat → Bool) : (s.clearRegs p).evt = s.evt := rfl
@[simp] theorem State.clearRegs_time (s : State) (p : Nat → Bool) : (s.clearRegs p).time = s.time := rfl
@[simp] theorem State.clearRegs_power (s : State) (p : Nat → Bool) : (s.clearRegs p).power = s.power := rfl
@[simp] theorem State.clearRegs_sec (s : State) (p : Nat → Bool) : (s.clearRegs p).sec = s.sec := rfl
@[simp] theorem State.clearRegs_free (s : State) (p : Nat → Bool) : (s.clearRegs p).free = s.free := rfl
@[simp] theorem State.clearRegs_out (s : State) (p : Nat → Bool) : (s.clearRegs p).out = s.out := rfl
@[simp] theorem State.clearRegs_pending (s : State) (p : Nat → Bool) : (s.clearRegs p).pending = s.pending := rfl

/-! ### draw -/

@[simp] theorem State.draw_part (s : State) : (s.draw).part = s.part := rfl
@[simp] theorem State.draw_regs (s : State) : (s.draw).regs = s.regs := rfl
@[simp] theorem State.draw_ur (s : State) : (s.draw).ur = s.ur := rfl
@[simp] theorem State.draw_cap (s : State) : (s.draw).cap = s.cap := rfl
@[simp] theorem State.draw_eth (s : State) : (s.draw).eth = s.eth := rfl
@[simp] theorem State.draw_nvme (s : State) : (s.draw).nvme = s.nvme := rfl
@[simp] theorem State.draw_ftl (s : State) : (s.draw).ftl = s.ftl := rfl
@[simp] theorem State.draw_hu (s : State) : (s.draw).hu = s.hu := rfl
@[simp] theorem State.draw_nand (s : State) : (s.draw).nand = s.nand := rfl
@[simp] theorem State.draw_buf (s : State) : (s.draw).buf = s.buf := rfl
@[simp] theorem State.draw_dma (s : State) : (s.draw).dma = s.dma := rfl
@[simp] theorem State.draw_cph (s : State) : (s.draw).cph = s.cph := rfl
@[simp] theorem State.draw_pst (s : State) : (s.draw).pst = s.pst := rfl
@[simp] theorem State.draw_cfl (s : State) : (s.draw).cfl = s.cfl := rfl
@[simp] theorem State.draw_evt (s : State) : (s.draw).evt = s.evt := rfl
@[simp] theorem State.draw_time (s : State) : (s.draw).time = s.time := rfl
@[simp] theorem State.draw_power (s : State) : (s.draw).power = s.power := rfl
@[simp] theorem State.draw_sec (s : State) : (s.draw).sec = s.sec := rfl
@[simp] theorem State.draw_out (s : State) : (s.draw).out = s.out := rfl
@[simp] theorem State.draw_pending (s : State) : (s.draw).pending = s.pending := rfl
@[simp] theorem State.draw_reg (s : State) (x : Nat) : (s.draw).reg x = s.reg x := rfl

/-! ### emit -/

@[simp] theorem State.emit_part (s : State) (o : Out) : (s.emit o).part = s.part := rfl
@[simp] theorem State.emit_regs (s : State) (o : Out) : (s.emit o).regs = s.regs := rfl
@[simp] theorem State.emit_ur (s : State) (o : Out) : (s.emit o).ur = s.ur := rfl
@[simp] theorem State.emit_cap (s : State) (o : Out) : (s.emit o).cap = s.cap := rfl
@[simp] theorem State.emit_eth (s : State) (o : Out) : (s.emit o).eth = s.eth := rfl
@[simp] theorem State.emit_nvme (s : State) (o : Out) : (s.emit o).nvme = s.nvme := rfl
@[simp] theorem State.emit_ftl (s : State) (o : Out) : (s.emit o).ftl = s.ftl := rfl
@[simp] theorem State.emit_hu (s : State) (o : Out) : (s.emit o).hu = s.hu := rfl
@[simp] theorem State.emit_nand (s : State) (o : Out) : (s.emit o).nand = s.nand := rfl
@[simp] theorem State.emit_buf (s : State) (o : Out) : (s.emit o).buf = s.buf := rfl
@[simp] theorem State.emit_dma (s : State) (o : Out) : (s.emit o).dma = s.dma := rfl
@[simp] theorem State.emit_cph (s : State) (o : Out) : (s.emit o).cph = s.cph := rfl
@[simp] theorem State.emit_pst (s : State) (o : Out) : (s.emit o).pst = s.pst := rfl
@[simp] theorem State.emit_cfl (s : State) (o : Out) : (s.emit o).cfl = s.cfl := rfl
@[simp] theorem State.emit_evt (s : State) (o : Out) : (s.emit o).evt = s.evt := rfl
@[simp] theorem State.emit_time (s : State) (o : Out) : (s.emit o).time = s.time := rfl
@[simp] theorem State.emit_power (s : State) (o : Out) : (s.emit o).power = s.power := rfl
@[simp] theorem State.emit_sec (s : State) (o : Out) : (s.emit o).sec = s.sec := rfl
@[simp] theorem State.emit_free (s : State) (o : Out) : (s.emit o).free = s.free := rfl
@[simp] theorem State.emit_pending (s : State) (o : Out) : (s.emit o).pending = s.pending := rfl
@[simp] theorem State.emit_reg (s : State) (o : Out) (x : Nat) : (s.emit o).reg x = s.reg x := rfl

/-! ### setFn -/

@[simp] theorem State.setFn_part (s : State) (f : Nat) (v : Fn) : (s.setFn f v).part = s.part := rfl
@[simp] theorem State.setFn_regs (s : State) (f : Nat) (v : Fn) : (s.setFn f v).regs = s.regs := rfl
@[simp] theorem State.setFn_ur (s : State) (f : Nat) (v : Fn) : (s.setFn f v).ur = s.ur := rfl
@[simp] theorem State.setFn_cap (s : State) (f : Nat) (v : Fn) : (s.setFn f v).cap = s.cap := rfl
@[simp] theorem State.setFn_eth (s : State) (f : Nat) (v : Fn) : (s.setFn f v).eth = s.eth := rfl
@[simp] theorem State.setFn_ftl (s : State) (f : Nat) (v : Fn) : (s.setFn f v).ftl = s.ftl := rfl
@[simp] theorem State.setFn_hu (s : State) (f : Nat) (v : Fn) : (s.setFn f v).hu = s.hu := rfl
@[simp] theorem State.setFn_nand (s : State) (f : Nat) (v : Fn) : (s.setFn f v).nand = s.nand := rfl
@[simp] theorem State.setFn_buf (s : State) (f : Nat) (v : Fn) : (s.setFn f v).buf = s.buf := rfl
@[simp] theorem State.setFn_dma (s : State) (f : Nat) (v : Fn) : (s.setFn f v).dma = s.dma := rfl
@[simp] theorem State.setFn_cph (s : State) (f : Nat) (v : Fn) : (s.setFn f v).cph = s.cph := rfl
@[simp] theorem State.setFn_pst (s : State) (f : Nat) (v : Fn) : (s.setFn f v).pst = s.pst := rfl
@[simp] theorem State.setFn_cfl (s : State) (f : Nat) (v : Fn) : (s.setFn f v).cfl = s.cfl := rfl
@[simp] theorem State.setFn_evt (s : State) (f : Nat) (v : Fn) : (s.setFn f v).evt = s.evt := rfl
@[simp] theorem State.setFn_time (s : State) (f : Nat) (v : Fn) : (s.setFn f v).time = s.time := rfl
@[simp] theorem State.setFn_power (s : State) (f : Nat) (v : Fn) : (s.setFn f v).power = s.power := rfl
@[simp] theorem State.setFn_sec (s : State) (f : Nat) (v : Fn) : (s.setFn f v).sec = s.sec := rfl
@[simp] theorem State.setFn_free (s : State) (f : Nat) (v : Fn) : (s.setFn f v).free = s.free := rfl
@[simp] theorem State.setFn_out (s : State) (f : Nat) (v : Fn) : (s.setFn f v).out = s.out := rfl
@[simp] theorem State.setFn_pending (s : State) (f : Nat) (v : Fn) : (s.setFn f v).pending = s.pending := rfl
@[simp] theorem State.setFn_reg (s : State) (f : Nat) (v : Fn) (x : Nat) : (s.setFn f v).reg x = s.reg x := rfl

/-! ### setLane -/

@[simp] theorem State.setLane_part (s : State) (l : Nat) (v : Lane) : (s.setLane l v).part = s.part := rfl
@[simp] theorem State.setLane_regs (s : State) (l : Nat) (v : Lane) : (s.setLane l v).regs = s.regs := rfl
@[simp] theorem State.setLane_ur (s : State) (l : Nat) (v : Lane) : (s.setLane l v).ur = s.ur := rfl
@[simp] theorem State.setLane_cap (s : State) (l : Nat) (v : Lane) : (s.setLane l v).cap = s.cap := rfl
@[simp] theorem State.setLane_eth (s : State) (l : Nat) (v : Lane) : (s.setLane l v).eth = s.eth := rfl
@[simp] theorem State.setLane_ftl (s : State) (l : Nat) (v : Lane) : (s.setLane l v).ftl = s.ftl := rfl
@[simp] theorem State.setLane_hu (s : State) (l : Nat) (v : Lane) : (s.setLane l v).hu = s.hu := rfl
@[simp] theorem State.setLane_nand (s : State) (l : Nat) (v : Lane) : (s.setLane l v).nand = s.nand := rfl
@[simp] theorem State.setLane_buf (s : State) (l : Nat) (v : Lane) : (s.setLane l v).buf = s.buf := rfl
@[simp] theorem State.setLane_dma (s : State) (l : Nat) (v : Lane) : (s.setLane l v).dma = s.dma := rfl
@[simp] theorem State.setLane_cph (s : State) (l : Nat) (v : Lane) : (s.setLane l v).cph = s.cph := rfl
@[simp] theorem State.setLane_pst (s : State) (l : Nat) (v : Lane) : (s.setLane l v).pst = s.pst := rfl
@[simp] theorem State.setLane_cfl (s : State) (l : Nat) (v : Lane) : (s.setLane l v).cfl = s.cfl := rfl
@[simp] theorem State.setLane_evt (s : State) (l : Nat) (v : Lane) : (s.setLane l v).evt = s.evt := rfl
@[simp] theorem State.setLane_time (s : State) (l : Nat) (v : Lane) : (s.setLane l v).time = s.time := rfl
@[simp] theorem State.setLane_power (s : State) (l : Nat) (v : Lane) : (s.setLane l v).power = s.power := rfl
@[simp] theorem State.setLane_sec (s : State) (l : Nat) (v : Lane) : (s.setLane l v).sec = s.sec := rfl
@[simp] theorem State.setLane_free (s : State) (l : Nat) (v : Lane) : (s.setLane l v).free = s.free := rfl
@[simp] theorem State.setLane_out (s : State) (l : Nat) (v : Lane) : (s.setLane l v).out = s.out := rfl
@[simp] theorem State.setLane_pending (s : State) (l : Nat) (v : Lane) : (s.setLane l v).pending = s.pending := rfl
@[simp] theorem State.setLane_reg (s : State) (l : Nat) (v : Lane) (x : Nat) : (s.setLane l v).reg x = s.reg x := rfl

/-! ### setNs -/

@[simp] theorem State.setNs_part (s : State) (n : Nat) (v : Option Ns) : (s.setNs n v).part = s.part := rfl
@[simp] theorem State.setNs_regs (s : State) (n : Nat) (v : Option Ns) : (s.setNs n v).regs = s.regs := rfl
@[simp] theorem State.setNs_ur (s : State) (n : Nat) (v : Option Ns) : (s.setNs n v).ur = s.ur := rfl
@[simp] theorem State.setNs_cap (s : State) (n : Nat) (v : Option Ns) : (s.setNs n v).cap = s.cap := rfl
@[simp] theorem State.setNs_eth (s : State) (n : Nat) (v : Option Ns) : (s.setNs n v).eth = s.eth := rfl
@[simp] theorem State.setNs_ftl (s : State) (n : Nat) (v : Option Ns) : (s.setNs n v).ftl = s.ftl := rfl
@[simp] theorem State.setNs_hu (s : State) (n : Nat) (v : Option Ns) : (s.setNs n v).hu = s.hu := rfl
@[simp] theorem State.setNs_nand (s : State) (n : Nat) (v : Option Ns) : (s.setNs n v).nand = s.nand := rfl
@[simp] theorem State.setNs_buf (s : State) (n : Nat) (v : Option Ns) : (s.setNs n v).buf = s.buf := rfl
@[simp] theorem State.setNs_dma (s : State) (n : Nat) (v : Option Ns) : (s.setNs n v).dma = s.dma := rfl
@[simp] theorem State.setNs_cph (s : State) (n : Nat) (v : Option Ns) : (s.setNs n v).cph = s.cph := rfl
@[simp] theorem State.setNs_pst (s : State) (n : Nat) (v : Option Ns) : (s.setNs n v).pst = s.pst := rfl
@[simp] theorem State.setNs_cfl (s : State) (n : Nat) (v : Option Ns) : (s.setNs n v).cfl = s.cfl := rfl
@[simp] theorem State.setNs_evt (s : State) (n : Nat) (v : Option Ns) : (s.setNs n v).evt = s.evt := rfl
@[simp] theorem State.setNs_time (s : State) (n : Nat) (v : Option Ns) : (s.setNs n v).time = s.time := rfl
@[simp] theorem State.setNs_power (s : State) (n : Nat) (v : Option Ns) : (s.setNs n v).power = s.power := rfl
@[simp] theorem State.setNs_sec (s : State) (n : Nat) (v : Option Ns) : (s.setNs n v).sec = s.sec := rfl
@[simp] theorem State.setNs_free (s : State) (n : Nat) (v : Option Ns) : (s.setNs n v).free = s.free := rfl
@[simp] theorem State.setNs_out (s : State) (n : Nat) (v : Option Ns) : (s.setNs n v).out = s.out := rfl
@[simp] theorem State.setNs_pending (s : State) (n : Nat) (v : Option Ns) : (s.setNs n v).pending = s.pending := rfl
@[simp] theorem State.setNs_reg (s : State) (n : Nat) (v : Option Ns) (x : Nat) : (s.setNs n v).reg x = s.reg x := rfl

/-! ### setBank -/

@[simp] theorem State.setBank_part (s : State) (b : Nat) (v : Bank) : (s.setBank b v).part = s.part := rfl
@[simp] theorem State.setBank_regs (s : State) (b : Nat) (v : Bank) : (s.setBank b v).regs = s.regs := rfl
@[simp] theorem State.setBank_ur (s : State) (b : Nat) (v : Bank) : (s.setBank b v).ur = s.ur := rfl
@[simp] theorem State.setBank_cap (s : State) (b : Nat) (v : Bank) : (s.setBank b v).cap = s.cap := rfl
@[simp] theorem State.setBank_eth (s : State) (b : Nat) (v : Bank) : (s.setBank b v).eth = s.eth := rfl
@[simp] theorem State.setBank_nvme (s : State) (b : Nat) (v : Bank) : (s.setBank b v).nvme = s.nvme := rfl
@[simp] theorem State.setBank_ftl (s : State) (b : Nat) (v : Bank) : (s.setBank b v).ftl = s.ftl := rfl
@[simp] theorem State.setBank_hu (s : State) (b : Nat) (v : Bank) : (s.setBank b v).hu = s.hu := rfl
@[simp] theorem State.setBank_nand (s : State) (b : Nat) (v : Bank) : (s.setBank b v).nand = s.nand := rfl
@[simp] theorem State.setBank_dma (s : State) (b : Nat) (v : Bank) : (s.setBank b v).dma = s.dma := rfl
@[simp] theorem State.setBank_cph (s : State) (b : Nat) (v : Bank) : (s.setBank b v).cph = s.cph := rfl
@[simp] theorem State.setBank_pst (s : State) (b : Nat) (v : Bank) : (s.setBank b v).pst = s.pst := rfl
@[simp] theorem State.setBank_cfl (s : State) (b : Nat) (v : Bank) : (s.setBank b v).cfl = s.cfl := rfl
@[simp] theorem State.setBank_evt (s : State) (b : Nat) (v : Bank) : (s.setBank b v).evt = s.evt := rfl
@[simp] theorem State.setBank_time (s : State) (b : Nat) (v : Bank) : (s.setBank b v).time = s.time := rfl
@[simp] theorem State.setBank_power (s : State) (b : Nat) (v : Bank) : (s.setBank b v).power = s.power := rfl
@[simp] theorem State.setBank_sec (s : State) (b : Nat) (v : Bank) : (s.setBank b v).sec = s.sec := rfl
@[simp] theorem State.setBank_free (s : State) (b : Nat) (v : Bank) : (s.setBank b v).free = s.free := rfl
@[simp] theorem State.setBank_out (s : State) (b : Nat) (v : Bank) : (s.setBank b v).out = s.out := rfl
@[simp] theorem State.setBank_pending (s : State) (b : Nat) (v : Bank) : (s.setBank b v).pending = s.pending := rfl
@[simp] theorem State.setBank_reg (s : State) (b : Nat) (v : Bank) (x : Nat) : (s.setBank b v).reg x = s.reg x := rfl

/-! ### setDma -/

@[simp] theorem State.setDma_part (s : State) (n : Nat) (v : DmaChan) : (s.setDma n v).part = s.part := rfl
@[simp] theorem State.setDma_regs (s : State) (n : Nat) (v : DmaChan) : (s.setDma n v).regs = s.regs := rfl
@[simp] theorem State.setDma_ur (s : State) (n : Nat) (v : DmaChan) : (s.setDma n v).ur = s.ur := rfl
@[simp] theorem State.setDma_cap (s : State) (n : Nat) (v : DmaChan) : (s.setDma n v).cap = s.cap := rfl
@[simp] theorem State.setDma_eth (s : State) (n : Nat) (v : DmaChan) : (s.setDma n v).eth = s.eth := rfl
@[simp] theorem State.setDma_nvme (s : State) (n : Nat) (v : DmaChan) : (s.setDma n v).nvme = s.nvme := rfl
@[simp] theorem State.setDma_ftl (s : State) (n : Nat) (v : DmaChan) : (s.setDma n v).ftl = s.ftl := rfl
@[simp] theorem State.setDma_hu (s : State) (n : Nat) (v : DmaChan) : (s.setDma n v).hu = s.hu := rfl
@[simp] theorem State.setDma_nand (s : State) (n : Nat) (v : DmaChan) : (s.setDma n v).nand = s.nand := rfl
@[simp] theorem State.setDma_buf (s : State) (n : Nat) (v : DmaChan) : (s.setDma n v).buf = s.buf := rfl
@[simp] theorem State.setDma_cph (s : State) (n : Nat) (v : DmaChan) : (s.setDma n v).cph = s.cph := rfl
@[simp] theorem State.setDma_pst (s : State) (n : Nat) (v : DmaChan) : (s.setDma n v).pst = s.pst := rfl
@[simp] theorem State.setDma_cfl (s : State) (n : Nat) (v : DmaChan) : (s.setDma n v).cfl = s.cfl := rfl
@[simp] theorem State.setDma_evt (s : State) (n : Nat) (v : DmaChan) : (s.setDma n v).evt = s.evt := rfl
@[simp] theorem State.setDma_time (s : State) (n : Nat) (v : DmaChan) : (s.setDma n v).time = s.time := rfl
@[simp] theorem State.setDma_power (s : State) (n : Nat) (v : DmaChan) : (s.setDma n v).power = s.power := rfl
@[simp] theorem State.setDma_sec (s : State) (n : Nat) (v : DmaChan) : (s.setDma n v).sec = s.sec := rfl
@[simp] theorem State.setDma_free (s : State) (n : Nat) (v : DmaChan) : (s.setDma n v).free = s.free := rfl
@[simp] theorem State.setDma_out (s : State) (n : Nat) (v : DmaChan) : (s.setDma n v).out = s.out := rfl
@[simp] theorem State.setDma_pending (s : State) (n : Nat) (v : DmaChan) : (s.setDma n v).pending = s.pending := rfl
@[simp] theorem State.setDma_reg (s : State) (n : Nat) (v : DmaChan) (x : Nat) : (s.setDma n v).reg x = s.reg x := rfl

/-! ### setFtl -/

@[simp] theorem State.setFtl_part (s : State) (v : Ftl) : (s.setFtl v).part = s.part := rfl
@[simp] theorem State.setFtl_regs (s : State) (v : Ftl) : (s.setFtl v).regs = s.regs := rfl
@[simp] theorem State.setFtl_ur (s : State) (v : Ftl) : (s.setFtl v).ur = s.ur := rfl
@[simp] theorem State.setFtl_cap (s : State) (v : Ftl) : (s.setFtl v).cap = s.cap := rfl
@[simp] theorem State.setFtl_eth (s : State) (v : Ftl) : (s.setFtl v).eth = s.eth := rfl
@[simp] theorem State.setFtl_nvme (s : State) (v : Ftl) : (s.setFtl v).nvme = s.nvme := rfl
@[simp] theorem State.setFtl_hu (s : State) (v : Ftl) : (s.setFtl v).hu = s.hu := rfl
@[simp] theorem State.setFtl_nand (s : State) (v : Ftl) : (s.setFtl v).nand = s.nand := rfl
@[simp] theorem State.setFtl_buf (s : State) (v : Ftl) : (s.setFtl v).buf = s.buf := rfl
@[simp] theorem State.setFtl_dma (s : State) (v : Ftl) : (s.setFtl v).dma = s.dma := rfl
@[simp] theorem State.setFtl_cph (s : State) (v : Ftl) : (s.setFtl v).cph = s.cph := rfl
@[simp] theorem State.setFtl_pst (s : State) (v : Ftl) : (s.setFtl v).pst = s.pst := rfl
@[simp] theorem State.setFtl_cfl (s : State) (v : Ftl) : (s.setFtl v).cfl = s.cfl := rfl
@[simp] theorem State.setFtl_evt (s : State) (v : Ftl) : (s.setFtl v).evt = s.evt := rfl
@[simp] theorem State.setFtl_time (s : State) (v : Ftl) : (s.setFtl v).time = s.time := rfl
@[simp] theorem State.setFtl_power (s : State) (v : Ftl) : (s.setFtl v).power = s.power := rfl
@[simp] theorem State.setFtl_sec (s : State) (v : Ftl) : (s.setFtl v).sec = s.sec := rfl
@[simp] theorem State.setFtl_free (s : State) (v : Ftl) : (s.setFtl v).free = s.free := rfl
@[simp] theorem State.setFtl_out (s : State) (v : Ftl) : (s.setFtl v).out = s.out := rfl
@[simp] theorem State.setFtl_pending (s : State) (v : Ftl) : (s.setFtl v).pending = s.pending := rfl
@[simp] theorem State.setFtl_reg (s : State) (v : Ftl) (x : Nat) : (s.setFtl v).reg x = s.reg x := rfl

/-! ### setHu -/

@[simp] theorem State.setHu_part (s : State) (v : HoldUp) : (s.setHu v).part = s.part := rfl
@[simp] theorem State.setHu_regs (s : State) (v : HoldUp) : (s.setHu v).regs = s.regs := rfl
@[simp] theorem State.setHu_ur (s : State) (v : HoldUp) : (s.setHu v).ur = s.ur := rfl
@[simp] theorem State.setHu_cap (s : State) (v : HoldUp) : (s.setHu v).cap = s.cap := rfl
@[simp] theorem State.setHu_eth (s : State) (v : HoldUp) : (s.setHu v).eth = s.eth := rfl
@[simp] theorem State.setHu_nvme (s : State) (v : HoldUp) : (s.setHu v).nvme = s.nvme := rfl
@[simp] theorem State.setHu_ftl (s : State) (v : HoldUp) : (s.setHu v).ftl = s.ftl := rfl
@[simp] theorem State.setHu_nand (s : State) (v : HoldUp) : (s.setHu v).nand = s.nand := rfl
@[simp] theorem State.setHu_buf (s : State) (v : HoldUp) : (s.setHu v).buf = s.buf := rfl
@[simp] theorem State.setHu_dma (s : State) (v : HoldUp) : (s.setHu v).dma = s.dma := rfl
@[simp] theorem State.setHu_cph (s : State) (v : HoldUp) : (s.setHu v).cph = s.cph := rfl
@[simp] theorem State.setHu_pst (s : State) (v : HoldUp) : (s.setHu v).pst = s.pst := rfl
@[simp] theorem State.setHu_cfl (s : State) (v : HoldUp) : (s.setHu v).cfl = s.cfl := rfl
@[simp] theorem State.setHu_evt (s : State) (v : HoldUp) : (s.setHu v).evt = s.evt := rfl
@[simp] theorem State.setHu_time (s : State) (v : HoldUp) : (s.setHu v).time = s.time := rfl
@[simp] theorem State.setHu_power (s : State) (v : HoldUp) : (s.setHu v).power = s.power := rfl
@[simp] theorem State.setHu_sec (s : State) (v : HoldUp) : (s.setHu v).sec = s.sec := rfl
@[simp] theorem State.setHu_free (s : State) (v : HoldUp) : (s.setHu v).free = s.free := rfl
@[simp] theorem State.setHu_out (s : State) (v : HoldUp) : (s.setHu v).out = s.out := rfl
@[simp] theorem State.setHu_pending (s : State) (v : HoldUp) : (s.setHu v).pending = s.pending := rfl
@[simp] theorem State.setHu_reg (s : State) (v : HoldUp) (x : Nat) : (s.setHu v).reg x = s.reg x := rfl

/-! ### setSec -/

@[simp] theorem State.setSec_part (s : State) (v : Sec) : (s.setSec v).part = s.part := rfl
@[simp] theorem State.setSec_regs (s : State) (v : Sec) : (s.setSec v).regs = s.regs := rfl
@[simp] theorem State.setSec_ur (s : State) (v : Sec) : (s.setSec v).ur = s.ur := rfl
@[simp] theorem State.setSec_cap (s : State) (v : Sec) : (s.setSec v).cap = s.cap := rfl
@[simp] theorem State.setSec_eth (s : State) (v : Sec) : (s.setSec v).eth = s.eth := rfl
@[simp] theorem State.setSec_nvme (s : State) (v : Sec) : (s.setSec v).nvme = s.nvme := rfl
@[simp] theorem State.setSec_ftl (s : State) (v : Sec) : (s.setSec v).ftl = s.ftl := rfl
@[simp] theorem State.setSec_hu (s : State) (v : Sec) : (s.setSec v).hu = s.hu := rfl
@[simp] theorem State.setSec_nand (s : State) (v : Sec) : (s.setSec v).nand = s.nand := rfl
@[simp] theorem State.setSec_buf (s : State) (v : Sec) : (s.setSec v).buf = s.buf := rfl
@[simp] theorem State.setSec_dma (s : State) (v : Sec) : (s.setSec v).dma = s.dma := rfl
@[simp] theorem State.setSec_cph (s : State) (v : Sec) : (s.setSec v).cph = s.cph := rfl
@[simp] theorem State.setSec_pst (s : State) (v : Sec) : (s.setSec v).pst = s.pst := rfl
@[simp] theorem State.setSec_cfl (s : State) (v : Sec) : (s.setSec v).cfl = s.cfl := rfl
@[simp] theorem State.setSec_evt (s : State) (v : Sec) : (s.setSec v).evt = s.evt := rfl
@[simp] theorem State.setSec_time (s : State) (v : Sec) : (s.setSec v).time = s.time := rfl
@[simp] theorem State.setSec_power (s : State) (v : Sec) : (s.setSec v).power = s.power := rfl
@[simp] theorem State.setSec_free (s : State) (v : Sec) : (s.setSec v).free = s.free := rfl
@[simp] theorem State.setSec_out (s : State) (v : Sec) : (s.setSec v).out = s.out := rfl
@[simp] theorem State.setSec_pending (s : State) (v : Sec) : (s.setSec v).pending = s.pending := rfl
@[simp] theorem State.setSec_reg (s : State) (v : Sec) (x : Nat) : (s.setSec v).reg x = s.reg x := rfl

/-! ### setPower -/

@[simp] theorem State.setPower_part (s : State) (v : Power) : (s.setPower v).part = s.part := rfl
@[simp] theorem State.setPower_regs (s : State) (v : Power) : (s.setPower v).regs = s.regs := rfl
@[simp] theorem State.setPower_ur (s : State) (v : Power) : (s.setPower v).ur = s.ur := rfl
@[simp] theorem State.setPower_cap (s : State) (v : Power) : (s.setPower v).cap = s.cap := rfl
@[simp] theorem State.setPower_eth (s : State) (v : Power) : (s.setPower v).eth = s.eth := rfl
@[simp] theorem State.setPower_nvme (s : State) (v : Power) : (s.setPower v).nvme = s.nvme := rfl
@[simp] theorem State.setPower_ftl (s : State) (v : Power) : (s.setPower v).ftl = s.ftl := rfl
@[simp] theorem State.setPower_hu (s : State) (v : Power) : (s.setPower v).hu = s.hu := rfl
@[simp] theorem State.setPower_nand (s : State) (v : Power) : (s.setPower v).nand = s.nand := rfl
@[simp] theorem State.setPower_buf (s : State) (v : Power) : (s.setPower v).buf = s.buf := rfl
@[simp] theorem State.setPower_dma (s : State) (v : Power) : (s.setPower v).dma = s.dma := rfl
@[simp] theorem State.setPower_cph (s : State) (v : Power) : (s.setPower v).cph = s.cph := rfl
@[simp] theorem State.setPower_pst (s : State) (v : Power) : (s.setPower v).pst = s.pst := rfl
@[simp] theorem State.setPower_cfl (s : State) (v : Power) : (s.setPower v).cfl = s.cfl := rfl
@[simp] theorem State.setPower_evt (s : State) (v : Power) : (s.setPower v).evt = s.evt := rfl
@[simp] theorem State.setPower_time (s : State) (v : Power) : (s.setPower v).time = s.time := rfl
@[simp] theorem State.setPower_sec (s : State) (v : Power) : (s.setPower v).sec = s.sec := rfl
@[simp] theorem State.setPower_free (s : State) (v : Power) : (s.setPower v).free = s.free := rfl
@[simp] theorem State.setPower_out (s : State) (v : Power) : (s.setPower v).out = s.out := rfl
@[simp] theorem State.setPower_pending (s : State) (v : Power) : (s.setPower v).pending = s.pending := rfl
@[simp] theorem State.setPower_reg (s : State) (v : Power) (x : Nat) : (s.setPower v).reg x = s.reg x := rfl

/-! ### setStr -/

@[simp] theorem State.setStr_part (s : State) (n : Nat) (v : Stream) : (s.setStr n v).part = s.part := rfl
@[simp] theorem State.setStr_regs (s : State) (n : Nat) (v : Stream) : (s.setStr n v).regs = s.regs := rfl
@[simp] theorem State.setStr_ur (s : State) (n : Nat) (v : Stream) : (s.setStr n v).ur = s.ur := rfl
@[simp] theorem State.setStr_eth (s : State) (n : Nat) (v : Stream) : (s.setStr n v).eth = s.eth := rfl
@[simp] theorem State.setStr_nvme (s : State) (n : Nat) (v : Stream) : (s.setStr n v).nvme = s.nvme := rfl
@[simp] theorem State.setStr_ftl (s : State) (n : Nat) (v : Stream) : (s.setStr n v).ftl = s.ftl := rfl
@[simp] theorem State.setStr_hu (s : State) (n : Nat) (v : Stream) : (s.setStr n v).hu = s.hu := rfl
@[simp] theorem State.setStr_nand (s : State) (n : Nat) (v : Stream) : (s.setStr n v).nand = s.nand := rfl
@[simp] theorem State.setStr_buf (s : State) (n : Nat) (v : Stream) : (s.setStr n v).buf = s.buf := rfl
@[simp] theorem State.setStr_dma (s : State) (n : Nat) (v : Stream) : (s.setStr n v).dma = s.dma := rfl
@[simp] theorem State.setStr_cph (s : State) (n : Nat) (v : Stream) : (s.setStr n v).cph = s.cph := rfl
@[simp] theorem State.setStr_pst (s : State) (n : Nat) (v : Stream) : (s.setStr n v).pst = s.pst := rfl
@[simp] theorem State.setStr_cfl (s : State) (n : Nat) (v : Stream) : (s.setStr n v).cfl = s.cfl := rfl
@[simp] theorem State.setStr_evt (s : State) (n : Nat) (v : Stream) : (s.setStr n v).evt = s.evt := rfl
@[simp] theorem State.setStr_time (s : State) (n : Nat) (v : Stream) : (s.setStr n v).time = s.time := rfl
@[simp] theorem State.setStr_power (s : State) (n : Nat) (v : Stream) : (s.setStr n v).power = s.power := rfl
@[simp] theorem State.setStr_sec (s : State) (n : Nat) (v : Stream) : (s.setStr n v).sec = s.sec := rfl
@[simp] theorem State.setStr_free (s : State) (n : Nat) (v : Stream) : (s.setStr n v).free = s.free := rfl
@[simp] theorem State.setStr_out (s : State) (n : Nat) (v : Stream) : (s.setStr n v).out = s.out := rfl
@[simp] theorem State.setStr_pending (s : State) (n : Nat) (v : Stream) : (s.setStr n v).pending = s.pending := rfl
@[simp] theorem State.setStr_reg (s : State) (n : Nat) (v : Stream) (x : Nat) : (s.setStr n v).reg x = s.reg x := rfl

/-! ### setSpan -/

@[simp] theorem State.setSpan_part (s : State) (k : Nat) (v : Option SpanX) : (s.setSpan k v).part = s.part := rfl
@[simp] theorem State.setSpan_regs (s : State) (k : Nat) (v : Option SpanX) : (s.setSpan k v).regs = s.regs := rfl
@[simp] theorem State.setSpan_ur (s : State) (k : Nat) (v : Option SpanX) : (s.setSpan k v).ur = s.ur := rfl
@[simp] theorem State.setSpan_eth (s : State) (k : Nat) (v : Option SpanX) : (s.setSpan k v).eth = s.eth := rfl
@[simp] theorem State.setSpan_nvme (s : State) (k : Nat) (v : Option SpanX) : (s.setSpan k v).nvme = s.nvme := rfl
@[simp] theorem State.setSpan_ftl (s : State) (k : Nat) (v : Option SpanX) : (s.setSpan k v).ftl = s.ftl := rfl
@[simp] theorem State.setSpan_hu (s : State) (k : Nat) (v : Option SpanX) : (s.setSpan k v).hu = s.hu := rfl
@[simp] theorem State.setSpan_nand (s : State) (k : Nat) (v : Option SpanX) : (s.setSpan k v).nand = s.nand := rfl
@[simp] theorem State.setSpan_buf (s : State) (k : Nat) (v : Option SpanX) : (s.setSpan k v).buf = s.buf := rfl
@[simp] theorem State.setSpan_dma (s : State) (k : Nat) (v : Option SpanX) : (s.setSpan k v).dma = s.dma := rfl
@[simp] theorem State.setSpan_cph (s : State) (k : Nat) (v : Option SpanX) : (s.setSpan k v).cph = s.cph := rfl
@[simp] theorem State.setSpan_pst (s : State) (k : Nat) (v : Option SpanX) : (s.setSpan k v).pst = s.pst := rfl
@[simp] theorem State.setSpan_cfl (s : State) (k : Nat) (v : Option SpanX) : (s.setSpan k v).cfl = s.cfl := rfl
@[simp] theorem State.setSpan_evt (s : State) (k : Nat) (v : Option SpanX) : (s.setSpan k v).evt = s.evt := rfl
@[simp] theorem State.setSpan_time (s : State) (k : Nat) (v : Option SpanX) : (s.setSpan k v).time = s.time := rfl
@[simp] theorem State.setSpan_power (s : State) (k : Nat) (v : Option SpanX) : (s.setSpan k v).power = s.power := rfl
@[simp] theorem State.setSpan_sec (s : State) (k : Nat) (v : Option SpanX) : (s.setSpan k v).sec = s.sec := rfl
@[simp] theorem State.setSpan_free (s : State) (k : Nat) (v : Option SpanX) : (s.setSpan k v).free = s.free := rfl
@[simp] theorem State.setSpan_out (s : State) (k : Nat) (v : Option SpanX) : (s.setSpan k v).out = s.out := rfl
@[simp] theorem State.setSpan_pending (s : State) (k : Nat) (v : Option SpanX) : (s.setSpan k v).pending = s.pending := rfl
@[simp] theorem State.setSpan_reg (s : State) (k : Nat) (v : Option SpanX) (x : Nat) : (s.setSpan k v).reg x = s.reg x := rfl

/-! ### setThread -/

@[simp] theorem State.setThread_part (s : State) (t : Nat) (v : Option Thread) : (s.setThread t v).part = s.part := rfl
@[simp] theorem State.setThread_regs (s : State) (t : Nat) (v : Option Thread) : (s.setThread t v).regs = s.regs := rfl
@[simp] theorem State.setThread_cap (s : State) (t : Nat) (v : Option Thread) : (s.setThread t v).cap = s.cap := rfl
@[simp] theorem State.setThread_eth (s : State) (t : Nat) (v : Option Thread) : (s.setThread t v).eth = s.eth := rfl
@[simp] theorem State.setThread_nvme (s : State) (t : Nat) (v : Option Thread) : (s.setThread t v).nvme = s.nvme := rfl
@[simp] theorem State.setThread_ftl (s : State) (t : Nat) (v : Option Thread) : (s.setThread t v).ftl = s.ftl := rfl
@[simp] theorem State.setThread_hu (s : State) (t : Nat) (v : Option Thread) : (s.setThread t v).hu = s.hu := rfl
@[simp] theorem State.setThread_nand (s : State) (t : Nat) (v : Option Thread) : (s.setThread t v).nand = s.nand := rfl
@[simp] theorem State.setThread_buf (s : State) (t : Nat) (v : Option Thread) : (s.setThread t v).buf = s.buf := rfl
@[simp] theorem State.setThread_dma (s : State) (t : Nat) (v : Option Thread) : (s.setThread t v).dma = s.dma := rfl
@[simp] theorem State.setThread_cph (s : State) (t : Nat) (v : Option Thread) : (s.setThread t v).cph = s.cph := rfl
@[simp] theorem State.setThread_pst (s : State) (t : Nat) (v : Option Thread) : (s.setThread t v).pst = s.pst := rfl
@[simp] theorem State.setThread_cfl (s : State) (t : Nat) (v : Option Thread) : (s.setThread t v).cfl = s.cfl := rfl
@[simp] theorem State.setThread_evt (s : State) (t : Nat) (v : Option Thread) : (s.setThread t v).evt = s.evt := rfl
@[simp] theorem State.setThread_time (s : State) (t : Nat) (v : Option Thread) : (s.setThread t v).time = s.time := rfl
@[simp] theorem State.setThread_power (s : State) (t : Nat) (v : Option Thread) : (s.setThread t v).power = s.power := rfl
@[simp] theorem State.setThread_sec (s : State) (t : Nat) (v : Option Thread) : (s.setThread t v).sec = s.sec := rfl
@[simp] theorem State.setThread_free (s : State) (t : Nat) (v : Option Thread) : (s.setThread t v).free = s.free := rfl
@[simp] theorem State.setThread_out (s : State) (t : Nat) (v : Option Thread) : (s.setThread t v).out = s.out := rfl
@[simp] theorem State.setThread_pending (s : State) (t : Nat) (v : Option Thread) : (s.setThread t v).pending = s.pending := rfl
@[simp] theorem State.setThread_reg (s : State) (t : Nat) (v : Option Thread) (x : Nat) : (s.setThread t v).reg x = s.reg x := rfl

/-! ### setRing -/

@[simp] theorem State.setRing_part (s : State) (p : Nat) (l : List Dgram) : (s.setRing p l).part = s.part := rfl
@[simp] theorem State.setRing_regs (s : State) (p : Nat) (l : List Dgram) : (s.setRing p l).regs = s.regs := rfl
@[simp] theorem State.setRing_cap (s : State) (p : Nat) (l : List Dgram) : (s.setRing p l).cap = s.cap := rfl
@[simp] theorem State.setRing_eth (s : State) (p : Nat) (l : List Dgram) : (s.setRing p l).eth = s.eth := rfl
@[simp] theorem State.setRing_nvme (s : State) (p : Nat) (l : List Dgram) : (s.setRing p l).nvme = s.nvme := rfl
@[simp] theorem State.setRing_ftl (s : State) (p : Nat) (l : List Dgram) : (s.setRing p l).ftl = s.ftl := rfl
@[simp] theorem State.setRing_hu (s : State) (p : Nat) (l : List Dgram) : (s.setRing p l).hu = s.hu := rfl
@[simp] theorem State.setRing_nand (s : State) (p : Nat) (l : List Dgram) : (s.setRing p l).nand = s.nand := rfl
@[simp] theorem State.setRing_buf (s : State) (p : Nat) (l : List Dgram) : (s.setRing p l).buf = s.buf := rfl
@[simp] theorem State.setRing_dma (s : State) (p : Nat) (l : List Dgram) : (s.setRing p l).dma = s.dma := rfl
@[simp] theorem State.setRing_cph (s : State) (p : Nat) (l : List Dgram) : (s.setRing p l).cph = s.cph := rfl
@[simp] theorem State.setRing_pst (s : State) (p : Nat) (l : List Dgram) : (s.setRing p l).pst = s.pst := rfl
@[simp] theorem State.setRing_cfl (s : State) (p : Nat) (l : List Dgram) : (s.setRing p l).cfl = s.cfl := rfl
@[simp] theorem State.setRing_evt (s : State) (p : Nat) (l : List Dgram) : (s.setRing p l).evt = s.evt := rfl
@[simp] theorem State.setRing_time (s : State) (p : Nat) (l : List Dgram) : (s.setRing p l).time = s.time := rfl
@[simp] theorem State.setRing_power (s : State) (p : Nat) (l : List Dgram) : (s.setRing p l).power = s.power := rfl
@[simp] theorem State.setRing_sec (s : State) (p : Nat) (l : List Dgram) : (s.setRing p l).sec = s.sec := rfl
@[simp] theorem State.setRing_free (s : State) (p : Nat) (l : List Dgram) : (s.setRing p l).free = s.free := rfl
@[simp] theorem State.setRing_out (s : State) (p : Nat) (l : List Dgram) : (s.setRing p l).out = s.out := rfl
@[simp] theorem State.setRing_pending (s : State) (p : Nat) (l : List Dgram) : (s.setRing p l).pending = s.pending := rfl
@[simp] theorem State.setRing_reg (s : State) (p : Nat) (l : List Dgram) (x : Nat) : (s.setRing p l).reg x = s.reg x := rfl

/-! ### setWaiting -/

@[simp] theorem State.setWaiting_part (s : State) (l : List Dgram) : (s.setWaiting l).part = s.part := rfl
@[simp] theorem State.setWaiting_regs (s : State) (l : List Dgram) : (s.setWaiting l).regs = s.regs := rfl
@[simp] theorem State.setWaiting_cap (s : State) (l : List Dgram) : (s.setWaiting l).cap = s.cap := rfl
@[simp] theorem State.setWaiting_eth (s : State) (l : List Dgram) : (s.setWaiting l).eth = s.eth := rfl
@[simp] theorem State.setWaiting_nvme (s : State) (l : List Dgram) : (s.setWaiting l).nvme = s.nvme := rfl
@[simp] theorem State.setWaiting_ftl (s : State) (l : List Dgram) : (s.setWaiting l).ftl = s.ftl := rfl
@[simp] theorem State.setWaiting_hu (s : State) (l : List Dgram) : (s.setWaiting l).hu = s.hu := rfl
@[simp] theorem State.setWaiting_nand (s : State) (l : List Dgram) : (s.setWaiting l).nand = s.nand := rfl
@[simp] theorem State.setWaiting_buf (s : State) (l : List Dgram) : (s.setWaiting l).buf = s.buf := rfl
@[simp] theorem State.setWaiting_dma (s : State) (l : List Dgram) : (s.setWaiting l).dma = s.dma := rfl
@[simp] theorem State.setWaiting_cph (s : State) (l : List Dgram) : (s.setWaiting l).cph = s.cph := rfl
@[simp] theorem State.setWaiting_pst (s : State) (l : List Dgram) : (s.setWaiting l).pst = s.pst := rfl
@[simp] theorem State.setWaiting_cfl (s : State) (l : List Dgram) : (s.setWaiting l).cfl = s.cfl := rfl
@[simp] theorem State.setWaiting_evt (s : State) (l : List Dgram) : (s.setWaiting l).evt = s.evt := rfl
@[simp] theorem State.setWaiting_time (s : State) (l : List Dgram) : (s.setWaiting l).time = s.time := rfl
@[simp] theorem State.setWaiting_power (s : State) (l : List Dgram) : (s.setWaiting l).power = s.power := rfl
@[simp] theorem State.setWaiting_sec (s : State) (l : List Dgram) : (s.setWaiting l).sec = s.sec := rfl
@[simp] theorem State.setWaiting_free (s : State) (l : List Dgram) : (s.setWaiting l).free = s.free := rfl
@[simp] theorem State.setWaiting_out (s : State) (l : List Dgram) : (s.setWaiting l).out = s.out := rfl
@[simp] theorem State.setWaiting_pending (s : State) (l : List Dgram) : (s.setWaiting l).pending = s.pending := rfl
@[simp] theorem State.setWaiting_reg (s : State) (l : List Dgram) (x : Nat) : (s.setWaiting l).reg x = s.reg x := rfl

/-! ### noteRecv -/

@[simp] theorem State.noteRecv_part (s : State) (n x : Nat) : (s.noteRecv n x).part = s.part := rfl
@[simp] theorem State.noteRecv_regs (s : State) (n x : Nat) : (s.noteRecv n x).regs = s.regs := rfl
@[simp] theorem State.noteRecv_cap (s : State) (n x : Nat) : (s.noteRecv n x).cap = s.cap := rfl
@[simp] theorem State.noteRecv_eth (s : State) (n x : Nat) : (s.noteRecv n x).eth = s.eth := rfl
@[simp] theorem State.noteRecv_nvme (s : State) (n x : Nat) : (s.noteRecv n x).nvme = s.nvme := rfl
@[simp] theorem State.noteRecv_ftl (s : State) (n x : Nat) : (s.noteRecv n x).ftl = s.ftl := rfl
@[simp] theorem State.noteRecv_hu (s : State) (n x : Nat) : (s.noteRecv n x).hu = s.hu := rfl
@[simp] theorem State.noteRecv_nand (s : State) (n x : Nat) : (s.noteRecv n x).nand = s.nand := rfl
@[simp] theorem State.noteRecv_buf (s : State) (n x : Nat) : (s.noteRecv n x).buf = s.buf := rfl
@[simp] theorem State.noteRecv_dma (s : State) (n x : Nat) : (s.noteRecv n x).dma = s.dma := rfl
@[simp] theorem State.noteRecv_cph (s : State) (n x : Nat) : (s.noteRecv n x).cph = s.cph := rfl
@[simp] theorem State.noteRecv_pst (s : State) (n x : Nat) : (s.noteRecv n x).pst = s.pst := rfl
@[simp] theorem State.noteRecv_cfl (s : State) (n x : Nat) : (s.noteRecv n x).cfl = s.cfl := rfl
@[simp] theorem State.noteRecv_evt (s : State) (n x : Nat) : (s.noteRecv n x).evt = s.evt := rfl
@[simp] theorem State.noteRecv_time (s : State) (n x : Nat) : (s.noteRecv n x).time = s.time := rfl
@[simp] theorem State.noteRecv_power (s : State) (n x : Nat) : (s.noteRecv n x).power = s.power := rfl
@[simp] theorem State.noteRecv_sec (s : State) (n x : Nat) : (s.noteRecv n x).sec = s.sec := rfl
@[simp] theorem State.noteRecv_free (s : State) (n x : Nat) : (s.noteRecv n x).free = s.free := rfl
@[simp] theorem State.noteRecv_out (s : State) (n x : Nat) : (s.noteRecv n x).out = s.out := rfl
@[simp] theorem State.noteRecv_pending (s : State) (n x : Nat) : (s.noteRecv n x).pending = s.pending := rfl
@[simp] theorem State.noteRecv_reg (s : State) (n x : Nat) (x : Nat) : (s.noteRecv n x).reg x = s.reg x := rfl

/-! ### setGap -/

@[simp] theorem State.setGap_part (s : State) (nsid x : Nat) (v : Option GapRec) : (s.setGap nsid x v).part = s.part := rfl
@[simp] theorem State.setGap_regs (s : State) (nsid x : Nat) (v : Option GapRec) : (s.setGap nsid x v).regs = s.regs := rfl
@[simp] theorem State.setGap_ur (s : State) (nsid x : Nat) (v : Option GapRec) : (s.setGap nsid x v).ur = s.ur := rfl
@[simp] theorem State.setGap_cap (s : State) (nsid x : Nat) (v : Option GapRec) : (s.setGap nsid x v).cap = s.cap := rfl
@[simp] theorem State.setGap_eth (s : State) (nsid x : Nat) (v : Option GapRec) : (s.setGap nsid x v).eth = s.eth := rfl
@[simp] theorem State.setGap_nvme (s : State) (nsid x : Nat) (v : Option GapRec) : (s.setGap nsid x v).nvme = s.nvme := rfl
@[simp] theorem State.setGap_hu (s : State) (nsid x : Nat) (v : Option GapRec) : (s.setGap nsid x v).hu = s.hu := rfl
@[simp] theorem State.setGap_nand (s : State) (nsid x : Nat) (v : Option GapRec) : (s.setGap nsid x v).nand = s.nand := rfl
@[simp] theorem State.setGap_buf (s : State) (nsid x : Nat) (v : Option GapRec) : (s.setGap nsid x v).buf = s.buf := rfl
@[simp] theorem State.setGap_dma (s : State) (nsid x : Nat) (v : Option GapRec) : (s.setGap nsid x v).dma = s.dma := rfl
@[simp] theorem State.setGap_cph (s : State) (nsid x : Nat) (v : Option GapRec) : (s.setGap nsid x v).cph = s.cph := rfl
@[simp] theorem State.setGap_pst (s : State) (nsid x : Nat) (v : Option GapRec) : (s.setGap nsid x v).pst = s.pst := rfl
@[simp] theorem State.setGap_cfl (s : State) (nsid x : Nat) (v : Option GapRec) : (s.setGap nsid x v).cfl = s.cfl := rfl
@[simp] theorem State.setGap_evt (s : State) (nsid x : Nat) (v : Option GapRec) : (s.setGap nsid x v).evt = s.evt := rfl
@[simp] theorem State.setGap_time (s : State) (nsid x : Nat) (v : Option GapRec) : (s.setGap nsid x v).time = s.time := rfl
@[simp] theorem State.setGap_power (s : State) (nsid x : Nat) (v : Option GapRec) : (s.setGap nsid x v).power = s.power := rfl
@[simp] theorem State.setGap_sec (s : State) (nsid x : Nat) (v : Option GapRec) : (s.setGap nsid x v).sec = s.sec := rfl
@[simp] theorem State.setGap_free (s : State) (nsid x : Nat) (v : Option GapRec) : (s.setGap nsid x v).free = s.free := rfl
@[simp] theorem State.setGap_out (s : State) (nsid x : Nat) (v : Option GapRec) : (s.setGap nsid x v).out = s.out := rfl
@[simp] theorem State.setGap_pending (s : State) (nsid x : Nat) (v : Option GapRec) : (s.setGap nsid x v).pending = s.pending := rfl
@[simp] theorem State.setGap_reg (s : State) (nsid x : Nat) (v : Option GapRec) (x : Nat) : (s.setGap nsid x v).reg x = s.reg x := rfl

/-! ### setClutch -/

@[simp] theorem State.setClutch_part (s : State) (loc : Nat) (v : Option Clutch) : (s.setClutch loc v).part = s.part := rfl
@[simp] theorem State.setClutch_regs (s : State) (loc : Nat) (v : Option Clutch) : (s.setClutch loc v).regs = s.regs := rfl
@[simp] theorem State.setClutch_ur (s : State) (loc : Nat) (v : Option Clutch) : (s.setClutch loc v).ur = s.ur := rfl
@[simp] theorem State.setClutch_cap (s : State) (loc : Nat) (v : Option Clutch) : (s.setClutch loc v).cap = s.cap := rfl
@[simp] theorem State.setClutch_eth (s : State) (loc : Nat) (v : Option Clutch) : (s.setClutch loc v).eth = s.eth := rfl
@[simp] theorem State.setClutch_nvme (s : State) (loc : Nat) (v : Option Clutch) : (s.setClutch loc v).nvme = s.nvme := rfl
@[simp] theorem State.setClutch_hu (s : State) (loc : Nat) (v : Option Clutch) : (s.setClutch loc v).hu = s.hu := rfl
@[simp] theorem State.setClutch_nand (s : State) (loc : Nat) (v : Option Clutch) : (s.setClutch loc v).nand = s.nand := rfl
@[simp] theorem State.setClutch_buf (s : State) (loc : Nat) (v : Option Clutch) : (s.setClutch loc v).buf = s.buf := rfl
@[simp] theorem State.setClutch_dma (s : State) (loc : Nat) (v : Option Clutch) : (s.setClutch loc v).dma = s.dma := rfl
@[simp] theorem State.setClutch_cph (s : State) (loc : Nat) (v : Option Clutch) : (s.setClutch loc v).cph = s.cph := rfl
@[simp] theorem State.setClutch_pst (s : State) (loc : Nat) (v : Option Clutch) : (s.setClutch loc v).pst = s.pst := rfl
@[simp] theorem State.setClutch_cfl (s : State) (loc : Nat) (v : Option Clutch) : (s.setClutch loc v).cfl = s.cfl := rfl
@[simp] theorem State.setClutch_evt (s : State) (loc : Nat) (v : Option Clutch) : (s.setClutch loc v).evt = s.evt := rfl
@[simp] theorem State.setClutch_time (s : State) (loc : Nat) (v : Option Clutch) : (s.setClutch loc v).time = s.time := rfl
@[simp] theorem State.setClutch_power (s : State) (loc : Nat) (v : Option Clutch) : (s.setClutch loc v).power = s.power := rfl
@[simp] theorem State.setClutch_sec (s : State) (loc : Nat) (v : Option Clutch) : (s.setClutch loc v).sec = s.sec := rfl
@[simp] theorem State.setClutch_free (s : State) (loc : Nat) (v : Option Clutch) : (s.setClutch loc v).free = s.free := rfl
@[simp] theorem State.setClutch_out (s : State) (loc : Nat) (v : Option Clutch) : (s.setClutch loc v).out = s.out := rfl
@[simp] theorem State.setClutch_pending (s : State) (loc : Nat) (v : Option Clutch) : (s.setClutch loc v).pending = s.pending := rfl
@[simp] theorem State.setClutch_reg (s : State) (loc : Nat) (v : Option Clutch) (x : Nat) : (s.setClutch loc v).reg x = s.reg x := rfl

/-! ### setUnit -/

@[simp] theorem State.setUnit_part (s : State) (key : Nat) (v : Option FUnit) : (s.setUnit key v).part = s.part := rfl
@[simp] theorem State.setUnit_regs (s : State) (key : Nat) (v : Option FUnit) : (s.setUnit key v).regs = s.regs := rfl
@[simp] theorem State.setUnit_ur (s : State) (key : Nat) (v : Option FUnit) : (s.setUnit key v).ur = s.ur := rfl
@[simp] theorem State.setUnit_cap (s : State) (key : Nat) (v : Option FUnit) : (s.setUnit key v).cap = s.cap := rfl
@[simp] theorem State.setUnit_eth (s : State) (key : Nat) (v : Option FUnit) : (s.setUnit key v).eth = s.eth := rfl
@[simp] theorem State.setUnit_nvme (s : State) (key : Nat) (v : Option FUnit) : (s.setUnit key v).nvme = s.nvme := rfl
@[simp] theorem State.setUnit_hu (s : State) (key : Nat) (v : Option FUnit) : (s.setUnit key v).hu = s.hu := rfl
@[simp] theorem State.setUnit_nand (s : State) (key : Nat) (v : Option FUnit) : (s.setUnit key v).nand = s.nand := rfl
@[simp] theorem State.setUnit_buf (s : State) (key : Nat) (v : Option FUnit) : (s.setUnit key v).buf = s.buf := rfl
@[simp] theorem State.setUnit_dma (s : State) (key : Nat) (v : Option FUnit) : (s.setUnit key v).dma = s.dma := rfl
@[simp] theorem State.setUnit_cph (s : State) (key : Nat) (v : Option FUnit) : (s.setUnit key v).cph = s.cph := rfl
@[simp] theorem State.setUnit_pst (s : State) (key : Nat) (v : Option FUnit) : (s.setUnit key v).pst = s.pst := rfl
@[simp] theorem State.setUnit_cfl (s : State) (key : Nat) (v : Option FUnit) : (s.setUnit key v).cfl = s.cfl := rfl
@[simp] theorem State.setUnit_evt (s : State) (key : Nat) (v : Option FUnit) : (s.setUnit key v).evt = s.evt := rfl
@[simp] theorem State.setUnit_time (s : State) (key : Nat) (v : Option FUnit) : (s.setUnit key v).time = s.time := rfl
@[simp] theorem State.setUnit_power (s : State) (key : Nat) (v : Option FUnit) : (s.setUnit key v).power = s.power := rfl
@[simp] theorem State.setUnit_sec (s : State) (key : Nat) (v : Option FUnit) : (s.setUnit key v).sec = s.sec := rfl
@[simp] theorem State.setUnit_free (s : State) (key : Nat) (v : Option FUnit) : (s.setUnit key v).free = s.free := rfl
@[simp] theorem State.setUnit_out (s : State) (key : Nat) (v : Option FUnit) : (s.setUnit key v).out = s.out := rfl
@[simp] theorem State.setUnit_pending (s : State) (key : Nat) (v : Option FUnit) : (s.setUnit key v).pending = s.pending := rfl
@[simp] theorem State.setUnit_reg (s : State) (key : Nat) (v : Option FUnit) (x : Nat) : (s.setUnit key v).reg x = s.reg x := rfl

/-! ### setGb -/

@[simp] theorem State.setGb_part (s : State) (k : Nat) (v : Gb) : (s.setGb k v).part = s.part := rfl
@[simp] theorem State.setGb_regs (s : State) (k : Nat) (v : Gb) : (s.setGb k v).regs = s.regs := rfl
@[simp] theorem State.setGb_ur (s : State) (k : Nat) (v : Gb) : (s.setGb k v).ur = s.ur := rfl
@[simp] theorem State.setGb_cap (s : State) (k : Nat) (v : Gb) : (s.setGb k v).cap = s.cap := rfl
@[simp] theorem State.setGb_eth (s : State) (k : Nat) (v : Gb) : (s.setGb k v).eth = s.eth := rfl
@[simp] theorem State.setGb_nvme (s : State) (k : Nat) (v : Gb) : (s.setGb k v).nvme = s.nvme := rfl
@[simp] theorem State.setGb_hu (s : State) (k : Nat) (v : Gb) : (s.setGb k v).hu = s.hu := rfl
@[simp] theorem State.setGb_nand (s : State) (k : Nat) (v : Gb) : (s.setGb k v).nand = s.nand := rfl
@[simp] theorem State.setGb_buf (s : State) (k : Nat) (v : Gb) : (s.setGb k v).buf = s.buf := rfl
@[simp] theorem State.setGb_dma (s : State) (k : Nat) (v : Gb) : (s.setGb k v).dma = s.dma := rfl
@[simp] theorem State.setGb_cph (s : State) (k : Nat) (v : Gb) : (s.setGb k v).cph = s.cph := rfl
@[simp] theorem State.setGb_pst (s : State) (k : Nat) (v : Gb) : (s.setGb k v).pst = s.pst := rfl
@[simp] theorem State.setGb_cfl (s : State) (k : Nat) (v : Gb) : (s.setGb k v).cfl = s.cfl := rfl
@[simp] theorem State.setGb_evt (s : State) (k : Nat) (v : Gb) : (s.setGb k v).evt = s.evt := rfl
@[simp] theorem State.setGb_time (s : State) (k : Nat) (v : Gb) : (s.setGb k v).time = s.time := rfl
@[simp] theorem State.setGb_power (s : State) (k : Nat) (v : Gb) : (s.setGb k v).power = s.power := rfl
@[simp] theorem State.setGb_sec (s : State) (k : Nat) (v : Gb) : (s.setGb k v).sec = s.sec := rfl
@[simp] theorem State.setGb_free (s : State) (k : Nat) (v : Gb) : (s.setGb k v).free = s.free := rfl
@[simp] theorem State.setGb_out (s : State) (k : Nat) (v : Gb) : (s.setGb k v).out = s.out := rfl
@[simp] theorem State.setGb_pending (s : State) (k : Nat) (v : Gb) : (s.setGb k v).pending = s.pending := rfl
@[simp] theorem State.setGb_reg (s : State) (k : Nat) (v : Gb) (x : Nat) : (s.setGb k v).reg x = s.reg x := rfl

/-! ### setGen -/

@[simp] theorem State.setGen_part (s : State) (nsid lba u : Nat) : (s.setGen nsid lba u).part = s.part := rfl
@[simp] theorem State.setGen_regs (s : State) (nsid lba u : Nat) : (s.setGen nsid lba u).regs = s.regs := rfl
@[simp] theorem State.setGen_ur (s : State) (nsid lba u : Nat) : (s.setGen nsid lba u).ur = s.ur := rfl
@[simp] theorem State.setGen_cap (s : State) (nsid lba u : Nat) : (s.setGen nsid lba u).cap = s.cap := rfl
@[simp] theorem State.setGen_eth (s : State) (nsid lba u : Nat) : (s.setGen nsid lba u).eth = s.eth := rfl
@[simp] theorem State.setGen_nvme (s : State) (nsid lba u : Nat) : (s.setGen nsid lba u).nvme = s.nvme := rfl
@[simp] theorem State.setGen_hu (s : State) (nsid lba u : Nat) : (s.setGen nsid lba u).hu = s.hu := rfl
@[simp] theorem State.setGen_nand (s : State) (nsid lba u : Nat) : (s.setGen nsid lba u).nand = s.nand := rfl
@[simp] theorem State.setGen_buf (s : State) (nsid lba u : Nat) : (s.setGen nsid lba u).buf = s.buf := rfl
@[simp] theorem State.setGen_dma (s : State) (nsid lba u : Nat) : (s.setGen nsid lba u).dma = s.dma := rfl
@[simp] theorem State.setGen_cph (s : State) (nsid lba u : Nat) : (s.setGen nsid lba u).cph = s.cph := rfl
@[simp] theorem State.setGen_pst (s : State) (nsid lba u : Nat) : (s.setGen nsid lba u).pst = s.pst := rfl
@[simp] theorem State.setGen_cfl (s : State) (nsid lba u : Nat) : (s.setGen nsid lba u).cfl = s.cfl := rfl
@[simp] theorem State.setGen_evt (s : State) (nsid lba u : Nat) : (s.setGen nsid lba u).evt = s.evt := rfl
@[simp] theorem State.setGen_time (s : State) (nsid lba u : Nat) : (s.setGen nsid lba u).time = s.time := rfl
@[simp] theorem State.setGen_power (s : State) (nsid lba u : Nat) : (s.setGen nsid lba u).power = s.power := rfl
@[simp] theorem State.setGen_sec (s : State) (nsid lba u : Nat) : (s.setGen nsid lba u).sec = s.sec := rfl
@[simp] theorem State.setGen_free (s : State) (nsid lba u : Nat) : (s.setGen nsid lba u).free = s.free := rfl
@[simp] theorem State.setGen_out (s : State) (nsid lba u : Nat) : (s.setGen nsid lba u).out = s.out := rfl
@[simp] theorem State.setGen_pending (s : State) (nsid lba u : Nat) : (s.setGen nsid lba u).pending = s.pending := rfl
@[simp] theorem State.setGen_reg (s : State) (nsid lba u : Nat) (x : Nat) : (s.setGen nsid lba u).reg x = s.reg x := rfl

/-! ### setMedia -/

@[simp] theorem State.setMedia_part (s : State) (k : Nat) (v : Media) : (s.setMedia k v).part = s.part := rfl
@[simp] theorem State.setMedia_regs (s : State) (k : Nat) (v : Media) : (s.setMedia k v).regs = s.regs := rfl
@[simp] theorem State.setMedia_ur (s : State) (k : Nat) (v : Media) : (s.setMedia k v).ur = s.ur := rfl
@[simp] theorem State.setMedia_cap (s : State) (k : Nat) (v : Media) : (s.setMedia k v).cap = s.cap := rfl
@[simp] theorem State.setMedia_eth (s : State) (k : Nat) (v : Media) : (s.setMedia k v).eth = s.eth := rfl
@[simp] theorem State.setMedia_nvme (s : State) (k : Nat) (v : Media) : (s.setMedia k v).nvme = s.nvme := rfl
@[simp] theorem State.setMedia_hu (s : State) (k : Nat) (v : Media) : (s.setMedia k v).hu = s.hu := rfl
@[simp] theorem State.setMedia_nand (s : State) (k : Nat) (v : Media) : (s.setMedia k v).nand = s.nand := rfl
@[simp] theorem State.setMedia_buf (s : State) (k : Nat) (v : Media) : (s.setMedia k v).buf = s.buf := rfl
@[simp] theorem State.setMedia_dma (s : State) (k : Nat) (v : Media) : (s.setMedia k v).dma = s.dma := rfl
@[simp] theorem State.setMedia_cph (s : State) (k : Nat) (v : Media) : (s.setMedia k v).cph = s.cph := rfl
@[simp] theorem State.setMedia_pst (s : State) (k : Nat) (v : Media) : (s.setMedia k v).pst = s.pst := rfl
@[simp] theorem State.setMedia_cfl (s : State) (k : Nat) (v : Media) : (s.setMedia k v).cfl = s.cfl := rfl
@[simp] theorem State.setMedia_evt (s : State) (k : Nat) (v : Media) : (s.setMedia k v).evt = s.evt := rfl
@[simp] theorem State.setMedia_time (s : State) (k : Nat) (v : Media) : (s.setMedia k v).time = s.time := rfl
@[simp] theorem State.setMedia_power (s : State) (k : Nat) (v : Media) : (s.setMedia k v).power = s.power := rfl
@[simp] theorem State.setMedia_sec (s : State) (k : Nat) (v : Media) : (s.setMedia k v).sec = s.sec := rfl
@[simp] theorem State.setMedia_free (s : State) (k : Nat) (v : Media) : (s.setMedia k v).free = s.free := rfl
@[simp] theorem State.setMedia_out (s : State) (k : Nat) (v : Media) : (s.setMedia k v).out = s.out := rfl
@[simp] theorem State.setMedia_pending (s : State) (k : Nat) (v : Media) : (s.setMedia k v).pending = s.pending := rfl
@[simp] theorem State.setMedia_reg (s : State) (k : Nat) (v : Media) (x : Nat) : (s.setMedia k v).reg x = s.reg x := rfl

/-! ### setGc -/

@[simp] theorem State.setGc_part (s : State) (g : Nat) (v : Option Gc) : (s.setGc g v).part = s.part := rfl
@[simp] theorem State.setGc_regs (s : State) (g : Nat) (v : Option Gc) : (s.setGc g v).regs = s.regs := rfl
@[simp] theorem State.setGc_ur (s : State) (g : Nat) (v : Option Gc) : (s.setGc g v).ur = s.ur := rfl
@[simp] theorem State.setGc_cap (s : State) (g : Nat) (v : Option Gc) : (s.setGc g v).cap = s.cap := rfl
@[simp] theorem State.setGc_eth (s : State) (g : Nat) (v : Option Gc) : (s.setGc g v).eth = s.eth := rfl
@[simp] theorem State.setGc_nvme (s : State) (g : Nat) (v : Option Gc) : (s.setGc g v).nvme = s.nvme := rfl
@[simp] theorem State.setGc_hu (s : State) (g : Nat) (v : Option Gc) : (s.setGc g v).hu = s.hu := rfl
@[simp] theorem State.setGc_nand (s : State) (g : Nat) (v : Option Gc) : (s.setGc g v).nand = s.nand := rfl
@[simp] theorem State.setGc_buf (s : State) (g : Nat) (v : Option Gc) : (s.setGc g v).buf = s.buf := rfl
@[simp] theorem State.setGc_dma (s : State) (g : Nat) (v : Option Gc) : (s.setGc g v).dma = s.dma := rfl
@[simp] theorem State.setGc_cph (s : State) (g : Nat) (v : Option Gc) : (s.setGc g v).cph = s.cph := rfl
@[simp] theorem State.setGc_pst (s : State) (g : Nat) (v : Option Gc) : (s.setGc g v).pst = s.pst := rfl
@[simp] theorem State.setGc_cfl (s : State) (g : Nat) (v : Option Gc) : (s.setGc g v).cfl = s.cfl := rfl
@[simp] theorem State.setGc_evt (s : State) (g : Nat) (v : Option Gc) : (s.setGc g v).evt = s.evt := rfl
@[simp] theorem State.setGc_time (s : State) (g : Nat) (v : Option Gc) : (s.setGc g v).time = s.time := rfl
@[simp] theorem State.setGc_power (s : State) (g : Nat) (v : Option Gc) : (s.setGc g v).power = s.power := rfl
@[simp] theorem State.setGc_sec (s : State) (g : Nat) (v : Option Gc) : (s.setGc g v).sec = s.sec := rfl
@[simp] theorem State.setGc_free (s : State) (g : Nat) (v : Option Gc) : (s.setGc g v).free = s.free := rfl
@[simp] theorem State.setGc_out (s : State) (g : Nat) (v : Option Gc) : (s.setGc g v).out = s.out := rfl
@[simp] theorem State.setGc_pending (s : State) (g : Nat) (v : Option Gc) : (s.setGc g v).pending = s.pending := rfl
@[simp] theorem State.setGc_reg (s : State) (g : Nat) (v : Option Gc) (x : Nat) : (s.setGc g v).reg x = s.reg x := rfl

/-! ### setSlot -/

@[simp] theorem State.setSlot_part (s : State) (n : Nat) (v : Slot) : (s.setSlot n v).part = s.part := rfl
@[simp] theorem State.setSlot_regs (s : State) (n : Nat) (v : Slot) : (s.setSlot n v).regs = s.regs := rfl
@[simp] theorem State.setSlot_ur (s : State) (n : Nat) (v : Slot) : (s.setSlot n v).ur = s.ur := rfl
@[simp] theorem State.setSlot_cap (s : State) (n : Nat) (v : Slot) : (s.setSlot n v).cap = s.cap := rfl
@[simp] theorem State.setSlot_eth (s : State) (n : Nat) (v : Slot) : (s.setSlot n v).eth = s.eth := rfl
@[simp] theorem State.setSlot_nvme (s : State) (n : Nat) (v : Slot) : (s.setSlot n v).nvme = s.nvme := rfl
@[simp] theorem State.setSlot_ftl (s : State) (n : Nat) (v : Slot) : (s.setSlot n v).ftl = s.ftl := rfl
@[simp] theorem State.setSlot_hu (s : State) (n : Nat) (v : Slot) : (s.setSlot n v).hu = s.hu := rfl
@[simp] theorem State.setSlot_nand (s : State) (n : Nat) (v : Slot) : (s.setSlot n v).nand = s.nand := rfl
@[simp] theorem State.setSlot_buf (s : State) (n : Nat) (v : Slot) : (s.setSlot n v).buf = s.buf := rfl
@[simp] theorem State.setSlot_dma (s : State) (n : Nat) (v : Slot) : (s.setSlot n v).dma = s.dma := rfl
@[simp] theorem State.setSlot_cph (s : State) (n : Nat) (v : Slot) : (s.setSlot n v).cph = s.cph := rfl
@[simp] theorem State.setSlot_pst (s : State) (n : Nat) (v : Slot) : (s.setSlot n v).pst = s.pst := rfl
@[simp] theorem State.setSlot_cfl (s : State) (n : Nat) (v : Slot) : (s.setSlot n v).cfl = s.cfl := rfl
@[simp] theorem State.setSlot_evt (s : State) (n : Nat) (v : Slot) : (s.setSlot n v).evt = s.evt := rfl
@[simp] theorem State.setSlot_time (s : State) (n : Nat) (v : Slot) : (s.setSlot n v).time = s.time := rfl
@[simp] theorem State.setSlot_power (s : State) (n : Nat) (v : Slot) : (s.setSlot n v).power = s.power := rfl
@[simp] theorem State.setSlot_free (s : State) (n : Nat) (v : Slot) : (s.setSlot n v).free = s.free := rfl
@[simp] theorem State.setSlot_out (s : State) (n : Nat) (v : Slot) : (s.setSlot n v).out = s.out := rfl
@[simp] theorem State.setSlot_pending (s : State) (n : Nat) (v : Slot) : (s.setSlot n v).pending = s.pending := rfl
@[simp] theorem State.setSlot_reg (s : State) (n : Nat) (v : Slot) (x : Nat) : (s.setSlot n v).reg x = s.reg x := rfl

/-! ### setSq -/

@[simp] theorem State.setSq_part (s : State) (f qid : Nat) (v : Option Sq) : (s.setSq f qid v).part = s.part := rfl
@[simp] theorem State.setSq_regs (s : State) (f qid : Nat) (v : Option Sq) : (s.setSq f qid v).regs = s.regs := rfl
@[simp] theorem State.setSq_ur (s : State) (f qid : Nat) (v : Option Sq) : (s.setSq f qid v).ur = s.ur := rfl
@[simp] theorem State.setSq_cap (s : State) (f qid : Nat) (v : Option Sq) : (s.setSq f qid v).cap = s.cap := rfl
@[simp] theorem State.setSq_eth (s : State) (f qid : Nat) (v : Option Sq) : (s.setSq f qid v).eth = s.eth := rfl
@[simp] theorem State.setSq_ftl (s : State) (f qid : Nat) (v : Option Sq) : (s.setSq f qid v).ftl = s.ftl := rfl
@[simp] theorem State.setSq_hu (s : State) (f qid : Nat) (v : Option Sq) : (s.setSq f qid v).hu = s.hu := rfl
@[simp] theorem State.setSq_nand (s : State) (f qid : Nat) (v : Option Sq) : (s.setSq f qid v).nand = s.nand := rfl
@[simp] theorem State.setSq_buf (s : State) (f qid : Nat) (v : Option Sq) : (s.setSq f qid v).buf = s.buf := rfl
@[simp] theorem State.setSq_dma (s : State) (f qid : Nat) (v : Option Sq) : (s.setSq f qid v).dma = s.dma := rfl
@[simp] theorem State.setSq_cph (s : State) (f qid : Nat) (v : Option Sq) : (s.setSq f qid v).cph = s.cph := rfl
@[simp] theorem State.setSq_pst (s : State) (f qid : Nat) (v : Option Sq) : (s.setSq f qid v).pst = s.pst := rfl
@[simp] theorem State.setSq_cfl (s : State) (f qid : Nat) (v : Option Sq) : (s.setSq f qid v).cfl = s.cfl := rfl
@[simp] theorem State.setSq_evt (s : State) (f qid : Nat) (v : Option Sq) : (s.setSq f qid v).evt = s.evt := rfl
@[simp] theorem State.setSq_time (s : State) (f qid : Nat) (v : Option Sq) : (s.setSq f qid v).time = s.time := rfl
@[simp] theorem State.setSq_power (s : State) (f qid : Nat) (v : Option Sq) : (s.setSq f qid v).power = s.power := rfl
@[simp] theorem State.setSq_sec (s : State) (f qid : Nat) (v : Option Sq) : (s.setSq f qid v).sec = s.sec := rfl
@[simp] theorem State.setSq_free (s : State) (f qid : Nat) (v : Option Sq) : (s.setSq f qid v).free = s.free := rfl
@[simp] theorem State.setSq_out (s : State) (f qid : Nat) (v : Option Sq) : (s.setSq f qid v).out = s.out := rfl
@[simp] theorem State.setSq_pending (s : State) (f qid : Nat) (v : Option Sq) : (s.setSq f qid v).pending = s.pending := rfl
@[simp] theorem State.setSq_reg (s : State) (f qid : Nat) (v : Option Sq) (x : Nat) : (s.setSq f qid v).reg x = s.reg x := rfl

/-! ### setDrains -/

@[simp] theorem State.setDrains_part (s : State) (l : List Drain) : (s.setDrains l).part = s.part := rfl
@[simp] theorem State.setDrains_regs (s : State) (l : List Drain) : (s.setDrains l).regs = s.regs := rfl
@[simp] theorem State.setDrains_ur (s : State) (l : List Drain) : (s.setDrains l).ur = s.ur := rfl
@[simp] theorem State.setDrains_eth (s : State) (l : List Drain) : (s.setDrains l).eth = s.eth := rfl
@[simp] theorem State.setDrains_nvme (s : State) (l : List Drain) : (s.setDrains l).nvme = s.nvme := rfl
@[simp] theorem State.setDrains_ftl (s : State) (l : List Drain) : (s.setDrains l).ftl = s.ftl := rfl
@[simp] theorem State.setDrains_hu (s : State) (l : List Drain) : (s.setDrains l).hu = s.hu := rfl
@[simp] theorem State.setDrains_nand (s : State) (l : List Drain) : (s.setDrains l).nand = s.nand := rfl
@[simp] theorem State.setDrains_buf (s : State) (l : List Drain) : (s.setDrains l).buf = s.buf := rfl
@[simp] theorem State.setDrains_dma (s : State) (l : List Drain) : (s.setDrains l).dma = s.dma := rfl
@[simp] theorem State.setDrains_cph (s : State) (l : List Drain) : (s.setDrains l).cph = s.cph := rfl
@[simp] theorem State.setDrains_pst (s : State) (l : List Drain) : (s.setDrains l).pst = s.pst := rfl
@[simp] theorem State.setDrains_cfl (s : State) (l : List Drain) : (s.setDrains l).cfl = s.cfl := rfl
@[simp] theorem State.setDrains_evt (s : State) (l : List Drain) : (s.setDrains l).evt = s.evt := rfl
@[simp] theorem State.setDrains_time (s : State) (l : List Drain) : (s.setDrains l).time = s.time := rfl
@[simp] theorem State.setDrains_power (s : State) (l : List Drain) : (s.setDrains l).power = s.power := rfl
@[simp] theorem State.setDrains_sec (s : State) (l : List Drain) : (s.setDrains l).sec = s.sec := rfl
@[simp] theorem State.setDrains_free (s : State) (l : List Drain) : (s.setDrains l).free = s.free := rfl
@[simp] theorem State.setDrains_out (s : State) (l : List Drain) : (s.setDrains l).out = s.out := rfl
@[simp] theorem State.setDrains_pending (s : State) (l : List Drain) : (s.setDrains l).pending = s.pending := rfl
@[simp] theorem State.setDrains_reg (s : State) (l : List Drain) (x : Nat) : (s.setDrains l).reg x = s.reg x := rfl

/-! ### takeHold -/

@[simp] theorem State.takeHold_part (s : State) (b n : Nat) : (s.takeHold b n).part = s.part := rfl
@[simp] theorem State.takeHold_regs (s : State) (b n : Nat) : (s.takeHold b n).regs = s.regs := rfl
@[simp] theorem State.takeHold_ur (s : State) (b n : Nat) : (s.takeHold b n).ur = s.ur := rfl
@[simp] theorem State.takeHold_cap (s : State) (b n : Nat) : (s.takeHold b n).cap = s.cap := rfl
@[simp] theorem State.takeHold_nvme (s : State) (b n : Nat) : (s.takeHold b n).nvme = s.nvme := rfl
@[simp] theorem State.takeHold_ftl (s : State) (b n : Nat) : (s.takeHold b n).ftl = s.ftl := rfl
@[simp] theorem State.takeHold_hu (s : State) (b n : Nat) : (s.takeHold b n).hu = s.hu := rfl
@[simp] theorem State.takeHold_nand (s : State) (b n : Nat) : (s.takeHold b n).nand = s.nand := rfl
@[simp] theorem State.takeHold_buf (s : State) (b n : Nat) : (s.takeHold b n).buf = s.buf := rfl
@[simp] theorem State.takeHold_dma (s : State) (b n : Nat) : (s.takeHold b n).dma = s.dma := rfl
@[simp] theorem State.takeHold_cph (s : State) (b n : Nat) : (s.takeHold b n).cph = s.cph := rfl
@[simp] theorem State.takeHold_pst (s : State) (b n : Nat) : (s.takeHold b n).pst = s.pst := rfl
@[simp] theorem State.takeHold_cfl (s : State) (b n : Nat) : (s.takeHold b n).cfl = s.cfl := rfl
@[simp] theorem State.takeHold_evt (s : State) (b n : Nat) : (s.takeHold b n).evt = s.evt := rfl
@[simp] theorem State.takeHold_time (s : State) (b n : Nat) : (s.takeHold b n).time = s.time := rfl
@[simp] theorem State.takeHold_power (s : State) (b n : Nat) : (s.takeHold b n).power = s.power := rfl
@[simp] theorem State.takeHold_sec (s : State) (b n : Nat) : (s.takeHold b n).sec = s.sec := rfl
@[simp] theorem State.takeHold_free (s : State) (b n : Nat) : (s.takeHold b n).free = s.free := rfl
@[simp] theorem State.takeHold_out (s : State) (b n : Nat) : (s.takeHold b n).out = s.out := rfl
@[simp] theorem State.takeHold_pending (s : State) (b n : Nat) : (s.takeHold b n).pending = s.pending := rfl
@[simp] theorem State.takeHold_reg (s : State) (b n : Nat) (x : Nat) : (s.takeHold b n).reg x = s.reg x := rfl

/-! ### freeHold -/

@[simp] theorem State.freeHold_part (s : State) (b n : Nat) : (s.freeHold b n).part = s.part := rfl
@[simp] theorem State.freeHold_regs (s : State) (b n : Nat) : (s.freeHold b n).regs = s.regs := rfl
@[simp] theorem State.freeHold_ur (s : State) (b n : Nat) : (s.freeHold b n).ur = s.ur := rfl
@[simp] theorem State.freeHold_cap (s : State) (b n : Nat) : (s.freeHold b n).cap = s.cap := rfl
@[simp] theorem State.freeHold_nvme (s : State) (b n : Nat) : (s.freeHold b n).nvme = s.nvme := rfl
@[simp] theorem State.freeHold_ftl (s : State) (b n : Nat) : (s.freeHold b n).ftl = s.ftl := rfl
@[simp] theorem State.freeHold_hu (s : State) (b n : Nat) : (s.freeHold b n).hu = s.hu := rfl
@[simp] theorem State.freeHold_nand (s : State) (b n : Nat) : (s.freeHold b n).nand = s.nand := rfl
@[simp] theorem State.freeHold_buf (s : State) (b n : Nat) : (s.freeHold b n).buf = s.buf := rfl
@[simp] theorem State.freeHold_dma (s : State) (b n : Nat) : (s.freeHold b n).dma = s.dma := rfl
@[simp] theorem State.freeHold_cph (s : State) (b n : Nat) : (s.freeHold b n).cph = s.cph := rfl
@[simp] theorem State.freeHold_pst (s : State) (b n : Nat) : (s.freeHold b n).pst = s.pst := rfl
@[simp] theorem State.freeHold_cfl (s : State) (b n : Nat) : (s.freeHold b n).cfl = s.cfl := rfl
@[simp] theorem State.freeHold_evt (s : State) (b n : Nat) : (s.freeHold b n).evt = s.evt := rfl
@[simp] theorem State.freeHold_time (s : State) (b n : Nat) : (s.freeHold b n).time = s.time := rfl
@[simp] theorem State.freeHold_power (s : State) (b n : Nat) : (s.freeHold b n).power = s.power := rfl
@[simp] theorem State.freeHold_sec (s : State) (b n : Nat) : (s.freeHold b n).sec = s.sec := rfl
@[simp] theorem State.freeHold_free (s : State) (b n : Nat) : (s.freeHold b n).free = s.free := rfl
@[simp] theorem State.freeHold_out (s : State) (b n : Nat) : (s.freeHold b n).out = s.out := rfl
@[simp] theorem State.freeHold_pending (s : State) (b n : Nat) : (s.freeHold b n).pending = s.pending := rfl
@[simp] theorem State.freeHold_reg (s : State) (b n : Nat) (x : Nat) : (s.freeHold b n).reg x = s.reg x := rfl

/-! ### Register writes through fields -/

@[simp] theorem State.setWords_part (s : State) (off k v : Nat) : (s.setWords off k v).part = s.part := by
  induction k generalizing s off v with
  | zero => rfl
  | succ k ih => simp [State.setWords, ih]
@[simp] theorem State.setFld_part (s : State) (x : Field) (v : Nat) : (s.setFld x v).part = s.part := by
  unfold State.setFld; split <;> simp
@[simp] theorem State.addFld_part (s : State) (x : Field) (n : Nat) : (s.addFld x n).part = s.part := by simp [State.addFld]
@[simp] theorem State.satFld_part (s : State) (x : Field) (n : Nat) : (s.satFld x n).part = s.part := by simp [State.satFld]
@[simp] theorem State.subFld_part (s : State) (x : Field) (n : Nat) : (s.subFld x n).part = s.part := by simp [State.subFld]
@[simp] theorem State.setDom_part (s : State) (d v : Nat) : (s.setDom d v).part = s.part := by unfold State.setDom; split <;> simp
@[simp] theorem State.count_part (s : State) (off n : Nat) : (s.count off n).part = s.part := rfl
@[simp] theorem State.setWords_ur (s : State) (off k v : Nat) : (s.setWords off k v).ur = s.ur := by
  induction k generalizing s off v with
  | zero => rfl
  | succ k ih => simp [State.setWords, ih]
@[simp] theorem State.setFld_ur (s : State) (x : Field) (v : Nat) : (s.setFld x v).ur = s.ur := by
  unfold State.setFld; split <;> simp
@[simp] theorem State.addFld_ur (s : State) (x : Field) (n : Nat) : (s.addFld x n).ur = s.ur := by simp [State.addFld]
@[simp] theorem State.satFld_ur (s : State) (x : Field) (n : Nat) : (s.satFld x n).ur = s.ur := by simp [State.satFld]
@[simp] theorem State.subFld_ur (s : State) (x : Field) (n : Nat) : (s.subFld x n).ur = s.ur := by simp [State.subFld]
@[simp] theorem State.setDom_ur (s : State) (d v : Nat) : (s.setDom d v).ur = s.ur := by unfold State.setDom; split <;> simp
@[simp] theorem State.count_ur (s : State) (off n : Nat) : (s.count off n).ur = s.ur := rfl
@[simp] theorem State.setWords_cap (s : State) (off k v : Nat) : (s.setWords off k v).cap = s.cap := by
  induction k generalizing s off v with
  | zero => rfl
  | succ k ih => simp [State.setWords, ih]
@[simp] theorem State.setFld_cap (s : State) (x : Field) (v : Nat) : (s.setFld x v).cap = s.cap := by
  unfold State.setFld; split <;> simp
@[simp] theorem State.addFld_cap (s : State) (x : Field) (n : Nat) : (s.addFld x n).cap = s.cap := by simp [State.addFld]
@[simp] theorem State.satFld_cap (s : State) (x : Field) (n : Nat) : (s.satFld x n).cap = s.cap := by simp [State.satFld]
@[simp] theorem State.subFld_cap (s : State) (x : Field) (n : Nat) : (s.subFld x n).cap = s.cap := by simp [State.subFld]
@[simp] theorem State.setDom_cap (s : State) (d v : Nat) : (s.setDom d v).cap = s.cap := by unfold State.setDom; split <;> simp
@[simp] theorem State.count_cap (s : State) (off n : Nat) : (s.count off n).cap = s.cap := rfl
@[simp] theorem State.setWords_eth (s : State) (off k v : Nat) : (s.setWords off k v).eth = s.eth := by
  induction k generalizing s off v with
  | zero => rfl
  | succ k ih => simp [State.setWords, ih]
@[simp] theorem State.setFld_eth (s : State) (x : Field) (v : Nat) : (s.setFld x v).eth = s.eth := by
  unfold State.setFld; split <;> simp
@[simp] theorem State.addFld_eth (s : State) (x : Field) (n : Nat) : (s.addFld x n).eth = s.eth := by simp [State.addFld]
@[simp] theorem State.satFld_eth (s : State) (x : Field) (n : Nat) : (s.satFld x n).eth = s.eth := by simp [State.satFld]
@[simp] theorem State.subFld_eth (s : State) (x : Field) (n : Nat) : (s.subFld x n).eth = s.eth := by simp [State.subFld]
@[simp] theorem State.setDom_eth (s : State) (d v : Nat) : (s.setDom d v).eth = s.eth := by unfold State.setDom; split <;> simp
@[simp] theorem State.count_eth (s : State) (off n : Nat) : (s.count off n).eth = s.eth := rfl
@[simp] theorem State.setWords_nvme (s : State) (off k v : Nat) : (s.setWords off k v).nvme = s.nvme := by
  induction k generalizing s off v with
  | zero => rfl
  | succ k ih => simp [State.setWords, ih]
@[simp] theorem State.setFld_nvme (s : State) (x : Field) (v : Nat) : (s.setFld x v).nvme = s.nvme := by
  unfold State.setFld; split <;> simp
@[simp] theorem State.addFld_nvme (s : State) (x : Field) (n : Nat) : (s.addFld x n).nvme = s.nvme := by simp [State.addFld]
@[simp] theorem State.satFld_nvme (s : State) (x : Field) (n : Nat) : (s.satFld x n).nvme = s.nvme := by simp [State.satFld]
@[simp] theorem State.subFld_nvme (s : State) (x : Field) (n : Nat) : (s.subFld x n).nvme = s.nvme := by simp [State.subFld]
@[simp] theorem State.setDom_nvme (s : State) (d v : Nat) : (s.setDom d v).nvme = s.nvme := by unfold State.setDom; split <;> simp
@[simp] theorem State.count_nvme (s : State) (off n : Nat) : (s.count off n).nvme = s.nvme := rfl
@[simp] theorem State.setWords_ftl (s : State) (off k v : Nat) : (s.setWords off k v).ftl = s.ftl := by
  induction k generalizing s off v with
  | zero => rfl
  | succ k ih => simp [State.setWords, ih]
@[simp] theorem State.setFld_ftl (s : State) (x : Field) (v : Nat) : (s.setFld x v).ftl = s.ftl := by
  unfold State.setFld; split <;> simp
@[simp] theorem State.addFld_ftl (s : State) (x : Field) (n : Nat) : (s.addFld x n).ftl = s.ftl := by simp [State.addFld]
@[simp] theorem State.satFld_ftl (s : State) (x : Field) (n : Nat) : (s.satFld x n).ftl = s.ftl := by simp [State.satFld]
@[simp] theorem State.subFld_ftl (s : State) (x : Field) (n : Nat) : (s.subFld x n).ftl = s.ftl := by simp [State.subFld]
@[simp] theorem State.setDom_ftl (s : State) (d v : Nat) : (s.setDom d v).ftl = s.ftl := by unfold State.setDom; split <;> simp
@[simp] theorem State.count_ftl (s : State) (off n : Nat) : (s.count off n).ftl = s.ftl := rfl
@[simp] theorem State.setWords_hu (s : State) (off k v : Nat) : (s.setWords off k v).hu = s.hu := by
  induction k generalizing s off v with
  | zero => rfl
  | succ k ih => simp [State.setWords, ih]
@[simp] theorem State.setFld_hu (s : State) (x : Field) (v : Nat) : (s.setFld x v).hu = s.hu := by
  unfold State.setFld; split <;> simp
@[simp] theorem State.addFld_hu (s : State) (x : Field) (n : Nat) : (s.addFld x n).hu = s.hu := by simp [State.addFld]
@[simp] theorem State.satFld_hu (s : State) (x : Field) (n : Nat) : (s.satFld x n).hu = s.hu := by simp [State.satFld]
@[simp] theorem State.subFld_hu (s : State) (x : Field) (n : Nat) : (s.subFld x n).hu = s.hu := by simp [State.subFld]
@[simp] theorem State.setDom_hu (s : State) (d v : Nat) : (s.setDom d v).hu = s.hu := by unfold State.setDom; split <;> simp
@[simp] theorem State.count_hu (s : State) (off n : Nat) : (s.count off n).hu = s.hu := rfl
@[simp] theorem State.setWords_nand (s : State) (off k v : Nat) : (s.setWords off k v).nand = s.nand := by
  induction k generalizing s off v with
  | zero => rfl
  | succ k ih => simp [State.setWords, ih]
@[simp] theorem State.setFld_nand (s : State) (x : Field) (v : Nat) : (s.setFld x v).nand = s.nand := by
  unfold State.setFld; split <;> simp
@[simp] theorem State.addFld_nand (s : State) (x : Field) (n : Nat) : (s.addFld x n).nand = s.nand := by simp [State.addFld]
@[simp] theorem State.satFld_nand (s : State) (x : Field) (n : Nat) : (s.satFld x n).nand = s.nand := by simp [State.satFld]
@[simp] theorem State.subFld_nand (s : State) (x : Field) (n : Nat) : (s.subFld x n).nand = s.nand := by simp [State.subFld]
@[simp] theorem State.setDom_nand (s : State) (d v : Nat) : (s.setDom d v).nand = s.nand := by unfold State.setDom; split <;> simp
@[simp] theorem State.count_nand (s : State) (off n : Nat) : (s.count off n).nand = s.nand := rfl
@[simp] theorem State.setWords_buf (s : State) (off k v : Nat) : (s.setWords off k v).buf = s.buf := by
  induction k generalizing s off v with
  | zero => rfl
  | succ k ih => simp [State.setWords, ih]
@[simp] theorem State.setFld_buf (s : State) (x : Field) (v : Nat) : (s.setFld x v).buf = s.buf := by
  unfold State.setFld; split <;> simp
@[simp] theorem State.addFld_buf (s : State) (x : Field) (n : Nat) : (s.addFld x n).buf = s.buf := by simp [State.addFld]
@[simp] theorem State.satFld_buf (s : State) (x : Field) (n : Nat) : (s.satFld x n).buf = s.buf := by simp [State.satFld]
@[simp] theorem State.subFld_buf (s : State) (x : Field) (n : Nat) : (s.subFld x n).buf = s.buf := by simp [State.subFld]
@[simp] theorem State.setDom_buf (s : State) (d v : Nat) : (s.setDom d v).buf = s.buf := by unfold State.setDom; split <;> simp
@[simp] theorem State.count_buf (s : State) (off n : Nat) : (s.count off n).buf = s.buf := rfl
@[simp] theorem State.setWords_dma (s : State) (off k v : Nat) : (s.setWords off k v).dma = s.dma := by
  induction k generalizing s off v with
  | zero => rfl
  | succ k ih => simp [State.setWords, ih]
@[simp] theorem State.setFld_dma (s : State) (x : Field) (v : Nat) : (s.setFld x v).dma = s.dma := by
  unfold State.setFld; split <;> simp
@[simp] theorem State.addFld_dma (s : State) (x : Field) (n : Nat) : (s.addFld x n).dma = s.dma := by simp [State.addFld]
@[simp] theorem State.satFld_dma (s : State) (x : Field) (n : Nat) : (s.satFld x n).dma = s.dma := by simp [State.satFld]
@[simp] theorem State.subFld_dma (s : State) (x : Field) (n : Nat) : (s.subFld x n).dma = s.dma := by simp [State.subFld]
@[simp] theorem State.setDom_dma (s : State) (d v : Nat) : (s.setDom d v).dma = s.dma := by unfold State.setDom; split <;> simp
@[simp] theorem State.count_dma (s : State) (off n : Nat) : (s.count off n).dma = s.dma := rfl
@[simp] theorem State.setWords_cph (s : State) (off k v : Nat) : (s.setWords off k v).cph = s.cph := by
  induction k generalizing s off v with
  | zero => rfl
  | succ k ih => simp [State.setWords, ih]
@[simp] theorem State.setFld_cph (s : State) (x : Field) (v : Nat) : (s.setFld x v).cph = s.cph := by
  unfold State.setFld; split <;> simp
@[simp] theorem State.addFld_cph (s : State) (x : Field) (n : Nat) : (s.addFld x n).cph = s.cph := by simp [State.addFld]
@[simp] theorem State.satFld_cph (s : State) (x : Field) (n : Nat) : (s.satFld x n).cph = s.cph := by simp [State.satFld]
@[simp] theorem State.subFld_cph (s : State) (x : Field) (n : Nat) : (s.subFld x n).cph = s.cph := by simp [State.subFld]
@[simp] theorem State.setDom_cph (s : State) (d v : Nat) : (s.setDom d v).cph = s.cph := by unfold State.setDom; split <;> simp
@[simp] theorem State.count_cph (s : State) (off n : Nat) : (s.count off n).cph = s.cph := rfl
@[simp] theorem State.setWords_pst (s : State) (off k v : Nat) : (s.setWords off k v).pst = s.pst := by
  induction k generalizing s off v with
  | zero => rfl
  | succ k ih => simp [State.setWords, ih]
@[simp] theorem State.setFld_pst (s : State) (x : Field) (v : Nat) : (s.setFld x v).pst = s.pst := by
  unfold State.setFld; split <;> simp
@[simp] theorem State.addFld_pst (s : State) (x : Field) (n : Nat) : (s.addFld x n).pst = s.pst := by simp [State.addFld]
@[simp] theorem State.satFld_pst (s : State) (x : Field) (n : Nat) : (s.satFld x n).pst = s.pst := by simp [State.satFld]
@[simp] theorem State.subFld_pst (s : State) (x : Field) (n : Nat) : (s.subFld x n).pst = s.pst := by simp [State.subFld]
@[simp] theorem State.setDom_pst (s : State) (d v : Nat) : (s.setDom d v).pst = s.pst := by unfold State.setDom; split <;> simp
@[simp] theorem State.count_pst (s : State) (off n : Nat) : (s.count off n).pst = s.pst := rfl
@[simp] theorem State.setWords_cfl (s : State) (off k v : Nat) : (s.setWords off k v).cfl = s.cfl := by
  induction k generalizing s off v with
  | zero => rfl
  | succ k ih => simp [State.setWords, ih]
@[simp] theorem State.setFld_cfl (s : State) (x : Field) (v : Nat) : (s.setFld x v).cfl = s.cfl := by
  unfold State.setFld; split <;> simp
@[simp] theorem State.addFld_cfl (s : State) (x : Field) (n : Nat) : (s.addFld x n).cfl = s.cfl := by simp [State.addFld]
@[simp] theorem State.satFld_cfl (s : State) (x : Field) (n : Nat) : (s.satFld x n).cfl = s.cfl := by simp [State.satFld]
@[simp] theorem State.subFld_cfl (s : State) (x : Field) (n : Nat) : (s.subFld x n).cfl = s.cfl := by simp [State.subFld]
@[simp] theorem State.setDom_cfl (s : State) (d v : Nat) : (s.setDom d v).cfl = s.cfl := by unfold State.setDom; split <;> simp
@[simp] theorem State.count_cfl (s : State) (off n : Nat) : (s.count off n).cfl = s.cfl := rfl
@[simp] theorem State.setWords_evt (s : State) (off k v : Nat) : (s.setWords off k v).evt = s.evt := by
  induction k generalizing s off v with
  | zero => rfl
  | succ k ih => simp [State.setWords, ih]
@[simp] theorem State.setFld_evt (s : State) (x : Field) (v : Nat) : (s.setFld x v).evt = s.evt := by
  unfold State.setFld; split <;> simp
@[simp] theorem State.addFld_evt (s : State) (x : Field) (n : Nat) : (s.addFld x n).evt = s.evt := by simp [State.addFld]
@[simp] theorem State.satFld_evt (s : State) (x : Field) (n : Nat) : (s.satFld x n).evt = s.evt := by simp [State.satFld]
@[simp] theorem State.subFld_evt (s : State) (x : Field) (n : Nat) : (s.subFld x n).evt = s.evt := by simp [State.subFld]
@[simp] theorem State.setDom_evt (s : State) (d v : Nat) : (s.setDom d v).evt = s.evt := by unfold State.setDom; split <;> simp
@[simp] theorem State.count_evt (s : State) (off n : Nat) : (s.count off n).evt = s.evt := rfl
@[simp] theorem State.setWords_time (s : State) (off k v : Nat) : (s.setWords off k v).time = s.time := by
  induction k generalizing s off v with
  | zero => rfl
  | succ k ih => simp [State.setWords, ih]
@[simp] theorem State.setFld_time (s : State) (x : Field) (v : Nat) : (s.setFld x v).time = s.time := by
  unfold State.setFld; split <;> simp
@[simp] theorem State.addFld_time (s : State) (x : Field) (n : Nat) : (s.addFld x n).time = s.time := by simp [State.addFld]
@[simp] theorem State.satFld_time (s : State) (x : Field) (n : Nat) : (s.satFld x n).time = s.time := by simp [State.satFld]
@[simp] theorem State.subFld_time (s : State) (x : Field) (n : Nat) : (s.subFld x n).time = s.time := by simp [State.subFld]
@[simp] theorem State.setDom_time (s : State) (d v : Nat) : (s.setDom d v).time = s.time := by unfold State.setDom; split <;> simp
@[simp] theorem State.count_time (s : State) (off n : Nat) : (s.count off n).time = s.time := rfl
@[simp] theorem State.setWords_power (s : State) (off k v : Nat) : (s.setWords off k v).power = s.power := by
  induction k generalizing s off v with
  | zero => rfl
  | succ k ih => simp [State.setWords, ih]
@[simp] theorem State.setFld_power (s : State) (x : Field) (v : Nat) : (s.setFld x v).power = s.power := by
  unfold State.setFld; split <;> simp
@[simp] theorem State.addFld_power (s : State) (x : Field) (n : Nat) : (s.addFld x n).power = s.power := by simp [State.addFld]
@[simp] theorem State.satFld_power (s : State) (x : Field) (n : Nat) : (s.satFld x n).power = s.power := by simp [State.satFld]
@[simp] theorem State.subFld_power (s : State) (x : Field) (n : Nat) : (s.subFld x n).power = s.power := by simp [State.subFld]
@[simp] theorem State.setDom_power (s : State) (d v : Nat) : (s.setDom d v).power = s.power := by unfold State.setDom; split <;> simp
@[simp] theorem State.count_power (s : State) (off n : Nat) : (s.count off n).power = s.power := rfl
@[simp] theorem State.setWords_sec (s : State) (off k v : Nat) : (s.setWords off k v).sec = s.sec := by
  induction k generalizing s off v with
  | zero => rfl
  | succ k ih => simp [State.setWords, ih]
@[simp] theorem State.setFld_sec (s : State) (x : Field) (v : Nat) : (s.setFld x v).sec = s.sec := by
  unfold State.setFld; split <;> simp
@[simp] theorem State.addFld_sec (s : State) (x : Field) (n : Nat) : (s.addFld x n).sec = s.sec := by simp [State.addFld]
@[simp] theorem State.satFld_sec (s : State) (x : Field) (n : Nat) : (s.satFld x n).sec = s.sec := by simp [State.satFld]
@[simp] theorem State.subFld_sec (s : State) (x : Field) (n : Nat) : (s.subFld x n).sec = s.sec := by simp [State.subFld]
@[simp] theorem State.setDom_sec (s : State) (d v : Nat) : (s.setDom d v).sec = s.sec := by unfold State.setDom; split <;> simp
@[simp] theorem State.count_sec (s : State) (off n : Nat) : (s.count off n).sec = s.sec := rfl
@[simp] theorem State.setWords_free (s : State) (off k v : Nat) : (s.setWords off k v).free = s.free := by
  induction k generalizing s off v with
  | zero => rfl
  | succ k ih => simp [State.setWords, ih]
@[simp] theorem State.setFld_free (s : State) (x : Field) (v : Nat) : (s.setFld x v).free = s.free := by
  unfold State.setFld; split <;> simp
@[simp] theorem State.addFld_free (s : State) (x : Field) (n : Nat) : (s.addFld x n).free = s.free := by simp [State.addFld]
@[simp] theorem State.satFld_free (s : State) (x : Field) (n : Nat) : (s.satFld x n).free = s.free := by simp [State.satFld]
@[simp] theorem State.subFld_free (s : State) (x : Field) (n : Nat) : (s.subFld x n).free = s.free := by simp [State.subFld]
@[simp] theorem State.setDom_free (s : State) (d v : Nat) : (s.setDom d v).free = s.free := by unfold State.setDom; split <;> simp
@[simp] theorem State.count_free (s : State) (off n : Nat) : (s.count off n).free = s.free := rfl
@[simp] theorem State.setWords_out (s : State) (off k v : Nat) : (s.setWords off k v).out = s.out := by
  induction k generalizing s off v with
  | zero => rfl
  | succ k ih => simp [State.setWords, ih]
@[simp] theorem State.setFld_out (s : State) (x : Field) (v : Nat) : (s.setFld x v).out = s.out := by
  unfold State.setFld; split <;> simp
@[simp] theorem State.addFld_out (s : State) (x : Field) (n : Nat) : (s.addFld x n).out = s.out := by simp [State.addFld]
@[simp] theorem State.satFld_out (s : State) (x : Field) (n : Nat) : (s.satFld x n).out = s.out := by simp [State.satFld]
@[simp] theorem State.subFld_out (s : State) (x : Field) (n : Nat) : (s.subFld x n).out = s.out := by simp [State.subFld]
@[simp] theorem State.setDom_out (s : State) (d v : Nat) : (s.setDom d v).out = s.out := by unfold State.setDom; split <;> simp
@[simp] theorem State.count_out (s : State) (off n : Nat) : (s.count off n).out = s.out := rfl
@[simp] theorem State.setWords_pending (s : State) (off k v : Nat) : (s.setWords off k v).pending = s.pending := by
  induction k generalizing s off v with
  | zero => rfl
  | succ k ih => simp [State.setWords, ih]
@[simp] theorem State.setFld_pending (s : State) (x : Field) (v : Nat) : (s.setFld x v).pending = s.pending := by
  unfold State.setFld; split <;> simp
@[simp] theorem State.addFld_pending (s : State) (x : Field) (n : Nat) : (s.addFld x n).pending = s.pending := by simp [State.addFld]
@[simp] theorem State.satFld_pending (s : State) (x : Field) (n : Nat) : (s.satFld x n).pending = s.pending := by simp [State.satFld]
@[simp] theorem State.subFld_pending (s : State) (x : Field) (n : Nat) : (s.subFld x n).pending = s.pending := by simp [State.subFld]
@[simp] theorem State.setDom_pending (s : State) (d v : Nat) : (s.setDom d v).pending = s.pending := by unfold State.setDom; split <;> simp
@[simp] theorem State.count_pending (s : State) (off n : Nat) : (s.count off n).pending = s.pending := rfl

/-! ### A stack, a channel, a tag: their registers follow -/

@[simp] theorem State.setStk_part (s : State) (k : Nat) (v : Stack) : (s.setStk k v).part = s.part := by simp [State.setStk]
@[simp] theorem State.setStk_ur (s : State) (k : Nat) (v : Stack) : (s.setStk k v).ur = s.ur := by simp [State.setStk]
@[simp] theorem State.setStk_cap (s : State) (k : Nat) (v : Stack) : (s.setStk k v).cap = s.cap := by simp [State.setStk]
@[simp] theorem State.setStk_eth (s : State) (k : Nat) (v : Stack) : (s.setStk k v).eth = s.eth := by simp [State.setStk]
@[simp] theorem State.setStk_nvme (s : State) (k : Nat) (v : Stack) : (s.setStk k v).nvme = s.nvme := by simp [State.setStk]
@[simp] theorem State.setStk_ftl (s : State) (k : Nat) (v : Stack) : (s.setStk k v).ftl = s.ftl := by simp [State.setStk]
@[simp] theorem State.setStk_hu (s : State) (k : Nat) (v : Stack) : (s.setStk k v).hu = s.hu := by simp [State.setStk]
@[simp] theorem State.setStk_nand (s : State) (k : Nat) (v : Stack) : (s.setStk k v).nand = s.nand := by simp [State.setStk]
@[simp] theorem State.setStk_dma (s : State) (k : Nat) (v : Stack) : (s.setStk k v).dma = s.dma := by simp [State.setStk]
@[simp] theorem State.setStk_cph (s : State) (k : Nat) (v : Stack) : (s.setStk k v).cph = s.cph := by simp [State.setStk]
@[simp] theorem State.setStk_pst (s : State) (k : Nat) (v : Stack) : (s.setStk k v).pst = s.pst := by simp [State.setStk]
@[simp] theorem State.setStk_cfl (s : State) (k : Nat) (v : Stack) : (s.setStk k v).cfl = s.cfl := by simp [State.setStk]
@[simp] theorem State.setStk_evt (s : State) (k : Nat) (v : Stack) : (s.setStk k v).evt = s.evt := by simp [State.setStk]
@[simp] theorem State.setStk_time (s : State) (k : Nat) (v : Stack) : (s.setStk k v).time = s.time := by simp [State.setStk]
@[simp] theorem State.setStk_power (s : State) (k : Nat) (v : Stack) : (s.setStk k v).power = s.power := by simp [State.setStk]
@[simp] theorem State.setStk_sec (s : State) (k : Nat) (v : Stack) : (s.setStk k v).sec = s.sec := by simp [State.setStk]
@[simp] theorem State.setStk_free (s : State) (k : Nat) (v : Stack) : (s.setStk k v).free = s.free := by simp [State.setStk]
@[simp] theorem State.setStk_out (s : State) (k : Nat) (v : Stack) : (s.setStk k v).out = s.out := by simp [State.setStk]
@[simp] theorem State.setStk_pending (s : State) (k : Nat) (v : Stack) : (s.setStk k v).pending = s.pending := by simp [State.setStk]
@[simp] theorem State.setChan_part (s : State) (c : Nat) (v : Chan) : (s.setChan c v).part = s.part := by simp [State.setChan]
@[simp] theorem State.setChan_ur (s : State) (c : Nat) (v : Chan) : (s.setChan c v).ur = s.ur := by simp [State.setChan]
@[simp] theorem State.setChan_cap (s : State) (c : Nat) (v : Chan) : (s.setChan c v).cap = s.cap := by simp [State.setChan]
@[simp] theorem State.setChan_eth (s : State) (c : Nat) (v : Chan) : (s.setChan c v).eth = s.eth := by simp [State.setChan]
@[simp] theorem State.setChan_nvme (s : State) (c : Nat) (v : Chan) : (s.setChan c v).nvme = s.nvme := by simp [State.setChan]
@[simp] theorem State.setChan_ftl (s : State) (c : Nat) (v : Chan) : (s.setChan c v).ftl = s.ftl := by simp [State.setChan]
@[simp] theorem State.setChan_hu (s : State) (c : Nat) (v : Chan) : (s.setChan c v).hu = s.hu := by simp [State.setChan]
@[simp] theorem State.setChan_buf (s : State) (c : Nat) (v : Chan) : (s.setChan c v).buf = s.buf := by simp [State.setChan]
@[simp] theorem State.setChan_dma (s : State) (c : Nat) (v : Chan) : (s.setChan c v).dma = s.dma := by simp [State.setChan]
@[simp] theorem State.setChan_cph (s : State) (c : Nat) (v : Chan) : (s.setChan c v).cph = s.cph := by simp [State.setChan]
@[simp] theorem State.setChan_pst (s : State) (c : Nat) (v : Chan) : (s.setChan c v).pst = s.pst := by simp [State.setChan]
@[simp] theorem State.setChan_cfl (s : State) (c : Nat) (v : Chan) : (s.setChan c v).cfl = s.cfl := by simp [State.setChan]
@[simp] theorem State.setChan_evt (s : State) (c : Nat) (v : Chan) : (s.setChan c v).evt = s.evt := by simp [State.setChan]
@[simp] theorem State.setChan_time (s : State) (c : Nat) (v : Chan) : (s.setChan c v).time = s.time := by simp [State.setChan]
@[simp] theorem State.setChan_power (s : State) (c : Nat) (v : Chan) : (s.setChan c v).power = s.power := by simp [State.setChan]
@[simp] theorem State.setChan_sec (s : State) (c : Nat) (v : Chan) : (s.setChan c v).sec = s.sec := by simp [State.setChan]
@[simp] theorem State.setChan_free (s : State) (c : Nat) (v : Chan) : (s.setChan c v).free = s.free := by simp [State.setChan]
@[simp] theorem State.setChan_out (s : State) (c : Nat) (v : Chan) : (s.setChan c v).out = s.out := by simp [State.setChan]
@[simp] theorem State.setChan_pending (s : State) (c : Nat) (v : Chan) : (s.setChan c v).pending = s.pending := by simp [State.setChan]
@[simp] theorem State.setTag_part (s : State) (l t : Nat) (v : Option Tag) : (s.setTag l t v).part = s.part := by simp [State.setTag]
@[simp] theorem State.setTag_ur (s : State) (l t : Nat) (v : Option Tag) : (s.setTag l t v).ur = s.ur := by simp [State.setTag]
@[simp] theorem State.setTag_cap (s : State) (l t : Nat) (v : Option Tag) : (s.setTag l t v).cap = s.cap := by simp [State.setTag]
@[simp] theorem State.setTag_eth (s : State) (l t : Nat) (v : Option Tag) : (s.setTag l t v).eth = s.eth := by simp [State.setTag]
@[simp] theorem State.setTag_ftl (s : State) (l t : Nat) (v : Option Tag) : (s.setTag l t v).ftl = s.ftl := by simp [State.setTag]
@[simp] theorem State.setTag_hu (s : State) (l t : Nat) (v : Option Tag) : (s.setTag l t v).hu = s.hu := by simp [State.setTag]
@[simp] theorem State.setTag_nand (s : State) (l t : Nat) (v : Option Tag) : (s.setTag l t v).nand = s.nand := by simp [State.setTag]
@[simp] theorem State.setTag_buf (s : State) (l t : Nat) (v : Option Tag) : (s.setTag l t v).buf = s.buf := by simp [State.setTag]
@[simp] theorem State.setTag_dma (s : State) (l t : Nat) (v : Option Tag) : (s.setTag l t v).dma = s.dma := by simp [State.setTag]
@[simp] theorem State.setTag_cph (s : State) (l t : Nat) (v : Option Tag) : (s.setTag l t v).cph = s.cph := by simp [State.setTag]
@[simp] theorem State.setTag_pst (s : State) (l t : Nat) (v : Option Tag) : (s.setTag l t v).pst = s.pst := by simp [State.setTag]
@[simp] theorem State.setTag_cfl (s : State) (l t : Nat) (v : Option Tag) : (s.setTag l t v).cfl = s.cfl := by simp [State.setTag]
@[simp] theorem State.setTag_evt (s : State) (l t : Nat) (v : Option Tag) : (s.setTag l t v).evt = s.evt := by simp [State.setTag]
@[simp] theorem State.setTag_time (s : State) (l t : Nat) (v : Option Tag) : (s.setTag l t v).time = s.time := by simp [State.setTag]
@[simp] theorem State.setTag_power (s : State) (l t : Nat) (v : Option Tag) : (s.setTag l t v).power = s.power := by simp [State.setTag]
@[simp] theorem State.setTag_sec (s : State) (l t : Nat) (v : Option Tag) : (s.setTag l t v).sec = s.sec := by simp [State.setTag]
@[simp] theorem State.setTag_free (s : State) (l t : Nat) (v : Option Tag) : (s.setTag l t v).free = s.free := by simp [State.setTag]
@[simp] theorem State.setTag_out (s : State) (l t : Nat) (v : Option Tag) : (s.setTag l t v).out = s.out := by simp [State.setTag]
@[simp] theorem State.setTag_pending (s : State) (l t : Nat) (v : Option Tag) : (s.setTag l t v).pending = s.pending := by simp [State.setTag]

/-! ### Events: a source set changes registers, the cores' list, the pending vectors and what is sent -/

@[simp] theorem State.msix_part (s : State) (v : Nat) : (s.msix v).part = s.part := by
  unfold State.msix; split <;> (try split) <;> (try split) <;> simp
@[simp] theorem State.deliver_part (s : State) (x : Nat) : (s.deliver x).part = s.part := by
  unfold State.deliver; split <;> simp
@[simp] theorem State.raise_part (s : State) (x : Nat) : (s.raise x).part = s.part := by
  unfold State.raise; split <;> (try split) <;> simp
@[simp] theorem State.pulse_part (s : State) (x : Pulse) : (s.pulse x).part = s.part := by unfold State.pulse; split <;> rfl
@[simp] theorem State.cause_part (s : State) (x : Field) (n : Nat) : (s.cause x n).part = s.part := by
  unfold State.cause; dsimp only; split <;> simp
@[simp] theorem State.msix_ur (s : State) (v : Nat) : (s.msix v).ur = s.ur := by
  unfold State.msix; split <;> (try split) <;> (try split) <;> simp
@[simp] theorem State.deliver_ur (s : State) (x : Nat) : (s.deliver x).ur = s.ur := by
  unfold State.deliver; split <;> simp
@[simp] theorem State.raise_ur (s : State) (x : Nat) : (s.raise x).ur = s.ur := by
  unfold State.raise; split <;> (try split) <;> simp
@[simp] theorem State.pulse_ur (s : State) (x : Pulse) : (s.pulse x).ur = s.ur := by unfold State.pulse; split <;> rfl
@[simp] theorem State.cause_ur (s : State) (x : Field) (n : Nat) : (s.cause x n).ur = s.ur := by
  unfold State.cause; dsimp only; split <;> simp
@[simp] theorem State.msix_cap (s : State) (v : Nat) : (s.msix v).cap = s.cap := by
  unfold State.msix; split <;> (try split) <;> (try split) <;> simp
@[simp] theorem State.deliver_cap (s : State) (x : Nat) : (s.deliver x).cap = s.cap := by
  unfold State.deliver; split <;> simp
@[simp] theorem State.raise_cap (s : State) (x : Nat) : (s.raise x).cap = s.cap := by
  unfold State.raise; split <;> (try split) <;> simp
@[simp] theorem State.pulse_cap (s : State) (x : Pulse) : (s.pulse x).cap = s.cap := by unfold State.pulse; split <;> rfl
@[simp] theorem State.cause_cap (s : State) (x : Field) (n : Nat) : (s.cause x n).cap = s.cap := by
  unfold State.cause; dsimp only; split <;> simp
@[simp] theorem State.msix_eth (s : State) (v : Nat) : (s.msix v).eth = s.eth := by
  unfold State.msix; split <;> (try split) <;> (try split) <;> simp
@[simp] theorem State.deliver_eth (s : State) (x : Nat) : (s.deliver x).eth = s.eth := by
  unfold State.deliver; split <;> simp
@[simp] theorem State.raise_eth (s : State) (x : Nat) : (s.raise x).eth = s.eth := by
  unfold State.raise; split <;> (try split) <;> simp
@[simp] theorem State.pulse_eth (s : State) (x : Pulse) : (s.pulse x).eth = s.eth := by unfold State.pulse; split <;> rfl
@[simp] theorem State.cause_eth (s : State) (x : Field) (n : Nat) : (s.cause x n).eth = s.eth := by
  unfold State.cause; dsimp only; split <;> simp
@[simp] theorem State.msix_ftl (s : State) (v : Nat) : (s.msix v).ftl = s.ftl := by
  unfold State.msix; split <;> (try split) <;> (try split) <;> simp
@[simp] theorem State.deliver_ftl (s : State) (x : Nat) : (s.deliver x).ftl = s.ftl := by
  unfold State.deliver; split <;> simp
@[simp] theorem State.raise_ftl (s : State) (x : Nat) : (s.raise x).ftl = s.ftl := by
  unfold State.raise; split <;> (try split) <;> simp
@[simp] theorem State.pulse_ftl (s : State) (x : Pulse) : (s.pulse x).ftl = s.ftl := by unfold State.pulse; split <;> rfl
@[simp] theorem State.cause_ftl (s : State) (x : Field) (n : Nat) : (s.cause x n).ftl = s.ftl := by
  unfold State.cause; dsimp only; split <;> simp
@[simp] theorem State.msix_hu (s : State) (v : Nat) : (s.msix v).hu = s.hu := by
  unfold State.msix; split <;> (try split) <;> (try split) <;> simp
@[simp] theorem State.deliver_hu (s : State) (x : Nat) : (s.deliver x).hu = s.hu := by
  unfold State.deliver; split <;> simp
@[simp] theorem State.raise_hu (s : State) (x : Nat) : (s.raise x).hu = s.hu := by
  unfold State.raise; split <;> (try split) <;> simp
@[simp] theorem State.pulse_hu (s : State) (x : Pulse) : (s.pulse x).hu = s.hu := by unfold State.pulse; split <;> rfl
@[simp] theorem State.cause_hu (s : State) (x : Field) (n : Nat) : (s.cause x n).hu = s.hu := by
  unfold State.cause; dsimp only; split <;> simp
@[simp] theorem State.msix_nand (s : State) (v : Nat) : (s.msix v).nand = s.nand := by
  unfold State.msix; split <;> (try split) <;> (try split) <;> simp
@[simp] theorem State.deliver_nand (s : State) (x : Nat) : (s.deliver x).nand = s.nand := by
  unfold State.deliver; split <;> simp
@[simp] theorem State.raise_nand (s : State) (x : Nat) : (s.raise x).nand = s.nand := by
  unfold State.raise; split <;> (try split) <;> simp
@[simp] theorem State.pulse_nand (s : State) (x : Pulse) : (s.pulse x).nand = s.nand := by unfold State.pulse; split <;> rfl
@[simp] theorem State.cause_nand (s : State) (x : Field) (n : Nat) : (s.cause x n).nand = s.nand := by
  unfold State.cause; dsimp only; split <;> simp
@[simp] theorem State.msix_buf (s : State) (v : Nat) : (s.msix v).buf = s.buf := by
  unfold State.msix; split <;> (try split) <;> (try split) <;> simp
@[simp] theorem State.deliver_buf (s : State) (x : Nat) : (s.deliver x).buf = s.buf := by
  unfold State.deliver; split <;> simp
@[simp] theorem State.raise_buf (s : State) (x : Nat) : (s.raise x).buf = s.buf := by
  unfold State.raise; split <;> (try split) <;> simp
@[simp] theorem State.pulse_buf (s : State) (x : Pulse) : (s.pulse x).buf = s.buf := by unfold State.pulse; split <;> rfl
@[simp] theorem State.cause_buf (s : State) (x : Field) (n : Nat) : (s.cause x n).buf = s.buf := by
  unfold State.cause; dsimp only; split <;> simp
@[simp] theorem State.msix_dma (s : State) (v : Nat) : (s.msix v).dma = s.dma := by
  unfold State.msix; split <;> (try split) <;> (try split) <;> simp
@[simp] theorem State.deliver_dma (s : State) (x : Nat) : (s.deliver x).dma = s.dma := by
  unfold State.deliver; split <;> simp
@[simp] theorem State.raise_dma (s : State) (x : Nat) : (s.raise x).dma = s.dma := by
  unfold State.raise; split <;> (try split) <;> simp
@[simp] theorem State.pulse_dma (s : State) (x : Pulse) : (s.pulse x).dma = s.dma := by unfold State.pulse; split <;> rfl
@[simp] theorem State.cause_dma (s : State) (x : Field) (n : Nat) : (s.cause x n).dma = s.dma := by
  unfold State.cause; dsimp only; split <;> simp
@[simp] theorem State.msix_cph (s : State) (v : Nat) : (s.msix v).cph = s.cph := by
  unfold State.msix; split <;> (try split) <;> (try split) <;> simp
@[simp] theorem State.deliver_cph (s : State) (x : Nat) : (s.deliver x).cph = s.cph := by
  unfold State.deliver; split <;> simp
@[simp] theorem State.raise_cph (s : State) (x : Nat) : (s.raise x).cph = s.cph := by
  unfold State.raise; split <;> (try split) <;> simp
@[simp] theorem State.pulse_cph (s : State) (x : Pulse) : (s.pulse x).cph = s.cph := by unfold State.pulse; split <;> rfl
@[simp] theorem State.cause_cph (s : State) (x : Field) (n : Nat) : (s.cause x n).cph = s.cph := by
  unfold State.cause; dsimp only; split <;> simp
@[simp] theorem State.msix_pst (s : State) (v : Nat) : (s.msix v).pst = s.pst := by
  unfold State.msix; split <;> (try split) <;> (try split) <;> simp
@[simp] theorem State.deliver_pst (s : State) (x : Nat) : (s.deliver x).pst = s.pst := by
  unfold State.deliver; split <;> simp
@[simp] theorem State.raise_pst (s : State) (x : Nat) : (s.raise x).pst = s.pst := by
  unfold State.raise; split <;> (try split) <;> simp
@[simp] theorem State.pulse_pst (s : State) (x : Pulse) : (s.pulse x).pst = s.pst := by unfold State.pulse; split <;> rfl
@[simp] theorem State.cause_pst (s : State) (x : Field) (n : Nat) : (s.cause x n).pst = s.pst := by
  unfold State.cause; dsimp only; split <;> simp
@[simp] theorem State.msix_cfl (s : State) (v : Nat) : (s.msix v).cfl = s.cfl := by
  unfold State.msix; split <;> (try split) <;> (try split) <;> simp
@[simp] theorem State.deliver_cfl (s : State) (x : Nat) : (s.deliver x).cfl = s.cfl := by
  unfold State.deliver; split <;> simp
@[simp] theorem State.raise_cfl (s : State) (x : Nat) : (s.raise x).cfl = s.cfl := by
  unfold State.raise; split <;> (try split) <;> simp
@[simp] theorem State.pulse_cfl (s : State) (x : Pulse) : (s.pulse x).cfl = s.cfl := by unfold State.pulse; split <;> rfl
@[simp] theorem State.cause_cfl (s : State) (x : Field) (n : Nat) : (s.cause x n).cfl = s.cfl := by
  unfold State.cause; dsimp only; split <;> simp
@[simp] theorem State.msix_time (s : State) (v : Nat) : (s.msix v).time = s.time := by
  unfold State.msix; split <;> (try split) <;> (try split) <;> simp
@[simp] theorem State.deliver_time (s : State) (x : Nat) : (s.deliver x).time = s.time := by
  unfold State.deliver; split <;> simp
@[simp] theorem State.raise_time (s : State) (x : Nat) : (s.raise x).time = s.time := by
  unfold State.raise; split <;> (try split) <;> simp
@[simp] theorem State.pulse_time (s : State) (x : Pulse) : (s.pulse x).time = s.time := by unfold State.pulse; split <;> rfl
@[simp] theorem State.cause_time (s : State) (x : Field) (n : Nat) : (s.cause x n).time = s.time := by
  unfold State.cause; dsimp only; split <;> simp
@[simp] theorem State.msix_power (s : State) (v : Nat) : (s.msix v).power = s.power := by
  unfold State.msix; split <;> (try split) <;> (try split) <;> simp
@[simp] theorem State.deliver_power (s : State) (x : Nat) : (s.deliver x).power = s.power := by
  unfold State.deliver; split <;> simp
@[simp] theorem State.raise_power (s : State) (x : Nat) : (s.raise x).power = s.power := by
  unfold State.raise; split <;> (try split) <;> simp
@[simp] theorem State.pulse_power (s : State) (x : Pulse) : (s.pulse x).power = s.power := by unfold State.pulse; split <;> rfl
@[simp] theorem State.cause_power (s : State) (x : Field) (n : Nat) : (s.cause x n).power = s.power := by
  unfold State.cause; dsimp only; split <;> simp
@[simp] theorem State.msix_sec (s : State) (v : Nat) : (s.msix v).sec = s.sec := by
  unfold State.msix; split <;> (try split) <;> (try split) <;> simp
@[simp] theorem State.deliver_sec (s : State) (x : Nat) : (s.deliver x).sec = s.sec := by
  unfold State.deliver; split <;> simp
@[simp] theorem State.raise_sec (s : State) (x : Nat) : (s.raise x).sec = s.sec := by
  unfold State.raise; split <;> (try split) <;> simp
@[simp] theorem State.pulse_sec (s : State) (x : Pulse) : (s.pulse x).sec = s.sec := by unfold State.pulse; split <;> rfl
@[simp] theorem State.cause_sec (s : State) (x : Field) (n : Nat) : (s.cause x n).sec = s.sec := by
  unfold State.cause; dsimp only; split <;> simp
@[simp] theorem State.msix_free (s : State) (v : Nat) : (s.msix v).free = s.free := by
  unfold State.msix; split <;> (try split) <;> (try split) <;> simp
@[simp] theorem State.deliver_free (s : State) (x : Nat) : (s.deliver x).free = s.free := by
  unfold State.deliver; split <;> simp
@[simp] theorem State.raise_free (s : State) (x : Nat) : (s.raise x).free = s.free := by
  unfold State.raise; split <;> (try split) <;> simp
@[simp] theorem State.pulse_free (s : State) (x : Pulse) : (s.pulse x).free = s.free := by unfold State.pulse; split <;> rfl
@[simp] theorem State.cause_free (s : State) (x : Field) (n : Nat) : (s.cause x n).free = s.free := by
  unfold State.cause; dsimp only; split <;> simp
@[simp] theorem State.msix_pending (s : State) (v : Nat) : (s.msix v).pending = s.pending := by
  unfold State.msix; split <;> (try split) <;> (try split) <;> simp
@[simp] theorem State.deliver_pending (s : State) (x : Nat) : (s.deliver x).pending = s.pending := by
  unfold State.deliver; split <;> simp
@[simp] theorem State.raise_pending (s : State) (x : Nat) : (s.raise x).pending = s.pending := by
  unfold State.raise; split <;> (try split) <;> simp
@[simp] theorem State.pulse_pending (s : State) (x : Pulse) : (s.pulse x).pending = s.pending := by unfold State.pulse; split <;> rfl
@[simp] theorem State.cause_pending (s : State) (x : Field) (n : Nat) : (s.cause x n).pending = s.pending := by
  unfold State.cause; dsimp only; split <;> simp

/-! ### Read after write of the parts of the state -/

@[simp] theorem State.str_setStr (s : State) (n : Nat) (v : Stream) : (s.setStr n v).str n = v := Tbl.get_set_self _ _ _ _
theorem State.str_setStr_ne (s : State) (n : Nat) (v : Stream) {j : Nat} (h : j ≠ n) : (s.setStr n v).str j = s.str j := Tbl.get_set_ne _ _ _ _ h
@[simp] theorem State.thread_setThread (s : State) (t : Nat) (v : Option Thread) : (s.setThread t v).thread t = v := Tbl.get_set_self _ _ _ _
theorem State.thread_setThread_ne (s : State) (t : Nat) (v : Option Thread) {j : Nat} (h : j ≠ t) : (s.setThread t v).thread j = s.thread j := Tbl.get_set_ne _ _ _ _ h
@[simp] theorem State.span_setSpan (s : State) (k : Nat) (v : Option SpanX) : (s.setSpan k v).span k = v := Tbl.get_set_self _ _ _ _
theorem State.span_setSpan_ne (s : State) (k : Nat) (v : Option SpanX) {j : Nat} (h : j ≠ k) : (s.setSpan k v).span j = s.span j := Tbl.get_set_ne _ _ _ _ h
@[simp] theorem State.fn_setFn (s : State) (f : Nat) (v : Fn) : (s.setFn f v).fn f = v := Tbl.get_set_self _ _ _ _
theorem State.fn_setFn_ne (s : State) (f : Nat) (v : Fn) {j : Nat} (h : j ≠ f) : (s.setFn f v).fn j = s.fn j := Tbl.get_set_ne _ _ _ _ h

end Sys2Proof.Machine
end

