-- ==== Sys2Proof/Laws/Registers.lean ====
section
/-! SUPPORT. The register file: what a read of a register or a field gives after a write. -/

namespace Sys2Proof.Machine

/-- Read after write, same register. -/
@[simp] theorem State.reg_setReg (s : State) (off : Nat) (v : W64) : (s.setReg off v).reg off = v := Tbl.get_set_self _ _ _ _

/-- Read after write, another register. -/
theorem State.reg_setReg_ne (s : State) {off x : Nat} (v : W64) (h : x ≠ off) : (s.setReg off v).reg x = s.reg x :=
  Tbl.get_set_ne _ _ _ _ h

/-- A counter goes up by what is counted. -/
@[simp] theorem State.reg_count (s : State) (off n : Nat) : (s.count off n).reg off = s.reg off + BitVec.ofNat 64 n :=
  State.reg_setReg _ _ _

theorem State.reg_count_ne (s : State) {off x : Nat} (n : Nat) (h : x ≠ off) : (s.count off n).reg x = s.reg x :=
  State.reg_setReg_ne _ _ h

/-- Bits [lo + len - 1 : lo] read back what was put there. -/
theorem bits_putBits (n lo len v : Nat) : bits (putBits n lo len v) lo len = v % 2 ^ len := by
  unfold bits putBits
  have h1 : n % 2 ^ lo < 2 ^ lo := Nat.mod_lt _ (Nat.two_pow_pos _)
  rw [show n % 2 ^ lo + v % 2 ^ len * 2 ^ lo + n / 2 ^ (lo + len) * 2 ^ (lo + len)
      = n % 2 ^ lo + 2 ^ lo * (v % 2 ^ len + 2 ^ len * (n / 2 ^ (lo + len))) by rw [Nat.pow_add]; ring]
  rw [Nat.add_mul_div_left _ _ (Nat.two_pow_pos _), Nat.div_eq_of_lt h1, Nat.zero_add, Nat.add_mul_mod_self_left, Nat.mod_mod]

/-- The bits below a field stand when the field is put. -/
theorem bits_putBits_below (n lo len v : Nat) {a b : Nat} (h : a + b ≤ lo) : bits (putBits n lo len v) a b = bits n a b := by
  unfold bits putBits
  obtain ⟨k, rfl⟩ := Nat.exists_eq_add_of_le h
  rw [show n % 2 ^ (a + b + k) + v % 2 ^ len * 2 ^ (a + b + k) + n / 2 ^ (a + b + k + len) * 2 ^ (a + b + k + len)
      = n % 2 ^ (a + b + k) + 2 ^ a * (2 ^ b * (2 ^ k * (v % 2 ^ len + 2 ^ len * (n / 2 ^ (a + b + k + len))))) by
        simp only [Nat.pow_add]; ring]
  rw [Nat.add_mul_div_left _ _ (Nat.two_pow_pos _), Nat.add_mul_mod_self_left]
  rw [show (2 : Nat) ^ (a + b + k) = 2 ^ a * (2 ^ b * 2 ^ k) by simp only [Nat.pow_add]; ring]
  rw [Nat.mod_mul_right_div_self, Nat.mod_mod_of_dvd _ (Nat.dvd_mul_right _ _)]

/-- The bits above a field stand when the field is put. -/
theorem bits_putBits_above (n lo len v : Nat) {a b : Nat} (h : lo + len ≤ a) : bits (putBits n lo len v) a b = bits n a b := by
  unfold bits putBits
  obtain ⟨k, rfl⟩ := Nat.exists_eq_add_of_le h
  have h1 : n % 2 ^ lo < 2 ^ lo := Nat.mod_lt _ (Nat.two_pow_pos _)
  have h2 : v % 2 ^ len < 2 ^ len := Nat.mod_lt _ (Nat.two_pow_pos _)
  have h3 : n % 2 ^ lo + v % 2 ^ len * 2 ^ lo < 2 ^ (lo + len) := by
    rw [Nat.pow_add]
    calc n % 2 ^ lo + v % 2 ^ len * 2 ^ lo < 2 ^ lo + v % 2 ^ len * 2 ^ lo := by omega
      _ = (v % 2 ^ len + 1) * 2 ^ lo := by ring
      _ ≤ 2 ^ len * 2 ^ lo := Nat.mul_le_mul_right _ h2
      _ = 2 ^ lo * 2 ^ len := Nat.mul_comm _ _
  rw [Nat.pow_add 2 (lo + len) k, ← Nat.div_div_eq_div_mul, Nat.add_mul_div_right _ _ (Nat.two_pow_pos _), Nat.div_eq_of_lt h3,
    Nat.zero_add, Nat.div_div_eq_div_mul]

/-- A word put into below 2 ^ 64 stays below it. -/
theorem putBits_lt {n lo len : Nat} (v : Nat) (hn : n < 2 ^ 64) (h : lo + len ≤ 64) : putBits n lo len v < 2 ^ 64 := by
  have h1 : n % 2 ^ lo < 2 ^ lo := Nat.mod_lt _ (Nat.two_pow_pos _)
  have h2 : v % 2 ^ len < 2 ^ len := Nat.mod_lt _ (Nat.two_pow_pos _)
  have h3 : n % 2 ^ lo + v % 2 ^ len * 2 ^ lo < 2 ^ (lo + len) := by
    rw [Nat.pow_add]
    calc n % 2 ^ lo + v % 2 ^ len * 2 ^ lo < 2 ^ lo + v % 2 ^ len * 2 ^ lo := by omega
      _ = (v % 2 ^ len + 1) * 2 ^ lo := by ring
      _ ≤ 2 ^ len * 2 ^ lo := Nat.mul_le_mul_right _ h2
      _ = 2 ^ lo * 2 ^ len := Nat.mul_comm _ _
  obtain ⟨k, hk⟩ := Nat.exists_eq_add_of_le h
  have h4 : n / 2 ^ (lo + len) < 2 ^ k := by
    rw [Nat.div_lt_iff_lt_mul (Nat.two_pow_pos _), ← Nat.pow_add, Nat.add_comm k, ← hk]; exact hn
  unfold putBits
  have h5 : 2 ^ (lo + len) + n / 2 ^ (lo + len) * 2 ^ (lo + len) ≤ 2 ^ k * 2 ^ (lo + len) := by
    rw [show 2 ^ (lo + len) + n / 2 ^ (lo + len) * 2 ^ (lo + len) = (n / 2 ^ (lo + len) + 1) * 2 ^ (lo + len) by ring]
    exact Nat.mul_le_mul_right _ h4
  rw [← Nat.pow_add, Nat.add_comm k, ← hk] at h5
  omega

/-- The register a field write writes, for a field within one register. -/
theorem State.setFld_eq (s : State) {f : Field} (v : Nat) (h : f.lo + f.len ≤ 64) :
    s.setFld f v = s.setReg f.off (BitVec.ofNat 64 (putBits (s.reg f.off).toNat f.lo f.len v)) := by
  unfold State.setFld
  rw [if_pos h]

/-- A field reads what was written, cut to its width. -/
theorem State.fld_setFld (s : State) {f : Field} (v : Nat) (h : f.lo + f.len ≤ 64) : (s.setFld f v).fld f = v % 2 ^ f.len := by
  rw [State.setFld_eq s v h]
  unfold State.fld
  rw [if_pos h, State.reg_setReg, BitVec.toNat_ofNat, Nat.mod_eq_of_lt (putBits_lt v (s.reg f.off).isLt h), bits_putBits]

/-- A field of another register stands when a field is written. -/
theorem State.fld_setFld_ne (s : State) {f g : Field} (v : Nat) (h : f.lo + f.len ≤ 64) (hg : g.lo + g.len ≤ 64) (hne : g.off ≠ f.off) :
    (s.setFld f v).fld g = s.fld g := by
  rw [State.setFld_eq s v h]
  unfold State.fld
  rw [if_pos hg, if_pos hg, State.reg_setReg_ne _ _ hne]

/-- A field stands when a disjoint one is written. -/
theorem State.fld_setFld_disjoint (s : State) {f g : Field} (v : Nat) (h : f.lo + f.len ≤ 64) (hg : g.lo + g.len ≤ 64)
    (hd : g.lo + g.len ≤ f.lo ∨ f.lo + f.len ≤ g.lo) : (s.setFld f v).fld g = s.fld g := by
  by_cases he : g.off = f.off
  · rw [State.setFld_eq s v h]
    unfold State.fld
    rw [if_pos hg, if_pos hg, he, State.reg_setReg, BitVec.toNat_ofNat, Nat.mod_eq_of_lt (putBits_lt v (s.reg f.off).isLt h)]
    rcases hd with hd | hd
    · exact bits_putBits_below _ _ _ _ hd
    · exact bits_putBits_above _ _ _ _ hd
  · exact State.fld_setFld_ne s v h hg he

/-- Another register stands when a field is written. -/
theorem State.reg_setFld_ne (s : State) {f : Field} {x : Nat} (v : Nat) (h : f.lo + f.len ≤ 64) (hne : x ≠ f.off) :
    (s.setFld f v).reg x = s.reg x := by
  rw [State.setFld_eq s v h, State.reg_setReg_ne _ _ hne]

/-- A field is smaller than its width allows. -/
theorem State.fld_lt (s : State) (f : Field) : s.fld f < 2 ^ f.len := by
  unfold State.fld bits
  split <;> exact Nat.mod_lt _ (Nat.two_pow_pos _)

end Sys2Proof.Machine
end

