-- ==== Sys2Proof/Laws/Urette.lean ====
section
/-! SUPPORT. Urette: what the issue of a word does, once, and the registers of a thread. -/

namespace Sys2Proof.Machine

/-- A register reads what was written to it; u0 reads zero. -/
@[simp] theorem Thread.u_setU (th : Thread) (r : Nat) (v : W64) : (th.setU r v).u r = if r = 0 then 0 else v := by
  by_cases h : r = 0
  · simp [Thread.u, h]
  · simp [Thread.u, Thread.setU, h]

/-- Another register stands. -/
theorem Thread.u_setU_ne (th : Thread) {r i : Nat} (v : W64) (h : i ≠ r) : (th.setU r v).u i = th.u i := by
  unfold Thread.u Thread.setU
  split <;> rename_i h0
  · rfl
  · split
    · rfl
    · exact Tbl.get_set_ne _ _ _ _ h

/-- What a write to a register leaves of the thread. -/
@[simp] theorem Thread.setU_rest (th : Thread) (r : Nat) (v : W64) : { th.setU r v with regs := th.regs } = th := by
  unfold Thread.setU
  split <;> rfl

/-! ### What a register write and the step to the next word leave of a thread -/

@[simp] theorem Thread.setU_dgram (th : Thread) (r : Nat) (v : W64) : (th.setU r v).dgram = th.dgram := by unfold Thread.setU; split <;> rfl
@[simp] theorem Thread.setU_base (th : Thread) (r : Nat) (v : W64) : (th.setU r v).base = th.base := by unfold Thread.setU; split <;> rfl
@[simp] theorem Thread.setU_len (th : Thread) (r : Nat) (v : W64) : (th.setU r v).len = th.len := by unfold Thread.setU; split <;> rfl
@[simp] theorem Thread.setU_pc (th : Thread) (r : Nat) (v : W64) : (th.setU r v).pc = th.pc := by unfold Thread.setU; split <;> rfl
@[simp] theorem Thread.setU_slots (th : Thread) (r : Nat) (v : W64) : (th.setU r v).slots = th.slots := by unfold Thread.setU; split <;> rfl
@[simp] theorem Thread.setU_budget (th : Thread) (r : Nat) (v : W64) : (th.setU r v).budget = th.budget := by unfold Thread.setU; split <;> rfl
@[simp] theorem Thread.setU_rep (th : Thread) (r : Nat) (v : W64) : (th.setU r v).rep = th.rep := by unfold Thread.setU; split <;> rfl
@[simp] theorem Thread.setU_seqDone (th : Thread) (r : Nat) (v : W64) : (th.setU r v).seqDone = th.seqDone := by unfold Thread.setU; split <;> rfl
@[simp] theorem Thread.setU_queue (th : Thread) (r : Nat) (v : W64) : (th.setU r v).queue = th.queue := by unfold Thread.setU; split <;> rfl
@[simp] theorem Thread.setU_accepted (th : Thread) (r : Nat) (v : W64) : (th.setU r v).accepted = th.accepted := by unfold Thread.setU; split <;> rfl
@[simp] theorem Thread.setU_placeId (th : Thread) (r : Nat) (v : W64) : (th.setU r v).placeId = th.placeId := by unfold Thread.setU; split <;> rfl
@[simp] theorem Thread.setU_recv (th : Thread) (r : Nat) (v : W64) : (th.setU r v).recv = th.recv := by unfold Thread.setU; split <;> rfl
@[simp] theorem Thread.goOn_dgram (th : Thread) : th.goOn.dgram = th.dgram := by
  unfold Thread.goOn; split <;> (try split) <;> (try split) <;> simp
@[simp] theorem Thread.goOn_base (th : Thread) : th.goOn.base = th.base := by
  unfold Thread.goOn; split <;> (try split) <;> (try split) <;> simp
@[simp] theorem Thread.goOn_len (th : Thread) : th.goOn.len = th.len := by
  unfold Thread.goOn; split <;> (try split) <;> (try split) <;> simp
@[simp] theorem Thread.goOn_slots (th : Thread) : th.goOn.slots = th.slots := by
  unfold Thread.goOn; split <;> (try split) <;> (try split) <;> simp
@[simp] theorem Thread.goOn_budget (th : Thread) : th.goOn.budget = th.budget := by
  unfold Thread.goOn; split <;> (try split) <;> (try split) <;> simp
@[simp] theorem Thread.goOn_seqDone (th : Thread) : th.goOn.seqDone = th.seqDone := by
  unfold Thread.goOn; split <;> (try split) <;> (try split) <;> simp
@[simp] theorem Thread.goOn_queue (th : Thread) : th.goOn.queue = th.queue := by
  unfold Thread.goOn; split <;> (try split) <;> (try split) <;> simp
@[simp] theorem Thread.goOn_accepted (th : Thread) : th.goOn.accepted = th.accepted := by
  unfold Thread.goOn; split <;> (try split) <;> (try split) <;> simp
@[simp] theorem Thread.goOn_placeId (th : Thread) : th.goOn.placeId = th.placeId := by
  unfold Thread.goOn; split <;> (try split) <;> (try split) <;> simp
@[simp] theorem Thread.goOn_recv (th : Thread) : th.goOn.recv = th.recv := by
  unfold Thread.goOn; split <;> (try split) <;> (try split) <;> simp

/-- The registers do not depend on the thread's other fields. -/
theorem Thread.u_congr {th th' : Thread} (h : th'.regs = th.regs) (i : Nat) : th'.u i = th.u i := by
  unfold Thread.u
  rw [h]

/-- Outside a REPEAT body the next word is next. -/
theorem Thread.goOn_plain {th : Thread} (h : th.rep = none) : th.goOn = { th with pc := th.pc + 1 } := by
  unfold Thread.goOn
  rw [h]

/-- A word that issues: its slots are counted, and its effect settles on the thread. -/
theorem State.issue_ready {s : State} {t code : Nat} {th : Thread} {body : State → Thread → W64 → UOut} (ht : s.thread t = some th)
    (ha : th.accepted = false) (hb : s.wordBad th = false) (ho : Uw.op (s.word th) = code)
    (hs : th.slots + Uw.cost (s.word th) ≤ th.budget) :
    s.issue t code body =
      .next (UOut.settle t th (Uw.cost (s.word th))
        (body (s.count (R.UEN_ENG_SLOTS (t / 8)) (Uw.cost (s.word th))) th (s.word th))) := by
  unfold State.issue
  simp only [ht, ha, hb, ho, hs, Bool.false_eq_true, if_false, and_self, if_true]

end Sys2Proof.Machine
end

