-- ==== Sys2Proof/Tests/Slice0.lean ====
section
/-! SUPPORT. Tests of this model: ill-formed commands, small steps, and for every statement a state that meets its hypotheses. -/

namespace Sys2Proof.Tests

open Sys2Proof Sys2Proof.Machine Sys2Proof.Claim

set_option Elab.async false

/-- A datagram of stream 5 on port 1 whose 64-byte payload is 1, 2, 3, …. -/
def dg : Dgram :=
  { stream := 5, filt := 2, port := 1, sub := 0, time := 7, macsec := false, ipv6 := false, payload := (List.range 64).map byteOf, cells := 1 }

/-- A thread that holds it, before the program at granule 1, with 5 in u1 and −1 in u3. -/
def thr : Thread := { dgram := dg, regs := [(1, 5), (3, 0xffffffffffffffff)], base := 64, len := 4, budget := 256 }

/-- Thread 3 of engine 1 stands at the word `w`. -/
def atWord (w : W64) : State :=
  { State.reset with ur := { threads := [(11, some thr)], store := [(64, w), (66, w)] } }

/-- Stream 5 is Running. -/
def running (s : State) : State := s.setFld (F.CAP_S_STATUS_STATE 5) 1

/-- All 128 threads hold a datagram. -/
def fullCluster : State := { State.reset with ur := { threads := (List.range 128).map (fun t => (t, some thr)) } }

/-- The part runs. -/
def up (s : State) : State := { s with power := { s.power with booted := true, phase := .run } }

theorem reset_regsWf : State.reset.regsWf := by
  refine ⟨?_, by decide +kernel⟩
  simp [State.reset, resetRegs, Tbl.risingFrom]

/-- A capture namespace of 16 extents. -/
def capNs : Ns := { capture := true, blocks := 4096, attached := some 0 }

/-- Stream 5 may start in a window of 8 extents of namespace 1. -/
def stream5 : State :=
  ((({ up State.reset with nvme := { nss := [(1, some capNs)] } }.setFld (F.CAP_S_STATUS_PROG_LOADED 5) 1).setFld
    (F.CAP_S_NS_NSID 5) 1).setFld (F.CAP_S_WIN_WIN_EXT 5) 8)

/-- Function 0 is ready, with its admin completion queue. -/
def ready0 : State :=
  ({ up State.reset with nvme := { fns := [(0, { admTail := 1, cqs := [(0, some { base := 0, size := 16, ien := true })] })] } }.setFld (Nv.EN 0) 1).setFld
    (Nv.RDY 0) 1

/-- A signed image of one word, DROP 1, with identifier 11h and version 3. -/
def image : Bytes :=
  ([85, 82, 69, 84, 1, 0, 0, 0, 1, 0, 0, 0, 0, 0, 0, 0, 17, 0, 0, 0, 0, 0, 0, 0, 3, 0, 0, 0, 0, 0, 0, 0, 40, 60, 29, 115, 101, 206, 71, 136, 242, 159,
   142, 191, 35, 78, 223, 254, 173, 111, 233, 151, 251, 234, 95, 250, 45, 88, 204, 157, 250, 123, 28, 80, 139, 5, 82, 111, 85, 185, 235, 178, 4, 15, 5,
   180, 143, 182, 208, 225, 148, 117, 201, 144, 97, 228, 27, 136, 186, 82, 239, 219, 140, 22, 144, 71, 26, 97, 216, 103, 237, 121, 151, 41, 217, 201, 44,
   208, 29, 189, 34, 86, 48, 216, 78, 222, 50, 167, 143, 158, 100, 102, 76, 218, 197, 18, 239, 140, 1, 0, 0, 0, 0, 0, 0, 121, 232, 107, 153, 94, 53, 14,
   77, 49, 42, 149, 166, 183, 213, 216, 205, 205, 180, 104, 47, 88, 136, 0, 161, 205, 108, 151, 46, 29, 203, 42, 90, 195, 141, 144, 4, 105, 81, 176, 60,
   203, 59, 23, 154, 137, 253, 168, 139, 27, 130, 224, 159, 12, 176, 182, 109, 132, 6, 184, 44, 156, 28, 235, 174, 255, 228, 161, 82, 35, 4, 206, 162,
   193, 139, 179, 200, 236, 220, 212, 159, 11, 220, 13, 121, 230, 8, 187, 120, 15, 117, 12, 73, 175, 186, 36, 32, 109]
   : List Nat).map byteOf

/-- The hash of the key the image carries. -/
def keyHash : Bytes :=
  ([35, 244, 131, 8, 12, 20, 157, 143, 115, 90, 168, 42, 50, 242, 27, 172, 221, 147, 184, 206, 96, 122, 193, 130, 17, 15, 123, 62, 130, 132, 66, 224,
   235, 169, 165, 101, 63, 61, 168, 25, 2, 156, 170, 192, 184, 203, 103, 234]
   : List Nat).map byteOf

/-- The part trusts that key. -/
def progState : State := { ready0 with cfl := { opt := { key := keyHash } } }

/-- STREAM PROGRAM LOAD of 232 bytes for stream 5. -/
def loadCmd : Sqe := { opc := 0xC1, cid := 0x77, cdw10 := 5, cdw11 := 232 }

/-- An open extent with 16 bytes at its start. -/
def halfExt : Extent := { counts := [(0, 16)], bytes := (List.range 16).map (fun i => (i, 0xAA)), fill := 0x11 }

/-- An extent sealed before it opened. -/
def shutExt : Extent := { opened := false, isSealed := true, byOther := true, fill := 0x11 }

/-- Stream 5 holds extent 2 open. -/
def openExtent : State :=
  (running { stream5 with cap := { streams := [(5, { exts := [(2, some halfExt)] })] } }).setFld (F.CAP_S_STATUS_OPEN_EXT 5) 1

/-- A placement of 12 bytes across the first two blocks of window-relative extent 2. -/
def onePlace : Placement :=
  { num := 4, off := 2 * 1048576 + 4090, bytes := List.replicate 12 0x5C, bank := 1, cells := 1, time := 9, stamp := true }

/-- Divert queue 1 of stream 5: 16 entries of 2 KiB, entry 7 reserved at TAIL. -/
def divert5 : State :=
  { ((({ stream5 with nvme := { stream5.nvme with linkUp := true } }.setFld (F.CAP_S_DIV_BASE_ADDR 5 1) 0x40).setFld
      (F.CAP_S_DIV_CFG_ENTRIES_LOG2 5 1) 4).setFld (F.CAP_S_DIV_TAIL_TAIL 5 1) 7).setFld (F.CAP_S_DIV_HEAD_HEAD 5 1) 7 with
    cap := { streams := [(5, { divRes := [(1, 8)], divPend := [{ q := 1, n := 7, dgram := dg, tag := 0 }] })] } }

/-- A started command in its tag. -/
def ioTag (c : Sqe) (d : Bytes := []) : Tag := { stage := .started, cmd := { sqe := c, data := d } }

/-- The completion queue of lane 0. -/
def ioCq : Cq := { base := 0, size := 16, ien := true, iv := 1 }

/-- Lane 0 of function 0 runs with queue 1; tag 3 holds the command; namespace 1 is a capture namespace. -/
def ioState (c : Sqe) (d : Bytes := []) : State :=
  (((({ up State.reset with nvme := {
      fns := [(0, { admTail := 1, cqs := [(0, some { base := 0, size := 16, ien := true }), (1, some ioCq)], sqs := [(1, some { base := 0, size := 16, cqid := 1, lane := 0 })] })],
      lanes := [(0, { tags := [(3, some (ioTag c d))] })],
      nss := [(1, some capNs), (2, some { capture := false, blocks := 4096, attached := some 0 })] } }.setFld (Nv.EN 0) 1).setFld (Nv.RDY 0) 1).setFld
    (F.LANE_STATUS_STATE 0) 1).setFld (F.LANE_STATUS_SQID 0) 1).setFld (F.LANE_STATUS_CQID 0) 1

/-- A sealed extent, stored where `loc` says. -/
def openSealed (loc : Option Nat) : Extent :=
  { isSealed := true, byOther := true, counts := [(0, 16)], bytes := (List.range 16).map (fun i => (i, 0xAA)), fill := 0x11, stored := loc }

/-- A span of one extent, stored. -/
def spanVal : SpanX := { exts := [(2, some (openSealed (some 77)))], high := 3, timeout := 50 }

/-- Span 9, generation 1, of stream 5: extent 2 of namespace 1, in state `st`. -/
def withSpan (st : Nat) (s : State) : State :=
  (((((({ s with cap := { s.cap with spans := [(9, some spanVal)] } }.setFld (F.CAP_SP_STATE 9) st).setFld (F.CAP_SP_STREAM 9) 5).setFld
    (F.CAP_SP_GEN 9) 1).setFld (F.CAP_SP_NSID 9) 1).setFld (F.CAP_SP_FIRST_EXT 9) 2).setFld (F.CAP_SP_EXT_COUNT 9) 1).setFld (F.CAP_S_CTRL_PROV 5) 1

/-- Pin 2 commits the span of Running stream 5. -/
def pinState : State :=
  (((withSpan 3 (running stream5)).setFld F.CAP_TRIG_CFG_PIN2_EN 1).setFld (F.CAP_S_SPANCFG_TRIG_EN 5) 4).setFld (F.CAP_S_SPANCFG_TRIG_BACK 5) 1

/-- A profile of 12 blocks. -/
def profile12 : Profile := { idBytes := 0, idMask := 0, blocks := 12, pages := 1024, pagesSlc := 256, cycles := 1000, cyclesSlc := 10000 }

/-- Die 0 of channel 0 is in service. -/
def flash1 (s : State) : State := { s with nand := { s.nand with table := [profile12] } }.setFld (F.CH_DIE_STATE 0 0) 1

/-- The span's extent waits for the pool. -/
def poolState : State :=
  let s := (((flash1 (withSpan 3 stream5)).setFld F.CAP_SPAN_POOL_POOL_EXT 8).setFld (F.CAP_SP_MEDIUM 9) 1).setFld (F.CAP_S_WIN_WIN_BASE 5) 0
  { s with part := .qk800, ftl := { s.ftl with poolSet := [gbKey 0 5] }, cap := { s.cap with spans := [(9, some { spanVal with exts := [(2, some (openSealed none))] })] } }

/-- Sub-port 0 of port 1 is enabled with its link up, MAC 5 and address 5. -/
def portUp : State :=
  ((((up State.reset).setFld (F.ETH_CTRL_SP_EN 1) 1).setFld (F.ETH_STATUS_LINK_UP 1) 1).setFld (F.ETH_SP_MAC_MAC 1 0) 5).setFld
    (F.ETH_SP_IP4_IP4A 1 0) 5 |>.setDom 22 2

/-- A datagram no filter entry admits. -/
def strayFrame : Frame := { bytes := macFrame (([0, 0, 0, 0, 0, 5, 0, 0, 0, 0, 0, 6, 8, 0, 69, 0, 0, 31, 0, 0, 0, 0, 64, 17, 122, 193, 0, 0, 0, 9, 0, 0, 0, 5, 0, 1, 0, 2, 0, 11, 0, 0, 1, 2, 3] : List Nat).map byteOf) }

/-- Sub-port 0 of port 1 has sent XOFF and its receive area is full. -/
def pausedPort : State :=
  { (((((portUp.setFld (F.ETH_PAUSE_MODE 1) 1).setFld (F.CAP_FLT_VALID 3) 1).setFld (F.CAP_FLT_PORT_MASK 3) 2).setFld (F.CAP_FLT_STREAM 3) 5).setFld
    (F.CAP_S_CTRL_PAUSE_EN 5) 1) with eth := { xoff := [(4, false, 0)], recvUsed := [(4, 4096)] } }

/-- The queue of lane 0 with no command in its tags. -/
def idleLane : State := let s := ioState { opc := 0, cid := 0 }; { s with nvme := { s.nvme with lanes := [] } }

/-- The queue holds five entries to fetch. -/
def fetchState : State :=
  (idleLane.setSq 0 1 (some { base := 0, size := 16, cqid := 1, lane := 0, tail := 5 }))|>.setFn 0
    { idleLane.fn 0 with admTail := 0, sqs := [(1, some { base := 0, size := 16, cqid := 1, lane := 0, tail := 5 })] }

/-- A fetch read of one entry is outstanding. -/
def reservedState : State := idleLane.setLane 0 { tags := [(0, some {})], fetches := [[0]] }

/-- The command waits in tag 3. -/
def waitState (c : Sqe) : State := idleLane.setLane 0 { tags := [(3, some { ioTag c with stage := .waiting })] }

/-- What a lookup found: one block. -/
def seen1 : Seen := { blks := [{ bytes := [1] }], dw0 := 5 }

/-- A started GAP MAP READ of four extents. -/
def gapTag : Tag := ioTag { opc := 0x8A, cid := 7, nsid := 1, cdw12 := 3 }

/-- Extent 2 of namespace 1 has landed with one gap record. -/
def gapState : State :=
  ((ioState { opc := 0x8A, cid := 7, nsid := 1, cdw12 := 3 }).setGap 1 2
    (some { stream := 5, flags := 3, states := [(0, 1)], first := 4, last := 6, fill := 1 })).setCap 1 2 true false false false 0 noLoc

/-- The started command in tag 3 has looked its blocks up. -/
def seenState (c : Sqe) (v : Seen) : State := (ioState c).setTag 0 3 (some { ioTag c with seen := some v })

/-- A media read of it is still to be done. -/
def withRead (s : State) : State := { s with nand := { s.nand with chans := [(0, { ops := [{ kind := .read, die := 0, reader := some (.cmd 0 3) }] })] } }

/-- A create structure: a capture namespace of one extent. -/
def newNs : Bytes := [0, 1] ++ List.replicate 3070 0 ++ [1, 0, 0, 0]

/-- Firmware of one manifest entry, which names bundle version 7. -/
def fwImage : Bytes := ([81, 73, 77, 71, 1, 0, 1, 0, 1, 0, 0, 0, 136, 0, 0, 0, 0, 0, 0, 0, 0, 0, 0, 0, 0, 0, 0, 0, 1, 0, 0, 0, 0, 22, 0, 0, 7, 0, 0, 0] : List Nat).map byteOf ++ List.replicate 96 0

/-- A profile bundle of version 7. -/
def bundleImage : Bytes := ([81, 73, 77, 71, 1, 0, 2, 0, 7, 0, 0, 0, 128, 0, 0, 0] : List Nat).map byteOf ++ List.replicate 112 0

/-- Signed microcode of one word and no profile, for the customer region. -/
def mcImage : Bytes :=
  ([81, 85, 67, 77, 1, 0, 1, 0, 1, 0, 0, 0, 0, 0, 0, 0, 0, 0, 0, 0, 0, 0, 0, 0, 9, 0, 0, 0, 0, 0, 0, 0, 40, 60, 29, 115, 101, 206, 71, 136, 242, 159,
   142, 191, 35, 78, 223, 254, 173, 111, 233, 151, 251, 234, 95, 250, 45, 88, 204, 157, 250, 123, 28, 80, 139, 5, 82, 111, 85, 185, 235, 178, 4, 15, 5,
   180, 143, 182, 208, 225, 148, 117, 201, 144, 97, 228, 27, 136, 186, 82, 239, 219, 140, 22, 144, 71, 26, 97, 216, 103, 237, 121, 151, 41, 217, 201, 44,
   208, 29, 189, 34, 86, 48, 216, 78, 222, 50, 167, 143, 158, 100, 102, 76, 218, 197, 18, 239, 140, 0, 0, 0, 0, 0, 0, 0, 0, 0, 0, 0, 0, 0, 0, 0, 0, 0, 0,
   0, 0, 0, 0, 0, 0, 53, 83, 205, 52, 142, 223, 206, 13, 172, 37, 117, 103, 140, 91, 113, 178, 131, 50, 101, 108, 75, 203, 169, 202, 244, 105, 217, 102,
   34, 113, 205, 7, 60, 243, 64, 71, 157, 192, 170, 94, 157, 189, 5, 98, 106, 129, 15, 52, 126, 203, 182, 175, 206, 179, 32, 128, 208, 206, 64, 238, 122,
   87, 120, 82, 189, 19, 240, 54, 44, 203, 137, 194, 235, 18, 224, 211, 16, 143, 218, 133, 165, 73, 221, 212, 213, 186, 88, 117, 168, 233, 47, 91, 16,
   186, 233, 69]
   : List Nat).map byteOf

/-- A key record of kind 2. -/
def keyRecord : Bytes := ([0x4B, 0x50, 0x47, 0x31, 1, 0, 2, 0, 9, 0, 0, 0, 0, 0, 0, 0] : List Nat).map byteOf ++ List.replicate 32 7

/-- The window limit is 64 MiB. -/
def windowOf (s : State) : State := s.setFld F.PWR_HU_WIN_LIMIT 16384

/-- Block 8 of namespace 2 as it lies on flash. -/
def unit8 : FUnit := { nsid := 2, kind := 1, laddr := 8, wseq := 1, origin := 1, data := [1] }

/-- Group 0 has one die of 12 blocks; group block 4 is closed and holds blocks 8 and 9 of namespace 2. -/
def gcState : State :=
  let s := (flash1 (up State.reset)).setFld F.FTL_GC_GC_START 12
  { s with ftl := { s.ftl with
      unitBits := 16
      gbs := [(gbKey 0 4, { state := .closed, handle := some 3 })], handles := [(3, some (gbKey 0 4))]
      media := [(gbKey 0 4, { dies := [0], pages := 1024, pagesSlc := 256, units := 2 })]
      units := [(unitKey 4 0, some unit8), (unitKey 4 1, some { unit8 with laddr := 9 })]
      gens := [(lbaKey 2 8, 0x30000), (lbaKey 2 9, 0x30001)] } }

/-- Its collection runs. -/
def gcRuns : State :=
  { gcState with ftl := { gcState.ftl with gcs := [(0, some { victim := 4, todo := [2 * unitKey 4 0 + 1, 2 * unitKey 4 1 + 1] })] } }

/-- A Ready bank of 100,000 µF, measured. -/
def bank : State :=
  { ((((((up State.reset).setFld F.PWR_HU_STATUS_STATE 2).setFld F.PWR_HU_VLIM_VMAX 24000).setFld F.PWR_HU_VLIM_VCUT 8000).setFld F.PWR_HU_CFG_CEIL
      20000).setFld F.PWR_HU_CAP_C_M 100000).setFld F.PWR_HU_CTRL_CHARGE 1 with hu := { valid := true } }

/-- The operations of channel 1, whose dies 2 and 3 are in service. -/
def chanState (ops : List NandOp) : State := { (up State.reset).setFld (F.CH_STATUS_IN_SERVICE 1) 12 with nand := { chans := [(1, { ops := ops })] } }

/-- A word: SEQ, TGT and other parts. -/
def seqWord (code tgt parts : Nat) : BitVec 192 := BitVec.ofNat 192 (code * 2 ^ 188 + tgt * 2 ^ 169 + parts)

/-- A sequencer that runs a program of die 2. -/
def seq0 : Useq := { pc := 6144, m := [(4, 9)], lc := 3, die := 2, kind := .program }

/-- It stands at `w` on channel 1. -/
def seqState (w : BitVec 192) : State :=
  { up State.reset with nand := { chans := [(1, { store := [(6144, w)], seq := some seq0, ops := [{ kind := .program, die := 2, started := true }] })] } }

/-- Stack 1 is Ready. -/
def stackUp : State := (up State.reset).setFld (F.HBM_STATUS_STATE 1) 1

/-- A request to line 1000h of stack 1, whose read the stack reports uncorrectable. -/
def reqAt (w : Option Bytes) : HbmReq := { addr := 0x1000, len := 64, write := w, sev := .uncorrectable, since := 0 }

/-- It waits at stack 1. -/
def stackQ (w : Option Bytes) : State := stackUp.setStk 1 { stackUp.stk 1 with queues := [(0, { reqs := [reqAt w] })] }

/-- Channel 50 in a state. -/
def dmaAt (st : Nat) (c : DmaChan) : State := { up State.reset with dma := [(50, c)] }.setFld (F.DMA_STATUS_STATE 50) st

/-- 128 bytes of host memory to stack 1, in 64-byte elements. -/
def hostDesc : Desc :=
  { src := 0x2000, dst := 2 ^ 36 + 0x1000, len := 128, sStr := 0, dStr := 0, irq := false, barrier := false, wb := false, dW := 6, sW := 6, dSp := 0
    sSp := 2, func := 0, next := 0 }

/-- Its 64 bytes. -/
def hostDescBytes : Bytes := ([0, 32, 0, 0, 0, 0, 0, 0, 0, 16, 0, 0, 16, 0, 0, 0, 128, 0, 0, 0, 0, 0, 0, 0, 0, 0, 0, 0, 0, 32, 96, 3, 0, 0, 0, 0, 0, 0, 0, 0] : List Nat).map byteOf ++ List.replicate 24 0

/-- Autonomous transitions are on: after 1 ms in any state but PS4, to PS4. -/
def apstState : State :=
  { ready0 with nvme := { ready0.nvme with fns := [(0, { ready0.fn 0 with features := [(0x0C, 1)]
                                                                          apst := (List.range 4).flatMap (fun _ => [0x20, 1, 0, 0, 0, 0, 0, 0]) })] } }

/-- An entry to Basking waits for the PCIe agent, which no longer delays, and for that of the code flash, which does. -/
def delayState : State :=
  { ready0 with power := { ready0.power with entry := some { target := 3, delays := [29, 48], asked := some (0, 0x31) } }
                cfl := { ready0.cfl with op := some (.erase 7) } }

/-- The sequencing of an entry to `target` runs. -/
def reachState (target : Nat) : State :=
  let s := ((up State.reset).setFld F.PWR_STATE_PHASE 2).setFld (F.HBM_STATUS_STATE 0) 1
  { s with power := { s.power with entry := some { target := target, delays := [], brum := true } } }

/-- The part is in Basking; BRUM_WAIT as given. -/
def baskState (wait : Bool) : State :=
  let s := ((up State.reset).setFld F.PWR_STATE_CUR 3).setFld F.PWR_STATE_BRUM_WAIT (ofBool wait)
  { s with nvme := { s.nvme with linkUp := true } }

/-- The part is in Basking after a link in L2 met BRUM_WAIT. -/
def l2State : State := { baskState true with power := { (baskState true).power with linkL2 := true } }

/-- The exit from Basking to PS1 runs; a halt of core 2 is held. -/
def baskExit : State := { baskState false with power := { (baskState false).power with exiting := true, prior := 1 }, sec := { held := [(2, [])] } }

/-- The exit from Brumation runs; key page 3 is loaded. -/
def brumExit : State :=
  { (up State.reset).setFld (F.CPH_KP_STATE_STATE 3) 1 with power := { phase := .brumation, booted := true, exiting := true } }

/-- A Provisioned part before its start; slot 0 holds a tested pair. -/
def bootState : State := { State.reset.setFld F.SEC_LC_STATE 2 with sec := { slots := [(0, { fw := fwImage, bundle := bundleImage })] } }

/-- A running part in Manufacture that its lock byte leaves open. -/
def lcState : State := { (up State.reset).setFld F.SEC_LC_STATE 1 with cfl := { opt := { lock := 0 } } }

/-! ## Ill-formed commands -/

/-- Each of these has one operand out of range, one for each check of WellFormed; it is refused, and its neighbour in range is not. -/
theorem test_wf_host :
    [Instr.registerWrite 32 0 8 0 0, .registerWrite 0 0 24 0 0, .registerWrite 1 0x10000 8 0 0, .sqTailDoorbell 0 65536 0, .captureCommit 96 0, .captureCommit 0 32,
      .extentLand (2 ^ 32) 0 [], .extentLand 0 (2 ^ 32) [], .keyPageOwnerWrite 0 256 0].all (fun c => !c.wf) = true ∧
    [Instr.registerWrite 31 0 8 0 0, .registerWrite 0 2 32 0 0, .registerWrite 1 0xFFFF 8 0 0, .sqTailDoorbell 0 65535 0, .captureCommit 95 31,
      .extentLand (2 ^ 32 - 1) (2 ^ 32 - 1) [], .keyPageOwnerWrite 0 255 31].all Instr.wf = true := by decide

theorem test_wf_capture :
    [Instr.uNop 128 true, .oldProgramRelease 1024, .engFaultRearm 16, .streamStart 64, .divertEntryWrite 0 4 0, .trigEdge 4, .spanCommitInstant 4096,
      .datagramArrival 8, .linkUp 0 4, .saInUseWrite 0 true 4 true, .saInUseWrite 0 false 256 true].all (fun c => !c.wf) = true ∧
    [Instr.uNop 127 true, .oldProgramRelease 1023, .engFaultRearm 15, .streamStart 63, .divertEntryWrite 0 3 0, .trigEdge 3, .spanCommitInstant 4095,
      .datagramArrival 7, .linkUp 0 3, .saInUseWrite 0 true 3 true, .saInUseWrite 0 false 255 true].all Instr.wf = true := by decide

theorem test_wf_media :
    [Instr.gcStart 16, .programFail 0 64 0 0 [], .busPhase 64, .eraseResume 0 16, .hbmRequest 4 0 64 none .clean, .hbmRequest 0 (2 ^ 36) 1 none .clean,
      .hbmRefresh 0 32, .hbmTimingCheck 0 16 true true, .bufferGrantIssue 11 0 0 1 .read, .bufferGrantIssue 0 0 1 1 .read, .marchStart false 2048,
      .dmaStart 64].all (fun c => !c.wf) = true ∧
    [Instr.gcStart 15, .programFail 0 63 0 0 [], .busPhase 63, .eraseResume 0 15, .hbmRequest 3 (2 ^ 36 - 1) 1 none .clean, .hbmRefresh 0 31,
      .hbmTimingCheck 0 15 true true, .bufferGrantIssue 10 0 0 1 .read, .marchStart false 2047, .dmaStart 63].all Instr.wf = true := by decide

theorem test_wf_platform :
    [Instr.tamperAlarm 5, .dieWatchdogService 4, .cflRead 5 0 0 true, .cflRead 0 512 0 true, .cflRead 0 0 65536 true, .groupWatchdogExpiry 53 false,
      .eventTakenByCore 1024 false, .eventRaise 27 0, .pstLineWrite 0 [] 0 true, .lifecycleTransition 0 8, .tapBypass 256,
      .tapSamplePreload [], .powerOn []].all (fun c => !c.wf) = true ∧
    [Instr.tamperAlarm 4, .dieWatchdogService 3, .cflRead 4 511 65535 true, .groupWatchdogExpiry 52 false, .eventTakenByCore 1023 false, .eventRaise 28 0,
      .lifecycleTransition 0 7, .tapBypass 255, .powerOn [true, false, true, false]].all Instr.wf = true := by decide

theorem test_wf_line : (Instr.pstLineWrite (2 ^ 24) (zeros 64) 0 true).wf = false ∧ (Instr.pstLineWrite (2 ^ 24 - 1) (zeros 64) 0 true).wf = true := by
  decide +kernel

/-! ## Values the spec's worked examples give -/

/-- The identification register of a QK1600 of stepping A1 (R549: 0x0160_0BC7). -/
theorem test_idcode : (State.reset.setFld F.ID_PART_STEPPING 1).idcode = 0x01600BC7 := by decide +kernel

/-- The check value of CRC-32C, of the nine digits' ASCII codes. -/
theorem test_crc32c : crc32c ((List.range 9).map (fun i => byteOf (0x31 + i))) = 0xE3069283 := by decide +kernel

/-- The thread of the Ferncliff program before the word `w`, with c0 in u16, the frame in u9 and u17, u18 as the worked program gives them. -/
def ferncliff (w : W64) : State :=
  { State.reset with ur := { threads := [(11, some { thr with regs := [(9, 0x12345), (14, 12), (16, 0x12300), (17, 0x45), (18, 61046784)] })]
                             store := [(64, w), (66, w)] } }

/-- The value of register `r` of that thread after a command. -/
def after (r : Nat) (o : Res) : Option W64 :=
  match o with
  | .next u => (u.thread 11).map (fun t => t.regs.get 0 r)
  | _ => none

/-- Word 12 of the worked program, SUB u17, u9, u16: 0x1_2345 − 0x1_2300 = 0x45. -/
theorem test_sub : after 17 (execUSub 11 (ferncliff 0x118A600000000000)) = some 0x45 := by decide +kernel

/-- Word 14, MULI u18, u17, 884736: 69 × 884,736 = 61,046,784. -/
theorem test_muli : after 18 (execUMuli 11 (ferncliff 0x28944000000D8000)) = some 61046784 := by decide +kernel

/-- Word 15, MULI u19, u14, 69120, for band 12: 829,440. -/
theorem test_muli_band : after 19 (execUMuli 11 (ferncliff 0x289B800000010E00)) = some 829440 := by decide +kernel

/-- Word 20, LI u21, 8640. -/
theorem test_li : after 21 (execULi 11 (ferncliff 0x2CA80000000021C0)) = some 8640 := by decide +kernel

/-- The word the thread stands at after a command. -/
def pcAfter (o : Res) : Option Nat :=
  match o with
  | .next u => (u.thread 11).map (fun t => t.pc)
  | _ => none

/-- Word 17, BCI EQ u14, 12, +5, taken in band 12 (its place in the program apart). -/
theorem test_bci : pcAfter (execUBci 11 { ferncliff 0 with ur := { (ferncliff 0).ur with
    threads := [(11, some { thr with regs := [(14, 12)], len := 16 })], store := [(64, 0x62038000000C0005)] } }) = some 5 := by decide +kernel

/-- The ten-minute sleep: the counter that Brumation stopped at 7,200,000,000,000 goes on at 7,800,000,030,517 (R465). -/
theorem test_bridge :
    ({ State.reset.setReg R.TMR_RTC 1019660801 with time := { entryFtc := 7200000000000, entryRtc := 1000000000 } }.bridge).time.ftc = 7800000030517 := by
  decide +kernel

/-- The bank that ages: 18,000 µF, VCUT 4.5 V, EFF 90 %. -/
def bank18 : State :=
  ((((State.reset.setFld F.PWR_HU_CAP_C_M 18000).setFld F.PWR_HU_VLIM_VCUT 4500).setFld F.PWR_HU_CFG_EFF 90).setFld F.PWR_HU_VLIM_VMAX 25000).setFld
    F.PWR_HU_CFG_CEIL 8000

/-- Its charge target is 25 V, and at 21.617 V and at 25 V its limits are 3,084 and 4,353 MiB. -/
theorem test_window : bank18.vTarget = 25000 ∧ bank18.limitAt 21617 = 3084 ∧ bank18.limitAt 25000 = 4353 := by decide +kernel

/-! ## States that meet the hypotheses of each statement -/

theorem witness_StepIdleTick_1 : ∃ s : State, (s.pending = []) ∧ (s.power.phase = .off) :=
  ⟨{ State.reset with power := { State.reset.power with phase := .off } }, rfl, rfl⟩

theorem witness_StepIdleTick_2 : ∃ s : State, (s.pending = []) ∧ (s.power.phase = .run) ∧ (s.sec.obsOut = false) ∧ (∀ e ∈ s.buf.stack, e.2.queues = []) :=
  ⟨{ up State.reset with time := { State.reset.time with ftc := 0xffffffffffffffff }, buf := { stack := [(1, {})] } }, rfl, rfl, rfl, by simp⟩

theorem witness_StepIdleTick_3 : ∃ s : State, (s.pending = []) ∧ (s.power.phase ≠ .off) ∧ (s.power.phase ≠ .run) ∧ (s.sec.obsOut = false) :=
  ⟨{ State.reset with power := { State.reset.power with phase := .brumation } }, rfl, by decide, by decide, rfl⟩

theorem witness_StepKeepsRegisterFile : ∃ s : State, ∃ t : State, (s.regsWf) ∧ (step s = .next t) :=
  ⟨State.reset, State.reset.tick, reset_regsWf, rfl⟩

theorem witness_ExecKeepsFrame : ∃ c : Instr, ∃ s : State, ∃ t : State, (exec c s = .next t) :=
  ⟨.detach 5, State.reset, State.reset, rfl⟩

theorem witness_CommandsNeverStop_1 : ∃ c : Instr, ∃ s : State, (∀ f o w v r, c ≠ .registerWrite f o w v r) ∧ (∀ f o w v, c ≠ .narrowWriteDiscard f o w v) :=
  ⟨.detach 5, State.reset, by simp, by simp⟩

theorem witness_CommandsNeverStop_2 : ∃ c : Instr, ∃ s : State, ∃ f : Nat, ∃ o : Nat, ∃ w : Nat, ∃ v : W64, ∃ r : W64, (c = .registerWrite f o w v r ∨ c = .narrowWriteDiscard f o w v) :=
  ⟨.registerWrite 1 0x10000 32 0 0, State.reset, 1, 0x10000, 32, 0, 0, by simp⟩

theorem witness_NarrowWriteDiscarded : ∃ c : Instr, ∃ s : State, ∃ f : Nat, ∃ o : Nat, ∃ w : Nat, ∃ v : W64, ∃ r : W64, (c = .registerWrite f o w v r ∨ c = .narrowWriteDiscard f o w v) ∧ (s.live = true) ∧ (s.fnExists f = true) ∧ (o < barBytes f) ∧ (w = 8 ∨ w = 16 ∨ (w = 32 ∧ wideReg (viewOff f (o / 8 * 8)) = true)) :=
  ⟨.narrowWriteDiscard 0 0x400011 16 0xff, up State.reset, 0, 0x400011, 16, 0xff, 0, by decide +kernel⟩

theorem witness_RegisterWriteStores_1 : ∃ s : State, ∃ o : Nat, ∃ w : Nat, ∃ v : W64, ∃ race : W64, (s.live = true) ∧ (0x400000 ≤ o ∧ o < 0x1681000) ∧ ((w = 32 ∧ o % 4 = 0 ∧ wideReg (o / 8 * 8) = false) ∨ (w = 64 ∧ o % 8 = 0 ∧ wideReg o = true)) ∧ (s.part.absentAt o = true ∨ regRow o = none) :=
  ⟨{ up State.reset with part := .qk800 }, 0xC40000, 32, 1, 0, by decide +kernel⟩

theorem witness_RegisterWriteStores_2 : ∃ s : State, ∃ o : Nat, ∃ w : Nat, ∃ v : W64, ∃ race : W64, ∃ r : RegRow, (s.live = true) ∧ ((0x1780000 ≤ o ∧ o < 0x1800000) ∨ (0x4C0000 ≤ o ∧ o < 0x800000 ∧ o ≠ R.CAP_SPAN_POOL)) ∧ ((w = 32 ∧ o % 4 = 0 ∧ wideReg (o / 8 * 8) = false) ∨ (w = 64 ∧ o % 8 = 0 ∧ wideReg o = true)) ∧ (regRow o = some r) :=
  ⟨up State.reset, R.TMR_EVCAUSE, 32, 3, 1, (regRow R.TMR_EVCAUSE).getD { base := 0 }, by decide +kernel⟩

theorem witness_UretteRegisterOpsResult : ∃ e : (Nat → Instr) × Nat × (W64 → W64 → W64), ∃ s : State, ∃ t : Nat, ∃ th : Thread, ∃ w : W64, (e ∈ registerOps) ∧ (Issues s t e.2.1 1 th w) :=
  ⟨(.uSar, 0x17, fun x y => BitVec.ofInt 64 (x.toInt / 2 ^ (y.toNat % 64))), atWord 0x1718460000000000#64, 11, thr, 0x1718460000000000#64, by simp [registerOps], by decide +kernel⟩

theorem witness_UretteImmediateOpsResult : ∃ e : (Nat → Instr) × Nat × (W64 → W64 → W64), ∃ s : State, ∃ t : Nat, ∃ th : Thread, ∃ w : W64, (e ∈ immediateOps) ∧ (Issues s t e.2.1 1 th w) :=
  ⟨(.uLi, 0x2C, fun _ w => BitVec.ofInt 64 (simm w)), atWord 0x2c180000ffffffff#64, 11, thr, 0x2c180000ffffffff#64, by simp [immediateOps], by decide +kernel⟩

theorem witness_UretteCompareSelectResult_1 : ∃ s : State, ∃ t : Nat, ∃ th : Thread, ∃ w : W64, (Issues s t 0x30 1 th w) :=
  ⟨atWord 0x3018407000000000#64, 11, thr, 0x3018407000000000#64, by decide +kernel⟩

theorem witness_UretteCompareSelectResult_2 : ∃ s : State, ∃ t : Nat, ∃ th : Thread, ∃ w : W64, (Issues s t 0x31 1 th w) :=
  ⟨atWord 0x31184090ffffffff#64, 11, thr, 0x31184090ffffffff#64, by decide +kernel⟩

theorem witness_UretteCompareSelectResult_3 : ∃ s : State, ∃ t : Nat, ∃ th : Thread, ∃ w : W64, (Issues s t 0x32 1 th w) :=
  ⟨atWord 0x3218401000000000#64, 11, thr, 0x3218401000000000#64, by decide +kernel⟩

theorem witness_UretteCompareSelectResult_4 : ∃ s : State, ∃ t : Nat, ∃ th : Thread, ∃ w : W64, (Issues s t 0x33 1 th w) :=
  ⟨atWord 0x331840000000073e#64, 11, thr, 0x331840000000073e#64, by decide +kernel⟩

theorem witness_UretteHeaderResult_1 : ∃ s : State, ∃ t : Nat, ∃ th : Thread, ∃ w : W64, ∃ off : Nat, (Issues s t 0x40 1 th w) ∧ (Uw.m w ≤ 3) ∧ (off = uimm w % 256 + (th.u (Uw.a w)).toNat) ∧ (off + 2 ^ Uw.m w ≤ 256) :=
  ⟨atWord 0x40180033000000f8#64, 11, thr, 0x40180033000000f8#64, 248, by decide +kernel⟩

theorem witness_UretteHeaderResult_2 : ∃ s : State, ∃ t : Nat, ∃ th : Thread, ∃ w : W64, ∃ off : Nat, (Issues s t 0x41 1 th w) ∧ (off = uimm w % 2048 + (th.u (Uw.a w)).toNat) ∧ (off + Uw.m w + 1 ≤ 2048) :=
  ⟨atWord 0x411801f0000007e0#64, 11, thr, 0x411801f0000007e0#64, 2016, by decide +kernel⟩

theorem witness_UretteHeaderResult_3 : ∃ s : State, ∃ t : Nat, ∃ th : Thread, ∃ w : W64, ∃ off : Nat, ∃ len : Nat, (len = uimm w / 256 % 512) ∧ (Issues s t 0x42 (1 + (len + 31) / 32) th w) ∧ (off = uimm w % 256 + (th.u (Uw.a w)).toNat) ∧ (off + len ≤ 256) :=
  ⟨atWord 0x4218000000010000#64, 11, thr, 0x4218000000010000#64, 0, 256, by decide +kernel⟩

theorem witness_UretteHeaderResult_4 : ∃ s : State, ∃ t : Nat, ∃ th : Thread, ∃ w : W64, (Issues s t 0x40 1 th w) ∧ (256 < uimm w % 256 + (th.u (Uw.a w)).toNat + 2 ^ Uw.m w) ∧ (th.dgram.stream < 64) ∧ (t < 128) :=
  ⟨atWord 0x40180033000000f9#64, 11, thr, 0x40180033000000f9#64, by decide +kernel⟩

theorem witness_UretteHeaderResult_5 : ∃ s : State, ∃ t : Nat, ∃ th : Thread, ∃ w : W64, (Issues s t 0x41 1 th w) ∧ (2048 < uimm w % 2048 + (th.u (Uw.a w)).toNat + Uw.m w + 1) ∧ (th.dgram.stream < 64) ∧ (t < 128) :=
  ⟨atWord 0x411801f0000007e1#64, 11, thr, 0x411801f0000007e1#64, by decide +kernel⟩

theorem witness_UretteHeaderResult_6 : ∃ s : State, ∃ t : Nat, ∃ th : Thread, ∃ w : W64, (Issues s t 0x42 (1 + (uimm w / 256 % 512 + 31) / 32) th w) ∧ (256 < uimm w % 256 + (th.u (Uw.a w)).toNat + uimm w / 256 % 512) ∧ (th.dgram.stream < 64) ∧ (t < 128) :=
  ⟨atWord 0x4218000000010001#64, 11, thr, 0x4218000000010001#64, by decide +kernel⟩

theorem witness_UretteContextResult_1 : ∃ s : State, ∃ t : Nat, ∃ th : Thread, ∃ w : W64, (Issues s t 0x50 2 th w) ∧ (th.dgram.stream < 64) :=
  ⟨atWord 0x501800000000000f#64, 11, thr, 0x501800000000000f#64, by decide +kernel⟩

theorem witness_UretteContextResult_2 : ∃ s : State, ∃ t : Nat, ∃ th : Thread, ∃ w : W64, (Issues s t 0x51 1 th w) ∧ (th.dgram.stream < 64) ∧ (t < 128) :=
  ⟨atWord 0x510040000000000f#64, 11, thr, 0x510040000000000f#64, by decide +kernel⟩

theorem witness_UretteContextResult_3 : ∃ s : State, ∃ t : Nat, ∃ th : Thread, ∃ w : W64, ∃ c : Nat, (Issues s t 0x52 2 th w) ∧ (th.dgram.stream < 64) ∧ (t < 128) ∧ (c = R.CAP_S_CTX th.dgram.stream (uimm w % 16)) :=
  ⟨atWord 0x521840000000000f#64, 11, thr, 0x521840000000000f#64, 0x4050f8, by decide +kernel⟩

theorem witness_UretteContextResult_4 : ∃ s : State, ∃ t : Nat, ∃ th : Thread, ∃ w : W64, ∃ c : Nat, (Issues s t 0x53 2 th w) ∧ (th.dgram.stream < 64) ∧ (t < 128) ∧ (c = R.CAP_S_CTX th.dgram.stream (uimm w % 16)) ∧ (Uw.m w ≤ 1) :=
  ⟨atWord 0x5318401000000000#64, 11, thr, 0x5318401000000000#64, 0x405080, by decide +kernel⟩

theorem witness_UretteContextResult_5 : ∃ s : State, ∃ t : Nat, ∃ th : Thread, ∃ w : W64, ∃ c : Nat, (Issues s t 0x54 2 th w) ∧ (th.dgram.stream < 64) ∧ (t < 128) ∧ (c = R.CAP_S_CTX th.dgram.stream (uimm w % 16)) :=
  ⟨atWord 0x5418860000000000#64, 11, thr, 0x5418860000000000#64, 0x405080, by decide +kernel⟩

theorem witness_UretteSeqClasses_1 : ∃ s : State, ∃ t : Nat, ∃ th : Thread, ∃ w : W64, ∃ n : Nat, (Issues s t 0x58 2 th w) ∧ (n = th.dgram.stream) ∧ (n < 64) ∧ (t < 128) ∧ (th.seqDone = false) ∧ (s.fld (F.CAP_S_SEQHIGH_VALID n) = 0) :=
  ⟨atWord 0x5818400000000000#64, 11, thr, 0x5818400000000000#64, 5, by decide +kernel⟩

theorem witness_UretteSeqClasses_2 : ∃ s : State, ∃ t : Nat, ∃ th : Thread, ∃ w : W64, ∃ n : Nat, (Issues s t 0x58 2 th w) ∧ (n = th.dgram.stream) ∧ (n < 64) ∧ (t < 128) ∧ (th.seqDone = false) ∧ (s.fld (F.CAP_S_SEQHIGH_VALID n) = 1) ∧ ((th.u (Uw.a w)).toNat % 2 ^ seqWidth (s.fld (F.CAP_S_SEQCFG_SEQ_WIDTH n)) = s.fld (F.CAP_S_SEQHIGH_HIGH n) % 2 ^ seqWidth (s.fld (F.CAP_S_SEQCFG_SEQ_WIDTH n))) :=
  ⟨((atWord 0x5818400000000000#64).setFld (F.CAP_S_SEQHIGH_VALID 5) 1).setFld (F.CAP_S_SEQHIGH_HIGH 5) 5, 11, thr, 0x5818400000000000#64, 5, by decide +kernel⟩

theorem witness_UretteSeqClasses_3 : ∃ s : State, ∃ t : Nat, ∃ th : Thread, ∃ w : W64, (Issues s t 0x58 2 th w) ∧ (th.seqDone = true) :=
  ⟨(atWord 0x5818400000000000#64).setThread 11 (some { thr with seqDone := true }), 11, { thr with seqDone := true }, 0x5818400000000000#64, by decide +kernel⟩

theorem witness_UretteControlResult_1 : ∃ s : State, ∃ t : Nat, ∃ th : Thread, ∃ w : W64, (Issues s t 0x00 1 th w) ∧ (th.rep = none) :=
  ⟨atWord 0#64, 11, thr, 0#64, by decide +kernel⟩

theorem witness_UretteControlResult_2 : ∃ s : State, ∃ t : Nat, ∃ th : Thread, ∃ w : W64, (Issues s t 0x60 1 th w) :=
  ⟨atWord 0x6000000000000003#64, 11, thr, 0x6000000000000003#64, by decide +kernel⟩

theorem witness_UretteControlResult_3 : ∃ s : State, ∃ t : Nat, ∃ th : Thread, ∃ w : W64, (Issues s t 0x61 1 th w) :=
  ⟨atWord 0x6100460000000003#64, 11, thr, 0x6100460000000003#64, by decide +kernel⟩

theorem witness_UretteControlResult_4 : ∃ s : State, ∃ t : Nat, ∃ th : Thread, ∃ w : W64, (Issues s t 0x62 1 th w) :=
  ⟨atWord 0x62004010ffff0003#64, 11, thr, 0x62004010ffff0003#64, by decide +kernel⟩

theorem witness_UretteControlResult_5 : ∃ s : State, ∃ t : Nat, ∃ th : Thread, ∃ w : W64, ∃ n : Nat, (Issues s t 0x68 1 th w) ∧ (n = if Uw.f w 0 then (th.u (Uw.a w)).toNat else uimm w % 32) ∧ (n ≤ 16) :=
  ⟨atWord 0x6818000000000310#64, 11, thr, 0x6818000000000310#64, 16, by decide +kernel⟩

theorem witness_UretteControlResult_6 : ∃ s : State, ∃ t : Nat, ∃ th : Thread, ∃ w : W64, ∃ r : Rep, (Issues s t 0x00 1 th w) ∧ (th.rep = some r) ∧ (th.pc + 1 = r.first + r.len) :=
  ⟨(atWord 0#64).setThread 11 (some { thr with pc := 2, rep := some ⟨3, 1, 2, 16, 15⟩ }), 11, { thr with pc := 2, rep := some ⟨3, 1, 2, 16, 15⟩ }, 0#64, ⟨3, 1, 2, 16, 15⟩, by decide +kernel⟩

theorem witness_UretteControlResult_7 : ∃ s : State, ∃ t : Nat, ∃ th : Thread, ∃ w : W64, (Issues s t 0x68 1 th w) ∧ (16 < if Uw.f w 0 then (th.u (Uw.a w)).toNat else uimm w % 32) ∧ (th.dgram.stream < 64) ∧ (t < 128) :=
  ⟨atWord 0x6818000000000311#64, 11, thr, 0x6818000000000311#64, by decide +kernel⟩

theorem witness_UretteSideEffectsQueue_1 : ∃ s : State, ∃ t : Nat, ∃ th : Thread, ∃ w : W64, (Issues s t 0x71 1 th w) ∧ (th.queue.length < 8) ∧ (th.rep = none) :=
  ⟨atWord 0x7100400000050002#64, 11, thr, 0x7100400000050002#64, by decide +kernel⟩

theorem witness_UretteSideEffectsQueue_2 : ∃ s : State, ∃ t : Nat, ∃ th : Thread, ∃ w : W64, (Issues s t 0x72 1 th w) ∧ (th.queue.length < 8) ∧ (th.rep = none) :=
  ⟨atWord 0x7200000000000000#64, 11, thr, 0x7200000000000000#64, by decide +kernel⟩

theorem witness_UretteSideEffectsQueue_3 : ∃ s : State, ∃ t : Nat, ∃ th : Thread, ∃ w : W64, (Issues s t 0x73 1 th w) ∧ (th.queue.length < 8) ∧ (th.rep = none) :=
  ⟨atWord 0x730000000000007f#64, 11, thr, 0x730000000000007f#64, by decide +kernel⟩

theorem witness_UretteSideEffectsQueue_4 : ∃ s : State, ∃ t : Nat, ∃ th : Thread, ∃ w : W64, (Issues s t 0x70 1 th w) ∧ (th.queue.length < 8) ∧ (th.rep = none) ∧ (s.prov th.dgram.stream ≠ 0) ∧ (Uw.f w 0 = false) ∧ (t < 128) :=
  ⟨(atWord 0x7000001000000000#64).setFld (F.CAP_S_CTRL_PROV 5) 2, 11, thr, 0x7000001000000000#64, by decide +kernel⟩

theorem witness_UretteSideEffectsQueue_5 : ∃ s : State, ∃ t : Nat, ∃ th : Thread, ∃ w : W64, (Issues s t 0x71 1 th w) ∧ (8 ≤ th.queue.length) ∧ (th.dgram.stream < 64) ∧ (t < 128) :=
  ⟨(atWord 0x7100400000050002#64).setThread 11 (some { thr with queue := List.replicate 8 .stamp }), 11, { thr with queue := List.replicate 8 .stamp }, 0x7100400000050002#64, by decide +kernel⟩

theorem witness_UretteSideEffectsQueue_6 : ∃ s : State, ∃ t : Nat, ∃ th : Thread, ∃ w : W64, (Issues s t 0x72 1 th w) ∧ (8 ≤ th.queue.length) ∧ (th.dgram.stream < 64) ∧ (t < 128) :=
  ⟨(atWord 0x7200000000000000#64).setThread 11 (some { thr with queue := List.replicate 8 .stamp }), 11, { thr with queue := List.replicate 8 .stamp }, 0x7200000000000000#64, by decide +kernel⟩

theorem witness_UretteSideEffectsQueue_7 : ∃ s : State, ∃ t : Nat, ∃ th : Thread, ∃ w : W64, (Issues s t 0x73 1 th w) ∧ (8 ≤ th.queue.length) ∧ (th.dgram.stream < 64) ∧ (t < 128) :=
  ⟨(atWord 0x730000000000007f#64).setThread 11 (some { thr with queue := List.replicate 8 .stamp }), 11, { thr with queue := List.replicate 8 .stamp }, 0x730000000000007f#64, by decide +kernel⟩

theorem witness_UretteSideEffectsQueue_8 : ∃ s : State, ∃ t : Nat, ∃ th : Thread, ∃ w : W64, (Issues s t 0x70 1 th w) ∧ (8 ≤ th.queue.length) ∧ (s.prov th.dgram.stream ≠ 0) ∧ (Uw.f w 0 = false) ∧ (th.dgram.stream < 64) ∧ (t < 128) :=
  ⟨((atWord 0x7000001000000000#64).setThread 11 (some { thr with queue := List.replicate 8 .stamp })).setFld (F.CAP_S_CTRL_PROV 5) 2, 11, { thr with queue := List.replicate 8 .stamp }, 0x7000001000000000#64, by decide +kernel⟩

theorem witness_UretteOutcomesAccepted_1 : ∃ s : State, ∃ t : Nat, ∃ th : Thread, ∃ w : W64, ∃ n : Nat, ∃ off : Nat, ∃ len : Nat, ∃ skip : Nat, ∃ bank : Nat, ∃ cells : Nat, (Issues s t 0x78 2 th w) ∧ (n = th.dgram.stream) ∧ (n < 64) ∧ (off = (th.u (Uw.a w)).toNat) ∧ (len = (th.u (Uw.b w)).toNat) ∧ (skip = uimm w % 65536) ∧ (len ≠ 0) ∧ (skip + len ≤ th.dgram.payload.length) ∧ (off + len ≤ s.fld (F.CAP_S_WIN_WIN_EXT n) * 1048576) ∧ (bank = th.dgram.port / 2) ∧ (cells = (skip + len - 1) / 256 - skip / 256 + 1) ∧ (s.eth.holdUsed.get 0 bank + cells ≤ 16384) ∧ (s.prov n = 0) :=
  ⟨(atWord 0x7808420000000010#64).setFld (F.CAP_S_WIN_WIN_EXT 5) 1, 11, thr, 0x7808420000000010#64, 5, 5, 5, 16, 0, 1, by decide +kernel⟩

theorem witness_UretteOutcomesAccepted_2 : ∃ s : State, ∃ t : Nat, ∃ th : Thread, ∃ w : W64, ∃ n : Nat, (Issues s t 0x79 1 th w) ∧ (n = th.dgram.stream) ∧ (n < 64) ∧ (t < 128) :=
  ⟨atWord 0x790000000000002a#64, 11, thr, 0x790000000000002a#64, 5, by decide +kernel⟩

theorem witness_UretteOutcomesAccepted_3 : ∃ s : State, ∃ t : Nat, ∃ th : Thread, ∃ w : W64, ∃ n : Nat, ∃ q : Nat, (Issues s t 0x7A 2 th w) ∧ (n = th.dgram.stream) ∧ (n < 64) ∧ (t < 128) ∧ (q = uimm w % 4) ∧ (bit (s.fld (F.CAP_S_CTRL_DIV_EN n)) q = true) ∧ (s.divRoom n q = true) :=
  ⟨((atWord 0x7a00400000000003#64).setFld (F.CAP_S_CTRL_DIV_EN 5) 8).setFld (F.CAP_S_DIV_CFG_ENTRIES_LOG2 5 3) 4, 11, thr, 0x7a00400000000003#64, 5, 3, by decide +kernel⟩

theorem witness_UretteThreadEnds_1 : ∃ s : State, ∃ t : Nat, ∃ th : Thread, ∃ n : Nat, (s.thread t = some th) ∧ (n = th.dgram.stream) ∧ (n < 64) ∧ (t < 128) ∧ (th.accepted = false) ∧ (s.wordBad th = false) ∧ (th.budget < th.slots + Uw.cost (s.word th)) ∧ (s.fld (F.UEN_ENG_FAULT_VALID (t / 8)) = 0) :=
  ⟨(atWord 0x5818400000000000#64).setThread 11 (some { thr with slots := 255 }), 11, { thr with slots := 255 }, 5, by decide +kernel⟩

theorem witness_UretteThreadEnds_2 : ∃ s : State, ∃ t : Nat, ∃ th : Thread, (s.thread t = some th) ∧ (th.dgram.stream < 64) ∧ (t < 128) ∧ (th.accepted = false) :=
  ⟨atWord 0x5818400000000000#64, 11, thr, by decide +kernel⟩

theorem witness_UretteThreadEnds_3 : ∃ s : State, ∃ t : Nat, ∃ th : Thread, ∃ n : Nat, (s.thread t = some th) ∧ (n = th.dgram.stream) ∧ (n < 64) ∧ (t < 128) ∧ (th.accepted = true) ∧ (∀ e ∈ th.queue, ∃ k v, e = .count k v ∧ k < 16) :=
  ⟨(atWord 0#64).setThread 11 (some { thr with accepted := true, queue := [.count 15 7, .count 15 1] }), 11, { thr with accepted := true, queue := [.count 15 7, .count 15 1] }, 5, by decide +kernel, by decide +kernel, by decide +kernel, by decide +kernel, by decide +kernel, by simp [thr]⟩

theorem witness_UretteThreadEnds_4 : ∃ s : State, ∃ t : Nat, ∃ th : Thread, ∃ k : Nat, (s.thread t = some th) ∧ (t < 128) ∧ (th.accepted = true) ∧ (th.queue = [.event k]) ∧ (k < 128) ∧ (s.part.srcAbsent (640 + k) = false) ∧ (th.dgram.port < 8) :=
  ⟨(atWord 0#64).setThread 11 (some { thr with accepted := true, queue := [.event 127] }), 11, { thr with accepted := true, queue := [.event 127] }, 127, by decide +kernel⟩

theorem witness_UretteThreadEnds_5 : ∃ s : State, ∃ e : Nat, (e < 16) :=
  ⟨State.reset, 15, by decide⟩

theorem witness_DatagramDispatchRule_1 : ∃ s : State, ∃ t : Nat, (s.pickThread = some t) :=
  ⟨(atWord 0#64), 0, by decide +kernel⟩

theorem witness_DatagramDispatchRule_2 : ∃ s : State, ∃ p : Nat, ∃ t : Nat, ∃ g : Dgram, ∃ rest : List Dgram, (s.ur.rings.get [] p = g :: rest) ∧ (g.dead = false) ∧ (g.stream < 64) ∧ (s.ur.waiting = []) ∧ (s.pickThread = some t) :=
  ⟨running (State.reset.setRing 1 [dg]), 1, 0, dg, [], by decide +kernel⟩

theorem witness_DatagramDispatchRule_3 : ∃ s : State, ∃ p : Nat, ∃ g : Dgram, ∃ rest : List Dgram, (s.ur.rings.get [] p = g :: rest) ∧ (g.dead = false) ∧ (s.pickThread = none) ∧ (s.fld (F.CAP_S_CTRL_DISPATCH_WAIT g.stream) ≠ 0) :=
  ⟨(running (fullCluster.setRing 1 [dg])).setFld (F.CAP_S_CTRL_DISPATCH_WAIT 5) 1, 1, dg, [], by decide +kernel⟩

theorem witness_DatagramDispatchRule_4 : ∃ s : State, ∃ p : Nat, ∃ g : Dgram, ∃ rest : List Dgram, (s.ur.rings.get [] p = g :: rest) ∧ (g.dead = false) ∧ (g.stream < 64) ∧ (s.pickThread = none) ∧ (s.fld (F.CAP_S_CTRL_DISPATCH_WAIT g.stream) = 0) :=
  ⟨(running (fullCluster.setRing 1 [dg])).setFld (F.CAP_S_CTRL_DISPATCH_WAIT 5) 0, 1, dg, [], by decide +kernel⟩

theorem witness_DatagramDispatchRule_5 : ∃ s : State, ∃ t : Nat, ∃ g : Dgram, ∃ rest : List Dgram, (s.ur.waiting = g :: rest) ∧ (g.stream < 64) ∧ (s.pickThread = some t) :=
  ⟨State.reset.setWaiting [dg], 0, dg, [], by decide +kernel⟩

theorem witness_DatagramDispatchRule_6 : ∃ s : State, ∃ i : Nat, ∃ g : Dgram, (s.ur.waiting[i]? = some g) ∧ (g.stream < 64) ∧ (s.freeThreadCount ≤ i) :=
  ⟨fullCluster.setWaiting [dg], 0, dg, by decide +kernel⟩

theorem witness_DatagramDispatchRule_7 : ∃ s : State, ∃ i : Nat, (i < s.freeThreadCount) :=
  ⟨State.reset.setWaiting [dg], 0, by decide +kernel⟩

theorem witness_IdleStreamDropsDatagrams_1 : ∃ s : State, ∃ p : Nat, ∃ j : Nat, ∃ i : Nat, ∃ f : Frame, ∃ k : Pkt, (s.strState (s.fld (F.CAP_FLT_STREAM i)) = 0) :=
  ⟨State.reset, 1, 0, 511, strayFrame, ⟨0, 0, 0, []⟩, by decide +kernel⟩

theorem witness_IdleStreamDropsDatagrams_2 : ∃ s : State, ∃ p : Nat, ∃ g : Dgram, ∃ rest : List Dgram, (s.ur.rings.get [] p = g :: rest) ∧ (g.dead = true) ∧ (g.stream < 64) :=
  ⟨State.reset.setRing 1 [{ dg with dead := true }], 1, { dg with dead := true }, [], by decide +kernel⟩

theorem witness_StreamStartStopResult_1 : ∃ s : State, ∃ n : Nat, (s.live = true) ∧ (s.holds 49 = false) ∧ (n < 64) ∧ (s.strState n = 0) ∧ (s.startRefusal n = 0) :=
  ⟨stream5, 5, by decide +kernel⟩

theorem witness_StreamStartStopResult_2 : ∃ s : State, ∃ n : Nat, (s.live = true) ∧ (s.holds 49 = false) ∧ (n < 64) ∧ (s.strState n = 0) ∧ (s.on (F.CAP_S_STATUS_PROG_LOADED n) = false) :=
  ⟨up State.reset, 5, by decide +kernel⟩

theorem witness_StreamStartStopResult_3 : ∃ s : State, ∃ n : Nat, ∃ v : Ns, (s.live = true) ∧ (s.holds 49 = false) ∧ (n < 64) ∧ (s.strState n = 0) ∧ (s.on (F.CAP_S_STATUS_PROG_LOADED n) = true) ∧ (s.ns (s.fld (F.CAP_S_NS_NSID n)) = some v) ∧ (v.capture = true) ∧ (v.attached = some 0) ∧ (s.on F.FTL_STATUS_REBUILDING = false) ∧ (0 < s.fld (F.CAP_S_WIN_WIN_EXT n)) ∧ (s.fld (F.CAP_S_WIN_WIN_BASE n) + s.fld (F.CAP_S_WIN_WIN_EXT n) ≤ v.blocks / 256) ∧ (s.fld (F.CAP_S_HORIZON_HORIZON n) = 0) :=
  ⟨stream5.setFld (F.CAP_S_HORIZON_HORIZON 5) 0, 5, capNs, by decide +kernel⟩

theorem witness_StreamStartStopResult_4 : ∃ s : State, ∃ n : Nat, (s.live = true) ∧ (n < 64) ∧ (s.strState n = 1) ∧ (s.curSpan n = none) :=
  ⟨running stream5, 5, by decide +kernel⟩

theorem witness_StreamStartStopResult_5 : ∃ s : State, ∃ n : Nat, (n < 64) ∧ (s.strState n = 2) ∧ (s.drained n = true) ∧ ((s.str n).hold = []) ∧ (s.openExts n = []) ∧ (s.strSpans n = []) :=
  ⟨stream5.setFld (F.CAP_S_STATUS_STATE 5) 2, 5, by decide +kernel⟩

theorem witness_DetachRemovesProgram_1 : ∃ s : State, ∃ n : Nat, (s.live = true) ∧ (n < 64) ∧ (s.strState n = 0) :=
  ⟨stream5, 5, by decide +kernel⟩

theorem witness_DetachRemovesProgram_2 : ∃ s : State, ∃ n : Nat, (s.strState n ≠ 0) :=
  ⟨running stream5, 5, by decide +kernel⟩

theorem witness_ProgramLoadResult_1 : ∃ s : State, ∃ c : Sqe, ∃ d : Bytes, ∃ img : Bytes, ∃ ws : List W64, ∃ g : Nat, ∃ n : Nat, ∃ q : Cq, (s.adminOk 0 = true) ∧ ((s.fn 0).cqs.get none 0 = some q) ∧ (c.stray (1 :: vendorDws) [(10, 0x3F), (11, 0xFFFFFFFF)] = none) ∧ (img = fit (min c.cdw11.toNat 2097152) d) ∧ (s.progCheck img c.cdw11.toNat = none) ∧ (ws = imgWords img (Bytes.le img 8 4)) ∧ (s.firstRun (ceilDiv ws.length 64) = some g) ∧ (n = c.cdw10.toNat % 64) :=
  ⟨progState, loadCmd, image, image, [0x7900000000000001#64], 0, 5, { base := 0, size := 16, ien := true }, by decide +kernel⟩

theorem witness_ProgramLoadResult_2 : ∃ s : State, ∃ c : Sqe, ∃ d : Bytes, ∃ q : Cq, (s.adminOk 0 = true) ∧ ((s.fn 0).cqs.get none 0 = some q) ∧ (c.stray (1 :: vendorDws) [(10, 0x3F), (11, 0xFFFFFFFF)] = none) ∧ (Bytes.le (fit (min c.cdw11.toNat 2097152) d) 0 4 ≠ 0x54455255) :=
  ⟨ready0, loadCmd, [], { base := 0, size := 16, ien := true }, by decide +kernel⟩

theorem witness_ProgramLoadResult_3 : ∃ s : State, ∃ g : Nat, (s.runs g = false) :=
  ⟨{ stream5 with ur := { progs := [{ gran := 3, grans := 1, words := 4, stream := none }] } }, 3, by decide +kernel⟩

theorem witness_ExtentSealResult_1 : ∃ s : State, ∃ n : Nat, ∃ x : Nat, ∃ e : Extent, (s.live = true) ∧ (n < 64) ∧ (s.prov n = 0) ∧ ((s.str n).hold = []) ∧ (s.strSpans n = []) ∧ (s.openExts n = [x]) ∧ ((s.str n).exts.get none x = some e) ∧ (e.opened = true) ∧ (e.isSealed = false) :=
  ⟨openExtent, 5, 2, halfExt, by decide +kernel⟩

theorem witness_ExtentSealResult_2 : ∃ s : State, ∃ n : Nat, ∃ i : Nat, ∃ e : Extent, (s.fld (F.CAP_S_SEAL_IDLE_SEAL n) ≠ 0) ∧ (n < 64) ∧ (s.prov n = 0) ∧ ((s.str n).hold = []) ∧ (s.strSpans n = []) ∧ ((s.str n).exts.get none (s.nsExt n i) = some e) ∧ (e.opened = true) ∧ (e.isSealed = false) :=
  ⟨openExtent.setFld (F.CAP_S_SEAL_IDLE_SEAL 5) 100, 5, 2, halfExt, by decide +kernel⟩

theorem witness_ExtentOpenAndPlaceResult_1 : ∃ s : State, ∃ n : Nat, ∃ i : Nat, (s.live = true) ∧ (n < 64) ∧ (s.prov n = 0) ∧ (s.strState n ≠ 0) ∧ (s.wanted n i = true) ∧ (s.hbmRoom n = true) :=
  ⟨{ running stream5 with cap := { streams := [(5, { hold := [onePlace] })] } }, 5, 2, by decide +kernel⟩

theorem witness_ExtentOpenAndPlaceResult_2 : ∃ s : State, ∃ n : Nat, ∃ i : Nat, ∃ x : Nat, ∃ a : Nat, ∃ k : Nat, ∃ p : Placement, ∃ e : Extent, (n < 64) ∧ (s.prov n = 0) ∧ ((s.str n).hold = [p]) ∧ (p.waited = false) ∧ (p.exts = [i]) ∧ (x = s.nsExt n i) ∧ (i < s.fld (F.CAP_S_CURSOR_CURSOR n) + s.fld (F.CAP_S_HORIZON_HORIZON n)) ∧ (s.sealedAt n x = false) ∧ ((s.str n).exts.get none x = some e) ∧ (e.opened = true) ∧ (a = p.off - i * 1048576) ∧ (k < 256 ∧ e.counts.get 0 k + p.bytes.length < 4096) :=
  ⟨{ running stream5 with cap := { streams := [(5, { hold := [onePlace], exts := [(2, some halfExt)] })] } }, 5, 2, 2, 4090, 3, onePlace, halfExt, by decide +kernel⟩

theorem witness_FillExtentLands_1 : ∃ s : State, ∃ nsid : Nat, ∃ x : Nat, ∃ n : Nat, ∃ ps : List Nat, ∃ e : Extent, (s.live = true) ∧ (n < 64) ∧ (s.prov n = 0) ∧ (s.fld (F.CAP_S_NS_NSID n) = nsid) ∧ (s.ftl.capWrites.get none (extKey nsid x) = none) ∧ (s.drainOf nsid x = none) ∧ (s.sealedOf nsid x = some (n, e)) ∧ (e.opened = false) ∧ (s.overhangFirst = false) ∧ (s.ftl.nextSeq + 2 < 2 ^ 60) :=
  ⟨{ running stream5 with cap := { streams := [(5, { exts := [(2, some shutExt)] })] } }, 1, 2, 5, [3], shutExt, by decide +kernel⟩

theorem witness_FillExtentLands_2 : ∃ s : State, ∃ nsid : Nat, ∃ x : Nat, ∃ ps : List Nat, ∃ d : Drain, (s.live = true) ∧ (s.ftl.capWrites.get none (extKey nsid x) = none) ∧ (s.drainOf nsid x = some d) ∧ (d.ext.opened = false) ∧ (s.overhangFirst = false) ∧ (s.ftl.nextSeq + 2 < 2 ^ 60) :=
  ⟨{ running stream5 with cap := { drains := [{ stream := 5, nsid := 1, idx := 2, ext := shutExt }] } }, 1, 2, [], { stream := 5, nsid := 1, idx := 2, ext := shutExt }, by decide +kernel⟩

theorem witness_SeqHighWriteResult_1 : ∃ s : State, ∃ n : Nat, ∃ v : W64, (s.live = true) ∧ (n < 64) ∧ (s.strState n = 0) :=
  ⟨{ up State.reset with cap := { streams := [(5, { marks := [7, 70000, 66000] })] } }, 5, 0x8000000000011170#64, by decide +kernel⟩

theorem witness_SeqHighWriteResult_2 : ∃ s : State, ∃ n : Nat, ∃ v : W64, (s.strState n ≠ 0) :=
  ⟨running stream5, 5, 1, by decide +kernel⟩

theorem witness_DivertEnableRule_1 : ∃ s : State, ∃ n : Nat, ∃ q : Nat, ∃ on : Bool, (s.live = true) ∧ (n < 64) ∧ (q < 4) :=
  ⟨divert5, 5, 1, true, by decide +kernel⟩

theorem witness_DivertEnableRule_2 : ∃ s : State, ∃ n : Nat, ∃ q : Nat, ∃ isBase : Bool, ∃ v : W64, (s.live = true) ∧ (n < 64) ∧ (q < 4) ∧ (s.strState n = 0) :=
  ⟨divert5.setFld (divEnBit 5 1) 1, 5, 1, true, 0xfff, by decide +kernel⟩

theorem witness_DivertQueueResult_1 : ∃ s : State, ∃ n : Nat, ∃ q : Nat, ∃ num : Nat, ∃ size : Nat, ∃ e : DivEntry, (s.live = true) ∧ (s.nvme.linkUp = true) ∧ (n < 64) ∧ (q < 4) ∧ ((s.str n).divPend.find? (fun d => d.q == q && d.n == num) = some e) ∧ (s.fld (F.CAP_S_DIV_TAIL_TAIL n q) = num) ∧ (∀ d ∈ (s.str n).divDone, d.1 ≠ q) ∧ (size = 2048 * 2 ^ s.fld (F.CAP_S_DIV_CFG_SLOT n q)) :=
  ⟨divert5, 5, 1, 7, 2048, { q := 1, n := 7, dgram := dg, tag := 0 }, by decide +kernel⟩

theorem witness_DivertQueueResult_2 : ∃ s : State, ∃ n : Nat, ∃ q : Nat, ∃ v : W32, (s.live = true) ∧ (n < 64) ∧ (q < 4) :=
  ⟨divert5, 5, 1, 8, by decide +kernel⟩

theorem witness_DivertQueueResult_3 : ∃ s : State, (s.live = true) ∧ (∀ n, n < 64 → ∀ e ∈ (s.str n).divPend, e.q < 4) :=
  ⟨divert5, by decide +kernel⟩

theorem witness_DivertQueueResult_4 : ∃ s : State, (s.live = true) :=
  ⟨divert5, by decide +kernel⟩

theorem witness_SpanDecisionResult_1 : ∃ s : State, ∃ p : Nat, ∃ n : Nat, ∃ k : Nat, ∃ v : SpanX, (s.inRun = true) ∧ (p < 4) ∧ (s.pinOn p = true) ∧ (s.pinStreams p = [n]) ∧ (s.pinSpans n = [k]) ∧ (k < 4096) ∧ (s.span k = some v) ∧ (s.spState k = 3) ∧ (s.on (F.CAP_SP_RECOVERED k) = false) :=
  ⟨pinState, 2, 5, 9, spanVal, by decide +kernel⟩

theorem witness_SpanDecisionResult_2 : ∃ s : State, ∃ p : Nat, (s.inRun = true) ∧ (p < 4) ∧ (s.pinOn p = true) ∧ (∀ n, n < 64 → s.strState n = 1 → s.pinSpans n = []) :=
  ⟨(up State.reset).setFld F.CAP_TRIG_CFG_PIN2_EN 1, 2, by decide +kernel⟩

theorem witness_SpanDecisionResult_3 : ∃ s : State, ∃ p : Nat, (s.inRun = true) ∧ (p < 4) ∧ (s.pinOn p = false) :=
  ⟨pinState, 1, by decide +kernel⟩

theorem witness_SpanDecisionResult_4 : ∃ s : State, ∃ l : Nat, ∃ t : Nat, ∃ k : Nat, ∃ g : Tag, ∃ v : SpanX, (s.running l t 0x80 = some g) ∧ (s.spanCmd l g = .inr k) ∧ (k < 4096) ∧ (s.span k = some v) ∧ (s.spState k = 3) ∧ (l < 96 ∧ t < 32) :=
  ⟨withSpan 3 (ioState { opc := 0x80, cid := 7, nsid := 1, cdw10 := 0x1009 }), 0, 3, 9, ioTag { opc := 0x80, cid := 7, nsid := 1, cdw10 := 0x1009 }, spanVal, by decide +kernel⟩

theorem witness_SpanDecisionResult_5 : ∃ s : State, ∃ l : Nat, ∃ t : Nat, ∃ k : Nat, ∃ g : Tag, ∃ v : SpanX, ∃ q : Cq, (s.running l t 0x84 = some g) ∧ (PlainLane s l t g q) ∧ (s.spanCmd l g = .inr k) ∧ (k < 4096) ∧ (s.span k = some v) ∧ (s.spState k = 3) :=
  ⟨withSpan 3 (ioState { opc := 0x84, cid := 7, nsid := 1, cdw10 := 0x1009 }), 0, 3, 9, ioTag { opc := 0x84, cid := 7, nsid := 1, cdw10 := 0x1009 }, spanVal, ioCq, by decide +kernel⟩

theorem witness_SpanDecisionResult_6 : ∃ c : Instr, ∃ s : State, ∃ l : Nat, ∃ t : Nat, ∃ k : Nat, ∃ g : Tag, ∃ q : Cq, ((c = .captureCommit l t ∧ s.running l t 0x80 = some g) ∨ (c = .captureDiscard l t ∧ s.running l t 0x84 = some g)) ∧ (PlainLane s l t g q) ∧ (s.spanCmd l g = .inr k) ∧ (s.spState k = 5) :=
  ⟨.captureDiscard 0 3, withSpan 5 (ioState { opc := 0x84, cid := 7, nsid := 1, cdw10 := 0x1009 }), 0, 3, 9, ioTag { opc := 0x84, cid := 7, nsid := 1, cdw10 := 0x1009 }, ioCq, by decide +kernel⟩

theorem witness_SpanDecisionResult_7 : ∃ s : State, ∃ k : Nat, ∃ v : SpanX, (s.live = true) ∧ (k < 4096) ∧ (s.span k = some v) ∧ (s.spState k = 3) ∧ (v.timeout ≠ 0) ∧ (s.on (F.CAP_SP_RECOVERED k) = false) :=
  ⟨withSpan 3 stream5, 9, spanVal, by decide +kernel⟩

theorem witness_SpanEndResult_1 : ∃ s : State, ∃ k : Nat, ∃ v : SpanX, (s.live = true) ∧ (k < 4096) ∧ (s.span k = some v) ∧ (s.spState k = 4) ∧ (s.commitReady k v = true) ∧ (s.commitTurn k v = true) ∧ (v.waits = []) ∧ (s.ftl.nextSeq + 2 * s.fld (F.CAP_SP_EXT_COUNT k) + 1 < 2 ^ 60) ∧ (s.on (F.CAP_S_SPANCFG_AUTO_FREE (s.fld (F.CAP_SP_STREAM k))) = false) :=
  ⟨withSpan 4 stream5, 9, spanVal, by decide +kernel⟩

theorem witness_SpanEndResult_2 : ∃ s : State, ∃ k : Nat, ∃ v : SpanX, (s.live = true) ∧ (k < 4096) ∧ (s.span k = some v) ∧ (s.spState k = 6) ∧ (s.on (F.CAP_SP_RECOVERED k) = true ∨ s.allSealed (s.fld (F.CAP_SP_STREAM k)) k = true) ∧ (s.spanRead k = false) ∧ (s.on (F.CAP_S_SPANCFG_AUTO_FREE (s.fld (F.CAP_SP_STREAM k))) = false) :=
  ⟨withSpan 6 stream5, 9, spanVal, by decide +kernel⟩

theorem witness_SpanFreeRule_1 : ∃ s : State, ∃ k : Nat, (s.live = true) ∧ (k < 4096) ∧ (s.spState k = 5 ∨ s.spState k = 7) :=
  ⟨withSpan 7 stream5, 9, by decide +kernel⟩

theorem witness_SpanFreeRule_2 : ∃ s : State, ∃ k : Nat, (s.spState k ≠ 5) ∧ (s.spState k ≠ 7) :=
  ⟨withSpan 4 stream5, 9, by decide +kernel⟩

theorem witness_SpanPoolResult_1 : ∃ s : State, ∃ u1 : State, ∃ n : Nat, ∃ x : Nat, ∃ k : Nat, ∃ loc : Nat, ∃ v : SpanX, ∃ ex : Extent, (s.live = true) ∧ (s.on F.FTL_STATUS_READ_ONLY = false) ∧ (s.overhangFirst = false) ∧ (k < 4096) ∧ (s.unstored n x = some (k, v, ex)) ∧ (s.fld F.CAP_SPAN_POOL_POOL_USED < s.fld F.CAP_SPAN_POOL_POOL_EXT) ∧ (s.programSpan k x ex .pool = (u1, some loc)) :=
  ⟨poolState, (poolState.programSpan 9 2 (openSealed none) .pool).1, 5, 2, 9, (poolState.programSpan 9 2 (openSealed none) .pool).2.getD 0, { spanVal with exts := [(2, some (openSealed none))] }, openSealed none, by decide +kernel⟩

theorem witness_SpanPoolResult_2 : ∃ s : State, ∃ v : W64, (s.live = true) ∧ (s.poolOpen = true) :=
  ⟨up State.reset, 0x4000000500000007#64, by decide +kernel⟩

theorem witness_SpanPoolResult_3 : ∃ s : State, ∃ l : Nat, ∃ t : Nat, ∃ g : Tag, ∃ bs : List (Blk × Bool), (Starts s l t g) ∧ (g.cmd.sqe.opc.toNat = 0x82) ∧ (s.vendorErr l g.cmd.sqe = none) ∧ (s.rangeErr l g.cmd.sqe true = none) ∧ (∀ k ∈ s.spansUsed, s.spState k ≠ 4) ∧ (bs = (List.range g.cmd.sqe.nlb).map (fun i => s.provBlk g.cmd.sqe.nsid.toNat (g.cmd.sqe.slba + i))) :=
  ⟨withSpan 3 (waitState { opc := 0x82, cid := 7, nsid := 1, cdw10 := 512 }), 0, 3, { ioTag { opc := 0x82, cid := 7, nsid := 1, cdw10 := 512 } with stage := .waiting }, [(withSpan 3 (waitState { opc := 0x82, cid := 7, nsid := 1, cdw10 := 512 })).provBlk 1 512], by decide +kernel, by decide +kernel, by decide +kernel, by decide +kernel, by decide +kernel, rfl⟩

theorem witness_SpanPoolResult_4 : ∃ s : State, ∃ l : Nat, ∃ t : Nat, ∃ g : Tag, ∃ q : Cq, ∃ v : Seen, ∃ ps : List Nat, (s.running l t 0x82 = some g) ∧ (PlainLane s l t g q) ∧ (s.vendorErr l g.cmd.sqe = none) ∧ (s.rangeErr l g.cmd.sqe true = none) ∧ (g.seen = some v) ∧ (s.awaiting (.cmd l t) = false) ∧ (s.cmdPage l g.cmd.sqe.nsid.toNat = none) ∧ (∀ b ∈ v.blks, b.page = none ∧ b.lost = false ∧ b.auth = false ∧ b.bad = false) ∧ (ps = [] ∨ ∀ b ∈ v.blks, b.hbm = false) :=
  ⟨seenState { opc := 0x82, cid := 7, nsid := 1, cdw10 := 512 } seen1, 0, 3, { ioTag { opc := 0x82, cid := 7, nsid := 1, cdw10 := 512 } with seen := some seen1 }, ioCq, seen1, [0], by decide +kernel⟩

theorem witness_SpanPoolResult_5 : ∃ s : State, ∃ l : Nat, ∃ t : Nat, ∃ g : Tag, ∃ ps : List Nat, (s.running l t 0x82 = some g) ∧ (s.vendorErr l g.cmd.sqe = none) ∧ (s.rangeErr l g.cmd.sqe true = none) ∧ (g.seen.isSome = true) ∧ (s.awaiting (.cmd l t) = true) :=
  ⟨withRead (seenState { opc := 0x82, cid := 7, nsid := 1, cdw10 := 512 } seen1), 0, 3, { ioTag { opc := 0x82, cid := 7, nsid := 1, cdw10 := 512 } with seen := some seen1 }, [], by decide +kernel⟩

theorem witness_FrameCountedOnce_1 : ∃ s : State, ∃ p : Nat, ∃ j : Nat, ∃ f : Frame, (s.subOn p j = true) ∧ (s.linkUp p j = true) ∧ (s.dom (21 + p) = 2) :=
  ⟨portUp, 1, 0, strayFrame, by decide +kernel⟩

theorem witness_FrameCountedOnce_2 : ∃ s : State, ∃ p : Nat, ∃ j : Nat, ∃ f : Frame, (p < s.part.ports) ∧ (j < 4) ∧ (s.power.phase ≠ .off) ∧ (s.power.phase ≠ .held) ∧ (s.dom (21 + p) ≠ 2) :=
  ⟨up State.reset, 1, 0, strayFrame, by decide +kernel⟩

theorem witness_FrameCountedOnce_3 : ∃ s : State, ∃ p : Nat, ∃ j : Nat, ∃ f : Frame, (s.dom (21 + p) = 2) ∧ (s.subOn p j = false ∨ s.linkUp p j = false) :=
  ⟨portUp, 1, 1, strayFrame, by decide +kernel⟩

theorem witness_EthernetLinkResult_1 : ∃ s : State, ∃ p : Nat, ∃ j : Nat, (s.subOn p j = true) ∧ (s.linkUp p j = false) ∧ (s.on (F.ETH_SP_CFG_GARP p j) = false) :=
  ⟨(up State.reset).setFld (F.ETH_CTRL_SP_EN 1) 1, 1, 0, by decide +kernel⟩

theorem witness_EthernetLinkResult_2 : ∃ s : State, ∃ p : Nat, ∃ j : Nat, (s.live = true) ∧ (p < s.part.ports) ∧ (j < 4) ∧ (s.dom (21 + p) ≠ 0) ∧ (s.linkUp p j = true) :=
  ⟨portUp, 1, 0, by decide +kernel⟩

theorem witness_EthernetLinkResult_3 : ∃ s : State, ∃ p : Nat, ∃ j : Nat, ∃ on : Bool, (s.live = true) ∧ (p < s.part.ports) ∧ (s.dom (21 + p) ≠ 0) ∧ (j < 4) :=
  ⟨portUp, 1, 3, true, by decide +kernel⟩

theorem witness_EthernetLinkResult_4 : ∃ s : State, ∃ p : Nat, ∃ j : Nat, ∃ errors : Nat, ∃ corr : Nat, ∃ uncorr : Nat, (s.live = true) ∧ (p < s.part.ports) ∧ (s.dom (21 + p) ≠ 0) ∧ (j < 4) :=
  ⟨portUp, 1, 0, 1000001, 3, 2, by decide +kernel⟩

theorem witness_EthernetLinkResult_5 : ∃ s : State, ∃ p : Nat, (s.live = true) ∧ (p < s.part.ports) ∧ (s.dom (21 + p) ≠ 0) :=
  ⟨portUp, 1, by decide +kernel⟩

theorem witness_EthernetRepliesAndKeysResult_1 : ∃ s : State, ∃ p : Nat, ∃ j : Nat, ∃ r : MgmtReq, (s.inRun = true) ∧ (p < 8 ∧ j < 4) ∧ (s.eth.requests.find? (fun r => r.port == p && r.sub == j) = some r) ∧ (s.on (F.ETH_SP_CFG_TX_PROTECT p j) = false) :=
  ⟨{ portUp with eth := { requests := [{ port := 1, sub := 0, ipv6 := false, target := 5, mac := 6, ip := 7 }] } }, 1, 0, { port := 1, sub := 0, ipv6 := false, target := 5, mac := 6, ip := 7 }, by decide +kernel⟩

theorem witness_EthernetRepliesAndKeysResult_2 : ∃ s : State, ∃ p : Nat, ∃ j : Nat, ∃ r : MgmtReq, (s.inRun = true) ∧ (s.eth.requests.find? (fun r => r.port == p && r.sub == j) = some r) ∧ (r.ipv6 = false) ∧ (s.on (F.ETH_SP_CFG_TX_PROTECT p j) = false) ∧ (s.on (F.ETH_SP_CFG_VLAN_EN p j) = false) :=
  ⟨{ portUp with eth := { requests := [{ port := 1, sub := 0, ipv6 := false, target := 5, mac := 6, ip := 7 }] } }, 1, 0, { port := 1, sub := 0, ipv6 := false, target := 5, mac := 6, ip := 7 }, by decide +kernel⟩

theorem witness_EthernetRepliesAndKeysResult_4 : ∃ s : State, ∃ p : Nat, ∃ j : Nat, (p < 8 ∧ j < 4) ∧ ((s.xoffOf p j).isSome = true) ∧ (s.pauseEligible p = true) ∧ (s.fld (F.ETH_PAUSE_QUANTA p) ≠ 0) ∧ (s.freeCells p j * 1024 < (s.fld (F.ETH_PAUSE_XOFF_FREE p) + 128) * s.areaCells p) :=
  ⟨pausedPort, 1, 0, by decide +kernel⟩

theorem witness_EthernetRepliesAndKeysResult_5 : ∃ s : State, ∃ p : Nat, ∃ idx : Nat, ∃ tx : Bool, (s.live = true) ∧ (s.part.macsec = true) ∧ (p < s.part.ports) ∧ (s.dom (21 + p) ≠ 0) ∧ (s.on (saInUse p tx idx) = false) ∧ (s.fld (F.CPH_KP_STATE_KIND (s.fld (saKeyPage p tx idx))) = 3) ∧ (s.fld (F.CPH_KP_STATE_OWNER (s.fld (saKeyPage p tx idx))) = 0) :=
  ⟨((up State.reset).setDom 22 1).setFld (F.CPH_KP_STATE_KIND 0) 3, 1, 5, false, by decide +kernel⟩

theorem witness_EthernetRepliesAndKeysResult_6 : ∃ s : State, ∃ p : Nat, ∃ idx : Nat, ∃ tx : Bool, (s.live = true) ∧ (s.part.macsec = true) ∧ (p < s.part.ports) ∧ (s.dom (21 + p) ≠ 0) ∧ (s.on (saInUse p tx idx) = true) :=
  ⟨((up State.reset).setDom 22 1).setFld (saInUse 1 true 2) 1, 1, 2, true, by decide +kernel⟩

theorem witness_LaneFetchResult_1 : ∃ s : State, ∃ f : Nat, ∃ qid : Nat, ∃ tail : Nat, ∃ q : Sq, (s.live = true) ∧ (s.fnExists f = true) ∧ (s.on (Nv.EN f) = true) ∧ (qid ≠ 0 ∧ s.sq f qid = some q ∧ tail < q.size) :=
  ⟨ioState { opc := 2, cid := 7 }, 0, 1, 15, { base := 0, size := 16, cqid := 1, lane := 0 }, by decide +kernel⟩

theorem witness_LaneFetchResult_2 : ∃ s : State, ∃ f : Nat, ∃ tail : Nat, (s.live = true) ∧ (s.fnExists f = true) ∧ (s.on (Nv.EN f) = true) ∧ (tail < s.asqSize f) :=
  ⟨ready0.setReg (Nv.AQA 0) 0x3, 0, 3, by decide +kernel⟩

theorem witness_LaneFetchResult_3 : ∃ s : State, ∃ l : Nat, ∃ n : Nat, ∃ q : Sq, ∃ ts : List Nat, (s.fetching = true) ∧ (∀ f ∈ s.fnList, s.adminWaits f = false) ∧ (l < 96 ∧ s.nvme.lastLane < 96) ∧ (s.wantsFetch l = true) ∧ (∀ m, m < 96 → m ≠ l → s.wantsFetch m = true → (l + 95 - s.nvme.lastLane) % 96 < (m + 95 - s.nvme.lastLane) % 96) ∧ (s.laneSq l = some q) ∧ (n = min (min (2 ^ (((s.fn (s.owner l)).features.get 0 1).toNat % 8)) 8) ((q.tail + q.size - q.next) % q.size)) ∧ (ts = (s.freeTags l).take n) :=
  ⟨fetchState, 0, 1, { base := 0, size := 16, cqid := 1, lane := 0, tail := 5 }, [0], by decide +kernel⟩

theorem witness_LaneFetchResult_4 : ∃ s : State, ∃ l : Nat, ∃ es : List Fetched, ∃ tags : List Nat, ∃ rest : List (List Nat), (s.live = true) ∧ (l < 96) ∧ ((s.lane l).fetches = tags :: rest) ∧ (es.length = tags.length) ∧ (tags.Nodup) ∧ (∀ t ∈ tags, t < 32) ∧ (s.fld (F.LANE_STATUS_STATE l) ≠ 2) ∧ ((s.laneSq l).all (fun x => x.deleting.isNone) = true) :=
  ⟨reservedState, 0, [{ sqe := { opc := 2, cid := 9, nsid := 1 } }], [0], [], by decide +kernel⟩

theorem witness_LaneFetchResult_5 : ∃ s : State, ∃ l : Nat, ∃ t : Nat, ∃ g : Tag, (Starts s l t g) ∧ (g.cmd.sqe.opc.toNat ∈ [0x00, 0x01, 0x08, 0x09, 0x80, 0x84, 0x8A]) :=
  ⟨waitState { opc := 1, cid := 7, nsid := 1 }, 0, 3, { ioTag { opc := 1, cid := 7, nsid := 1 } with stage := .waiting }, by decide +kernel⟩

theorem witness_ControllerLifeResult_1 : ∃ s : State, ∃ f : Nat, ∃ cc : W32, (s.live = true) ∧ (s.fnExists f = true) ∧ (s.on (Nv.EN f) = false) ∧ (cc.getLsbD 0 = true) :=
  ⟨(up State.reset).setReg (Nv.AQA 0) 0xf000f, 0, 0x00460001, by decide +kernel⟩

theorem witness_ControllerLifeResult_2 : ∃ s : State, ∃ f : Nat, (s.live = true) ∧ (s.fnExists f = true) ∧ (s.on (Nv.EN f) = true) ∧ (s.on (Nv.CFS f) = false) ∧ (s.fld F.SEC_LC_STATE ≠ 0) ∧ (s.power.fatal = false) :=
  ⟨(up State.reset).setFld (Nv.EN 0) 1, 0, by decide +kernel⟩

theorem witness_ControllerLifeResult_3 : ∃ s : State, ∃ f : Nat, (s.live = true) ∧ (s.fnExists f = true) ∧ (s.on (Nv.EN f) = true) :=
  ⟨ioState { opc := 2, cid := 7 }, 0, by decide +kernel⟩

theorem witness_ControllerLifeResult_4 : ∃ s : State, ∃ f : Nat, (s.live = true) ∧ (s.fnExists f = true) :=
  ⟨ioState { opc := 2, cid := 7 }, 0, by decide +kernel⟩

theorem witness_ControllerLifeResult_5 : ∃ s : State, (s.live = true) :=
  ⟨ioState { opc := 2, cid := 7 }, by decide +kernel⟩

theorem witness_ControllerLifeResult_6 : ∃ s : State, (s.nvme.perstLow = true) ∧ (s.power.phase = .run) :=
  ⟨{ up State.reset with nvme := { linkUp := false, perstLow := true } }, by decide +kernel⟩

theorem witness_ControllerLifeResult_7 : ∃ s : State, ∃ on : Bool, ∃ n : Nat, (s.live = true) ∧ (s.nvme.numVfs ≤ 31) :=
  ⟨{ up State.reset with nvme := { numVfs := 3 } }, true, 2, by decide +kernel⟩

theorem witness_ControllerLifeResult_8 : ∃ s : State, ∃ l : Nat, ∃ owner : Nat, (s.live = true) ∧ (l < 96) ∧ (owner < 32) ∧ (s.fld (F.LANE_STATUS_STATE l) = 0) ∧ (owner = 0 ∨ (s.owned owner).length < 64) :=
  ⟨up State.reset, 95, 31, by decide +kernel⟩

theorem witness_QueueCommandsResult_1 : ∃ s : State, ∃ f : Nat, ∃ c : Sqe, ∃ q : Cq, (s.adminOk f = true) ∧ (c.opc.toNat = 5) ∧ ((s.fn f).cqs.get none 0 = some q) ∧ (0 < c.qid ∧ c.qid ≤ (s.owned f).length) ∧ ((s.fn f).cqs.get none c.qid = none) ∧ (c.cdw10.toNat / 65536 ≠ 0) ∧ (c.cdw11.getLsbD 0 = true) ∧ (c.cdw11.toNat / 65536 < fnVectors f) :=
  ⟨ready0, 0, { opc := 5, cid := 9, cdw10 := 0xf0001, cdw11 := 0x10003 }, { base := 0, size := 16, ien := true }, by decide +kernel⟩

theorem witness_QueueCommandsResult_2 : ∃ s : State, ∃ f : Nat, ∃ l : Nat, ∃ c : Sqe, ∃ q : Cq, (s.adminOk f = true) ∧ (c.opc.toNat = 1) ∧ ((s.fn f).cqs.get none 0 = some q) ∧ (s.sqErr f c = none) ∧ (c.cdw13 = 0) ∧ ((s.owned f)[c.qid - 1]? = some l) :=
  ⟨{ ready0 with nvme := { ready0.nvme with fns := [(0, { admTail := 1, cqs := [(0, some { base := 0, size := 16, ien := true }), (1, some ioCq)] })] } }, 0, 0, { opc := 1, cid := 9, cdw10 := 0xf0001, cdw11 := 0x10001 }, { base := 0, size := 16, ien := true }, by decide +kernel⟩

theorem witness_QueueCommandsResult_3 : ∃ s : State, ∃ f : Nat, ∃ c : Sqe, ∃ q : Cq, ∃ v : Cq, (s.adminOk f = true) ∧ (c.opc.toNat = 4) ∧ ((s.fn f).cqs.get none 0 = some q) ∧ (c.qid ≠ 0) ∧ ((s.fn f).cqs.get none c.qid = some v) ∧ (∀ e ∈ (s.fn f).sqs, ∀ x, e.2 = some x → x.cqid ≠ c.qid) :=
  ⟨{ ready0 with nvme := { ready0.nvme with fns := [(0, { admTail := 1, cqs := [(0, some { base := 0, size := 16, ien := true }), (1, some ioCq)] })] } }, 0, { opc := 4, cid := 9, cdw10 := 1 }, { base := 0, size := 16, ien := true }, ioCq, by decide +kernel⟩

theorem witness_QueueCommandsResult_4 : ∃ s : State, ∃ f : Nat, ∃ c : Sqe, ∃ q : Cq, ∃ v : Sq, (s.adminOk f = true) ∧ (c.opc.toNat = 0) ∧ ((s.fn f).cqs.get none 0 = some q) ∧ (s.sq f c.qid = some v) ∧ (v.deleting = none ∧ v.keyPage = none ∧ v.lane < 96) ∧ (s.owner v.lane = f) ∧ (s.fld (F.LANE_STATUS_SQID v.lane) = c.qid) ∧ (s.fld (F.LANE_STATUS_STATE v.lane) ≠ 0) ∧ (s.busyTags v.lane = []) ∧ ((s.lane v.lane).resume = [] ∧ (s.lane v.lane).after = []) :=
  ⟨idleLane, 0, { opc := 0, cid := 9, cdw10 := 1 }, { base := 0, size := 16, ien := true }, { base := 0, size := 16, cqid := 1, lane := 0 }, by decide +kernel⟩

theorem witness_QueueCommandsResult_5 : ∃ s : State, ∃ f : Nat, ∃ t : Nat, ∃ n : Nat, ∃ c : Sqe, ∃ q : Cq, ∃ v : Cq, ∃ x : Sq, ∃ g : Tag, (s.adminOk f = true) ∧ (c.opc.toNat = 8) ∧ ((s.fn f).cqs.get none 0 = some q) ∧ (s.sq f c.qid = some x) ∧ (x.deleting = none ∧ x.lane < 96) ∧ (s.owner x.lane = f) ∧ (s.fld (F.LANE_STATUS_SQID x.lane) = c.qid) ∧ (s.fld (F.LANE_STATUS_CQID x.lane) ≠ 0 ∧ (s.fn f).cqs.get none (s.fld (F.LANE_STATUS_CQID x.lane)) = some v) ∧ (s.busyTags x.lane = [(t, g)]) ∧ ((s.lane x.lane).resume = []) ∧ (g.stage = .waiting) ∧ (g.cmd.sqe.cid.toNat = c.cdw10.toNat / 65536) ∧ (n < 4) :=
  ⟨waitState { opc := 1, cid := 7, nsid := 1 }, 0, 3, 3, { opc := 8, cid := 9, cdw10 := 0x70001 }, { base := 0, size := 16, ien := true }, ioCq, { base := 0, size := 16, cqid := 1, lane := 0 }, { ioTag { opc := 1, cid := 7, nsid := 1 } with stage := .waiting }, by decide +kernel⟩

theorem witness_QueueCommandsResult_6 : ∃ s : State, ∃ f : Nat, ∃ n : Nat, ∃ c : Sqe, ∃ q : Cq, (s.adminOk f = true) ∧ (c.opc.toNat = 8) ∧ ((s.fn f).cqs.get none 0 = some q) ∧ (s.sq f c.qid = none) ∧ (n < 4) :=
  ⟨ready0, 0, 0, { opc := 8, cid := 9, cdw10 := 0x70001 }, { base := 0, size := 16, ien := true }, by decide +kernel⟩

theorem witness_QueueCommandsResult_7 : ∃ s : State, ∃ f : Nat, ∃ n : Nat, ∃ c : Sqe, ∃ q : Cq, (s.adminOk f = true) ∧ (c.opc.toNat = 8) ∧ ((s.fn f).cqs.get none 0 = some q) ∧ (4 ≤ n) :=
  ⟨ready0, 0, 4, { opc := 8, cid := 9, cdw10 := 0x70001 }, { base := 0, size := 16, ien := true }, by decide +kernel⟩

theorem witness_QueueCommandsResult_8 : ∃ s : State, ∃ f : Nat, ∃ c : Sqe, ∃ q : Cq, ∃ v : Sq, (s.adminOk f = true) ∧ (c.opc.toNat = 0xC4) ∧ ((s.fn f).cqs.get none 0 = some q) ∧ (c.stray (1 :: vendorDws) [(10, 0xFFFF)] = none) ∧ (s.sq f c.qid = some v) ∧ (v.deleting = none ∧ v.lane < 96) ∧ (s.owner v.lane = f) ∧ (s.fld (F.LANE_STATUS_SQID v.lane) = c.qid) ∧ (s.fld (F.LANE_STATUS_STATE v.lane) = 2) ∧ (s.busyTags v.lane = []) ∧ ((s.lane v.lane).resume = []) :=
  ⟨idleLane.setFld (F.LANE_STATUS_STATE 0) 2, 0, { opc := 0xC4, cid := 9, cdw10 := 1 }, { base := 0, size := 16, ien := true }, { base := 0, size := 16, cqid := 1, lane := 0 }, by decide +kernel⟩

theorem witness_QueueCommandsResult_9 : ∃ s : State, ∃ what : MsixOpen, (s.live = true) :=
  ⟨{ up State.reset with nvme := { vecPend := [3, 5], fns := [(0, { msixEn := true })] } }, .vectorMask 5, by decide +kernel⟩

theorem witness_QueueCommandsResult_10 : ∃ s : State, ∃ f : Nat, ∃ qid : Nat, ∃ q : Cq, (s.live = true) ∧ ((s.fn f).cqs.get none qid = some q) ∧ (0 < q.held) :=
  ⟨{ ready0 with nvme := { ready0.nvme with vecOpen := [1], fns := [(0, { msixEn := true, cqs := [(1, some { ioCq with held := 2 })] })] } }, 0, 1, { ioCq with held := 2 }, by decide +kernel⟩

theorem witness_AdminReportsResult_1 : ∃ s : State, ∃ f : Nat, ∃ n : Nat, ∃ off : Nat, ∃ c : Sqe, ∃ bs : Bytes, ∃ q : Cq, (s.adminOk f = true) ∧ (c.opc.toNat = 2) ∧ ((s.fn f).cqs.get none 0 = some q) ∧ ((s.logPage f (c.cdw10.toNat % 256)).map Prod.snd = some bs) ∧ (n = 4 * (c.cdw10.toNat / 65536 + 65536 * (c.cdw11.toNat % 65536) + 1)) ∧ (n ≤ 2097152) ∧ (off = c.cdw12.toNat + 2 ^ 32 * c.cdw13.toNat) ∧ (off % 4 = 0 ∧ off ≤ bs.length) :=
  ⟨ready0, 0, 64, 0, { opc := 2, cid := 9, cdw10 := 0xf00c3 }, ready0.logRecorder, { base := 0, size := 16, ien := true }, by decide +kernel, by decide +kernel, by decide +kernel, rfl, by decide +kernel, by decide +kernel, by decide +kernel, by decide +kernel⟩

theorem witness_AdminReportsResult_2 : ∃ s : State, ∃ f : Nat, ∃ c : Sqe, ∃ q : Cq, (s.adminOk f = true) ∧ (c.opc.toNat = 2) ∧ ((s.fn f).cqs.get none 0 = some q) ∧ (c.cdw10.toNat % 256 ∉ [1, 2, 3, 0xC0, 0xC1, 0xC2, 0xC3, 0xC4]) :=
  ⟨ready0, 0, { opc := 2, cid := 9, cdw10 := 0xf0099 }, { base := 0, size := 16, ien := true }, by decide +kernel⟩

theorem witness_AdminReportsResult_3 : ∃ s : State, ∃ f : Nat, ∃ c : Sqe, ∃ q : Cq, ∃ v : Ns, ∃ bs : Bytes, (s.adminOk f = true) ∧ (c.opc.toNat = 6) ∧ ((s.fn f).cqs.get none 0 = some q) ∧ (c.cdw10.toNat % 256 = 0) ∧ (0 < c.nsid.toNat ∧ c.nsid.toNat ≤ 256) ∧ (s.ns c.nsid.toNat = some v) ∧ (v.attached = some f) ∧ (bs = idNamespace (some v)) :=
  ⟨{ ready0 with nvme := { ready0.nvme with nss := [(1, some capNs)] } }, 0, { opc := 6, cid := 9, nsid := 1 }, { base := 0, size := 16, ien := true }, capNs, idNamespace (some capNs), by decide +kernel, by decide +kernel, by decide +kernel, by decide +kernel, by decide +kernel, by decide +kernel, by decide +kernel, rfl⟩

theorem witness_AdminReportsResult_4 : ∃ s : State, ∃ f : Nat, ∃ c : Sqe, ∃ d : Bytes, ∃ q : Cq, (s.adminOk f = true) ∧ (c.opc.toNat = 9) ∧ ((s.fn f).cqs.get none 0 = some q) ∧ (c.cdw10.toNat % 256 = 0x0B) ∧ (c.cdw10.getLsbD 31 = false) :=
  ⟨ready0, 0, { opc := 9, cid := 9, cdw10 := 0x0B, cdw11 := 0xffff }, [], { base := 0, size := 16, ien := true }, by decide +kernel⟩

theorem witness_AdminReportsResult_5 : ∃ s : State, ∃ f : Nat, ∃ c : Sqe, ∃ q : Cq, (s.adminOk f = true) ∧ (c.opc.toNat = 0xA) ∧ ((s.fn f).cqs.get none 0 = some q) ∧ (c.cdw10.toNat % 2048 = 0x0B) :=
  ⟨ready0, 0, { opc := 10, cid := 9, cdw10 := 0x0B }, { base := 0, size := 16, ien := true }, by decide +kernel⟩

theorem witness_AdminReportsResult_6 : ∃ s : State, ∃ f : Nat, ∃ c : Sqe, (s.adminOk f = true) ∧ (c.opc.toNat = 0xC) ∧ ((s.fn f).aers.length < 4) ∧ ((s.fn f).notices = []) :=
  ⟨ready0, 0, { opc := 12, cid := 9 }, by decide +kernel⟩

theorem witness_AdminReportsResult_7 : ∃ s : State, ∃ f : Nat, ∃ n : Nat, ∃ c : Sqe, ∃ q : Cq, ∃ rest : List Nat, (s.adminOk f = true) ∧ (c.opc.toNat = 0xC) ∧ ((s.fn f).cqs.get none 0 = some q) ∧ ((s.fn f).aers.length < 4) ∧ ((s.fn f).notices = n :: rest) :=
  ⟨{ ready0 with nvme := { ready0.nvme with fns := [(0, { admTail := 1, cqs := [(0, some { base := 0, size := 16, ien := true })], notices := [5] })] } }, 0, 5, { opc := 12, cid := 9 }, { base := 0, size := 16, ien := true }, [], by decide +kernel⟩

theorem witness_AdminReportsResult_8 : ∃ s : State, ∃ c : Sqe, ∃ q : Cq, ∃ first : Nat, ∃ n : Nat, (s.adminOk 0 = true) ∧ (c.opc.toNat = 0xC2) ∧ ((s.fn 0).cqs.get none 0 = some q) ∧ (c.stray (1 :: vendorDws) [(1, 0xFFFFFFFF), (10, 0xFFFFFFFF), (11, 0xFFFFFFFF), (12, 0x1FFFF)] = none) ∧ (s.attachedTo c.nsid.toNat 0 = true ∧ s.isCapture c.nsid.toNat = true) ∧ (s.on F.FTL_STATUS_REBUILDING = false) ∧ (first = c.cdw10.toNat + 2 ^ 32 * c.cdw11.toNat) ∧ (n = c.cdw12.toNat % 131072 + 1) ∧ (first + n ≤ s.nsSize c.nsid.toNat / 256) :=
  ⟨{ ready0 with nvme := { ready0.nvme with nss := [(1, some capNs)] } }, { opc := 0xC2, cid := 9, nsid := 1, cdw10 := 3, cdw12 := 1 }, { base := 0, size := 16, ien := true }, 3, 2, by decide +kernel⟩

theorem witness_AdminReportsResult_9 : ∃ s : State, ∃ c : Sqe, ∃ q : Cq, ∃ rs : List Record, (s.adminOk 0 = true) ∧ (c.opc.toNat = 0xCA) ∧ ((s.fn 0).cqs.get none 0 = some q) ∧ (c.stray (1 :: vendorDws) [(10, 1), (11, 0xFFFFFFFF), (12, 0xFFFFFFFF)] = none) ∧ (c.cdw12.toNat % 16 = 0 ∧ c.cdw12.toNat ≤ 2097152) ∧ (c.cdw10 = 0) ∧ (rs = fitting c.cdw12.toNat (recordsFrom s.evt.fixed c.cdw11.toNat)) ∧ (rs ≠ []) :=
  ⟨{ ready0 with evt := { fixed := [{ type := 5, bridged := false, seq := 1, time := 0, payload := [1, 2] }] } }, { opc := 0xCA, cid := 9, cdw11 := 1, cdw12 := 64 }, { base := 0, size := 16, ien := true }, [{ type := 5, bridged := false, seq := 1, time := 0, payload := [1, 2] }], by decide +kernel⟩

theorem witness_NamespaceCommandsResult_1 : ∃ s : State, ∃ f : Nat, ∃ i : Nat, ∃ c : Sqe, ∃ d : Bytes, ∃ q : Cq, (s.adminOk f = true) ∧ (c.opc.toNat = 0x0D) ∧ ((s.fn f).cqs.get none 0 = some q) ∧ (c.cdw10.toNat % 16 = 0) ∧ (s.createErr f d = none) ∧ (i < 256 ∧ s.ns (i + 1) = none) ∧ (∀ j, j < i → s.ns (j + 1) ≠ none) :=
  ⟨flash1 ready0, 0, 0, { opc := 0x0D, cid := 9 }, newNs, { base := 0, size := 16, ien := true }, by decide +kernel, by decide +kernel, by decide +kernel, by decide +kernel, by decide +kernel, by decide +kernel⟩

theorem witness_NamespaceCommandsResult_2 : ∃ s : State, ∃ f : Nat, ∃ g : Nat, ∃ c : Sqe, ∃ d : Bytes, ∃ q : Cq, ∃ v : Ns, (s.adminOk f = true) ∧ (c.opc.toNat = 0x15) ∧ ((s.fn f).cqs.get none 0 = some q) ∧ (s.ns c.nsid.toNat = some v) ∧ (Bytes.le d 0 2 = 1 ∧ Bytes.le d 2 2 = g) ∧ (s.fnExists g = true ∧ g ≤ 31) ∧ ((c.cdw10.toNat % 16 = 0 ∧ v.attached = none ∧ v.keyPage = none) ∨ (c.cdw10.toNat % 16 = 1 ∧ v.attached = some g ∧ s.nsBusy c.nsid.toNat = false)) :=
  ⟨{ ready0 with nvme := { ready0.nvme with nss := [(1, some { capNs with attached := none })] } }, 0, 0, { opc := 0x15, cid := 9, nsid := 1 }, [1, 0, 0, 0], { base := 0, size := 16, ien := true }, { capNs with attached := none }, by decide +kernel⟩

theorem witness_NamespaceCommandsResult_3 : ∃ s : State, ∃ f : Nat, ∃ c : Sqe, ∃ q : Cq, ∃ v : Ns, (s.adminOk f = true) ∧ (c.opc.toNat = 0x0D) ∧ ((s.fn f).cqs.get none 0 = some q) ∧ (c.cdw10.toNat % 16 = 1) ∧ (c.nsid.toNat ≠ 0xFFFFFFFF) ∧ (s.ns c.nsid.toNat = some v) ∧ (s.nsBusy c.nsid.toNat = false) :=
  ⟨{ ready0 with nvme := { ready0.nvme with nss := [(1, some capNs)] }, ftl := { capMap := [(2 ^ 32 + 3, 0x0001800000000005#64)] } }, 0, { opc := 0x0D, cid := 9, nsid := 1, cdw10 := 1 }, { base := 0, size := 16, ien := true }, capNs, by decide +kernel⟩

theorem witness_NamespaceCommandsResult_4 : ∃ s : State, ∃ f : Nat, ∃ c : Sqe, ∃ q : Cq, ∃ v : Ns, (s.adminOk f = true) ∧ (c.opc.toNat = 0x80) ∧ ((s.fn f).cqs.get none 0 = some q) ∧ (c.cdw10.toNat % 16384 = 512 ∨ c.cdw10.toNat % 16384 = 0) ∧ (c.nsid.toNat ≠ 0xFFFFFFFF) ∧ (s.ns c.nsid.toNat = some v) ∧ (v.attached = some f) ∧ (s.nsBusy c.nsid.toNat = false) ∧ (s.formatOf f c = none) :=
  ⟨{ ready0 with nvme := { ready0.nvme with nss := [(1, some capNs)] } }, 0, { opc := 0x80, cid := 9, nsid := 1, cdw10 := 512 }, { base := 0, size := 16, ien := true }, capNs, by decide +kernel⟩

theorem witness_NamespaceCommandsResult_5 : ∃ s : State, ∃ f : Nat, ∃ n : Nat, ∃ c : Sqe, ∃ q : Cq, ∃ v : Ns, ∃ x : Formatting, (s.live = true) ∧ ((s.fn f).cqs.get none 0 = some q) ∧ (s.formatOf f c = some x) ∧ (x.asked = true ∧ x.nss = [n]) ∧ (s.ns n = some v) :=
  ⟨{ ready0 with nvme := { ready0.nvme with nss := [(1, some { capNs with notReady := true })], formats := [{ fn := 0, cid := 9, nss := [1], ses := 1 }] }, ftl := { capMap := [(2 ^ 32 + 3, 0x0001800000000005#64)] } }, 0, 1, { opc := 0x80, cid := 9, nsid := 1, cdw10 := 512 }, { base := 0, size := 16, ien := true }, { capNs with notReady := true }, { fn := 0, cid := 9, nss := [1], ses := 1 }, by decide +kernel⟩

theorem witness_FirmwareUpdateResult_1 : ∃ s : State, ∃ f : Nat, ∃ n : Nat, ∃ off : Nat, ∃ c : Sqe, ∃ d : Bytes, ∃ q : Cq, (s.adminOk f = true) ∧ (c.opc.toNat = 0x11) ∧ ((s.fn f).cqs.get none 0 = some q) ∧ (n = 4 * (c.cdw10.toNat + 1)) ∧ (off = 4 * c.cdw11.toNat) ∧ (n ≤ 2097152) ∧ (n ≤ d.length) :=
  ⟨ready0, 0, 8, 4, { opc := 0x11, cid := 9, cdw10 := 1, cdw11 := 1 }, [1, 2, 3, 4, 5, 6, 7, 8], { base := 0, size := 16, ien := true }, by decide +kernel⟩

theorem witness_FirmwareUpdateResult_2 : ∃ s : State, ∃ f : Nat, ∃ slot : Nat, ∃ c : Sqe, ∃ sig : Bool, ∃ table : List Profile, ∃ q : Cq, (s.adminOk f = true) ∧ (c.opc.toNat = 0x10) ∧ ((s.fn f).cqs.get none 0 = some q) ∧ (s.updating = false) ∧ (c.cdw10.toNat % 8 = slot + 1 ∧ slot < 2 ∧ c.cdw10.toNat / 8 % 8 = 2) ∧ ((s.slot slot).bad = false) ∧ (s.commitCheck slot 2 sig table = 0) :=
  ⟨{ ready0 with sec := { slots := [(1, { fw := fwImage, bundle := bundleImage })] } }, 0, 1, { opc := 0x10, cid := 9, cdw10 := 18 }, true, [], { base := 0, size := 16, ien := true }, by decide +kernel⟩

theorem witness_FirmwareUpdateResult_3 : ∃ s : State, ∃ f : Nat, ∃ slot : Nat, ∃ ca : Nat, ∃ c : Sqe, ∃ sig : Bool, ∃ table : List Profile, (s.adminOk f = true) ∧ (c.opc.toNat = 0x10) ∧ (s.updating = false) ∧ (c.cdw10.toNat % 8 = slot + 1 ∧ slot < 2 ∧ slot ≠ s.fld F.SEC_STATUS_RUN_SLOT) ∧ (ca = c.cdw10.toNat / 8 % 8 ∧ (ca = 0 ∨ ca = 1 ∨ ca = 3)) ∧ ((s.slot slot).bad = false) ∧ (s.commitCheck slot ca sig table = 0) ∧ (s.cfl.op = none) :=
  ⟨{ ready0 with sec := { staged := fwImage, stagedOk := true } }, 0, 1, 0, { opc := 0x10, cid := 9, cdw10 := 2 }, true, [], by decide +kernel⟩

theorem witness_FirmwareUpdateResult_4 : ∃ s : State, ∃ w : SlotWrite, ∃ sig : Bool, (s.live = true) ∧ (s.sec.slotWrite = some w) ∧ (65536 * (w.sector + 1) < w.image.length) ∧ (w.bundle = false ∧ w.slot < 2 ∧ w.sector < 160) ∧ (s.cflAt (slotSector w.slot false + w.sector) = true ∧ s.cfl.wait = []) ∧ (slotSector w.slot false + w.sector ∉ s.cfl.bad) :=
  ⟨{ ready0 with sec := { slotWrite := some { slot := 1, bundle := false, sector := 0, ca := 0, image := List.replicate 65540 7, cmd := none } } }, { slot := 1, bundle := false, sector := 0, ca := 0, image := List.replicate 65540 7, cmd := none }, true, by decide +kernel, rfl, by show 65536 * (0 + 1) < (List.replicate 65540 (7 : Byte)).length; rw [List.length_replicate]; decide, by decide, by decide +kernel, by decide +kernel⟩

theorem witness_FirmwareUpdateResult_5 : ∃ s : State, ∃ w : SlotWrite, ∃ f : Nat, ∃ cid : BitVec 16, ∃ q : Cq, (s.live = true) ∧ (s.power.phase ≠ .brumation) ∧ (s.sec.slotWrite = some w) ∧ (w.image.length ≤ 65536 * (w.sector + 1)) ∧ (w.bundle = false ∧ w.ca = 0) ∧ (s.cflAt (slotSector w.slot false + w.sector) = true ∧ s.cfl.wait = []) ∧ (slotSector w.slot false + w.sector ∉ s.cfl.bad) ∧ (w.cmd = some (f, cid)) ∧ ((s.fn f).cqs.get none 0 = some q) :=
  ⟨{ ready0 with sec := { slotWrite := some { slot := 1, bundle := false, sector := 0, ca := 0, image := fwImage, cmd := some (0, 9) } } }, { slot := 1, bundle := false, sector := 0, ca := 0, image := fwImage, cmd := some (0, 9) }, 0, 9, { base := 0, size := 16, ien := true }, by decide +kernel⟩

theorem witness_FirmwareUpdateResult_6 : ∃ s : State, ∃ f : Nat, ∃ slot : Nat, ∃ cid : BitVec 16, ∃ table : List Profile, ∃ q : Cq, ∃ inTime : Bool, (s.nvme.molting = some (f, cid)) ∧ (s.sec.moltTo = some (slot, table)) ∧ ((s.fn f).cqs.get none 0 = some q) ∧ (inTime = true → s.lanesQuiet = true) ∧ (∀ g, g ≤ s.nvme.numVfs → ((s.fn g).features.get 0 0x0B).getLsbD 9 = false) :=
  ⟨{ ready0 with nvme := { ready0.nvme with molting := some (0, 9) }, sec := { moltTo := some (1, [profile12]) } }, 0, 1, 9, [profile12], { base := 0, size := 16, ien := true }, true, by decide +kernel⟩

theorem witness_VendorInstallResult_1 : ∃ s : State, ∃ c : Sqe, ∃ d : Bytes, ∃ img : Bytes, ∃ keepOk : Bool, ∃ q : Cq, ∃ first : Nat, ∃ last : Nat, ∃ n : Nat, (s.adminOk 0 = true) ∧ (c.opc.toNat = 0xC5) ∧ ((s.fn 0).cqs.get none 0 = some q) ∧ (c.stray (1 :: vendorDws) [(10, 0x3F3F), (11, 0xFFFFFFFF)] = none) ∧ (first = c.cdw10.toNat % 64 ∧ last = c.cdw10.toNat / 256 % 64) ∧ (first ≤ last ∧ last < s.part.channels) ∧ (c.cdw11.toNat ≤ 2097152) ∧ (∀ x, first ≤ x → x ≤ last → (s.reg R.CCS_LOCK).getLsbD x = false) ∧ (img = fit c.cdw11.toNat d) ∧ (s.mcCheck img c.cdw11.toNat = none) ∧ (Bytes.le img 0xC 2 = 0) ∧ (n = Bytes.le img 8 4) ∧ (3 ∉ s.cfl.bad) ∧ (s.nand.found = []) :=
  ⟨{ progState with nand := {} }, { opc := 0xC5, cid := 9, cdw10 := 0x201, cdw11 := 248 }, mcImage, mcImage, true, { base := 0, size := 16, ien := true }, 1, 2, 1, by decide +kernel⟩

theorem witness_VendorInstallResult_2 : ∃ s : State, ∃ f : Nat, ∃ k : Nat, ∃ kind : Nat, ∃ c : Sqe, ∃ d : Bytes, ∃ r : Bytes, ∃ q : Cq, (s.adminOk f = true) ∧ (c.opc.toNat = 0xC9) ∧ ((s.fn f).cqs.get none 0 = some q) ∧ (s.part = .qk1600) ∧ (c.stray (1 :: vendorDws) [(10, 0xFF), (11, 0xFFFFFFFF)] = none) ∧ (c.cdw11.toNat ≤ 2097152) ∧ (k = c.cdw10.toNat % 256) ∧ (r = fit c.cdw11.toNat d) ∧ (kind = Bytes.le r 6 1) ∧ (s.keyCheck f k c.cdw11.toNat r = 0) ∧ (s.keyRefs k = 0) :=
  ⟨ready0, 0, 3, 2, { opc := 0xC9, cid := 9, cdw10 := 3, cdw11 := 48 }, keyRecord, keyRecord, { base := 0, size := 16, ien := true }, by decide +kernel⟩

theorem witness_VendorInstallResult_3 : ∃ s : State, ∃ c : Sqe, ∃ chal : BitVec 128, ∃ q : Cq, ∃ scope : Nat, ∃ held : Nat, ∃ resp : Bytes, (s.adminOk 0 = true) ∧ (c.opc.toNat = 0xCC) ∧ ((s.fn 0).cqs.get none 0 = some q) ∧ (c.stray vendorDws [(10, 0xFF), (12, 0xFFFFFFFF), (13, 0xFFFFFFFF), (14, 0xFFFFFFFF), (15, 0xFFFFFFFF)] = none) ∧ (scope = c.cdw10.toNat % 256) ∧ (0 < scope ∧ scope < 16 ∧ outside scope (grantable (s.fld F.SEC_LC_STATE)) = 0) ∧ (s.on F.SEC_STATUS_TAMPER = false) ∧ (s.sec.lastGrant = none) ∧ (held = Nat.lor (s.fld F.DBG_STATUS_SCOPE) scope) ∧ (resp = leBytes 4 c.cdw12.toNat ++ leBytes 4 c.cdw13.toNat ++ leBytes 4 c.cdw14.toNat ++ leBytes 4 c.cdw15.toNat) :=
  ⟨ready0, { opc := 0xCC, cid := 9, cdw10 := 1 }, 5, { base := 0, size := 16, ien := true }, 1, 1, List.replicate 16 0, by decide +kernel⟩

theorem witness_HostReadsResult_1 : ∃ s : State, ∃ l : Nat, ∃ t : Nat, ∃ g : Tag, ∃ bs : List Blk, ∃ dw : Nat, (Starts s l t g) ∧ (g.cmd.sqe.opc.toNat = 2) ∧ (g.cmd.sqe.ioFields = none) ∧ (s.rangeErr l g.cmd.sqe true = none) ∧ (s.meetsCommitting g.cmd.sqe.nsid.toNat g.cmd.sqe.slba g.cmd.sqe.nlb = false) ∧ (bs = (List.range g.cmd.sqe.nlb).map (fun i => s.blk g.cmd.sqe.nsid.toNat (g.cmd.sqe.slba + i))) ∧ (dw = s.readWord g.cmd.sqe.nsid.toNat g.cmd.sqe.slba bs false) :=
  ⟨waitState { opc := 2, cid := 7, nsid := 2, cdw10 := 9 }, 0, 3, { ioTag { opc := 2, cid := 7, nsid := 2, cdw10 := 9 } with stage := .waiting }, [{ bytes := zeros 4096 }], 0, by decide +kernel, by decide +kernel, by decide +kernel, by decide +kernel, by decide +kernel, rfl, by decide +kernel⟩

theorem witness_HostReadsResult_2 : ∃ s : State, ∃ l : Nat, ∃ t : Nat, ∃ g : Tag, ∃ ps : List Nat, (s.running l t 2 = some g) ∧ (g.cmd.sqe.ioFields = none) ∧ (s.rangeErr l g.cmd.sqe true = none) ∧ ((g.seen = none ∧ s.meetsCommitting g.cmd.sqe.nsid.toNat g.cmd.sqe.slba g.cmd.sqe.nlb = true) ∨ (g.seen.isSome = true ∧ s.awaiting (.cmd l t) = true)) :=
  ⟨withSpan 4 (ioState { opc := 2, cid := 7, nsid := 1, cdw10 := 512 }), 0, 3, ioTag { opc := 2, cid := 7, nsid := 1, cdw10 := 512 }, [], rfl, by decide +kernel, by decide +kernel, by decide +kernel⟩

theorem witness_HostReadsResult_3 : ∃ s : State, ∃ l : Nat, ∃ t : Nat, ∃ g : Tag, ∃ q : Cq, ∃ v : Seen, ∃ ps : List Nat, (s.running l t 2 = some g) ∧ (PlainLane s l t g q) ∧ (g.cmd.sqe.ioFields = none) ∧ (s.rangeErr l g.cmd.sqe true = none) ∧ (g.seen = some v) ∧ (s.awaiting (.cmd l t) = false) ∧ (s.cmdPage l g.cmd.sqe.nsid.toNat = none) ∧ (∀ b ∈ v.blks, b.page = none ∧ b.lost = false ∧ b.auth = false ∧ b.bad = false) ∧ (ps = [] ∨ ∀ b ∈ v.blks, b.hbm = false) :=
  ⟨seenState { opc := 2, cid := 7, nsid := 2, cdw10 := 9 } seen1, 0, 3, { ioTag { opc := 2, cid := 7, nsid := 2, cdw10 := 9 } with seen := some seen1 }, ioCq, seen1, [0], by decide +kernel⟩

theorem witness_HostReadsResult_4 : ∃ s : State, ∃ l : Nat, ∃ t : Nat, ∃ x : Nat, ∃ g : Tag, ∃ bs : List Blk, ∃ dw : Nat, (Starts s l t g) ∧ (g.cmd.sqe.opc.toNat = 0x86) ∧ (s.vendorErr l g.cmd.sqe = none) ∧ (s.rangeErr l g.cmd.sqe true = none) ∧ (x = g.cmd.sqe.slba / 256 ∧ x = (g.cmd.sqe.slba + g.cmd.sqe.nlb - 1) / 256) ∧ (s.meetsCommitting g.cmd.sqe.nsid.toNat g.cmd.sqe.slba g.cmd.sqe.nlb = false) ∧ (bs = (List.range g.cmd.sqe.nlb).map (fun i => s.blk g.cmd.sqe.nsid.toNat (g.cmd.sqe.slba + i))) ∧ (dw = s.readWord g.cmd.sqe.nsid.toNat g.cmd.sqe.slba bs (!s.hintOk g.cmd.sqe)) :=
  ⟨waitState { opc := 0x86, cid := 7, nsid := 1, cdw10 := 9 }, 0, 3, 0, { ioTag { opc := 0x86, cid := 7, nsid := 1, cdw10 := 9 } with stage := .waiting }, [{ bytes := zeros 4096, state := 3 }], 9, by decide +kernel, by decide +kernel, by decide +kernel, by decide +kernel, by decide +kernel, by decide +kernel, rfl, by decide +kernel⟩

theorem witness_HostReadsResult_5 : ∃ s : State, ∃ l : Nat, ∃ t : Nat, ∃ g : Tag, ∃ q : Cq, ∃ v : Seen, ∃ ps : List Nat, (s.running l t 0x86 = some g) ∧ (PlainLane s l t g q) ∧ (s.vendorErr l g.cmd.sqe = none) ∧ (s.rangeErr l g.cmd.sqe true = none) ∧ (g.cmd.sqe.slba / 256 = (g.cmd.sqe.slba + g.cmd.sqe.nlb - 1) / 256) ∧ (g.seen = some v) ∧ (s.awaiting (.cmd l t) = false) ∧ (s.cmdPage l g.cmd.sqe.nsid.toNat = none) ∧ (∀ b ∈ v.blks, b.page = none ∧ b.lost = false ∧ b.auth = false ∧ b.bad = false) ∧ (ps = [] ∨ ∀ b ∈ v.blks, b.hbm = false) :=
  ⟨seenState { opc := 0x86, cid := 7, nsid := 1, cdw10 := 9 } seen1, 0, 3, { ioTag { opc := 0x86, cid := 7, nsid := 1, cdw10 := 9 } with seen := some seen1 }, ioCq, seen1, [], by decide +kernel⟩

theorem witness_HostReadsResult_6 : ∃ s : State, ∃ l : Nat, ∃ t : Nat, ∃ g : Tag, ∃ ps : List Nat, (s.running l t 0x86 = some g) ∧ (s.vendorErr l g.cmd.sqe = none) ∧ (s.rangeErr l g.cmd.sqe true = none) ∧ (g.cmd.sqe.slba / 256 = (g.cmd.sqe.slba + g.cmd.sqe.nlb - 1) / 256) ∧ ((g.seen = none ∧ s.meetsCommitting g.cmd.sqe.nsid.toNat g.cmd.sqe.slba g.cmd.sqe.nlb = true) ∨ (g.seen.isSome = true ∧ s.awaiting (.cmd l t) = true)) :=
  ⟨withRead (seenState { opc := 0x86, cid := 7, nsid := 1, cdw10 := 9 } seen1), 0, 3, { ioTag { opc := 0x86, cid := 7, nsid := 1, cdw10 := 9 } with seen := some seen1 }, [], by decide +kernel⟩

theorem witness_HostReadsResult_7 : ∃ s : State, ∃ l : Nat, ∃ t : Nat, ∃ n : Nat, ∃ g : Tag, ∃ q : Cq, ∃ rs : List Bytes, (s.running l t 0x8A = some g) ∧ (PlainLane s l t g q) ∧ (s.vendorErr l g.cmd.sqe = none) ∧ (n = g.cmd.sqe.cdw12.toNat % 32768 + 1 ∧ n ≤ 21845) ∧ (g.cmd.sqe.slba + n ≤ s.nsSize g.cmd.sqe.nsid.toNat / 256) ∧ (rs = gapRows s g.cmd.sqe.nsid.toNat g.cmd.sqe.slba n) :=
  ⟨gapState, 0, 3, 4, gapTag, ioCq, gapRows gapState gapTag.cmd.sqe.nsid.toNat gapTag.cmd.sqe.slba 4, by decide +kernel, by decide +kernel, by decide +kernel, by decide +kernel, by decide +kernel, by decide +kernel⟩

theorem witness_HostWritesResult_1 : ∃ s : State, ∃ l : Nat, ∃ t : Nat, ∃ n : Nat, ∃ lba : Nat, ∃ g : Tag, (l < 96 ∧ t < 32) ∧ (s.running l t 1 = some g) ∧ (g.cmd.sqe.ioFields = none) ∧ (s.rangeErr l g.cmd.sqe true = none) ∧ (g.deny = none) ∧ (s.writeKey l g.cmd.sqe = none) ∧ (s.isCapture g.cmd.sqe.nsid.toNat = false) ∧ (n = g.cmd.sqe.nlb ∧ lba = g.cmd.sqe.slba) ∧ (s.ftl.held = []) ∧ (s.writeThrough = false) ∧ (s.fld F.PWR_HU_WIN_IN_USE + n ≤ s.admitLimit) ∧ (s.ftl.nextSeq + n < 2 ^ 60) ∧ (∀ w ∈ s.ftl.wbuf, w.nsid = g.cmd.sqe.nsid.toNat → w.dealloc = 0 → w.lba < lba ∨ lba + n ≤ w.lba) :=
  ⟨windowOf (ioState { opc := 1, cid := 7, nsid := 2, cdw10 := 9 } [1, 2, 3]), 0, 3, 1, 9, ioTag { opc := 1, cid := 7, nsid := 2, cdw10 := 9 } [1, 2, 3], by decide +kernel, rfl, by decide +kernel⟩

theorem witness_HostWritesResult_2 : ∃ s : State, ∃ l : Nat, ∃ t : Nat, ∃ n : Nat, ∃ lba : Nat, ∃ g : Tag, (l < 96 ∧ t < 32) ∧ (s.running l t 1 = some g) ∧ (g.cmd.sqe.ioFields = none) ∧ (s.rangeErr l g.cmd.sqe true = none) ∧ (g.deny = none) ∧ (s.writeKey l g.cmd.sqe = none) ∧ (s.isCapture g.cmd.sqe.nsid.toNat = true) ∧ (s.inBusyWindow g.cmd.sqe.nsid.toNat (g.cmd.sqe.slba, g.cmd.sqe.nlb) = false) ∧ (n = g.cmd.sqe.nlb ∧ lba = g.cmd.sqe.slba) ∧ (s.wce l = false) ∧ (s.poolTakes l g = true) ∧ (s.ftl.held = []) ∧ (s.writeThrough = false) ∧ (s.fld F.PWR_HU_WIN_IN_USE + s.chargeOf l g ≤ s.admitLimit) ∧ (s.ftl.nextSeq + 512 < 2 ^ 60) :=
  ⟨windowOf (ioState { opc := 1, cid := 7, nsid := 1, cdw10 := 255, cdw12 := 1 } [1, 2, 3]), 0, 3, 2, 255, ioTag { opc := 1, cid := 7, nsid := 1, cdw10 := 255, cdw12 := 1 } [1, 2, 3], by decide +kernel, rfl, by decide +kernel⟩

theorem witness_HostWritesResult_3 : ∃ s : State, ∃ l : Nat, ∃ t : Nat, ∃ g : Tag, (l < 96 ∧ t < 32) ∧ (s.running l t 1 = some g) ∧ (g.cmd.sqe.ioFields = none) ∧ (s.rangeErr l g.cmd.sqe true = none) ∧ (g.deny = none) ∧ (s.writeKey l g.cmd.sqe = none) ∧ (s.isCapture g.cmd.sqe.nsid.toNat = false) ∧ ((l, t) ∉ s.ftl.held) ∧ (s.writeThrough = false) ∧ (s.ftl.held ≠ [] ∨ s.admitLimit < s.fld F.PWR_HU_WIN_IN_USE + g.cmd.sqe.nlb) :=
  ⟨{ windowOf (ioState { opc := 1, cid := 7, nsid := 2, cdw10 := 9 } [1, 2, 3]) with ftl := { held := [(0, 4)] } }, 0, 3, ioTag { opc := 1, cid := 7, nsid := 2, cdw10 := 9 } [1, 2, 3], by decide +kernel, rfl, by decide +kernel⟩

theorem witness_HostWritesResult_4 : ∃ s : State, ∃ l : Nat, ∃ t : Nat, ∃ g : Tag, ∃ rest : List (Nat × Nat), (l < 96 ∧ t < 32) ∧ (s.live = true) ∧ (s.ftl.held = (l, t) :: rest) ∧ (s.tag l t = some g) ∧ (s.writeThrough = false) ∧ (s.fld F.PWR_HU_WIN_IN_USE + s.chargeOf l g ≤ s.admitLimit) ∧ (s.poolTakes l g = true) :=
  ⟨{ windowOf (ioState { opc := 1, cid := 7, nsid := 2, cdw10 := 9 } [1, 2, 3]) with ftl := { held := [(0, 3), (0, 4)] } }, 0, 3, ioTag { opc := 1, cid := 7, nsid := 2, cdw10 := 9 } [1, 2, 3], [(0, 4)], by decide +kernel⟩

theorem witness_HostWritesResult_5 : ∃ s : State, ∃ l : Nat, ∃ t : Nat, ∃ g : Tag, ∃ q : Cq, (s.live = true) ∧ (PlainLane s l t g q) ∧ (g.stage = .started ∧ g.taken = true) ∧ (g.cmd.sqe.opc.toNat = 1 ∨ g.cmd.sqe.opc.toNat = 8 ∨ g.cmd.sqe.opc.toNat = 9) ∧ (s.unverified l t = false) :=
  ⟨(ioState { opc := 1, cid := 7, nsid := 2 }).setTag 0 3 (some { ioTag { opc := 1, cid := 7, nsid := 2 } with taken := true }), 0, 3, { ioTag { opc := 1, cid := 7, nsid := 2 } with taken := true }, ioCq, by decide +kernel⟩

theorem witness_HostWritesResult_6 : ∃ s : State, ∃ nsid : Nat, ∃ x : Nat, ∃ w : CapWrite, (s.ftl.capWrites.get none (extKey nsid x) = some w) :=
  ⟨{ State.reset with ftl := { capWrites := [(extKey 1 2, some { nsid := 1, ext := 2, bytes := [], fill := 0, states := [] })] } }, 1, 2, { nsid := 1, ext := 2, bytes := [], fill := 0, states := [] }, by decide +kernel⟩

theorem witness_DeallocationAndFlushResult_1 : ∃ s : State, ∃ l : Nat, ∃ t : Nat, ∃ n : Nat, ∃ lba : Nat, ∃ g : Tag, (l < 96 ∧ t < 32) ∧ (s.running l t 8 = some g) ∧ (g.cmd.sqe.ioFields = none) ∧ (s.rangeErr l g.cmd.sqe false = none) ∧ (g.deny = none) ∧ (s.isCapture g.cmd.sqe.nsid.toNat = false) ∧ (n = g.cmd.sqe.nlb ∧ lba = g.cmd.sqe.slba) ∧ (s.ftl.held = []) ∧ (s.writeThrough = true ∨ s.fld F.PWR_HU_WIN_IN_USE + 1 ≤ s.admitLimit) ∧ (s.ftl.nextSeq + 1 < 2 ^ 60) :=
  ⟨ioState { opc := 8, cid := 7, nsid := 2, cdw10 := 9, cdw12 := 3 }, 0, 3, 4, 9, ioTag { opc := 8, cid := 7, nsid := 2, cdw10 := 9, cdw12 := 3 }, by decide +kernel, rfl, by decide +kernel⟩

theorem witness_DeallocationAndFlushResult_2 : ∃ s : State, ∃ l : Nat, ∃ t : Nat, ∃ g : Tag, ∃ q : Cq, (s.running l t 8 = some g) ∧ (PlainLane s l t g q) ∧ (g.cmd.sqe.ioFields = none) ∧ (s.rangeErr l g.cmd.sqe false = none) ∧ (g.deny = none) ∧ (s.isCapture g.cmd.sqe.nsid.toNat = true) :=
  ⟨ioState { opc := 8, cid := 7, nsid := 1 }, 0, 3, ioTag { opc := 8, cid := 7, nsid := 1 }, ioCq, rfl, by decide +kernel⟩

theorem witness_DeallocationAndFlushResult_3 : ∃ s : State, ∃ l : Nat, ∃ t : Nat, ∃ g : Tag, (l < 96 ∧ t < 32) ∧ (s.running l t 9 = some g) ∧ (s.nsErr l g.cmd.sqe.nsid.toNat = none) ∧ (g.cmd.sqe.cdw11.getLsbD 2 = true) ∧ (∀ r ∈ g.cmd.ranges, r.1 + r.2 ≤ s.nsSize g.cmd.sqe.nsid.toNat) ∧ (g.deny = none) ∧ (s.isCapture g.cmd.sqe.nsid.toNat = false) ∧ (s.ftl.held = []) ∧ (s.writeThrough = true ∨ s.fld F.PWR_HU_WIN_IN_USE + s.chargeOf l g ≤ s.admitLimit) ∧ (s.ftl.nextSeq + 2 < 2 ^ 60) :=
  ⟨ioState { opc := 9, cid := 7, nsid := 2, cdw10 := 0, cdw11 := 4 } [0, 0, 0, 0, 3, 0, 0, 0, 8], 0, 3, ioTag { opc := 9, cid := 7, nsid := 2, cdw10 := 0, cdw11 := 4 } [0, 0, 0, 0, 3, 0, 0, 0, 8], by decide +kernel, rfl, by decide +kernel⟩

theorem witness_DeallocationAndFlushResult_4 : ∃ s : State, ∃ l : Nat, ∃ t : Nat, ∃ g : Tag, (l < 96 ∧ t < 32) ∧ (s.running l t 9 = some g) ∧ (s.nsErr l g.cmd.sqe.nsid.toNat = none) ∧ (g.cmd.sqe.cdw11.getLsbD 2 = false) ∧ (g.deny = none) ∧ ((l, t) ∉ s.ftl.held) :=
  ⟨ioState { opc := 9, cid := 7, nsid := 2 }, 0, 3, ioTag { opc := 9, cid := 7, nsid := 2 }, by decide +kernel, rfl, by decide +kernel⟩

theorem witness_DeallocationAndFlushResult_5 : ∃ s : State, ∃ l : Nat, ∃ t : Nat, ∃ g : Tag, ∃ q : Cq, (s.running l t 0 = some g) ∧ (PlainLane s l t g q) ∧ (s.flushErr l g.cmd.sqe = none) ∧ (∀ e ∈ s.ftl.capWrites, e.2.all (fun w => !s.flushNeeds l g w) = true) :=
  ⟨ioState { opc := 0, cid := 7, nsid := 1 }, 0, 3, ioTag { opc := 0, cid := 7, nsid := 1 }, ioCq, rfl, by decide +kernel⟩

theorem witness_DeallocationAndFlushResult_6 : ∃ s : State, ∃ l : Nat, ∃ t : Nat, ∃ g : Tag, (s.running l t 0 = some g) ∧ (s.flushErr l g.cmd.sqe = none) ∧ (∃ e ∈ s.ftl.capWrites, e.2.any (fun w => s.flushNeeds l g w) = true) :=
  ⟨{ ioState { opc := 0, cid := 7, nsid := 1 } with ftl := { capWrites := [(extKey 1 2, some { nsid := 1, ext := 2, bytes := [], fill := 0, states := [], cached := true, doneAt := 1 })] } } |>.setTag 0 3 (some { ioTag { opc := 0, cid := 7, nsid := 1 } with fetchedAt := 1 }), 0, 3, { ioTag { opc := 0, cid := 7, nsid := 1 } with fetchedAt := 1 }, by decide +kernel⟩

theorem witness_CollectionResult_1 : ∃ s : State, ∃ g : Nat, (s.mayCollect g = true) ∧ ((s.freeGbs g).length ≤ s.fld F.FTL_GC_GC_START ∨ s.fld (gcActive g) = 1) ∧ (s.closedGbs g ≠ []) ∧ (∀ x ∈ s.closedGbs g, 0 < s.gbPages g x) :=
  ⟨gcState, 0, by decide +kernel⟩

theorem witness_CollectionResult_2 : ∃ s : State, ∃ t : State, ∃ g : Nat, ∃ i : Nat, ∃ key : Nat, ∃ new : Nat, ∃ rest : List Nat, ∃ c : Gc, ∃ f : FUnit, (s.live = true) ∧ (s.overhangFirst = false ∨ s.urgent g = true) ∧ (∀ m ∈ s.ftl.moves, m.g ≠ g) ∧ (s.ftl.gcs.get none g = some c) ∧ (c.erasing = false ∧ c.bad = [] ∧ c.todo = i :: rest ∧ rest ≠ []) ∧ (s.awaiting (.gc g) = false) ∧ (i = 2 * key + 1) ∧ (s.itemLive (gbKey g c.victim) i = true) ∧ (s.unit key = some f ∧ f.kind = 1) ∧ (s.takeUnit g .relocation = (t, some new)) :=
  ⟨gcRuns, (gcRuns.takeUnit 0 .relocation).1, 0, 2 * unitKey 4 0 + 1, unitKey 4 0, (gcRuns.takeUnit 0 .relocation).2.getD 0, [2 * unitKey 4 1 + 1], { victim := 4, todo := [2 * unitKey 4 0 + 1, 2 * unitKey 4 1 + 1] }, unit8, by decide +kernel, by decide +kernel, by decide +kernel, by decide +kernel, by decide +kernel, by decide +kernel, by decide +kernel, by decide +kernel, by decide +kernel, by decide +kernel⟩

theorem witness_CollectionResult_3 : ∃ s : State, ∃ g : Nat, ∃ i : Nat, ∃ rest : List Nat, ∃ lost : List Nat, ∃ c : Gc, (s.live = true) ∧ (s.overhangFirst = false ∨ s.urgent g = true) ∧ (∀ m ∈ s.ftl.moves, m.g ≠ g) ∧ (s.ftl.gcs.get none g = some c) ∧ (c.erasing = false ∧ c.todo = i :: rest ∧ rest ≠ []) ∧ (s.awaiting (.gc g) = false) ∧ (s.itemLive (gbKey g c.victim) i = false) :=
  ⟨{ gcRuns with ftl := { gcRuns.ftl with gens := [] } }, 0, 2 * unitKey 4 0 + 1, [2 * unitKey 4 1 + 1], [], { victim := 4, todo := [2 * unitKey 4 0 + 1, 2 * unitKey 4 1 + 1] }, by decide +kernel⟩

theorem witness_CollectionResult_4 : ∃ s : State, ∃ g : Nat, ∃ c : Gc, (s.live = true) ∧ (g < 16) ∧ (s.ftl.gcs.get none g = some c) ∧ (c.erasing = true ∧ c.left = [] ∧ c.unasked = []) :=
  ⟨{ gcRuns with ftl := { gcRuns.ftl with gcs := [(0, some { victim := 4, todo := [], erasing := true })] } }, 0, { victim := 4, todo := [], erasing := true }, by decide +kernel⟩

theorem witness_CollectionResult_5 : ∃ s : State, ∃ g : Nat, ∃ S : List Nat, (s.mayCollect g = true) ∧ (s.fld F.FTL_CFG_WL_EN = 1) ∧ (s.urgent g = false) ∧ (s.freeHandle.isSome = true) ∧ (s.fld F.FTL_CFG_WL_LIMIT < s.spread g) ∧ (S = (s.closedGbs g).filter (fun b => s.on F.CAP_SPAN_POOL_WL || (s.gb (gbKey g b)).use != .pool)) ∧ (S ≠ []) ∧ (∀ x ∈ S, (s.gb (gbKey g x)).state = .closed ∧ 0 < (s.wear g x).2) ∧ (s.freeGbs g ≠ [] ∧ ∀ x ∈ s.freeGbs g, 0 < (s.wear g x).2) :=
  ⟨{ gcState with ftl := { gcState.ftl with erases := [(nandKey 0 0 1, 5000)] } }.setFld F.FTL_CFG_WL_EN 1, 0, [4], by decide +kernel⟩

theorem witness_MediaProgramResult_1 : ∃ s : State, ∃ t : State, ∃ g : Nat, ∃ key : Nat, ∃ w : WbEntry, (s.live = true) ∧ (g < 16) ∧ (s.oldestFor g = some w) ∧ (w.dealloc = 0 ∧ w.keyPage = none ∧ w.lost = false) ∧ (s.takeUnit g .general = (t, some key)) :=
  ⟨{ gcState with ftl := { gcState.ftl with wbuf := [{ nsid := 2, lba := 3, data := [7], origin := 5, charged := true }] } }, ({ gcState with ftl := { gcState.ftl with wbuf := [{ nsid := 2, lba := 3, data := [7], origin := 5, charged := true }] } }.takeUnit 0 .general).1, 0, ({ gcState with ftl := { gcState.ftl with wbuf := [{ nsid := 2, lba := 3, data := [7], origin := 5, charged := true }] } }.takeUnit 0 .general).2.getD 0, { nsid := 2, lba := 3, data := [7], origin := 5, charged := true }, by decide +kernel, by decide +kernel, by decide +kernel, by decide +kernel, by decide +kernel⟩

theorem witness_MediaProgramResult_2 : ∃ s : State, ∃ g : Nat, ∃ die : Nat, ∃ block : Nat, ∃ page : Nat, ∃ lost : List Nat, (s.live = true) ∧ (g < 16) ∧ (nandKey g die block ∉ s.ftl.retired) ∧ (die ∈ s.dieSet g block) ∧ ((s.gb (gbKey g block)).state = .open ∨ (s.gb (gbKey g block)).state = .closed) :=
  ⟨gcState, 0, 0, 4, 0, [], by decide +kernel⟩

theorem witness_MediaProgramResult_3 : ∃ s : State, ∃ g : Nat, ∃ die : Nat, ∃ block : Nat, ∃ c : Gc, (s.live = true) ∧ (g < 16) ∧ (s.ftl.gcs.get none g = some c) ∧ (c.erasing = true ∧ c.victim = block) ∧ (die ∈ s.dieSet g block) :=
  ⟨{ gcRuns with ftl := { gcRuns.ftl with gcs := [(0, some { victim := 4, todo := [], erasing := true, left := [0] })] } }, 0, 0, 4, { victim := 4, todo := [], erasing := true, left := [0] }, by decide +kernel⟩

theorem witness_MediaProgramResult_4 : ∃ s : State, (s.live = true) ∧ (s.ftl.ckptRun = none) ∧ (s.on F.FTL_STATUS_REBUILDING = false) ∧ (s.ckptDue = true) :=
  ⟨{ gcState with ftl := { gcState.ftl with ckptAsked := true } }, by decide +kernel⟩

theorem witness_MediaProgramResult_5 : ∃ s : State, ∃ seq : Nat, (s.live = true) ∧ (s.ftl.ckptRun = some seq) ∧ ((s.placeAll (s.ckptUnits (s.ftl.ckpt.getD { seq := 0 }))).2 = true) :=
  ⟨{ gcState with ftl := { gcState.ftl with ckptRun := some 1 } }, 1, by decide +kernel, by decide +kernel, by decide +kernel⟩

theorem witness_MediaProgramResult_6 : ∃ s : State, ∃ seq : Nat, (s.live = true) ∧ (s.ftl.ckptRun = some seq) ∧ ((s.placeAll (s.ckptUnits (s.ftl.ckpt.getD { seq := 0 }))).2 = false) :=
  ⟨{ up State.reset with ftl := { ckptRun := some 1 } }, 1, by decide +kernel⟩

theorem witness_HoldUpBankResult_1 : ∃ s : State, ∃ c : Instr, (c = .measure ∨ c = .measureDue) ∧ (s.power.phase ≠ .off) ∧ (s.huState = 2 ∧ s.hu.valid = true ∧ s.hu.measuring = false) :=
  ⟨bank, .measure, by decide +kernel⟩

theorem witness_HoldUpBankResult_2 : ∃ s : State, (s.hu.measWait = true) :=
  ⟨{ bank with hu := { bank.hu with measWait := true } }, by decide +kernel⟩

theorem witness_HoldUpBankResult_3 : ∃ s : State, ∃ r : Nat, ∃ t : Nat, ∃ v : Nat, ∃ g : Bool, (s.hu.measuring = true) ∧ (t ≤ s.measSpan.2.2) ∧ (r = s.measSpan.1 * t / s.measSpan.2.1 ∧ 1000 ≤ r ∧ r ≤ 200000) :=
  ⟨{ bank with hu := { bank.hu with measuring := true, down := true, v0 := 20000 } }, 90000, 90000, 15000, true, by decide +kernel⟩

theorem witness_HoldUpBankResult_4 : ∃ s : State, ∃ time : Option Nat, ∃ v : Nat, ∃ g : Bool, (s.hu.measuring = true) ∧ (∀ t, time = some t → s.measSpan.2.2 < t ∨ s.measSpan.1 * t / s.measSpan.2.1 < 1000 ∨ 200000 < s.measSpan.1 * t / s.measSpan.2.1) :=
  ⟨{ bank with hu := { bank.hu with measuring := true, down := true, v0 := 20000 } }, some 900, 15000, true, by decide +kernel, by intro t h; cases h; decide +kernel⟩

theorem witness_HoldUpBankResult_5 : ∃ s : State, (s.hu.retryDue = true) ∧ (s.hu.valid = true ∧ s.huState = 2 ∧ s.hu.measuring = false) :=
  ⟨{ bank with hu := { bank.hu with retryDue := true } }, by decide +kernel⟩

theorem witness_HoldUpBankResult_6 : ∃ s : State, ∃ v : Nat, (s.hu.charging = true ∧ s.hu.valid = true ∧ s.hu.measuring = false) ∧ (s.vTarget ≤ v) :=
  ⟨{ bank with hu := { bank.hu with charging := true } }, 20000, by decide +kernel⟩

theorem witness_HoldUpBankResult_7 : ∃ s : State, ∃ v : Nat, (s.chargeOk = true) ∧ (s.hu.valid = true ∧ s.hu.charging = false ∧ s.hu.measuring = false) ∧ (v * 100 ≤ 99 * s.vTarget) :=
  ⟨bank, 15000, by decide +kernel⟩

theorem witness_HoldUpBankResult_8 : ∃ s : State, ∃ v : Nat, (s.huState ≠ 5) ∧ (s.fld F.PWR_HU_VLIM_VMAX ≠ 0) ∧ (s.hu.failed = false) ∧ (105 * s.fld F.PWR_HU_VLIM_VMAX < 100 * v ∨ (s.hu.charging = true ∧ v < s.fld F.PWR_HU_STATUS_VBANK)) :=
  ⟨bank, 60000, by decide +kernel⟩

theorem witness_HoldUpBankResult_9 : ∃ s : State, ∃ v : Nat, ∃ g : Bool, (s.power.phase ≠ .off) :=
  ⟨bank, 15000, true, by decide +kernel⟩

theorem witness_HoldUpBankResult_10 : ∃ s : State, (s.power.phase ≠ .off) ∧ (s.hu.failed = false) :=
  ⟨bank, by decide +kernel⟩

theorem witness_HoldUpBankResult_11 : ∃ s : State, ∃ vcut : Bool, (s.ftl.dumping = true) ∧ (vcut = true ∨ (s.dumpLeft = [] ∧ s.nandRuns = false)) :=
  ⟨{ up State.reset with ftl := { dumping := true }, hu := { failed := true } }, false, by decide +kernel⟩

theorem witness_RestartResult_1 : ∃ s : State, (s.live = true) :=
  ⟨up State.reset, by decide +kernel⟩

theorem witness_RestartResult_2 : ∃ s : State, ∃ c : Instr, ∃ facts : RestartFacts, (s.restarting = true) ∧ ((c = .mapRebuild facts ∧ s.mustRegrow facts.bad = false) ∨ (c = .regrowth facts ∧ s.mustRegrow facts.bad = true)) :=
  ⟨gcState.setFld F.FTL_STATUS_REBUILDING 1, .regrowth {}, {}, by decide +kernel⟩

theorem witness_RestartResult_3 : ∃ s : State, ∃ r : Scan, ∃ key : Nat, ∃ f : FUnit, ((key, some f) ∈ s.ftl.units) ∧ (f.kind = 1 ∧ f.laddr < 2 ^ 48 ∧ r.unit key = true) ∧ (∀ e ∈ s.ftl.units, e = (key, some f) ∨ e.2.all (fun x => decide (x.kind = 1 → x.nsid = f.nsid → x.laddr = f.laddr → x.origin < f.origin ∨ (x.origin = f.origin ∧ x.wseq < f.wseq))) = true) :=
  ⟨{ gcState with ftl := { gcState.ftl with gens := [] } }, gcState.regrowScan [], unitKey 4 0, unit8, by decide +kernel⟩

theorem witness_ChannelOperationResult_1 : ∃ s : State, ∃ ch : Nat, ∃ i : Nat, ∃ o : NandOp, (s.engineOn ch = true) ∧ (ch < 64 ∧ s.ftl.dumping = false) ∧ (s.strayOp ch = some (i, o)) ∧ (o.kind = .program ∨ o.kind = .erase) :=
  ⟨chanState [{ kind := .erase, die := 2 }, { kind := .program, die := 5 }], 1, 1, { kind := .program, die := 5 }, by decide +kernel⟩

theorem witness_ChannelOperationResult_2 : ∃ s : State, ∃ ch : Nat, ∃ i : Nat, ∃ o : NandOp, (s.engineOn ch = true) ∧ (s.strayOp ch = none ∧ (s.chan ch).busHeld = false) ∧ (pickPhase (s.readyOps ch) = some (i, o)) ∧ (o.started = false) :=
  ⟨chanState [{ kind := .program, die := 2, queuedAt := 9 }, { kind := .read, die := 3, queuedAt := 4 }], 1, 1, { kind := .read, die := 3, queuedAt := 4 }, by decide +kernel⟩

theorem witness_ChannelOperationResult_3 : ∃ s : State, ∃ ch : Nat, ∃ i : Nat, ∃ o : NandOp, (s.engineOn ch = true) ∧ (s.strayOp ch = none ∧ (s.chan ch).busHeld = false) ∧ (pickPhase (s.readyOps ch) = some (i, o)) ∧ (o.started = true) :=
  ⟨chanState [{ kind := .read, die := 3, started := true, phases := 1, units := [7] }], 1, 0, { kind := .read, die := 3, started := true, phases := 1, units := [7] }, by decide +kernel⟩

theorem witness_ChannelOperationResult_4 : ∃ s : State, ∃ ch : Nat, ∃ die : Nat, ∃ i : Nat, ∃ o : NandOp, ∃ ns : List Nat, ∃ lost : List Nat, (s.engineEnds ch = true) ∧ (ch < 64) ∧ (s.runningOp ch die (fun o => o.kind == .read && s.phasesRun ch o) = some (i, o)) ∧ (ns.length = o.units.length ∧ ∀ n ∈ ns, n < o.rclm / 65536 % 256) :=
  ⟨chanState [{ kind := .read, die := 3, started := true, phases := 4, units := [7, 8, 9], rclm := 0x200000 }], 1, 3, 0, { kind := .read, die := 3, started := true, phases := 4, units := [7, 8, 9], rclm := 0x200000 }, [0, 5, 31], [], by decide +kernel⟩

theorem witness_ChannelOperationResult_5 : ∃ s : State, ∃ ch : Nat, ∃ die : Nat, ∃ i : Nat, ∃ l : Nat, ∃ t : Nat, ∃ n : Nat, ∃ o : NandOp, ∃ g : Tag, ∃ q : Cq, ∃ lost : List Nat, (s.engineEnds ch = true) ∧ (ch < 64 ∧ s.ftl.dumping = false) ∧ (s.runningOp ch die (fun o => o.kind == .read && s.phasesRun ch o) = some (i, o)) ∧ (o.units ≠ [] ∧ 0 < o.rclm / 65536 % 256) ∧ (o.reader = some (.cmd l t)) ∧ (PlainLane s l t g q) :=
  ⟨{ ioState { opc := 2, cid := 7, nsid := 2 } with nand := { chans := [(1, { ops := [{ kind := .read, die := 3, started := true, phases := 2, units := [7], rclm := 0x200000, reader := some (.cmd 0 3) }] })] } }, 1, 3, 0, 0, 3, 2, { kind := .read, die := 3, started := true, phases := 2, units := [7], rclm := 0x200000, reader := some (.cmd 0 3) }, ioTag { opc := 2, cid := 7, nsid := 2 }, ioCq, [], by decide +kernel⟩

theorem witness_ChannelOperationResult_6 : ∃ s : State, ∃ ch : Nat, ∃ die : Nat, ∃ i : Nat, ∃ o : NandOp, ∃ ok : Bool, ∃ slow : Bool, ∃ c : Instr, ∃ k : OpKind, ∃ cnt : Nat, ∃ bitN : Nat, (s.engineEnds ch = true) ∧ (ch < 64 ∧ s.ftl.dumping = false) ∧ (s.runningOp ch die (fun o => o.kind == k && s.phasesRun ch o) = some (i, o)) ∧ ((c = .nandProgramDone ch die ok slow ∧ k = .program ∧ cnt = R.CH_N_PROG_FAIL ch ∧ bitN = 1) ∨ (c = .nandEraseDone ch die ok slow ∧ k = .erase ∧ cnt = R.CH_N_ERASE_FAIL ch ∧ bitN = 2)) :=
  ⟨chanState [{ kind := .erase, die := 3, started := true, phases := 1 }], 1, 3, 0, { kind := .erase, die := 3, started := true, phases := 1 }, true, true, .nandEraseDone 1 3 true true, .erase, R.CH_N_ERASE_FAIL 1, 2, by decide +kernel⟩

theorem witness_ChannelOperationResult_7 : ∃ s : State, ∃ ch : Nat, ∃ die : Nat, ∃ i : Nat, ∃ o : NandOp, (s.engineEnds ch = true) ∧ (ch < 64 ∧ die < 16) ∧ (s.runningOp ch die (fun _ => true) = some (i, o)) ∧ (o.kind = .read ∧ o.again = false) :=
  ⟨chanState [{ kind := .read, die := 3, started := true }], 1, 3, 0, { kind := .read, die := 3, started := true }, by decide +kernel⟩

theorem witness_ChannelOperationResult_8 : ∃ s : State, ∃ ch : Nat, ∃ die : Nat, ∃ i : Nat, ∃ o : NandOp, (s.engineEnds ch = true) ∧ (ch < 64 ∧ s.ftl.dumping = false) ∧ (s.runningOp ch die (fun _ => true) = some (i, o)) ∧ (o.kind = .program ∨ o.kind = .erase) ∧ ((s.chan ch).timeouts.get 0 die < 2) :=
  ⟨chanState [{ kind := .program, die := 3, started := true }], 1, 3, 0, { kind := .program, die := 3, started := true }, by decide +kernel⟩

theorem witness_ChannelOperationResult_9 : ∃ s : State, ∃ ch : Nat, ∃ die : Nat, (s.engineOn ch = true) ∧ (∃ o ∈ (s.chan ch).ops, o.die = die ∧ o.susp = true) ∧ (∀ o ∈ (s.chan ch).ops, o.die = die → o.kind ≠ .read ∧ o.early = false) :=
  ⟨chanState [{ kind := .erase, die := 3, started := true, susp := true }], 1, 3, by decide +kernel⟩

theorem witness_ChannelOperationResult_10 : ∃ s : State, ∃ ch : Nat, ∃ die : Nat, (s.live = true) ∧ (ch < s.part.channels ∧ die < 16) ∧ (s.fld (F.CH_DIE_STATE ch die) = 2 ∨ s.fld (F.CH_DIE_STATE ch die) = 3) :=
  ⟨gcState.setFld (F.CH_DIE_STATE 0 0) 3, 0, 0, by decide +kernel⟩

theorem witness_ChannelOperationResult_11 : ∃ s : State, ∃ ch : Nat, (s.inRun = true) ∧ (ch < s.part.channels) :=
  ⟨up State.reset, 1, by decide +kernel⟩

theorem witness_ChannelOperationResult_12 : ∃ s : State, ∃ ch : Nat, ∃ i : Nat, ∃ o : NandOp, (ch < 64) ∧ (s.on (F.CH_STATUS_HALTED ch) = true) ∧ (s.inProgress ch = some (i, o)) ∧ (o.kind = .program ∧ s.ftl.dumping = false) :=
  ⟨(chanState [{ kind := .program, die := 3, started := true }]).setFld (F.CH_STATUS_HALTED 1) 1, 1, 0, { kind := .program, die := 3, started := true }, by decide +kernel⟩

theorem witness_ChannelOperationResult_13 : ∃ s : State, (s.live = true) :=
  ⟨up State.reset, by decide +kernel⟩

theorem witness_SequencerWordResult_1 : ∃ s : State, ∃ ch : Nat, ∃ code : Nat, ∃ q : Useq, ∃ w : BitVec 192, ∃ f : W32 → W32 → W32, (AtCode s ch 0 q w) ∧ ((code, f) ∈ aluOps) ∧ (w.toNat / 2 ^ 84 % 16 = code) :=
  ⟨seqState (seqWord 0 0 (2 * 2 ^ 84 + 3 * 2 ^ 80 + 4 * 2 ^ 76 + 7 * 2 ^ 32)), 1, 2, seq0, seqWord 0 0 (2 * 2 ^ 84 + 3 * 2 ^ 80 + 4 * 2 ^ 76 + 7 * 2 ^ 32), fun a i => BitVec.ofNat 32 ((a.toNat + i.toNat) % 2 ^ 32), by decide +kernel, List.mem_cons_of_mem _ List.mem_cons_self, by decide +kernel⟩

theorem witness_SequencerWordResult_2 : ∃ s : State, ∃ ch : Nat, ∃ q : Useq, ∃ w : BitVec 192, (AtCode s ch 0 q w) ∧ (w.toNat / 2 ^ 84 % 16 ∈ [0, 8, 9]) :=
  ⟨seqState (seqWord 0 0 (8 * 2 ^ 84 + 4 * 2 ^ 76)), 1, seq0, seqWord 0 0 (8 * 2 ^ 84 + 4 * 2 ^ 76), by decide +kernel⟩

theorem witness_SequencerWordResult_3 : ∃ s : State, ∃ ch : Nat, ∃ q : Useq, ∃ w : BitVec 192, (AtCode s ch 1 q w) :=
  ⟨seqState (seqWord 1 7000 0), 1, seq0, seqWord 1 7000 0, by decide +kernel⟩

theorem witness_SequencerWordResult_4 : ∃ s : State, ∃ ch : Nat, ∃ q : Useq, ∃ w : BitVec 192, (AtCode s ch 2 q w) ∧ (q.stack.length < 4) ∧ (6144 ≤ w.toNat / 2 ^ 169 % 8192) :=
  ⟨seqState (seqWord 2 7000 0), 1, seq0, seqWord 2 7000 0, by decide +kernel⟩

theorem witness_SequencerWordResult_5 : ∃ s : State, ∃ ch : Nat, ∃ q : Useq, ∃ w : BitVec 192, (AtCode s ch 2 q w) ∧ (q.stack.length < 4) ∧ (w.toNat / 2 ^ 169 % 8192 < 6144) :=
  ⟨seqState (seqWord 2 3 0), 1, seq0, seqWord 2 3 0, by decide +kernel⟩

theorem witness_SequencerWordResult_6 : ∃ s : State, ∃ ch : Nat, ∃ i : Nat, ∃ q : Useq, ∃ w : BitVec 192, ∃ o : NandOp, ∃ c : Instr, ((c = .wCall ch ∧ AtCode s ch 2 q w ∧ 4 ≤ q.stack.length) ∨ (c = .wRet ch ∧ AtCode s ch 3 q w ∧ q.stack = [])) ∧ (s.seqOp ch q = some (i, o)) ∧ (o.kind = .program ∧ s.ftl.dumping = false) :=
  ⟨seqState (seqWord 3 0 0), 1, 0, seq0, seqWord 3 0 0, { kind := .program, die := 2, started := true }, .wRet 1, by decide +kernel⟩

theorem witness_SequencerWordResult_7 : ∃ s : State, ∃ ch : Nat, ∃ a : Nat, ∃ q : Useq, ∃ w : BitVec 192, ∃ rest : List Nat, (AtCode s ch 3 q w) ∧ (q.stack = a :: rest) :=
  ⟨{ seqState (seqWord 3 0 0) with nand := { chans := [(1, { store := [(6144, seqWord 3 0 0)], seq := some { seq0 with stack := [6200] } })] } }, 1, 6200, { seq0 with stack := [6200] }, seqWord 3 0 0, [], by decide +kernel⟩

theorem witness_SequencerWordResult_8 : ∃ s : State, ∃ ch : Nat, ∃ q : Useq, ∃ w : BitVec 192, ∃ c : Instr, ∃ t : Bool, ((c = .wBrt ch ∧ AtCode s ch 4 q w ∧ t = true) ∨ (c = .wBrf ch ∧ AtCode s ch 5 q w ∧ t = false)) ∧ (w.toNat / 2 ^ 182 % 64 ≠ 2) :=
  ⟨seqState (seqWord 5 7000 (4 * 2 ^ 182)), 1, seq0, seqWord 5 7000 (4 * 2 ^ 182), .wBrf 1, false, by decide +kernel⟩

theorem witness_SequencerWordResult_9 : ∃ s : State, ∃ ch : Nat, ∃ q : Useq, ∃ w : BitVec 192, (AtCode s ch 6 q w) ∧ (w.toNat / 2 ^ 182 % 64 ≠ 2) :=
  ⟨seqState (seqWord 6 0 (1 * 2 ^ 182)), 1, seq0, seqWord 6 0 (1 * 2 ^ 182), by decide +kernel⟩

theorem witness_SequencerWordResult_10 : ∃ s : State, ∃ ch : Nat, ∃ q : Useq, ∃ w : BitVec 192, (AtCode s ch 7 q w) :=
  ⟨seqState (seqWord 7 6144 0), 1, seq0, seqWord 7 6144 0, by decide +kernel⟩

theorem witness_SequencerWordResult_11 : ∃ s : State, ∃ ch : Nat, ∃ i : Nat, ∃ st : Nat, ∃ q : Useq, ∃ w : BitVec 192, ∃ o : NandOp, (AtCode s ch 8 q w) ∧ (s.seqOp ch q = some (i, o)) ∧ (st = w.toNat / 2 ^ 64 % 256) ∧ ((st = 0 ∧ o.kind ≠ .erase) ∨ (16 ≤ st ∧ st < 128 ∧ o.kind = .program ∧ s.ftl.dumping = false)) :=
  ⟨seqState (seqWord 8 0 (0x12 * 2 ^ 64)), 1, 0, 0x12, seq0, seqWord 8 0 (0x12 * 2 ^ 64), { kind := .program, die := 2, started := true }, by decide +kernel⟩

theorem witness_BufferMemoryResult_1 : ∃ s : State, ∃ b : Nat, ∃ m : Nat, ∃ lo : Nat, ∃ hi : Nat, ∃ d : Dir, (s.live = true) ∧ (s.part.bank b = true ∧ b < 11) ∧ (lo < hi ∧ hi ≤ bankBytes b) :=
  ⟨up State.reset, 1, 50, 64, 128, .both, by decide +kernel⟩

theorem witness_BufferMemoryResult_2 : ∃ s : State, ∃ b : Nat, ∃ i : Nat, (s.live = true) ∧ (b < 11) ∧ (i < (s.bank b).grants.length) :=
  ⟨{ up State.reset with buf := { banks := [(1, { grants := [{ master := 50, lo := 64, hi := 128, dir := .both }] })] } }, 1, 0, by decide +kernel⟩

theorem witness_BufferMemoryResult_3 : ∃ s : State, ∃ k : Nat, ∃ a : Nat, ∃ n : Nat, ∃ pc : Nat, ∃ wr : Option Bytes, ∃ sev : Severity, ∃ q : HbmQueue, (s.stackReady k = true) ∧ (s.holds (30 + k) = false) ∧ (0 < n ∧ a % 64 + n ≤ 64 ∧ a + n ≤ stackBytes) ∧ (pc = (hbmDecode (s.fld (F.HBM_STATUS_ORDER_ACTIVE k)) a).pc ∧ q = s.hbmQ k pc) ∧ (q.reads < 32 ∧ q.writes < 64) :=
  ⟨stackUp, 1, 0x1000, 64, 0, some [1, 2], .clean, {}, by decide +kernel⟩

theorem witness_BufferMemoryResult_4 : ∃ s : State, ∃ k : Nat, ∃ pc : Nat, ∃ i : Nat, ∃ age : Nat, ∃ q : HbmQueue, ∃ r : HbmReq, (q = s.hbmQ k pc ∧ s.hbmPick k q = some (i, r)) ∧ (age = 10 * s.fld (F.HBM_CFG_AGE_MAX k)) :=
  ⟨stackQ none, 1, 0, 0, 10 * (stackQ none).fld (F.HBM_CFG_AGE_MAX 1), stackQ none |>.hbmQ 1 0, reqAt none, by decide +kernel⟩

theorem witness_BufferMemoryResult_5 : ∃ s : State, ∃ k : Nat, ∃ pc : Nat, ∃ i : Nat, ∃ key : Nat, ∃ r : HbmReq, ∃ bs : Bytes, ∃ d : HbmAt, (s.hbmPick k (s.hbmQ k pc) = some (i, r)) ∧ ((s.hbmQ k pc).owed = 0 ∨ s.hbmBankHit k pc = true) ∧ (0 < r.len ∧ r.addr % 64 + r.len ≤ 64) ∧ (r.write = some bs ∧ (r.len = 64 ∨ r.sev = .clean)) ∧ (d = hbmDecode (s.fld (F.HBM_STATUS_ORDER_ACTIVE k)) (r.addr / 64 * 64)) ∧ (key = 48 * d.pc + d.bank) :=
  ⟨stackQ (some [1, 2, 3]), 1, 0, 0, 0, reqAt (some [1, 2, 3]), [1, 2, 3], { pc := 0, bank := 0, row := 0 }, by decide +kernel⟩

theorem witness_BufferMemoryResult_6 : ∃ s : State, ∃ k : Nat, ∃ pc : Nat, ∃ i : Nat, ∃ r : HbmReq, (s.hbmPick k (s.hbmQ k pc) = some (i, r)) ∧ ((s.hbmQ k pc).owed = 0 ∨ s.hbmBankHit k pc = true) ∧ (r.write = none) ∧ (r.addr / 64 * 64 ∉ (s.stk k).poison ∧ (s.stk k).poison.length < 127) :=
  ⟨stackQ none, 1, 0, 0, reqAt none, by decide +kernel⟩

theorem witness_BufferMemoryResult_7 : ∃ s : State, ∃ k : Nat, ∃ pc : Nat, ∃ b : Nat, (s.stackReady k = true) ∧ (pc < 32) ∧ (b = (s.stk k).refPos.get 0 pc) ∧ (s.hbmBankHit k pc = false ∨ 4 ≤ (s.hbmQ k pc).owed) :=
  ⟨stackUp, 1, 3, 0, by decide +kernel⟩

theorem witness_BufferMemoryResult_8 : ∃ s : State, ∃ k : Nat, ∃ pc : Nat, (s.stackReady k = true) ∧ (pc < 32) ∧ (s.hbmBankHit k pc = true ∧ (s.hbmQ k pc).owed < 4) :=
  ⟨(stackQ none).setStk 1 { (stackQ none).stk 1 with rows := [(0, 1)] }, 1, 0, by decide +kernel⟩

theorem witness_BufferMemoryResult_9 : ∃ s : State, ∃ k : Nat, ∃ c : Nat, ∃ retrained : Bool, (s.stackReady k = true) ∧ (c < 16) :=
  ⟨stackUp, 1, 3, false, by decide +kernel⟩

theorem witness_BufferMemoryResult_10 : ∃ s : State, ∃ k : Nat, ∃ t : Nat, (s.stackReady k = true) ∧ (85 < t) :=
  ⟨stackUp, 1, 86, by decide +kernel⟩

theorem witness_BufferMemoryResult_11 : ∃ s : State, ∃ k : Nat, ∃ t : Nat, (s.stackReady k = true) ∧ (t < 80) :=
  ⟨stackUp, 1, 79, by decide +kernel⟩

theorem witness_BufferMemoryResult_12 : ∃ s : State, ∃ k : Nat, (s.live = true) ∧ (k < s.part.stacks) :=
  ⟨stackUp, 1, by decide +kernel⟩

theorem witness_BufferMemoryResult_13 : ∃ s : State, ∃ p : Bool, ∃ m : Nat, (s.live = true) :=
  ⟨up State.reset, false, 0x803, by decide +kernel⟩

theorem witness_BufferMemoryResult_14 : ∃ s : State, ∃ fails : List (Nat × Nat), ∃ fs : List (Nat × Nat), ∃ c : Instr, ∃ st : Nat, (s.fld F.SRB_MARCH_STATUS_STATE = 1) ∧ ((c = .marchDone fails ∧ st = (if s.buf.aborted then 3 else 2)) ∨ (c = .marchAbort fails ∧ s.live = true ∧ st = 3)) ∧ (fs = fails.filter (fun x => s.buf.marchOn.contains x.1)) :=
  ⟨{ (up State.reset).setFld F.SRB_MARCH_STATUS_STATE 1 with buf := { marchOn := [1, 2], banks := [(1, { mem := [(5, 7)] }), (4, { mem := [(5, 7)] })] } }, [(1, 9), (4, 2)], [(1, 9)], .marchDone [(1, 9), (4, 2)], 2, by decide +kernel⟩

theorem witness_BufferMemoryResult_15 : ∃ s : State, ∃ b : Nat, (b < 11) ∧ (s.fld (F.SRB_B_STATUS_PSTATE b) = 3) :=
  ⟨(up State.reset).setFld (F.SRB_B_STATUS_PSTATE 9) 3, 9, by decide +kernel⟩

theorem witness_BufferMemoryResult_16 : ∃ s : State, ∃ bad : Option Nat, (s.fld (F.SRB_B_STATUS_WIPING 9) = 1) ∧ (s.buf.wipeAgain = false) :=
  ⟨(up State.reset).setFld (F.SRB_B_STATUS_WIPING 9) 1, none, by decide +kernel⟩

theorem witness_DmaChannelResult_1 : ∃ s : State, ∃ n : Nat, (s.live = true) ∧ (n < 64) ∧ (s.holds 50 = false) ∧ (s.dmaState n = 0) :=
  ⟨up State.reset, 50, by decide +kernel⟩

theorem witness_DmaChannelResult_2 : ∃ s : State, ∃ n : Nat, (s.live = true) ∧ (n < 64) ∧ (s.dmaState n = 1) :=
  ⟨dmaAt 1 { fetching := true }, 50, by decide +kernel⟩

theorem witness_DmaChannelResult_3 : ∃ s : State, ∃ n : Nat, (s.live = true) ∧ (n < 64) ∧ (s.holds 50 = false) ∧ (s.dmaState n = 3 ∨ s.dmaState n = 5) :=
  ⟨dmaAt 5 { desc := some hostDesc }, 50, by decide +kernel⟩

theorem witness_DmaChannelResult_4 : ∃ s : State, ∃ n : Nat, (s.live = true) ∧ (n < 64) ∧ (s.dmaState n = 1 ∨ (s.dmaState n = 3 ∧ (s.dmaCh n).desc = none)) :=
  ⟨dmaAt 1 { desc := some hostDesc }, 50, by decide +kernel⟩

theorem witness_DmaChannelResult_5 : ∃ s : State, ∃ n : Nat, ∃ a : Nat, ∃ bs : Bytes, (s.live = true) ∧ (n < 64) ∧ ((s.dmaCh n).fetching = true) ∧ (s.dmaState n = 1) ∧ (s.fld (F.DMA_CTRL_DESC_SPACE n) = 2) ∧ (a = s.fld (F.DMA_DESC_ADDR n) ∧ a % 64 = 0 ∧ a + 64 ≤ 2 ^ 64) ∧ (s.fnExists (s.fld (F.DMA_CTRL_DESC_FUNC n)) = true) ∧ (s.descValid (fit 64 bs) = false ∨ (dmaReach n (descOf (fit 64 bs)).sSp (descOf (fit 64 bs)).src = true ∧ dmaReach n (descOf (fit 64 bs)).dSp (descOf (fit 64 bs)).dst = true)) :=
  ⟨(dmaAt 1 { fetching := true }).setFld (F.DMA_CTRL_DESC_SPACE 50) 2, 50, 0, hostDescBytes, by decide +kernel⟩

theorem witness_DmaChannelResult_6 : ∃ s : State, ∃ n : Nat, ∃ k : Nat, ∃ off : Nat, ∃ done : Nat, ∃ d : Desc, ∃ hb : Bytes, ∃ sev : List Severity, ∃ dsev : List Severity, (s.live = true) ∧ (n < 64) ∧ (s.dmaState n = 1) ∧ ((s.dmaCh n).desc = some d) ∧ (d.sSp = 2 ∧ d.dSp = 0 ∧ d.sW = 6 ∧ d.dW = 6 ∧ d.sStr = 0 ∧ d.dStr = 0) ∧ (done = s.fld (F.DMA_POS_DONE n) ∧ done % 64 = 0 ∧ done + 64 ≤ d.len ∧ d.len < 2 ^ 32) ∧ ((s.dmaCh n).fetching = false ∧ (s.dmaCh n).buf = [] ∧ (s.dmaCh n).ahead = 0 ∧ s.fld (F.DMA_POS_READ n) = done) ∧ (d.src + done + 64 ≤ 2 ^ 64) ∧ (s.fnExists d.func = true) ∧ (d.dst < 2 ^ 38 ∧ k = d.dst / 2 ^ 36 ∧ off = d.dst % 2 ^ 36 + done ∧ off + 64 ≤ stackBytes ∧ off % 64 = 0) ∧ (s.stackReady k = true) ∧ (∀ r ∈ (s.hbmQ k (hbmDecode (s.fld (F.HBM_STATUS_ORDER_ACTIVE k)) off).pc).reqs, r.addr % 64 + r.len ≤ 64) :=
  ⟨{ stackUp with dma := [(50, { desc := some hostDesc })] }.setFld (F.DMA_STATUS_STATE 50) 1, 50, 1, 0x1000, 0, hostDesc, [1, 2, 3], [], [], by decide +kernel⟩

theorem witness_DmaChannelResult_7 : ∃ s : State, ∃ n : Nat, ∃ d : Desc, ∃ sev : Severity, (s.live = true) ∧ (n < 64) ∧ (s.dmaState n = 6) ∧ ((s.dmaCh n).desc = some d) ∧ (d.wb = false ∧ (s.dmaCh n).dropping = false) ∧ (d.barrier = true ∨ (s.dmaReadBack d (d.lastLine (s.fld (F.DMA_POS_DONE n))) sev).isSome = true) :=
  ⟨{ stackUp with dma := [(50, { desc := some hostDesc })] }.setFld (F.DMA_STATUS_STATE 50) 6, 50, hostDesc, .clean, by decide +kernel⟩

theorem witness_DmaChannelResult_8 : ∃ s : State, ∃ n : Nat, ∃ d : Desc, ∃ sev : Severity, ∃ w : Bool, (s.live = true) ∧ (n < 64) ∧ (s.dmaState n = 6) ∧ ((s.dmaCh n).desc = some d) ∧ (d.barrier = false) :=
  ⟨dmaAt 6 { desc := some hostDesc }, 50, hostDesc, .clean, true, by decide +kernel⟩

theorem witness_KeysAndStoresResult_1 : ∃ s : State, ∃ c : Instr, ∃ f : Field, ∃ v : Nat, (s.live = true) ∧ (s.part.cipher = true) ∧ ((c, f, v) ∈ [(Instr.cipherLock, F.CPH_CTRL_LOCK, 1), (Instr.rngHealthPass, F.CPH_STATUS_RNG_FAIL, 0), (Instr.rngHealthFail, F.CPH_STATUS_RNG_FAIL, 1)]) :=
  ⟨up State.reset, .rngHealthFail, F.CPH_STATUS_RNG_FAIL, 1, by decide +kernel⟩

theorem witness_KeysAndStoresResult_2 : ∃ s : State, ∃ k : Nat, ∃ o : Nat, (s.live = true) ∧ (s.part.cipher = true) ∧ (k < 256) ∧ (s.fld (F.CPH_KP_STATE_STATE k) = 0) :=
  ⟨up State.reset, 255, 7, by decide +kernel⟩

theorem witness_KeysAndStoresResult_3 : ∃ s : State, ∃ n : Nat, (s.power.phase ≠ .off) ∧ (s.fld F.SEC_LC_STATE ≠ 0) ∧ (n < 5) ∧ (∀ e ∈ s.eth.saKeys, e.1 < 4096) :=
  ⟨((up State.reset).setFld F.SEC_LC_STATE 1).setFld (F.CPH_KP_STATE_STATE 3) 1, 4, by decide +kernel⟩

theorem witness_KeysAndStoresResult_4 : ∃ s : State, ∃ l : Nat, ∃ n : Nat, ∃ d : Bytes, ∃ ok : Bool, (s.power.phase = .run) ∧ (0x38000000 ≤ 64 * l ∧ l < 16777216) ∧ (d.length = 64) :=
  ⟨up State.reset, 0xE00000, 9, List.replicate 64 7, false, by decide +kernel⟩

theorem witness_KeysAndStoresResult_5 : ∃ s : State, (s.live = true) :=
  ⟨up State.reset, by decide +kernel⟩

theorem witness_KeysAndStoresResult_6 : ∃ s : State, ∃ ok : Bool, ∃ good : Bool, (s.fld F.CFL_OPT_CTRL_RUNNING = 1) ∧ (s.cflAt s.optTarget = true) ∧ (good = (ok && !s.cfl.bad.contains s.optTarget)) :=
  ⟨(up State.reset).setFld F.CFL_OPT_CTRL_RUNNING 1, true, true, by decide +kernel⟩

theorem witness_KeysAndStoresResult_7 : ∃ s : State, ∃ c : Nat, ∃ sec : Nat, ∃ off : Nat, ∃ ns : Bool, (s.power.phase = .run) ∧ (c ≤ 4 ∧ sec < 512 ∧ off < 65536) :=
  ⟨{ up State.reset with cfl := { op := some (.erase 7) }, time := { (up State.reset).time with ftc := 1000000 } }, 4, 511, 65535, true, by decide +kernel⟩

theorem witness_KeysAndStoresResult_8 : ∃ s : State, (s.fld F.CFL_STATUS_SUSPENDED = 1) :=
  ⟨(up State.reset).setFld F.CFL_STATUS_SUSPENDED 1, by decide +kernel⟩

theorem witness_KeysAndStoresResult_9 : ∃ s : State, ∃ l : Nat, ∃ d : Bytes, ∃ ok : Bool, (s.cfl.op = some (.program l d) ∧ s.cfl.wait = []) ∧ (4 ≤ l / 2048 ∧ l < 1048576 ∧ d.length ≤ 32) :=
  ⟨{ up State.reset with cfl := { op := some (.program 300000 [1, 2]) } }, 300000, [1, 2], true, by decide +kernel⟩

theorem witness_KeysAndStoresResult_10 : ∃ s : State, ∃ sec : Nat, ∃ us : Nat, ∃ ok : Bool, (s.cfl.op = some (.erase sec) ∧ s.cfl.wait = []) ∧ (s.fld F.CFL_STATUS_SUSPENDED = 0) :=
  ⟨{ up State.reset with cfl := { op := some (.erase 130), intents := [130] } }, 130, 500000, true, by decide +kernel⟩

theorem witness_EventsAndWatchdogsResult_1 : ∃ s : State, ∃ w : Nat, ∃ v : W32, (s.live = true) ∧ (28 ≤ w ∧ w < 32) :=
  ⟨up State.reset, 28, 5, by decide +kernel⟩

theorem witness_EventsAndWatchdogsResult_2 : ∃ s : State, ∃ n : Nat, ∃ again : Bool, (s.inRun = true) ∧ (n < 1024) ∧ (n ∈ s.evt.cores) :=
  ⟨{ up State.reset with evt := { cores := [7, 9] } }, 7, false, by decide +kernel⟩

theorem witness_EventsAndWatchdogsResult_3 : ∃ s : State, (s.power.phase ≠ .off) :=
  ⟨up State.reset, by decide +kernel⟩

theorem witness_EventsAndWatchdogsResult_4 : ∃ s : State, ∃ d : Nat, (s.live = true) ∧ (s.dom d = 2) ∧ ((5 ≤ d ∧ d ≤ 28) ∨ d = 49) ∧ (s.groupWork d = true) ∧ (s.ftl.dumping = false) ∧ (∀ t, t < 128 → ∀ th ∈ s.thread t, th.dgram.stream < 64 ∧ th.dgram.port < 8 ∧ th.dgram.sub < 4) :=
  ⟨(fullCluster |> up).setDom 49 2, 49, by decide +kernel, by decide +kernel, by decide +kernel, by decide +kernel, by decide +kernel, by decide +kernel⟩

theorem witness_EventsAndWatchdogsResult_5 : ∃ s : State, ∃ d : Nat, (s.live = true) ∧ (s.dom d = 2) ∧ ((29 ≤ d ∧ d ≤ 37) ∨ (50 ≤ d ∧ d ≤ 52)) ∧ (s.groupWork d = true) :=
  ⟨(up State.reset).setDom 30 2, 30, by decide +kernel, by decide +kernel, by decide +kernel, by decide +kernel⟩

theorem witness_EventsAndWatchdogsResult_6 : ∃ s : State, ∃ k : Nat, (s.live = true) ∧ (k < 4 ∧ s.dom (1 + k) = 2) :=
  ⟨((up State.reset).setDom 1 2).setDom 2 2, 1, by decide +kernel⟩

theorem witness_EventsAndWatchdogsResult_7 : ∃ s : State, (s.live = true) :=
  ⟨up State.reset, by decide +kernel⟩

theorem witness_EventsAndWatchdogsResult_8 : ∃ s : State, ∃ c : Instr, ∃ die : Bool, ∃ pkg : Bool, (s.watchdogsCount = true) ∧ ((c = .dieWatchdogExpiry false pkg ∧ die = true) ∨ (c = .packageWatchdogExpiry false die ∧ pkg = true)) :=
  ⟨up State.reset, .packageWatchdogExpiry false true, true, true, by decide +kernel⟩

theorem witness_PowerEntryResult_1 : ∃ s : State, ∃ c : Sqe, ∃ q : Cq, (s.adminOk 0 = true) ∧ (s.steady = true) ∧ (c.opc.toNat = 9 ∧ (s.fn 0).cqs.get none 0 = some q) ∧ (c.cdw10.toNat % 256 = 2) ∧ (c.cdw10.getLsbD 31 = false) :=
  ⟨ready0, { opc := 9, cid := 0x31, cdw10 := 2, cdw11 := 4 }, { base := 0, size := 16, ien := true }, by decide +kernel⟩

theorem witness_PowerEntryResult_2 : ∃ s : State, ∃ c : Sqe, ∃ d : Bytes, ∃ q : Cq, (s.adminOk 0 = true) ∧ (c.opc.toNat = 9 ∧ (s.fn 0).cqs.get none 0 = some q) ∧ (c.cdw10.toNat % 256 = 0x0C) ∧ (c.cdw10.getLsbD 31 = false) ∧ (d.length = 256) :=
  ⟨ready0, { opc := 9, cid := 0x31, cdw10 := 12, cdw11 := 1 }, List.replicate 256 7, { base := 0, size := 16, ien := true }, by decide +kernel⟩

theorem witness_PowerEntryResult_3 : ∃ s : State, ∃ c : Sqe, ∃ d : Bytes, ∃ q : Cq, (s.adminOk 0 = true) ∧ (c.opc.toNat = 9 ∧ (s.fn 0).cqs.get none 0 = some q) ∧ (c.cdw10.toNat % 256 = 0x0E) ∧ (c.cdw10.getLsbD 31 = false) :=
  ⟨ready0, { opc := 9, cid := 0x31, cdw10 := 14 }, [1, 2, 3, 4, 5, 6, 0, 0], { base := 0, size := 16, ien := true }, by decide +kernel⟩

theorem witness_PowerEntryResult_4 : ∃ s : State, ∃ e : Nat, (s.inRun = true) ∧ (s.power.entry = none) ∧ (s.power.exiting = false) ∧ (s.commandsPending = false) ∧ ((s.fn 0).features.get 0 0x0C = 1) ∧ (e = Bytes.le (s.fn 0).apst (8 * s.fld F.PWR_STATE_CUR) 8) ∧ (0 < e / 256 % 2 ^ 24) ∧ (e / 8 % 32 = 3 ∨ e / 8 % 32 = 4) :=
  ⟨apstState, 0x120, by decide +kernel⟩

theorem witness_PowerEntryResult_5 : ∃ s : State, (s.live = true) ∧ (s.basking = true) ∧ (s.power.entry = none) ∧ (s.power.exiting = false) ∧ (s.commandsPending = false) ∧ ((s.fn 0).features.get 0 0x0C = 1) ∧ (Bytes.le (s.fn 0).apst 24 8 / 8 % 32 = 4) ∧ (0 < Bytes.le (s.fn 0).apst 24 8 / 256 % 2 ^ 24) :=
  ⟨apstState.setFld F.PWR_STATE_CUR 3, by decide +kernel⟩

theorem witness_PowerEntryResult_6 : ∃ s : State, ∃ e : Entry, ∃ d : Nat, (s.live = true) ∧ (s.power.entry = some e) ∧ (d ∈ e.delays) ∧ (e.target ≤ 4) :=
  ⟨delayState, { target := 3, delays := [29, 48], asked := some (0, 0x31) }, 29, by decide +kernel, rfl, by decide +kernel, by decide +kernel⟩

theorem witness_PowerEntryResult_7 : ∃ s : State, ∃ e : Entry, ∃ d : Nat, ∃ f : Nat, ∃ cid : BitVec 16, ∃ q : Cq, (s.live = true) ∧ (s.power.entry = some e) ∧ (e.target ≤ 4) ∧ (e.asked = some (f, cid)) ∧ ((s.fn f).cqs.get none 0 = some q) ∧ (d ∈ e.delays ∧ (s.agentAnswer e.target d).1 = .delay) ∧ (e.delays.take (e.delays.idxOf d) |>.all (fun j => (s.agentAnswer e.target j).1 != .delay)) :=
  ⟨delayState, { target := 3, delays := [29, 48], asked := some (0, 0x31) }, 48, 0, 0x31, { base := 0, size := 16, ien := true }, by decide +kernel, rfl, by decide +kernel, rfl, by decide +kernel, by decide +kernel, by decide +kernel⟩

theorem witness_PowerEntryResult_8 : ∃ s : State, ∃ e : Entry, (s.live = true) ∧ (s.power.entry = some e) ∧ (s.fld F.PWR_STATE_PHASE = 2) ∧ (e.target ≤ 3) ∧ (e.woke = none ∨ e.target < 3) :=
  ⟨reachState 3, { target := 3, delays := [], brum := true }, by decide +kernel, rfl, by decide +kernel, by decide +kernel, by decide +kernel⟩

theorem witness_PowerEntryResult_9 : ∃ s : State, ∃ e : Entry, (s.live = true) ∧ (s.power.entry = some e) ∧ (s.fld F.PWR_STATE_PHASE = 2) ∧ (e.target = 4) ∧ (e.woke = none) :=
  ⟨reachState 4, { target := 4, delays := [], brum := true }, by decide +kernel, rfl, by decide +kernel, by decide +kernel, by decide +kernel⟩

theorem witness_PowerEntryResult_10 : ∃ s : State, ∃ e : Entry, ∃ src : WakeSrc, (s.live = true) ∧ (s.power.entry = some e) ∧ (s.fld F.PWR_STATE_PHASE = 2) ∧ (e.target = 3) ∧ (e.woke = some src) :=
  ⟨{ reachState 3 with power := { (reachState 3).power with entry := some { target := 3, delays := [], woke := some .rtc } } }, { target := 3, delays := [], woke := some .rtc }, .rtc, by decide +kernel, rfl, by decide +kernel, by decide +kernel, by decide +kernel⟩

theorem witness_PowerEntryResult_11 : ∃ s : State, (s.live = true) ∧ (s.nvme.linkUp = true) :=
  ⟨baskState true, by decide +kernel⟩

theorem witness_PowerEntryResult_12 : ∃ s : State, (s.brumDue = true) :=
  ⟨l2State, by decide +kernel⟩

theorem witness_WakesAndExitsResult_1 : ∃ s : State, ∃ src : WakeSrc, (s.power.phase = .brumation) ∧ (s.power.exiting = false) :=
  ⟨{ (up State.reset).setFld F.PWR_WAKE_EN_TRIG 1 with power := { (up State.reset).power with phase := .brumation } }, .trig, by decide +kernel⟩

theorem witness_WakesAndExitsResult_2 : ∃ s : State, ∃ src : WakeSrc, (s.live = true) ∧ (s.basking = true) ∧ (s.power.exiting = false) ∧ (s.power.entry = none) :=
  ⟨baskState false, .doorbell, by decide +kernel⟩

theorem witness_WakesAndExitsResult_3 : ∃ s : State, ∃ src : WakeSrc, ∃ e : Entry, (s.live = true) ∧ (s.power.entry = some e) ∧ (3 ≤ e.target) ∧ (e.woke = none) :=
  ⟨reachState 3, .heldWork, { target := 3, delays := [], brum := true }, by decide +kernel, rfl, by decide +kernel, by decide +kernel⟩

theorem witness_WakesAndExitsResult_4 : ∃ s : State, (s.live = true) ∧ (s.basking = true) ∧ (s.power.exiting = true) ∧ (s.power.prior ≤ 2) ∧ (∀ x ∈ s.eth.garpDue, x.1 < 8 ∧ x.2 < 4) ∧ (∀ x ∈ s.sec.held, x.1 < 4) :=
  ⟨baskExit, by decide +kernel⟩

theorem witness_WakesAndExitsResult_5 : ∃ s : State, ∃ facts : StartFacts, ∃ rtc : Nat, ∃ adv : Nat, (s.power.phase = .brumation) ∧ (s.power.exiting = true) ∧ (∀ e ∈ s.power.saved, savedReg e.1 = true) ∧ (rtc = (s.reg R.TMR_RTC).toNat) ∧ (adv = (rtc - s.time.entryRtc) * 1000000000 / 32768) :=
  ⟨brumExit, { challenge := 77 }, 0, 0, by decide +kernel⟩

theorem witness_WakesAndExitsResult_6 : ∃ s : State, ∃ d : Nat, (s.power.phase = .brumation) ∧ (s.power.exiting = true) ∧ (s.part.domain d = true) :=
  ⟨{ State.reset with power := { phase := .brumation, exiting := true } }, 30, by decide +kernel⟩

theorem witness_WakesAndExitsResult_7 : ∃ s : State, ∃ c : Instr, ∃ v : Nat, (s.live = true) ∧ ((c = .thermalLimitOn ∧ v = 1) ∨ (c = .thermalLimitOff ∧ v = 0)) ∧ (s.fld F.PWR_STATE_LIMITED = 1 - v) :=
  ⟨up State.reset, .thermalLimitOn, 1, by decide +kernel⟩

theorem witness_BootDebugAndPinsResult_1 : ∃ s : State, ∃ facts : StartFacts, (s.power.phase = .run) ∧ (s.power.booted = false) ∧ (s.power.stopped = false) ∧ (s.fld F.SEC_LC_STATE = 0 ∧ s.sec.transition = none) :=
  ⟨State.reset.setFld F.SEC_LC_STATE 0, { challenge := 9 }, by decide +kernel⟩

theorem witness_BootDebugAndPinsResult_2 : ∃ s : State, ∃ t : State, ∃ facts : StartFacts, ∃ n : Nat, ∃ restricted : Bool, (s.power.phase = .run) ∧ (s.power.booted = false) ∧ (s.power.stopped = false) ∧ (s.fld F.SEC_LC_STATE ≠ 0) ∧ (s.sec.transition = none) ∧ (t = s.takeOptions.finishCflErases) ∧ (t.chooseSlot facts = if restricted = true then .restricted n else .normal n) :=
  ⟨bootState, bootState.takeOptions.finishCflErases, {}, 0, false, by decide +kernel, by decide +kernel, by decide +kernel, by decide +kernel, by decide +kernel, rfl, by decide +kernel⟩

theorem witness_BootDebugAndPinsResult_3 : ∃ s : State, ∃ facts : StartFacts, (s.power.phase = .run) ∧ (s.power.booted = false) ∧ (s.power.stopped = false) ∧ (s.fld F.SEC_LC_STATE ≠ 0) ∧ (s.sec.transition = none) ∧ (s.takeOptions.finishCflErases.chooseSlot facts = .none) ∧ (s.nvme.numVfs < 32) :=
  ⟨{ bootState with sec := {} }, {}, by decide +kernel⟩

theorem witness_BootDebugAndPinsResult_4 : ∃ s : State, ∃ facts : StartFacts, ∃ a : Nat, ∃ b : Nat, (s.power.phase = .run) ∧ (s.power.booted = false) ∧ (s.power.stopped = false) ∧ (s.sec.transition = some (a, b, false) ∧ b < 8) :=
  ⟨{ bootState with sec := { bootState.sec with transition := some (2, 3, false) } }, {}, 2, 3, by decide +kernel⟩

theorem witness_BootDebugAndPinsResult_5 : ∃ s : State, ∃ confirm : Nat, ∃ target : Nat, (s.live = true) ∧ (s.sec.transition = none) ∧ (∀ e ∈ s.eth.saKeys, e.1 < 4096) :=
  ⟨lcState, 0x4C43, 2, by decide +kernel⟩

theorem witness_BootDebugAndPinsResult_6 : ∃ s : State, ∃ target : Nat, (s.power.phase = .run) ∧ (s.power.booted = true ∨ s.power.stopped = true) ∧ (s.basking = false) ∧ (s.sec.transition = none) ∧ (s.factoryOpen = true) ∧ (∀ e ∈ s.eth.saKeys, e.1 < 4096) ∧ ((s.fld F.SEC_LC_STATE = 0 ∧ target = 1 ∧ calGood = true) ∨ (s.fld F.SEC_LC_STATE = 1 ∧ target = 2 ∧ (s.cfl.copyA ≠ none ∨ s.cfl.copyB ≠ none))) :=
  ⟨lcState, 2, by decide +kernel⟩

theorem witness_BootDebugAndPinsResult_7 : ∃ s : State, ∃ a : Nat, ∃ n : Nat, ∃ x : Bool, (s.power.phase = .run) ∧ (s.power.booted = true ∨ s.power.stopped = true) ∧ (s.sec.transition = some (a, n, x)) ∧ (1 ≤ n ∧ n ≤ 4) :=
  ⟨{ (flash1 lcState) with sec := { lcState.sec with transition := some (2, 3, false) }, nvme := { nss := [(1, some capNs)] }, ftl := gcState.ftl }, 2, 3, false, by decide +kernel⟩

theorem witness_BootDebugAndPinsResult_8 : ∃ s : State, (s.live = true) :=
  ⟨(up State.reset).setFld F.DBG_STATUS_SCOPE 3, by decide +kernel⟩

theorem witness_BootDebugAndPinsResult_9 : ∃ s : State, ∃ k : Nat, ∃ acc : List DbgAcc, (s.live = true) ∧ (k < 4) ∧ (s.debugOpen 0 = true) :=
  ⟨lcState, 3, [], by decide +kernel⟩

theorem witness_BootDebugAndPinsResult_10 : ∃ s : State, ∃ k : Nat, ∃ a : DbgAcc, (s.live = true) ∧ (k < 4) ∧ (s.debugOpen 0 = true) ∧ (s.debugHeld = false) ∧ (a.target ∈ [.bank 9, .keyStore] ∨ ∃ q, q < 4 ∧ a.target = .cipherLane q) :=
  ⟨lcState, 3, { target := .bank 9, addr := 64, len := 2, write := none }, by decide +kernel⟩

theorem witness_BootDebugAndPinsResult_11 : ∃ s : State, ∃ k : Nat, ∃ close : Bool, (s.live = true) ∧ (k < 4) :=
  ⟨{ (up State.reset).setFld F.DBG_STATUS_HALTED 8 with sec := { session := [3] } }, 3, true, by decide +kernel⟩

theorem witness_BootDebugAndPinsResult_12 : ∃ s : State, ∃ v : W32, (s.live = true) ∧ (v.getLsbD 31 = true) ∧ (s.debugOpen 1 = true) :=
  ⟨lcState, 0xffffffff, by decide +kernel⟩

theorem witness_BootDebugAndPinsResult_13 : ∃ s : State, ∃ c : Instr, ∃ code : Nat, (s.power.phase = .run ∨ s.power.phase = .held) ∧ (s.live = false ∨ s.basking = false) ∧ ((c, code) ∈ [(Instr.tapExtest, 0), (Instr.tapClamp, 4), (Instr.tapHighz, 5)]) :=
  ⟨up State.reset, .tapClamp, 4, by decide +kernel⟩

theorem witness_BootDebugAndPinsResult_14 : ∃ s : State, ∃ c : Instr, (s.tapIdOnly = true) ∧ (c ∈ [Instr.tapExtest, .tapClamp, .tapHighz]) :=
  ⟨baskState false, .tapClamp, by decide +kernel⟩

theorem witness_BootDebugAndPinsResult_15 : ∃ s : State, (s.power.phase ≠ .off) :=
  ⟨up State.reset, by decide +kernel⟩

theorem witness_BootDebugAndPinsResult_16 : ∃ s : State, ∃ code : Nat, (s.power.phase ≠ .off) ∧ (code < 256) ∧ (code ∉ [0, 1, 2, 4, 5] ∨ (s.tapIdOnly = true ∧ code ≠ 1)) :=
  ⟨up State.reset, 255, by decide +kernel⟩

theorem witness_BootDebugAndPinsResult_17 : ∃ s : State, ∃ cells : List Bool, (s.power.phase = .run ∨ s.power.phase = .held) ∧ (s.live = false ∨ s.basking = false) ∧ (cells.length = 3488) :=
  ⟨up State.reset, List.replicate 3488 true, by decide +kernel⟩

theorem witness_BootDebugAndPinsResult_18 : ∃ s : State, (s.power.phase ≠ .off) :=
  ⟨{ State.reset with power := { phase := .held, heldBy := [.tap] } }, by decide +kernel⟩

theorem witness_BootDebugAndPinsResult_19 : ∃ s : State, ∃ vddq : List Bool, (s.power.phase = .off) :=
  ⟨{ State.reset with power := { phase := .off, ballLow := true } }, [true, false, true, true], by decide +kernel⟩

theorem witness_BootDebugAndPinsResult_20 : ∃ s : State, (s.power.ballLow = false) :=
  ⟨(up State.reset).setFld F.PWR_HU_WIN_IN_USE 1, by decide +kernel⟩

theorem witness_BootDebugAndPinsResult_21 : ∃ s : State, (s.power.ballLow = true) :=
  ⟨{ State.reset with power := { phase := .held, ballLow := true, heldBy := [.ball] } }, by decide +kernel⟩

theorem witness_BootDebugAndPinsResult_22 : ∃ s : State, (s.power.phase ≠ .off) :=
  ⟨up State.reset, by decide +kernel⟩

end Sys2Proof.Tests
end

section
/-! SUPPORT. Event sources (R448 to R451): what a source that is set leaves, once for all sources. -/

open Sys2Proof.Claim

namespace Sys2Proof.Machine

/-- The status flag of an event source as a register field (R449). -/
def eventFlag (src : Nat) : Field := ⟨R.EVT_STATUS (src / 32), src % 32, 1⟩

/-- The enable of an event source as a register field (R449). -/
def eventEnable (src : Nat) : Field := ⟨R.EVT_ENABLE (src / 32), src % 32, 1⟩

theorem State.evFlag_iff (s : State) (src : Nat) : s.evFlag src = true ↔ s.fld (eventFlag src) = 1 := beq_iff_eq

theorem eventFlag_in_word (src : Nat) : (eventFlag src).lo + (eventFlag src).len ≤ 64 := by
  have : src % 32 < 32 := Nat.mod_lt _ (by decide)
  change src % 32 + 1 ≤ 64
  omega

/-! ### Fields depend on the register file alone -/

theorem State.reg_congr {s u : State} (h : u.regs = s.regs) (x : Nat) : u.reg x = s.reg x := by
  unfold State.reg
  rw [h]

theorem State.words_congr {s u : State} (h : u.regs = s.regs) (x k : Nat) : u.words x k = s.words x k := by
  induction k generalizing x with
  | zero => rfl
  | succ k ih => simp only [State.words, State.reg_congr h, ih]

theorem State.fld_congr {s u : State} (h : u.regs = s.regs) (f : Field) : u.fld f = s.fld f := by
  unfold State.fld
  rw [State.reg_congr h, State.words_congr h]

/-- A field write leaves every field that shares no bit with it. -/
theorem State.fieldsStand_setFld (s : State) {f : Field} (v : Nat) (h : f.lo + f.len ≤ 64) : FieldsStand s (s.setFld f v) [f] := by
  rintro g ⟨hg, hapart⟩
  by_cases hoff : g.off = f.off
  · exact State.fld_setFld_disjoint s v h hg (hapart f (List.mem_singleton_self f) hoff)
  · exact State.fld_setFld_ne s v h hg hoff

/-- A field write changes the register file alone. -/
theorem State.setFld_rest (s : State) {f : Field} (v : Nat) (h : f.lo + f.len ≤ 64) : { s.setFld f v with regs := s.regs } = s := by
  rw [State.setFld_eq s v h]
  rfl

/-- Nothing but the field that is written changes. -/
theorem State.onlyFields_setFld (s : State) {f : Field} (v : Nat) (h : f.lo + f.len ≤ 64) : OnlyFields s (s.setFld f v) [f] :=
  ⟨s.fieldsStand_setFld v h, s.setFld_rest v h⟩

/-! ### Delivery (R451) -/

@[simp] theorem State.msix_regs (s : State) (vec : Nat) : (s.msix vec).regs = s.regs := by
  unfold State.msix
  split
  · rfl
  · split
    · rfl
    · split <;> rfl

@[simp] theorem State.deliver_regs (s : State) (src : Nat) : (s.deliver src).regs = s.regs := by
  unfold State.deliver
  split
  · rfl
  · exact State.msix_regs _ _

/-- A vector's message is sent or waits, and that is all it does. -/
theorem State.lessEvents_msix (s u : State) (vec : Nat) : lessEvents s (u.msix vec) = lessEvents s u := by
  unfold State.msix
  split
  · rfl
  · split
    · rfl
    · split <;> rfl

/-- A delivery is a message or an entry of the cores' list. -/
theorem State.lessEvents_deliver (s u : State) (src : Nat) : lessEvents s (u.deliver src) = lessEvents s u := by
  unfold State.deliver
  split
  · rfl
  · exact State.lessEvents_msix _ _ _

/-! ### A source that is set (R449) -/

/-- What setting a source can do: nothing where its unit is absent or its flag stands, or the flag is set, and with the enable at 1 the
source is delivered. -/
theorem State.raise_cases (s : State) (src : Nat) :
    ((s.part.srcAbsent src = true ∨ s.evFlag src = true) ∧ s.raise src = s) ∨
    (s.fld (eventEnable src) = 1 ∧ s.raise src = (s.setFld (eventFlag src) 1).deliver src) ∨
    (s.fld (eventEnable src) ≠ 1 ∧ s.raise src = s.setFld (eventFlag src) 1) := by
  unfold State.raise
  split
  case isTrue h => exact .inl ⟨by simpa using h, rfl⟩
  case isFalse =>
    by_cases he : s.fld (eventEnable src) = 1
    · exact .inr (.inl ⟨he, if_pos he⟩)
    · exact .inr (.inr ⟨he, if_neg he⟩)

/-- A flag that stands is not set again. -/
theorem State.raise_of_evFlag {s : State} {src : Nat} (h : s.evFlag src = true) : s.raise src = s := by
  simp [State.raise, h]

/-- The register file after a source was set: as it was, or with the flag set. -/
theorem State.raise_regs_cases (s : State) (src : Nat) :
    ((s.part.srcAbsent src = true ∨ s.evFlag src = true) ∧ (s.raise src).regs = s.regs) ∨
    (s.raise src).regs = (s.setFld (eventFlag src) 1).regs := by
  rcases s.raise_cases src with ⟨h, e⟩ | ⟨-, e⟩ | ⟨-, e⟩
  · exact .inl ⟨h, by rw [e]⟩
  · exact .inr (by rw [e, State.deliver_regs])
  · exact .inr (by rw [e])

/-- The flag of a present unit's source stands after the source was set, whatever its enable. -/
theorem State.evFlag_raise (s : State) {src : Nat} (h : s.part.srcAbsent src = false) : (s.raise src).evFlag src = true := by
  rw [State.evFlag_iff]
  rcases s.raise_regs_cases src with ⟨habs | hflag, e⟩ | e
  · simp [h] at habs
  · rw [State.fld_congr e, ← State.evFlag_iff, hflag]
  · rw [State.fld_congr e, State.fld_setFld s 1 (eventFlag_in_word src)]
    rfl

/-- Every register field apart from the flag stands when a source is set. -/
theorem State.fieldsStand_raise (s : State) (src : Nat) : FieldsStand s (s.raise src) [eventFlag src] := by
  intro f hf
  rcases s.raise_regs_cases src with ⟨-, e⟩ | e
  · exact State.fld_congr e f
  · rw [State.fld_congr e, s.fieldsStand_setFld 1 (eventFlag_in_word src) f hf]

/-- Behind the registers a source that is set leaves its delivery only. -/
theorem State.lessEvents_raise (s : State) (src : Nat) : { lessEvents s (s.raise src) with regs := s.regs } = s := by
  rcases s.raise_cases src with ⟨-, e⟩ | ⟨-, e⟩ | ⟨-, e⟩
  · rw [e]
    rfl
  · rw [e, State.lessEvents_deliver, State.setFld_eq s 1 (eventFlag_in_word src)]
    rfl
  · rw [e, State.setFld_eq s 1 (eventFlag_in_word src)]
    rfl

/-- Setting a source changes its flag and delivers it, and no more. -/
theorem State.onlyFieldsAndEvents_raise (s : State) (src : Nat) : OnlyFieldsAndEvents s (s.raise src) [eventFlag src] :=
  ⟨fun f hf _ => s.fieldsStand_raise src f hf, s.lessEvents_raise src⟩

/-- A source whose enable is 0 changes its flag and no more. -/
theorem State.onlyFields_raise {s : State} {src : Nat} (h : s.fld (eventEnable src) = 0) : OnlyFields s (s.raise src) [eventFlag src] := by
  rcases s.raise_cases src with ⟨-, e⟩ | ⟨hen, -⟩ | ⟨-, e⟩
  · exact ⟨s.fieldsStand_raise src, by rw [e]⟩
  · simp [h] at hen
  · rw [e]
    exact s.onlyFields_setFld 1 (eventFlag_in_word src)

end Sys2Proof.Machine
end

section
/-! SUPPORT. Narrow writes (R10) and the capability word (R2), and the statements about them. -/

open Sys2Proof Sys2Proof.Machine Sys2Proof.Claim

namespace Sys2Proof.Machine

/-- R10's two kinds of narrow write: less than 32 bits anywhere, or 32 bits within a 64-bit register. -/
theorem narrow_iff (f off width : Nat) :
    narrow f off width = true ↔ width < 32 ∨ (width = 32 ∧ wideReg (viewOff f (off / 8 * 8)) = true) := by
  simp [narrow]

/-- A narrow write sets source 896 and does no more, whichever command carries it (R10). -/
theorem State.barWrite_of_narrow {s : State} (full : Bool) {f off width : Nat} (v race : W64) (hlive : s.live = true)
    (hfn : s.fnExists f = true) (hoff : off < barBytes f) (hnarrow : narrow f off width = true) :
    s.barWrite full f off width v race = .next (s.raise 896) := by
  have hwidth : width ≠ 64 := by
    have := (narrow_iff f off width).mp hnarrow
    omega
  unfold State.barWrite
  rw [if_neg (Nat.not_le.mpr hoff), if_neg (by simp [hlive, hfn]), if_neg (fun h => hwidth h.1), if_pos (.inl hnarrow)]

/-- Source 896 belongs to no unit that a part can lack (R5). -/
theorem Part.srcAbsent_narrowWrite (p : Part) : p.srcAbsent 896 = false := by
  cases p <;> rfl

/-- The block of the identity registers is present on every part (R4). -/
theorem Part.absentAt_caps0 (p : Part) : p.absentAt R.ID_CAPS0 = false := by
  cases p <;> rfl

/-- ID.CAPS0 reads the word of the part (R2). -/
theorem State.readReg_caps0 (s : State) : s.readReg 0 R.ID_CAPS0 = BitVec.ofNat 64 s.part.caps0 := by
  have hpf : s.readPf R.ID_CAPS0 = BitVec.ofNat 64 s.part.caps0 := by
    unfold State.readPf
    rw [if_neg (by simp [Part.absentAt_caps0]), if_neg (by simp [R.ID_CAPS0]), if_neg (by decide), if_pos rfl]
  unfold State.readReg
  rw [if_neg (by decide), if_neg (by decide), if_neg (by decide), if_pos rfl, hpf]

end Sys2Proof.Machine

namespace Sys2Proof.Proofs

/-- Settles O7: the word read is the part's own, and each part's is R2's. -/
theorem capabilityRegisterPerPart : Obligations.CapabilityRegisterPerPart := by
  intro s
  rw [State.readReg_caps0]
  cases s.part <;> rfl

/-- Settles O8: both commands meet `State.barWrite_of_narrow`, and setting source 896 has the effects that the laws of `State.raise` name. -/
theorem narrowWriteDiscarded : Obligations.NarrowWriteDiscarded := by
  intro c s f o w v r hc hlive hfn hoff hw
  have hnarrow : narrow f o w = true := by
    rw [narrow_iff]
    rcases hw with rfl | rfl | hw
    · exact .inl (by decide)
    · exact .inl (by decide)
    · exact .inr hw
  refine ⟨s.raise 896, ?_, s.evFlag_raise (Part.srcAbsent_narrowWrite _), s.onlyFieldsAndEvents_raise 896, s.fieldsStand_raise 896,
    fun h => State.onlyFields_raise (src := 896) h, State.raise_of_evFlag⟩
  rcases hc with rfl | rfl
  · exact State.barWrite_of_narrow true v r hlive hfn hoff hnarrow
  · exact State.barWrite_of_narrow false v 0 hlive hfn hoff hnarrow

end Sys2Proof.Proofs
end

section
/-! SUPPORT. Which registers stand when a cause is set (R62, R155, R449) and when receive cells are freed, where a pause frame may be due (R159). -/

open Sys2Proof.Claim

namespace Sys2Proof.Machine

/-! ### Registers and fields -/

/-- A register as the field that fills it. -/
theorem State.fld_whole (s : State) (x : Nat) : s.fld ⟨x, 0, 64⟩ = (s.reg x).toNat := by
  unfold State.fld bits
  rw [if_pos (by simp), Nat.pow_zero, Nat.div_one, Nat.mod_eq_of_lt (s.reg x).isLt]

/-- A field of one register depends on that register alone. -/
theorem State.fld_of_reg {s u : State} {f : Field} (hf : f.lo + f.len ≤ 64) (h : u.reg f.off = s.reg f.off) : u.fld f = s.fld f := by
  unfold State.fld
  rw [if_pos hf, if_pos hf, h]

/-- A register write is a write of the field that fills it. -/
theorem State.setReg_eq_setFld (s : State) (x : Nat) (v : W64) : s.setReg x v = s.setFld ⟨x, 0, 64⟩ v.toNat := by
  have hput : putBits (s.reg x).toNat 0 64 v.toNat = v.toNat := by
    have := (s.reg x).isLt
    have := v.isLt
    unfold putBits
    omega
  rw [State.setFld_eq s _ (by simp), hput, BitVec.ofNat_toNat, BitVec.setWidth_eq]

/-- A counter that counts changes its own register alone. -/
theorem State.fieldsStand_count (s : State) (x n : Nat) : FieldsStand s (s.count x n) [⟨x, 0, 64⟩] := by
  unfold State.count
  rw [State.setReg_eq_setFld]
  exact s.fieldsStand_setFld _ (by simp)

/-- What two steps change lies in the fields of the one or of the other. -/
theorem fieldsStand_trans {s u v : State} {fs gs : List Field} (h : FieldsStand s u fs) (k : FieldsStand u v gs) : FieldsStand s v (fs ++ gs) := by
  rintro f ⟨hf, hapart⟩
  rw [k f ⟨hf, fun g hg => hapart g (List.mem_append_right fs hg)⟩, h f ⟨hf, fun g hg => hapart g (List.mem_append_left gs hg)⟩]

/-- A frame of the registers says the same of any state that has the same register file. -/
theorem fieldsStand_of_regs {s s' u : State} {fs : List Field} (h : s'.regs = s.regs) (k : FieldsStand s' u fs) : FieldsStand s u fs :=
  fun f hf => (k f hf).trans (State.fld_congr h f)

/-- A register in which none of the changed fields lies stands. -/
theorem reg_of_fieldsStand {s u : State} {fs : List Field} (h : FieldsStand s u fs) {x : Nat} (hx : ∀ g ∈ fs, x ≠ g.off) : u.reg x = s.reg x := by
  apply BitVec.eq_of_toNat_eq
  rw [← State.fld_whole, ← State.fld_whole]
  exact h _ ⟨by simp, fun g hg e => absurd e (hx g hg)⟩

/-! ### Causes -/

/-- A source that is set leaves every register but its word of EVT.STATUS. -/
theorem State.raise_reg (s : State) {src x : Nat} (hx : x ≠ R.EVT_STATUS (src / 32)) : (s.raise src).reg x = s.reg x :=
  reg_of_fieldsStand (s.fieldsStand_raise src) (fun g hg => by rwa [List.mem_singleton.mp hg])

@[simp] theorem State.pulse_regs (s : State) (p : Pulse) : (s.pulse p).regs = s.regs := by
  unfold State.pulse
  split <;> rfl

/-- The condition of a cause leaves every register but the cause's own and its source's word of EVT.STATUS. -/
theorem State.cause_reg (s : State) {f : Field} {src x : Nat} (hf : f.lo + f.len ≤ 64) (hx : x ≠ f.off) (hsrc : x ≠ R.EVT_STATUS (src / 32)) :
    (s.cause f src).reg x = s.reg x := by
  have hpulse : (s.pulse (.cause f.off f.lo)).reg x = s.reg x := State.reg_congr (s.pulse_regs _) x
  unfold State.cause
  dsimp only
  split
  · exact hpulse
  · rw [State.raise_reg _ hsrc, State.reg_setFld_ne _ _ hf hx, hpulse]

/-- A cause bit whose condition has arisen is 1. -/
theorem State.fld_cause (s : State) {off lo src : Nat} (hf : lo + 1 ≤ 64) (hsrc : off ≠ R.EVT_STATUS (src / 32)) :
    (s.cause ⟨off, lo, 1⟩ src).fld ⟨off, lo, 1⟩ = 1 := by
  unfold State.cause
  dsimp only
  split
  case isTrue h => exact h
  case isFalse =>
    rw [State.fld_of_reg hf (State.raise_reg _ hsrc), State.fld_setFld _ _ hf]
    rfl

/-- A cause of a stream leaves the registers but the stream's causes and the status words of the streams' sources. -/
theorem State.strCause_reg (s : State) {n i x : Nat} (hi : i < 64) (hx : x ≠ R.CAP_S_EVCAUSE n) (hst : x < R.EVT_STATUS 0) :
    (s.strCause n i).reg x = s.reg x := by
  refine s.cause_reg (by simp; omega) hx ?_
  unfold R.EVT_STATUS at hst ⊢
  omega

@[simp] theorem State.strCause_ur (s : State) (n i : Nat) : (s.strCause n i).ur = s.ur := s.cause_ur _ _

@[simp] theorem State.strCause_cap (s : State) (n i : Nat) : (s.strCause n i).cap = s.cap := s.cause_cap _ _

/-! ### Receive cells and pause -/

/-- Register `x` lies neither in the block of an Ethernet port nor among the status words of the ports' sources, 128 to 191. -/
def OffPorts (x : Nat) : Prop := x < 0xC00000 ∨ R.EVT_STATUS 6 ≤ x

theorem Part.ports_le (p : Part) : p.ports ≤ 8 := by
  cases p <;> decide

/-- A sub-port that is on is one of the four of a port present. -/
theorem State.subOn_bounds {s : State} {p j : Nat} (h : s.subOn p j = true) : p < 8 ∧ j < 4 := by
  have := s.part.ports_le
  simp only [State.subOn, Bool.and_eq_true, decide_eq_true_eq] at h
  omega

@[simp] theorem State.sendPause_ur (s : State) (p j : Nat) (pfc : Bool) (prio quanta : Nat) : (s.sendPause p j pfc prio quanta).ur = s.ur := rfl

@[simp] theorem State.sendPause_cap (s : State) (p j : Nat) (pfc : Bool) (prio quanta : Nat) : (s.sendPause p j pfc prio quanta).cap = s.cap := rfl

/-- A pause frame counts in its sub-port's TX_FRAMES and in no other register. -/
theorem State.sendPause_reg (s : State) {p j x : Nat} (pfc : Bool) (prio quanta : Nat) (hx : x ≠ R.ETH_N_TX_FRAMES p j) :
    (s.sendPause p j pfc prio quanta).reg x = s.reg x := State.reg_count_ne _ _ hx

@[simp] theorem State.sendXoff_ur (s : State) (p j : Nat) : (s.sendXoff p j).ur = s.ur := State.cause_ur _ _ _

@[simp] theorem State.sendXoff_cap (s : State) (p j : Nat) : (s.sendXoff p j).cap = s.cap := State.cause_cap _ _ _

theorem offPorts_ne_txFrames {p j x : Nat} (hp : p < 8) (hj : j < 4) (hx : OffPorts x) : x ≠ R.ETH_N_TX_FRAMES p j := by
  unfold OffPorts R.EVT_STATUS at hx
  unfold R.ETH_N_TX_FRAMES
  omega

/-- An XOFF touches its port's registers and the flag of the port's PAUSE cause. -/
theorem State.sendXoff_reg (s : State) {p j x : Nat} (hp : p < 8) (hj : j < 4) (hx : OffPorts x) : (s.sendXoff p j).reg x = s.reg x := by
  have hcause : x ≠ R.ETH_EVCAUSE p := by
    unfold OffPorts R.EVT_STATUS at hx
    unfold R.ETH_EVCAUSE
    omega
  have hflag : x ≠ R.EVT_STATUS ((128 + 8 * p + 6) / 32) := by
    unfold OffPorts at hx
    unfold R.EVT_STATUS at hx ⊢
    omega
  unfold State.sendXoff State.ethCause
  dsimp only
  rw [State.cause_reg _ (by simp) hcause hflag, State.sendPause_reg _ _ _ _ (offPorts_ne_txFrames hp hj hx)]
  rfl

/-- What a pause check can do: nothing, or on a sub-port present send the XON of the XOFF that stands, or an XOFF. -/
theorem State.pauseCheck_cases (s : State) (p j : Nat) :
    s.pauseCheck p j = s ∨ p < 8 ∧ j < 4 ∧
      ((∃ eth pfc prio, s.pauseCheck p j = ({ s with eth := eth } : State).sendPause p j pfc prio 0) ∨ s.pauseCheck p j = s.sendXoff p j) := by
  unfold State.pauseCheck
  dsimp only
  split
  case isTrue => exact .inl rfl
  case isFalse hon =>
    have hsub : s.subOn p j = true := by
      by_contra hoff
      exact hon (.inr (.inl (by simpa using hoff)))
    obtain ⟨hp, hj⟩ := State.subOn_bounds hsub
    split
    · split
      · exact .inr ⟨hp, hj, .inl ⟨_, _, _, rfl⟩⟩
      · exact .inl rfl
    · split
      · exact .inr ⟨hp, hj, .inr rfl⟩
      · exact .inl rfl

/-- A pause check touches registers of the ports and flags of their sources only. -/
theorem State.pauseCheck_reg (s : State) (p j : Nat) {x : Nat} (hx : OffPorts x) : (s.pauseCheck p j).reg x = s.reg x := by
  rcases s.pauseCheck_cases p j with e | ⟨hp, hj, ⟨eth, pfc, prio, e⟩ | e⟩
  · rw [e]
  · rw [e, State.sendPause_reg _ _ _ _ (offPorts_ne_txFrames hp hj hx)]
    rfl
  · rw [e, State.sendXoff_reg s hp hj hx]

@[simp] theorem State.pauseCheck_ur (s : State) (p j : Nat) : (s.pauseCheck p j).ur = s.ur := by
  rcases s.pauseCheck_cases p j with e | ⟨-, -, ⟨eth, pfc, prio, e⟩ | e⟩ <;> simp [e]

@[simp] theorem State.pauseCheck_cap (s : State) (p j : Nat) : (s.pauseCheck p j).cap = s.cap := by
  rcases s.pauseCheck_cases p j with e | ⟨-, -, ⟨eth, pfc, prio, e⟩ | e⟩ <;> simp [e]

/-- Freeing a datagram's cells changes what lies behind the ports, and registers of the ports. -/
theorem State.freeDgram_reg (s : State) (g : Dgram) {x : Nat} (hx : OffPorts x) : (s.freeDgram g).reg x = s.reg x :=
  State.pauseCheck_reg _ _ _ hx

@[simp] theorem State.freeDgram_ur (s : State) (g : Dgram) : (s.freeDgram g).ur = s.ur := State.pauseCheck_ur _ _ _

@[simp] theorem State.freeDgram_cap (s : State) (g : Dgram) : (s.freeDgram g).cap = s.cap := State.pauseCheck_cap _ _ _

end Sys2Proof.Machine
end

section
/-! SUPPORT. The end of a thread (R37, R44, R53): the fault latch, the release of its side effects, the thread that frees; and the statement about
it. -/

open Sys2Proof Sys2Proof.Machine Sys2Proof.Claim

namespace Sys2Proof.Machine

/-! ### A thread that frees -/

/-- The BUSY bit of thread `t` (R37). -/
def busyBit (t : Nat) : Field := ⟨R.UEN_ENG_STAT (t / 8), t % 8, 1⟩

theorem busyBit_in_word (t : Nat) : (busyBit t).lo + (busyBit t).len ≤ 64 := by
  change t % 8 + 1 ≤ 64
  omega

/-- The threads depend on the cluster alone. -/
theorem State.thread_congr {s u : State} (h : u.ur.threads = s.ur.threads) (j : Nat) : u.thread j = s.thread j := by
  unfold State.thread
  rw [h]

/-- Of the cluster a thread that frees changes its own place. -/
theorem State.endThread_ur (s : State) (t : Nat) (th : Thread) : (s.endThread t th).ur = (s.setThread t none).ur := by
  simp [State.endThread]

@[simp] theorem State.endThread_cap (s : State) (t : Nat) (th : Thread) : (s.endThread t th).cap = s.cap := by
  simp [State.endThread]

@[simp] theorem State.thread_endThread (s : State) (t : Nat) (th : Thread) : (s.endThread t th).thread t = none := by
  rw [State.thread_congr (congrArg Urette.threads (s.endThread_ur t th)), State.thread_setThread]

theorem State.thread_endThread_ne (s : State) {t j : Nat} (th : Thread) (h : j ≠ t) : (s.endThread t th).thread j = s.thread j := by
  rw [State.thread_congr (congrArg Urette.threads (s.endThread_ur t th)), State.thread_setThread_ne _ _ _ h]

/-- Away from the ports, where its cells were, a thread that frees changes the word of its BUSY bit only. -/
theorem State.endThread_reg (s : State) {t x : Nat} (th : Thread) (hx : OffPorts x) (hbusy : x ≠ R.UEN_ENG_STAT (t / 8)) :
    (s.endThread t th).reg x = s.reg x := by
  unfold State.endThread
  rw [State.freeDgram_reg _ _ hx]
  exact State.reg_setFld_ne _ _ (busyBit_in_word t) hbusy

/-- The BUSY bit of a thread that frees is 0. -/
theorem State.fld_busy_endThread (s : State) {t : Nat} (th : Thread) (ht : t < 128) : (s.endThread t th).fld (busyBit t) = 0 := by
  have hoff : OffPorts (busyBit t).off := .inl (by
    change R.UEN_ENG_STAT (t / 8) < _
    unfold R.UEN_ENG_STAT
    omega)
  have hfld := State.fld_setFld (s.setThread t none) 0 (busyBit_in_word t)
  rw [← State.fld_of_reg (busyBit_in_word t) (State.freeDgram_reg _ th.dgram hoff)] at hfld
  exact hfld

/-! ### The fault latch (R60) -/

/-- The engine's fault register written for a fault, each value cut to its field. -/
def State.writeLatch (s : State) (t : Nat) (th : Thread) (code : Nat) : State :=
  (s.setReg (R.UEN_ENG_FAULT (t / 8)) 0)
    |>.setFld (F.UEN_ENG_FAULT_VALID (t / 8)) 1 |>.setFld (F.UEN_ENG_FAULT_CODE (t / 8)) code
    |>.setFld (F.UEN_ENG_FAULT_STREAM (t / 8)) th.dgram.stream |>.setFld (F.UEN_ENG_FAULT_THREAD (t / 8)) (t % 8)
    |>.setFld (F.UEN_ENG_FAULT_PC (t / 8)) th.pc |>.setFld (F.UEN_ENG_FAULT_SLOTS_USED (t / 8)) th.slots

/-- The fields of the fault register share no bit, so each reads what was written to it. -/
theorem State.writeLatch_fields (s : State) (t : Nat) (th : Thread) (code : Nat) :
    (s.writeLatch t th code).fld (F.UEN_ENG_FAULT_VALID (t / 8)) = 1 ∧
    (s.writeLatch t th code).fld (F.UEN_ENG_FAULT_CODE (t / 8)) = code % 2 ^ 8 ∧
    (s.writeLatch t th code).fld (F.UEN_ENG_FAULT_STREAM (t / 8)) = th.dgram.stream % 2 ^ 6 ∧
    (s.writeLatch t th code).fld (F.UEN_ENG_FAULT_THREAD (t / 8)) = t % 8 ∧
    (s.writeLatch t th code).fld (F.UEN_ENG_FAULT_PC (t / 8)) = th.pc % 2 ^ 12 ∧
    (s.writeLatch t th code).fld (F.UEN_ENG_FAULT_SLOTS_USED (t / 8)) = th.slots % 2 ^ 9 := by
  simp [State.writeLatch, State.fld_setFld, State.fld_setFld_disjoint, F.UEN_ENG_FAULT_VALID, F.UEN_ENG_FAULT_CODE, F.UEN_ENG_FAULT_STREAM,
    F.UEN_ENG_FAULT_THREAD, F.UEN_ENG_FAULT_PC, F.UEN_ENG_FAULT_SLOTS_USED]

/-- Another register stands. -/
theorem State.writeLatch_reg (s : State) {t x : Nat} (th : Thread) (code : Nat) (hx : x ≠ R.UEN_ENG_FAULT (t / 8)) :
    (s.writeLatch t th code).reg x = s.reg x := by
  simp [State.writeLatch, State.reg_setFld_ne, State.reg_setReg_ne, F.UEN_ENG_FAULT_VALID, F.UEN_ENG_FAULT_CODE, F.UEN_ENG_FAULT_STREAM,
    F.UEN_ENG_FAULT_THREAD, F.UEN_ENG_FAULT_PC, F.UEN_ENG_FAULT_SLOTS_USED, hx]

/-- A latch that holds a fault keeps it; a free one takes the fault and its datagram's header window. -/
theorem State.latchFault_cases (s : State) (t : Nat) (th : Thread) (code : Nat) :
    (s.fld (F.UEN_ENG_FAULT_VALID (t / 8)) = 1 ∧ s.latchFault t th code = s) ∨
    (s.fld (F.UEN_ENG_FAULT_VALID (t / 8)) ≠ 1 ∧ s.latchFault t th code =
      { s.writeLatch t th code with ur := { s.ur with hdrs := s.ur.hdrs.set [] (t / 8) th.dgram.window } }) := by
  by_cases h : s.fld (F.UEN_ENG_FAULT_VALID (t / 8)) = 1
  · exact .inl ⟨h, if_pos (by simp [State.on, h])⟩
  · refine .inr ⟨h, (if_neg (by simp [State.on, h])).trans ?_⟩
    simp [State.writeLatch]

@[simp] theorem State.latchFault_cap (s : State) (t : Nat) (th : Thread) (code : Nat) : (s.latchFault t th code).cap = s.cap := by
  rcases s.latchFault_cases t th code with ⟨-, e⟩ | ⟨-, e⟩ <;> simp [e, State.writeLatch]

/-- Of the cluster a fault that is latched changes the header windows latched only. -/
theorem State.latchFault_ur (s : State) (t : Nat) (th : Thread) (code : Nat) :
    ∃ hdrs, (s.latchFault t th code).ur = { s.ur with hdrs := hdrs } := by
  rcases s.latchFault_cases t th code with ⟨-, e⟩ | ⟨-, e⟩ <;> rw [e]
  · exact ⟨s.ur.hdrs, rfl⟩
  · exact ⟨_, rfl⟩

/-- Where the latch is free, the registers are those of a written latch. -/
theorem State.latchFault_regs {s : State} {t : Nat} (th : Thread) (code : Nat) (h : s.fld (F.UEN_ENG_FAULT_VALID (t / 8)) ≠ 1) :
    (s.latchFault t th code).regs = (s.writeLatch t th code).regs := by
  rcases s.latchFault_cases t th code with ⟨hv, -⟩ | ⟨-, e⟩
  · exact absurd hv h
  · rw [e]

/-- A fault that is latched changes no register but its engine's latch. -/
theorem State.latchFault_reg (s : State) {t x : Nat} (th : Thread) (code : Nat) (hx : x ≠ R.UEN_ENG_FAULT (t / 8)) :
    (s.latchFault t th code).reg x = s.reg x := by
  rcases s.latchFault_cases t th code with ⟨-, e⟩ | ⟨hfree, -⟩
  · rw [e]
  · rw [State.reg_congr (State.latchFault_regs th code hfree), State.writeLatch_reg s th code hx]

/-! ### A run that ends in a fault (R53) -/

/-- A fault discards what the thread held, and of the cluster nothing else but latched header windows changes. -/
theorem State.endFault_ur (s : State) (t : Nat) (th : Thread) (code : Nat) :
    ∃ hdrs, (s.endFault t th code).ur = { (s.setThread t none).ur with hdrs := hdrs } := by
  obtain ⟨hdrs, e⟩ := s.latchFault_ur t th code
  refine ⟨hdrs, ?_⟩
  unfold State.endFault
  rw [State.endThread_ur]
  simp [State.setThread, e]

@[simp] theorem State.endFault_cap (s : State) (t : Nat) (th : Thread) (code : Nat) : (s.endFault t th code).cap = s.cap := by
  simp [State.endFault]

/-- Below the ports a fault leaves every register but FAULTS and the causes of the stream, its engine's latch and its engine's BUSY bits. -/
theorem State.endFault_reg (s : State) {t x : Nat} (th : Thread) (code : Nat) (hx : x < 0xC00000) (hbusy : x ≠ R.UEN_ENG_STAT (t / 8))
    (hcause : x ≠ R.CAP_S_EVCAUSE th.dgram.stream) :
    (s.endFault t th code).reg x = ((s.latchFault t th code).count (R.CAP_S_FAULTS th.dgram.stream) 1).reg x := by
  unfold State.endFault
  rw [State.endThread_reg _ _ (.inl hx) hbusy, State.strCause_reg _ (by decide) hcause (by unfold R.EVT_STATUS; omega)]

/-- FAULTS of the stream counts the fault. -/
theorem State.faults_endFault (s : State) {t : Nat} (th : Thread) (code : Nat) (hn : th.dgram.stream < 64) :
    (s.endFault t th code).reg (R.CAP_S_FAULTS th.dgram.stream) = s.reg (R.CAP_S_FAULTS th.dgram.stream) + 1 := by
  have hlt : R.CAP_S_FAULTS th.dgram.stream < 0x440000 := by unfold R.CAP_S_FAULTS; omega
  have hcause : R.CAP_S_FAULTS th.dgram.stream ≠ R.CAP_S_EVCAUSE th.dgram.stream := by unfold R.CAP_S_FAULTS R.CAP_S_EVCAUSE; omega
  rw [State.endFault_reg s th code (by omega) (by unfold R.UEN_ENG_STAT; omega) hcause, State.reg_count,
    State.latchFault_reg s th code (by unfold R.UEN_ENG_FAULT; omega)]
  rfl

/-- What the engine's latch reads after a fault is what the latching left. -/
theorem State.latch_endFault (s : State) {t : Nat} (th : Thread) (code : Nat) (hn : th.dgram.stream < 64) (ht : t < 128) :
    (s.endFault t th code).reg (R.UEN_ENG_FAULT (t / 8)) = (s.latchFault t th code).reg (R.UEN_ENG_FAULT (t / 8)) := by
  have hlow : 0x800200 ≤ R.UEN_ENG_FAULT (t / 8) := by unfold R.UEN_ENG_FAULT; omega
  have hhigh : R.UEN_ENG_FAULT (t / 8) < 0xC00000 := by unfold R.UEN_ENG_FAULT; omega
  rw [State.endFault_reg s th code hhigh (by unfold R.UEN_ENG_STAT; omega) (by unfold R.CAP_S_EVCAUSE; omega),
    State.reg_count_ne _ _ (by unfold R.CAP_S_FAULTS; omega)]

/-- Where the engine's latch is free, its fields read the fault after it. -/
theorem State.fld_latch_endFault {s : State} {t : Nat} (th : Thread) (code : Nat) (hn : th.dgram.stream < 64) (ht : t < 128)
    (hfree : s.fld (F.UEN_ENG_FAULT_VALID (t / 8)) = 0) {lo len : Nat} (hf : lo + len ≤ 64) :
    (s.endFault t th code).fld ⟨R.UEN_ENG_FAULT (t / 8), lo, len⟩ = (s.writeLatch t th code).fld ⟨R.UEN_ENG_FAULT (t / 8), lo, len⟩ := by
  rw [State.fld_of_reg hf (s.latch_endFault th code hn ht), State.fld_congr (State.latchFault_regs th code (by simp [hfree]))]

/-- A run that ends in a fault has every effect of one. -/
theorem State.faulted_endFault (s : State) {t code : Nat} (th : Thread) (hn : th.dgram.stream < 64) (ht : t < 128) (hcode : code < 256) :
    Faulted s (s.endFault t th code) t th code := by
  obtain ⟨hdrs, hur⟩ := s.endFault_ur t th code
  have hthreads := State.thread_congr (s := s.setThread t none) (u := s.endFault t th code) (by rw [hur])
  refine ⟨?_, fun j hj => ?_, s.faults_endFault th code hn, fun hfree => ?_, fun hheld => ?_, by simp, by rw [hur]; rfl, by rw [hur]; rfl,
    by rw [hur]; rfl, by rw [hur]; rfl⟩
  · rw [hthreads, State.thread_setThread]
  · rw [hthreads, State.thread_setThread_ne _ _ _ hj]
  · obtain ⟨hvalid, hc, hstream, hthread, hpc, -⟩ := s.writeLatch_fields t th code
    have hread := @State.fld_latch_endFault s t th code hn ht hfree
    exact ⟨(hread (by decide)).trans hvalid, (hread (by decide)).trans (hc.trans (Nat.mod_eq_of_lt hcode)),
      (hread (by decide)).trans (hstream.trans (Nat.mod_eq_of_lt hn)), (hread (by decide)).trans hthread, (hread (by decide)).trans hpc⟩
  · rcases s.latchFault_cases t th code with ⟨-, e⟩ | ⟨hne, -⟩
    · rw [s.latch_endFault th code hn ht, e]
    · exact absurd hheld hne

/-- The latch also reads the slots used, within their field. -/
theorem State.slotsUsed_endFault {s : State} {t : Nat} (th : Thread) (code : Nat) (hn : th.dgram.stream < 64) (ht : t < 128)
    (hfree : s.fld (F.UEN_ENG_FAULT_VALID (t / 8)) = 0) :
    (s.endFault t th code).fld (F.UEN_ENG_FAULT_SLOTS_USED (t / 8)) = th.slots % 2 ^ 9 := by
  obtain ⟨-, -, -, -, -, hslots⟩ := s.writeLatch_fields t th code
  exact (State.fld_latch_endFault th code hn ht hfree (by decide)).trans hslots

/-! ### Words that do not issue (R51, R53) -/

/-- A word whose slots exceed the budget ends its thread in fault 80h. -/
theorem execBudgetExhausted_over {s : State} {t : Nat} {th : Thread} (hth : s.thread t = some th) (hacc : th.accepted = false)
    (hbad : s.wordBad th = false) (hover : th.budget < th.slots + Uw.cost (s.word th)) :
    execBudgetExhausted t s = .next (s.endFault t th 0x80) := by
  simp [execBudgetExhausted, hth, hacc, hbad, hover]

/-- The word that a thread stands at, spoiled: a double-bit error is listed at its index. -/
theorem State.spoilWord_of_thread {s : State} {t : Nat} {th : Thread} (hth : s.thread t = some th) :
    s.spoilWord t = { s with ur := { s.ur with eccBad := addOnce s.ur.eccBad (th.base + th.pc) } } := by
  simp [State.spoilWord, hth]

theorem mem_addOnce_self {α : Type} [DecidableEq α] (l : List α) (x : α) : x ∈ addOnce l x := by
  unfold addOnce
  split
  case isTrue h => simpa using h
  case isFalse => simp

/-- A NOP read with a double-bit error ends its thread in fault 81h, whatever word it is. -/
theorem execUNop_bad {s : State} {t : Nat} {th : Thread} (hth : s.thread t = some th) (hacc : th.accepted = false) :
    execUNop t true s = .next ((s.spoilWord t).endFault t th 0x81) := by
  have hsame : (s.spoilWord t).thread t = some th := by rw [State.spoilWord_of_thread hth]; exact hth
  have hbad : (s.spoilWord t).wordBad th = true := by
    rw [State.spoilWord_of_thread hth]
    simpa [State.wordBad] using mem_addOnce_self s.ur.eccBad (th.base + th.pc)
  simp [execUNop, State.issue, hsame, hacc, hbad]

/-! ### The release of side effects (R44) -/

/-- The entries `q` of thread `t`, which was `th` when the release began, released in order. -/
def State.releaseQueue (s : State) (t : Nat) (th : Thread) (q : List SideEff) : State :=
  q.foldl (fun u e => u.releaseEntry ((u.thread t).getD th) e) s

theorem execSideEffectRelease_accepted {s : State} {t : Nat} {th : Thread} (hth : s.thread t = some th) (hacc : th.accepted = true) :
    execSideEffectRelease t s =
      .next ((s.releaseQueue t th th.queue).endThread t (((s.releaseQueue t th th.queue).thread t).getD th)) := by
  simp [execSideEffectRelease, State.releaseQueue, hth, hacc]

/-- COUNT entries add up in the user counters of the stream, and the cluster stands. -/
theorem State.releaseQueue_counts {t : Nat} {th : Thread} (q : List SideEff) (s : State) (hth : s.thread t = some th)
    (hq : ∀ e ∈ q, ∃ k v, e = .count k v ∧ k < 16) :
    (s.releaseQueue t th q).ur = s.ur ∧
    ∀ k, k < 16 → (s.releaseQueue t th q).reg (R.CAP_S_UCNT th.dgram.stream k) = s.reg (R.CAP_S_UCNT th.dgram.stream k) + counted k q := by
  induction q generalizing s with
  | nil => exact ⟨rfl, fun k _ => (BitVec.add_zero _).symm⟩
  | cons e q ih =>
    obtain ⟨i, v, rfl, hi⟩ := hq e List.mem_cons_self
    have hstep : s.releaseQueue t th (.count i v :: q) = (s.releaseEntry th (.count i v)).releaseQueue t th q := by
      simp [State.releaseQueue, hth]
    obtain ⟨hur, hreg⟩ := ih (s.releaseEntry th (.count i v)) hth (fun e he => hq e (List.mem_cons_of_mem _ he))
    rw [hstep]
    refine ⟨hur, fun k hk => ?_⟩
    rw [hreg k hk]
    by_cases hik : i = k
    · subst hik
      simp [State.releaseEntry, counted, BitVec.add_assoc]
    · have hne : R.CAP_S_UCNT th.dgram.stream k ≠ R.CAP_S_UCNT th.dgram.stream i := by
        unfold R.CAP_S_UCNT
        omega
      simp [State.releaseEntry, counted, hik, State.reg_setReg_ne _ _ hne]

/-- A flag of the event fabric behind those of the ports' sources stands when a thread frees. -/
theorem State.evFlag_endThread (s : State) {t src : Nat} (th : Thread) (ht : t < 128) (hsrc : 192 ≤ src) :
    (s.endThread t th).evFlag src = s.evFlag src := by
  have hoff : R.EVT_STATUS 6 ≤ R.EVT_STATUS (src / 32) := by
    unfold R.EVT_STATUS
    omega
  have hbusy : R.EVT_STATUS (src / 32) ≠ R.UEN_ENG_STAT (t / 8) := by
    unfold R.EVT_STATUS R.UEN_ENG_STAT
    omega
  have hfld : (s.endThread t th).fld (eventFlag src) = s.fld (eventFlag src) :=
    State.fld_of_reg (eventFlag_in_word src) (s.endThread_reg th (.inr hoff) hbusy)
  exact congrArg (· == 1) hfld

/-- An EVENT entry released sets the flag of its source, which stands when the thread frees. -/
theorem State.evFlag_releaseEvent (s : State) {t k : Nat} (th : Thread) (ht : t < 128) (hk : s.part.srcAbsent (640 + k) = false) :
    ((s.raise (640 + k)).endThread t th).evFlag (640 + k) = true := by
  rw [State.evFlag_endThread _ _ ht (by omega), State.evFlag_raise s hk]

/-! ### The latch re-armed (R60) -/

/-- Clearing VALID of an engine's latch leaves the fault's other fields, and every other register. -/
theorem State.rearm_effect (s : State) (e : Nat) :
    (s.setFld (F.UEN_ENG_FAULT_VALID e) 0).fld (F.UEN_ENG_FAULT_VALID e) = 0 ∧
    (s.setFld (F.UEN_ENG_FAULT_VALID e) 0).fld (F.UEN_ENG_FAULT_CODE e) = s.fld (F.UEN_ENG_FAULT_CODE e) ∧
    OnlyRegs s (s.setFld (F.UEN_ENG_FAULT_VALID e) 0) (fun x => x = R.UEN_ENG_FAULT e) := by
  have hword : (F.UEN_ENG_FAULT_VALID e).lo + (F.UEN_ENG_FAULT_VALID e).len ≤ 64 := by simp [F.UEN_ENG_FAULT_VALID]
  refine ⟨?_, ?_, fun x hx => State.reg_setFld_ne _ _ hword hx, s.setFld_rest 0 hword⟩
  · rw [State.fld_setFld _ _ hword, Nat.zero_mod]
  · exact State.fld_setFld_disjoint _ _ hword (by simp [F.UEN_ENG_FAULT_CODE]) (.inl (by simp [F.UEN_ENG_FAULT_CODE, F.UEN_ENG_FAULT_VALID]))

end Sys2Proof.Machine

namespace Sys2Proof.Proofs

/-- Settles O19: the clauses on faults are `State.faulted_endFault`, those on a release `State.releaseQueue_counts` and
`State.evFlag_releaseEvent`, and the last `State.rearm_effect`. -/
theorem uretteThreadEnds : Obligations.UretteThreadEnds := by
  refine ⟨?_, ?_, ?_, ?_, ?_⟩
  · rintro s t th n hth rfl hn ht hacc hbad hover hfree
    obtain ⟨hnone, hothers, hfaults, hlatch, -⟩ := s.faulted_endFault th hn ht (code := 0x80) (by decide)
    obtain ⟨hvalid, hcode, hstream, hthread, hpc⟩ := hlatch hfree
    exact ⟨_, execBudgetExhausted_over hth hacc hbad hover, hnone, hfaults, hvalid, hcode, hstream, hthread, hpc,
      State.slotsUsed_endFault th 0x80 hn ht hfree, hothers⟩
  · intro s t th hth hn ht hacc
    have hfault := (s.spoilWord t).faulted_endFault th hn ht (code := 0x81) (by decide)
    obtain ⟨hdrs, hur⟩ := (s.spoilWord t).endFault_ur t th 0x81
    refine ⟨_, execUNop_bad hth hacc, ?_, ?_⟩
    · rw [State.spoilWord_of_thread hth] at hfault ⊢
      exact hfault
    · rw [hur, State.spoilWord_of_thread hth]
      exact mem_addOnce_self _ _
  · rintro s t th n hth rfl hn ht hacc hcounts
    obtain ⟨hur, hreg⟩ := State.releaseQueue_counts th.queue s hth hcounts
    refine ⟨_, execSideEffectRelease_accepted hth hacc, State.thread_endThread _ _ _, State.fld_busy_endThread _ _ ht, fun k hk => ?_, fun j hj => ?_⟩
    · have hlt : R.CAP_S_UCNT th.dgram.stream k < 0x440000 := by
        unfold R.CAP_S_UCNT
        omega
      rw [State.endThread_reg _ _ (.inl (by omega)) (by unfold R.UEN_ENG_STAT; omega), hreg k hk]
    · rw [State.thread_endThread_ne _ _ hj, State.thread_congr (congrArg Urette.threads hur)]
  · intro s t th k hth ht hacc hqueue hk hsrc hport
    refine ⟨_, execSideEffectRelease_accepted hth hacc, State.thread_endThread _ _ _, ?_⟩
    rw [hqueue]
    exact s.evFlag_releaseEvent _ ht hsrc
  · intro s e he
    exact ⟨_, if_pos he, s.rearm_effect e⟩

end Sys2Proof.Proofs
end

section
/-! SUPPORT. Dispatch (R37, R39, R78, R96): the thread picked, a datagram given to it, a datagram dropped for want of one; and the statement about
them. -/

open Sys2Proof Sys2Proof.Machine Sys2Proof.Claim

namespace Sys2Proof.Machine

/-! ### The first number with the most -/

/-- The first of the numbers below `k` at which `f` is greatest, and its value there; (0, 0) where `f` is 0 on all of them. -/
def firstMost (f : Nat → Nat) (k : Nat) : Nat × Nat :=
  (List.range k).foldl (fun (b : Nat × Nat) e => if b.2 < f e then (e, f e) else b) (0, 0)

theorem firstMost_succ (f : Nat → Nat) (k : Nat) :
    firstMost f (k + 1) = if (firstMost f k).2 < f k then (k, f k) else firstMost f k := by
  unfold firstMost
  rw [List.range_succ, List.foldl_append]
  rfl

/-- Where none has any, the number told is 0. -/
theorem firstMost_of_none (f : Nat → Nat) {k : Nat} (h : (firstMost f k).2 = 0) : (firstMost f k).1 = 0 := by
  induction k with
  | zero => rfl
  | succ k ih =>
    rw [firstMost_succ] at h ⊢
    split at h
    case isTrue hmore =>
      dsimp only at h
      omega
    case isFalse hnot => rw [if_neg hnot, ih h]

/-- No number below `k` has more. -/
theorem le_firstMost (f : Nat → Nat) {k e : Nat} (he : e < k) : f e ≤ (firstMost f k).2 := by
  induction k with
  | zero => omega
  | succ k ih =>
    rw [firstMost_succ]
    rcases Nat.lt_succ_iff_lt_or_eq.mp he with hlt | rfl
    · have := ih hlt
      split
      · dsimp only
        omega
      · exact this
    · split
      · exact Nat.le_refl _
      · omega

/-- Where a number below `k` has any, the one found lies below `k`, has what is told of it, and each before it has less. -/
theorem firstMost_spec (f : Nat → Nat) (k : Nat) (hpos : (firstMost f k).2 ≠ 0) :
    (firstMost f k).1 < k ∧ f (firstMost f k).1 = (firstMost f k).2 ∧ ∀ e, e < (firstMost f k).1 → f e < (firstMost f k).2 := by
  induction k with
  | zero => exact absurd rfl hpos
  | succ k ih =>
    rw [firstMost_succ] at hpos ⊢
    split at hpos
    case isTrue hmore =>
      rw [if_pos hmore]
      exact ⟨Nat.lt_succ_self k, rfl, fun e he => Nat.lt_of_le_of_lt (le_firstMost f he) hmore⟩
    case isFalse hnot =>
      rw [if_neg hnot]
      obtain ⟨hlt, hval, hbefore⟩ := ih hpos
      exact ⟨Nat.lt_succ_of_lt hlt, hval, hbefore⟩

/-! ### The thread picked (R37) -/

/-- The engine the dispatcher turns to. -/
def State.pickedEngine (s : State) : Nat := (firstMost (fun e => (s.freeThreads e).length) s.enginesOn).1

theorem State.pickThread_eq (s : State) :
    s.pickThread = ((s.freeThreads s.pickedEngine).head?).map (fun t => 8 * s.pickedEngine + t) := rfl

theorem State.enginesOn_bounds (s : State) : 0 < s.enginesOn ∧ s.enginesOn ≤ 16 := by
  unfold State.enginesOn
  split <;> decide

/-- The thread picked is one of the engine turned to, its lowest free one. -/
theorem State.pickThread_inv {s : State} {t : Nat} (h : s.pickThread = some t) :
    t / 8 = s.pickedEngine ∧ s.thread t = none ∧ ∀ j, j < t % 8 → s.thread (8 * (t / 8) + j) ≠ none := by
  rw [State.pickThread_eq, Option.map_eq_some_iff] at h
  obtain ⟨i, hi, rfl⟩ := h
  rw [State.freeThreads, List.head?_filter, List.find?_range_eq_some] at hi
  obtain ⟨hfree, hmem, hlower⟩ := hi
  have hi8 : i < 8 := List.mem_range.mp hmem
  have hdiv : (8 * s.pickedEngine + i) / 8 = s.pickedEngine := by omega
  have hmod : (8 * s.pickedEngine + i) % 8 = i := by omega
  rw [hdiv, hmod]
  refine ⟨rfl, by simpa using hfree, fun j hj hnone => ?_⟩
  have := hlower j hj
  simp [hnone] at this

/-- Where a thread is picked, the engine turned to has a free one. -/
theorem State.freeThreads_picked_pos {s : State} {t : Nat} (h : s.pickThread = some t) : 0 < (s.freeThreads s.pickedEngine).length := by
  rw [State.pickThread_eq, Option.map_eq_some_iff] at h
  obtain ⟨i, hi, -⟩ := h
  exact List.length_pos_of_mem (List.mem_of_mem_head? hi)

/-- The engine turned to receives datagrams, has as many free threads as any, and more than any before it. -/
theorem State.pickedEngine_spec {s : State} (hpos : 0 < (s.freeThreads s.pickedEngine).length) :
    s.pickedEngine < s.enginesOn ∧ (∀ e, e < s.enginesOn → (s.freeThreads e).length ≤ (s.freeThreads s.pickedEngine).length) ∧
    ∀ e, e < s.pickedEngine → (s.freeThreads e).length < (s.freeThreads s.pickedEngine).length := by
  have hmost : ∀ e, e < s.enginesOn → (s.freeThreads e).length ≤ (firstMost (fun e => (s.freeThreads e).length) s.enginesOn).2 :=
    fun e he => le_firstMost (fun e => (s.freeThreads e).length) he
  have hany : (firstMost (fun e => (s.freeThreads e).length) s.enginesOn).2 ≠ 0 := by
    intro hzero
    have hengine : s.pickedEngine = 0 := firstMost_of_none _ hzero
    have hfirst := hmost 0 s.enginesOn_bounds.1
    rw [hengine] at hpos
    omega
  obtain ⟨hlt, hval, hbefore⟩ := firstMost_spec _ _ hany
  exact ⟨hlt, fun e he => (hmost e he).trans_eq hval.symm, fun e he => (hbefore e he).trans_eq hval.symm⟩

/-- A thread picked is one of the 128. -/
theorem State.pickThread_lt {s : State} {t : Nat} (h : s.pickThread = some t) : t < 128 := by
  obtain ⟨hdiv, -⟩ := State.pickThread_inv h
  obtain ⟨hlt, -⟩ := State.pickedEngine_spec (State.freeThreads_picked_pos h)
  have := s.enginesOn_bounds
  omega

/-! ### A datagram given to a thread (R37, R39, R96) -/

/-- A key that is not listed reads as the default. -/
theorem Tbl.get_of_not_mem {α : Type} (d : α) {l : Tbl α} {k : Nat} (h : k ∉ l.map Prod.fst) : l.get d k = d := by
  induction l with
  | nil => rfl
  | cons e l ih =>
    obtain ⟨hne, hrest⟩ := not_or.mp (mt List.mem_cons.mpr h)
    simp only [Tbl.get]
    rw [if_neg (Ne.symm hne), ih hrest]

/-- Where no key is listed twice, leaving out the entries that read as the default changes no value. -/
theorem Tbl.get_filter_ne {α : Type} [DecidableEq α] (d : α) {l : Tbl α} (hl : (l.map Prod.fst).Nodup) (k : Nat) :
    Tbl.get d (l.filter (fun e => e.2 != d)) k = l.get d k := by
  induction l with
  | nil => rfl
  | cons e l ih =>
    obtain ⟨i, v⟩ := e
    obtain ⟨hnot, hrest⟩ := List.nodup_cons.mp hl
    by_cases hv : v = d
    · by_cases hi : i = k
      · subst hi
        simp [hv, Tbl.get, ih hrest, Tbl.get_of_not_mem d hnot]
      · simp [hv, Tbl.get, ih hrest, hi]
    · simp [hv, Tbl.get, ih hrest]

/-- What a datagram gives the registers of its thread (R39). -/
theorem Dgram.get_regs0 (g : Dgram) (i : Nat) :
    g.regs0.get 0 i = Tbl.get 0 [(1, BitVec.ofNat 64 g.payload.length), (2, BitVec.ofNat 64 g.filt), (3, BitVec.ofNat 64 (g.port + 16 * g.sub)),
      (4, g.time), (5, BitVec.ofNat 64 (ofBool g.macsec + 2 * ofBool g.ipv6)), (6, BitVec.ofNat 64 g.stream)] i :=
  Tbl.get_filter_ne 0 (by simp) i

/-- The thread that a datagram is given to, at its first slot. -/
def State.freshThread (s : State) (g : Dgram) : Thread :=
  { dgram := g
    regs := g.regs0
    base := 64 * s.fld (F.CAP_S_PROG_INFO_FIRST_GRAN g.stream)
    len := s.fld (F.CAP_S_PROG_INFO_WORDS g.stream)
    budget := s.fld (F.CAP_S_CTRL_BUDGET g.stream) + 1 }

/-- The registers at the first slot are the datagram's six (R39); the others are 0. -/
theorem State.u_freshThread (s : State) (g : Dgram) :
    (s.freshThread g).u 1 = BitVec.ofNat 64 g.payload.length ∧ (s.freshThread g).u 2 = BitVec.ofNat 64 g.filt ∧
    (s.freshThread g).u 3 = BitVec.ofNat 64 (g.port + 16 * g.sub) ∧ (s.freshThread g).u 4 = g.time ∧
    (s.freshThread g).u 5 = BitVec.ofNat 64 (ofBool g.macsec + 2 * ofBool g.ipv6) ∧ (s.freshThread g).u 6 = BitVec.ofNat 64 g.stream ∧
    ∀ i, 7 ≤ i ∨ i = 0 → (s.freshThread g).u i = 0 := by
  have hread : ∀ i, i ≠ 0 → (s.freshThread g).u i = g.regs0.get 0 i := fun i hi => if_neg hi
  refine ⟨?_, ?_, ?_, ?_, ?_, ?_, fun i hi => ?_⟩
  iterate 6
    rw [hread _ (by decide), Dgram.get_regs0]
    rfl
  rcases hi with hi | rfl
  · rw [hread _ (by omega), Dgram.get_regs0, Tbl.get_of_not_mem]
    simp
    omega
  · rfl

theorem State.dispatchTo_eq (s : State) (t : Nat) (g : Dgram) :
    s.dispatchTo t g = ((s.countRx g).setThread t (some (s.freshThread g))).setFld (busyBit t) 1 := rfl

theorem State.dispatchTo_ur (s : State) (t : Nat) (g : Dgram) : (s.dispatchTo t g).ur = (s.setThread t (some (s.freshThread g))).ur := by
  rw [State.dispatchTo_eq, State.setFld_ur]
  rfl

theorem rxBytes_ne_rxDgrams (n : Nat) : R.CAP_S_RX_BYTES n ≠ R.CAP_S_RX_DGRAMS n := by
  unfold R.CAP_S_RX_BYTES R.CAP_S_RX_DGRAMS
  omega

/-- A datagram counted as assigned raises RX_DGRAMS by one. -/
theorem State.rxDgrams_countRx (s : State) (g : Dgram) :
    (s.countRx g).reg (R.CAP_S_RX_DGRAMS g.stream) = s.reg (R.CAP_S_RX_DGRAMS g.stream) + 1 := by
  unfold State.countRx
  rw [State.reg_count_ne _ _ (rxBytes_ne_rxDgrams _).symm, State.reg_count]
  rfl

/-- A datagram counted as assigned raises RX_BYTES by its payload's length. -/
theorem State.rxBytes_countRx (s : State) (g : Dgram) :
    (s.countRx g).reg (R.CAP_S_RX_BYTES g.stream) = s.reg (R.CAP_S_RX_BYTES g.stream) + BitVec.ofNat 64 g.payload.length := by
  unfold State.countRx
  rw [State.reg_count, State.reg_count_ne _ _ (rxBytes_ne_rxDgrams _)]

/-- A datagram counted as assigned leaves the other registers. -/
theorem State.countRx_reg (s : State) (g : Dgram) {x : Nat} (hdgrams : x ≠ R.CAP_S_RX_DGRAMS g.stream) (hbytes : x ≠ R.CAP_S_RX_BYTES g.stream) :
    (s.countRx g).reg x = s.reg x := by
  unfold State.countRx
  rw [State.reg_count_ne _ _ hbytes, State.reg_count_ne _ _ hdgrams]

/-- A datagram counted as assigned leaves every register bit outside the two counts. -/
theorem State.fieldsStand_countRx (s : State) (g : Dgram) :
    FieldsStand s (s.countRx g) [⟨R.CAP_S_RX_DGRAMS g.stream, 0, 64⟩, ⟨R.CAP_S_RX_BYTES g.stream, 0, 64⟩] :=
  fieldsStand_trans (s.fieldsStand_count _ _) (State.fieldsStand_count _ _ _)

/-- A dispatch leaves every register bit but the two counts and the thread's BUSY bit. -/
theorem State.fieldsStand_dispatchTo (s : State) (t : Nat) (g : Dgram) :
    FieldsStand s (s.dispatchTo t g) [⟨R.CAP_S_RX_DGRAMS g.stream, 0, 64⟩, ⟨R.CAP_S_RX_BYTES g.stream, 0, 64⟩, busyBit t] :=
  fieldsStand_trans (s.fieldsStand_countRx g)
    (fieldsStand_of_regs (s := s.countRx g) (State.setThread_regs _ _ _) (State.fieldsStand_setFld _ 1 (busyBit_in_word t)))

/-- Outside the engines' status words a dispatch leaves the registers as the counting left them. -/
theorem State.dispatchTo_reg (s : State) {t x : Nat} (g : Dgram) (hx : x ≠ R.UEN_ENG_STAT (t / 8)) :
    (s.dispatchTo t g).reg x = (s.countRx g).reg x := by
  rw [State.dispatchTo_eq, State.reg_setFld_ne _ _ (busyBit_in_word t) hx, State.setThread_reg]

/-- Behind the registers a dispatch changes the cluster only. -/
theorem State.dispatchTo_rest (s : State) (t : Nat) (g : Dgram) : { s.dispatchTo t g with ur := s.ur, regs := s.regs } = s := by
  rw [State.dispatchTo_eq, State.setFld_eq _ _ (busyBit_in_word t)]
  rfl

/-- A dispatch has every effect of one, also where the cluster `ur'` it starts from has lost the datagram from a ring or from those that wait. -/
theorem State.dispatched_dispatchTo (s : State) (ur' : Urette) (hthreads : ur'.threads = s.ur.threads) {t : Nat} {g : Dgram}
    (hn : g.stream < 64) : Dispatched s (({ s with ur := ur' } : State).dispatchTo t g) t g ur' := by
  have hdgrams : R.CAP_S_RX_DGRAMS g.stream ≠ R.UEN_ENG_STAT (t / 8) := by
    unfold R.CAP_S_RX_DGRAMS R.UEN_ENG_STAT
    omega
  have hbytes : R.CAP_S_RX_BYTES g.stream ≠ R.UEN_ENG_STAT (t / 8) := by
    unfold R.CAP_S_RX_BYTES R.UEN_ENG_STAT
    omega
  have hcluster := State.dispatchTo_ur { s with ur := ur' } t g
  have hthread := State.thread_congr (congrArg Urette.threads hcluster)
  refine ⟨⟨State.freshThread s g, ?_, rfl, rfl, rfl, rfl, rfl, rfl, rfl, rfl, rfl, ?_⟩, fun j hj => ?_, ?_, ?_, ?_, ?_, ?_, ?_⟩
  · rw [hthread, State.thread_setThread]
    rfl
  · exact s.u_freshThread g
  · rw [hthread, State.thread_setThread_ne _ _ _ hj]
    exact State.thread_congr hthreads j
  · rw [hcluster, ← hthreads]
    rfl
  · rw [State.dispatchTo_reg _ g hdgrams, State.rxDgrams_countRx]
    rfl
  · rw [State.dispatchTo_reg _ g hbytes, State.rxBytes_countRx]
    rfl
  · exact State.fld_setFld _ _ (busyBit_in_word t)
  · exact fieldsStand_of_regs (s' := { s with ur := ur' }) rfl (State.fieldsStand_dispatchTo { s with ur := ur' } t g)
  · exact congrArg (fun v : State => { v with ur := s.ur }) (State.dispatchTo_rest { s with ur := ur' } t g)

/-! ### A datagram dropped for want of a thread (R53, R78, R96) -/

/-- Of the registers of its stream a hardware drop 94h leaves those that are no count of it and no cause. -/
theorem State.dropNoThread_reg (s : State) (g : Dgram) {x : Nat} (hx : x < 0xC00000) (hcause : x ≠ R.CAP_S_EVCAUSE g.stream) :
    (s.dropNoThread g).reg x = ((s.countRx g).count (R.CAP_S_NOTHREAD g.stream) 1).reg x := by
  unfold State.dropNoThread
  rw [State.freeDgram_reg _ _ (.inl hx), State.strCause_reg _ (by decide) hcause (by unfold R.EVT_STATUS; omega)]

/-- The cause NOTHREAD of the stream stands after a hardware drop 94h. -/
theorem State.fld_noThread_dropNoThread (s : State) {g : Dgram} (hn : g.stream < 64) :
    (s.dropNoThread g).fld (F.CAP_S_EVCAUSE_NOTHREAD g.stream) = 1 := by
  have hoff : R.CAP_S_EVCAUSE g.stream < 0x440000 := by
    unfold R.CAP_S_EVCAUSE
    omega
  have hflag : R.CAP_S_EVCAUSE g.stream ≠ R.EVT_STATUS ((288 + g.stream) / 32) := by
    unfold R.EVT_STATUS
    omega
  exact (State.fld_of_reg (f := F.CAP_S_EVCAUSE_NOTHREAD g.stream) (by simp [F.CAP_S_EVCAUSE_NOTHREAD])
    (State.freeDgram_reg _ g (.inl (Nat.lt_trans hoff (by decide))))).trans (State.fld_cause _ (by decide) hflag)

/-- A hardware drop 94h has every effect of one, also where the cluster `ur'` it starts from has lost the datagram. -/
theorem State.noThread_dropNoThread (s : State) (ur' : Urette) {g : Dgram} (hn : g.stream < 64) :
    NoThread s (({ s with ur := ur' } : State).dropNoThread g) g ur' := by
  have hreg := @State.dropNoThread_reg { s with ur := ur' } g
  refine ⟨?_, ?_, ?_, ?_, ?_, State.fld_noThread_dropNoThread _ hn, ?_⟩
  · simp [State.dropNoThread, State.countRx]
  · simp [State.dropNoThread, State.countRx]
  · rw [hreg (by unfold R.CAP_S_RX_DGRAMS; omega) (by unfold R.CAP_S_RX_DGRAMS R.CAP_S_EVCAUSE; omega),
      State.reg_count_ne _ _ (by unfold R.CAP_S_RX_DGRAMS R.CAP_S_NOTHREAD; omega), State.rxDgrams_countRx]
    rfl
  · rw [hreg (by unfold R.CAP_S_RX_BYTES; omega) (by unfold R.CAP_S_RX_BYTES R.CAP_S_EVCAUSE; omega),
      State.reg_count_ne _ _ (by unfold R.CAP_S_RX_BYTES R.CAP_S_NOTHREAD; omega), State.rxBytes_countRx]
    rfl
  · rw [hreg (by unfold R.CAP_S_NOTHREAD; omega) (by unfold R.CAP_S_NOTHREAD R.CAP_S_EVCAUSE; omega), State.reg_count]
    refine congrArg (· + 1) (s.countRx_reg g ?_ ?_)
    · unfold R.CAP_S_NOTHREAD R.CAP_S_RX_DGRAMS
      omega
    · unfold R.CAP_S_NOTHREAD R.CAP_S_RX_BYTES
      omega
  · rw [hreg (by unfold R.CAP_S_IDLE_DROP; omega) (by unfold R.CAP_S_IDLE_DROP R.CAP_S_EVCAUSE; omega),
      State.reg_count_ne _ _ (by unfold R.CAP_S_IDLE_DROP R.CAP_S_NOTHREAD; omega)]
    refine s.countRx_reg g ?_ ?_
    · unfold R.CAP_S_IDLE_DROP R.CAP_S_RX_DGRAMS
      omega
    · unfold R.CAP_S_IDLE_DROP R.CAP_S_RX_BYTES
      omega

/-! ### The commands -/

/-- With no free thread no waiting datagram is dispatched. -/
theorem State.dispatchWaiting_of_full {s : State} (h : s.pickThread = none) (fuel : Nat) : s.dispatchWaiting fuel = s := by
  cases fuel with
  | zero => rfl
  | succ fuel =>
    unfold State.dispatchWaiting
    rw [h]
    cases s.ur.waiting <;> rfl

/-- What becomes of a live datagram that arrives while nothing waits and a thread is picked. -/
theorem execDatagramArrival_picked {s : State} {p t : Nat} {g : Dgram} {rest : List Dgram} (hring : s.ur.rings.get [] p = g :: rest)
    (hlive : g.dead = false) (hwait : s.ur.waiting = []) (hpick : s.pickThread = some t) :
    execDatagramArrival p s = .next ((s.setRing p rest).dispatchTo t g) := by
  have hnone : (s.setRing p rest).ur.waiting = [] := hwait
  have hsame : (s.setRing p rest).pickThread = some t := hpick
  simp [execDatagramArrival, hring, hlive, hnone, State.dispatchWaiting, hsame]

/-- What becomes of a live datagram that arrives while no thread is free. -/
theorem execDatagramArrival_full {s : State} {p : Nat} {g : Dgram} {rest : List Dgram} (hring : s.ur.rings.get [] p = g :: rest)
    (hlive : g.dead = false) (hpick : s.pickThread = none) :
    execDatagramArrival p s =
      if s.fld (F.CAP_S_CTRL_DISPATCH_WAIT g.stream) = 0 then .next ((s.setRing p rest).dropNoThread g)
      else .next ((s.setRing p rest).setWaiting (s.ur.waiting ++ [g])) := by
  have hsame : (s.setRing p rest).pickThread = none := hpick
  simp only [execDatagramArrival, hring, hlive, State.dispatchWaiting_of_full hsame, hsame]
  rfl

theorem execDatagramDispatch_picked {s : State} {t : Nat} {g : Dgram} {rest : List Dgram} (hwait : s.ur.waiting = g :: rest)
    (hpick : s.pickThread = some t) : execDatagramDispatch s = .next ((s.setWaiting rest).dispatchTo t g) := by
  simp [execDatagramDispatch, hwait, hpick]

/-- A waiting datagram is dropped where the free threads are all owed to those before it. -/
theorem execDispatchWaitExpiry_owed {s : State} {i : Nat} {g : Dgram} (hg : s.ur.waiting[i]? = some g) (howed : s.freeThreadCount ≤ i) :
    execDispatchWaitExpiry i s = .next ((s.setWaiting (s.ur.waiting.eraseIdx i)).dropNoThread g) := by
  simp [execDispatchWaitExpiry, hg, howed]

/-- A waiting datagram for which a thread is free stays. -/
theorem execDispatchWaitExpiry_free {s : State} {i : Nat} (hfree : i < s.freeThreadCount) : execDispatchWaitExpiry i s = .next s := by
  unfold execDispatchWaitExpiry
  split
  · exact if_neg (Nat.not_le.mpr hfree)
  · rfl

end Sys2Proof.Machine

namespace Sys2Proof.Proofs

/-- Settles O20: the pick is `State.pickThread_inv` and `State.pickedEngine_spec`, each dispatch `State.dispatched_dispatchTo`, each drop
`State.noThread_dropNoThread`. -/
theorem datagramDispatchRule : Obligations.DatagramDispatchRule := by
  refine ⟨?_, ?_, ?_, ?_, ?_, ?_, ?_⟩
  · intro s t hpick
    obtain ⟨hengine, hfree, hlowest⟩ := State.pickThread_inv hpick
    obtain ⟨hon, hmost, hfirst⟩ := State.pickedEngine_spec (State.freeThreads_picked_pos hpick)
    rw [← hengine] at hon hmost hfirst
    exact ⟨hon, hfree, hlowest, hmost, hfirst⟩
  · intro s p t g rest hring hlive hn hwait hpick
    exact ⟨_, execDatagramArrival_picked hring hlive hwait hpick, s.dispatched_dispatchTo (s.setRing p rest).ur rfl hn⟩
  · intro s p g rest hring hlive hpick hwait
    exact ⟨_, (execDatagramArrival_full hring hlive hpick).trans (if_neg hwait), rfl, rfl⟩
  · intro s p g rest hring hlive hn hpick hwait
    exact ⟨_, (execDatagramArrival_full hring hlive hpick).trans (if_pos hwait), s.noThread_dropNoThread _ hn⟩
  · intro s t g rest hwait hn hpick
    exact ⟨_, execDatagramDispatch_picked hwait hpick, s.dispatched_dispatchTo (s.setWaiting rest).ur rfl hn⟩
  · intro s i g hg hn howed
    exact ⟨_, execDispatchWaitExpiry_owed hg howed, s.noThread_dropNoThread _ hn⟩
  · intro s i hfree
    exact execDispatchWaitExpiry_free hfree

end Sys2Proof.Proofs
end

section
/-! SUPPORT. Frames: what several steps in a row leave of the registers and of the streams behind them. -/

open Sys2Proof.Claim

namespace Sys2Proof.Machine

/-- A field in one register is apart from every field of another register. -/
theorem apart_of_off_ne {f : Field} {fs : List Field} (hf : f.lo + f.len ≤ 64) (h : ∀ g ∈ fs, f.off ≠ g.off) : Apart f fs :=
  ⟨hf, fun g hg e => absurd e (h g hg)⟩

/-- The order in which changed fields are listed says nothing. -/
theorem fieldsStand_perm {s u : State} {fs gs : List Field} (h : FieldsStand s u fs) (hp : fs.Perm gs) : FieldsStand s u gs :=
  fun f hf => h f ⟨hf.1, fun g hg => hf.2 g (hp.subset hg)⟩

/-- A register write changes that register alone. -/
theorem State.onlyFields_setReg (s : State) (x : Nat) (v : W64) : OnlyFields s (s.setReg x v) [⟨x, 0, 64⟩] := by
  rw [State.setReg_eq_setFld]
  exact s.onlyFields_setFld _ (by simp)

/-- What two steps change, in registers only, lies in the fields of the one or of the other. -/
theorem onlyFields_trans {s u v : State} {fs gs : List Field} (h : OnlyFields s u fs) (k : OnlyFields u v gs) : OnlyFields s v (fs ++ gs) :=
  ⟨fieldsStand_trans h.1 k.1, (congrArg (fun w : State => { w with regs := s.regs }) k.2).trans h.2⟩

/-- The streams depend on what lies behind the capture registers alone. -/
theorem State.str_congr {s u : State} (h : u.cap = s.cap) (m : Nat) : u.str m = s.str m := by
  unfold State.str
  rw [h]

/-- Register fields changed leave what lies behind the capture registers. -/
theorem cap_of_onlyFields {s u : State} {fs : List Field} (h : OnlyFields s u fs) : u.cap = s.cap := (congrArg State.cap h.2 :)

/-- A stream replaced changes no other stream, and nothing else behind registers. -/
theorem State.onlyStream_setStr (s : State) (n : Nat) (v : Stream) : OnlyStream s (s.setStr n v) n :=
  ⟨fun _ hm => s.str_setStr_ne n v hm, rfl⟩

/-- Register fields changed before a stream is add nothing to what may have changed behind registers. -/
theorem onlyStream_after_fields {s u v : State} {fs : List Field} {n : Nat} (h : OnlyFields s u fs) (k : OnlyStream u v n) : OnlyStream s v n := by
  have hcap := cap_of_onlyFields h
  refine ⟨fun m hm => (k.1 m hm).trans (State.str_congr hcap m), ?_⟩
  have hrest := (congrArg (fun w : State => { w with regs := s.regs }) k.2).trans h.2
  rwa [hcap] at hrest

/-- Nor do register fields changed after it. -/
theorem onlyStream_then_fields {s u v : State} {fs : List Field} {n : Nat} (h : OnlyStream s u n) (k : OnlyFields u v fs) : OnlyStream s v n := by
  have hcap := cap_of_onlyFields k
  refine ⟨fun m hm => (State.str_congr hcap m).trans (h.1 m hm), ?_⟩
  rw [hcap]
  exact (congrArg (fun w : State => { w with regs := s.regs, cap := { u.cap with streams := s.cap.streams } }) k.2).trans h.2

end Sys2Proof.Machine
end

section
/-! SUPPORT. Divert queues' enables (R98): what a write of an enable bit, of a base or of a size leaves; and the statement about them. -/

open Sys2Proof Sys2Proof.Machine Sys2Proof.Claim

namespace Sys2Proof.Machine

/-! ### The registers of a divert queue -/

theorem divEnBit_in_word {n q : Nat} (hq : q < 4) : (divEnBit n q).lo + (divEnBit n q).len ≤ 64 := by
  change 23 + q + 1 ≤ 64
  omega

/-- The enables lie in a register of their own among those of a divert queue (R98). -/
theorem divEnBit_off_ne (n q : Nat) {q' : Nat} (hq : q' < 4) :
    (divEnBit n q).off ≠ R.CAP_S_DIV_BASE n q' ∧ (divEnBit n q).off ≠ R.CAP_S_DIV_CFG n q' ∧
    (divEnBit n q).off ≠ R.CAP_S_DIV_TAIL n q' ∧ (divEnBit n q).off ≠ R.CAP_S_DIV_HEAD n q' := by
  change R.CAP_S_CTRL n ≠ _ ∧ R.CAP_S_CTRL n ≠ _ ∧ R.CAP_S_CTRL n ≠ _ ∧ R.CAP_S_CTRL n ≠ _
  unfold R.CAP_S_CTRL R.CAP_S_DIV_BASE R.CAP_S_DIV_CFG R.CAP_S_DIV_TAIL R.CAP_S_DIV_HEAD
  omega

/-- The registers of a divert queue are four. -/
theorem divRegs_ne (n q : Nat) :
    R.CAP_S_DIV_BASE n q ≠ R.CAP_S_DIV_CFG n q ∧ R.CAP_S_DIV_BASE n q ≠ R.CAP_S_DIV_TAIL n q ∧ R.CAP_S_DIV_BASE n q ≠ R.CAP_S_DIV_HEAD n q ∧
    R.CAP_S_DIV_CFG n q ≠ R.CAP_S_DIV_TAIL n q ∧ R.CAP_S_DIV_CFG n q ≠ R.CAP_S_DIV_HEAD n q ∧
    R.CAP_S_DIV_TAIL n q ≠ R.CAP_S_DIV_HEAD n q := by
  unfold R.CAP_S_DIV_BASE R.CAP_S_DIV_CFG R.CAP_S_DIV_TAIL R.CAP_S_DIV_HEAD
  omega

/-- A field in another register is apart from TAIL, HEAD and the enable bit of a queue. -/
theorem apart_restart {f : Field} {n q : Nat} (hf : f.lo + f.len ≤ 64) (htail : f.off ≠ R.CAP_S_DIV_TAIL n q) (hhead : f.off ≠ R.CAP_S_DIV_HEAD n q)
    (hen : f.off ≠ (divEnBit n q).off) : Apart f [F.CAP_S_DIV_TAIL_TAIL n q, F.CAP_S_DIV_HEAD_HEAD n q, divEnBit n q] :=
  apart_of_off_ne hf (List.forall_mem_cons.mpr ⟨htail, List.forall_mem_cons.mpr ⟨hhead, List.forall_mem_singleton.mpr hen⟩⟩)

/-! ### A queue with a valid base and size -/

theorem State.divValid_iff (s : State) (n q : Nat) :
    s.divValid n q = true ↔ s.fld (F.CAP_S_DIV_BASE_ADDR n q) ≠ 0 ∧ 4 ≤ s.fld (F.CAP_S_DIV_CFG_ENTRIES_LOG2 n q) ∧
      s.fld (F.CAP_S_DIV_CFG_ENTRIES_LOG2 n q) ≤ 16 := decide_eq_true_iff

/-- The enable bit of a queue, cleared where the queue lacks a valid base or size (R98). -/
def State.checkDivEn (s : State) (n q : Nat) : State := if s.divValid n q then s else s.setFld (divEnBit n q) 0

/-- The check changes the enable bit alone. -/
theorem State.onlyFields_checkDivEn (s : State) (n : Nat) {q : Nat} (hq : q < 4) : OnlyFields s (s.checkDivEn n q) [divEnBit n q] := by
  unfold State.checkDivEn
  split
  · exact ⟨fun _ _ => rfl, rfl⟩
  · exact s.onlyFields_setFld 0 (divEnBit_in_word hq)

/-- A register of the queue reads the same after the check. -/
theorem State.fld_checkDivEn (s : State) {n q : Nat} {f : Field} (hq : q < 4) (hf : f.lo + f.len ≤ 64) (hoff : f.off ≠ (divEnBit n q).off) :
    (s.checkDivEn n q).fld f = s.fld f :=
  (s.onlyFields_checkDivEn n hq).1 f (apart_of_off_ne hf (fun g hg => by rwa [List.mem_singleton.mp hg]))

/-- After the check the bit is as it was where base and size are valid, and 0 otherwise. -/
theorem State.divEn_checkDivEn (s : State) (n : Nat) {q : Nat} (hq : q < 4) :
    if (s.checkDivEn n q).fld (F.CAP_S_DIV_BASE_ADDR n q) ≠ 0 ∧ 4 ≤ (s.checkDivEn n q).fld (F.CAP_S_DIV_CFG_ENTRIES_LOG2 n q) ∧
        (s.checkDivEn n q).fld (F.CAP_S_DIV_CFG_ENTRIES_LOG2 n q) ≤ 16
      then (s.checkDivEn n q).fld (divEnBit n q) = s.fld (divEnBit n q) else (s.checkDivEn n q).fld (divEnBit n q) = 0 := by
  obtain ⟨hbase, hcfg, -⟩ := divEnBit_off_ne n q hq
  have hword : (F.CAP_S_DIV_BASE_ADDR n q).lo + (F.CAP_S_DIV_BASE_ADDR n q).len ≤ 64 := by simp [F.CAP_S_DIV_BASE_ADDR]
  have hlog : (F.CAP_S_DIV_CFG_ENTRIES_LOG2 n q).lo + (F.CAP_S_DIV_CFG_ENTRIES_LOG2 n q).len ≤ 64 := by simp [F.CAP_S_DIV_CFG_ENTRIES_LOG2]
  rw [s.fld_checkDivEn hq hword hbase.symm, s.fld_checkDivEn hq hlog hcfg.symm]
  by_cases hvalid : s.divValid n q = true
  · rw [if_pos ((s.divValid_iff n q).mp hvalid), State.checkDivEn, if_pos hvalid]
  · rw [if_neg (fun h => hvalid ((s.divValid_iff n q).mpr h)), State.checkDivEn, if_neg hvalid,
      State.fld_setFld _ _ (divEnBit_in_word hq), Nat.zero_mod]

/-! ### A queue configured -/

/-- A write of DIVq_BASE, or of DIVq_CFG, stored. -/
def State.storeDivConfig (s : State) (n q : Nat) (isBase : Bool) (v : W64) : State :=
  if isBase then s.setFld (F.CAP_S_DIV_BASE_ADDR n q) (v.toNat / 4096)
  else (s.setFld (F.CAP_S_DIV_CFG_SLOT n q) (v.toNat / 256)).setFld (F.CAP_S_DIV_CFG_ENTRIES_LOG2 n q) v.toNat

/-- TAIL and HEAD of a queue set to 0. -/
def State.zeroDiv (s : State) (n q : Nat) : State := (s.setFld (F.CAP_S_DIV_TAIL_TAIL n q) 0).setFld (F.CAP_S_DIV_HEAD_HEAD n q) 0

/-- TAIL, HEAD and the reservation count of a queue set to 0, and the entries listed as written ahead of TAIL dropped. -/
def State.restartDiv (s : State) (n q : Nat) : State :=
  (s.zeroDiv n q).setStr n { (s.zeroDiv n q).str n with
    divRes := ((s.zeroDiv n q).str n).divRes.set 0 q 0
    divDone := ((s.zeroDiv n q).str n).divDone.filter (fun d => d.1 != q) }

theorem execDivQueueConfig_idle {s : State} {n q : Nat} (isBase : Bool) (v : W64) (hlive : s.live = true) (hn : n < 64) (hq : q < 4)
    (hidle : s.strState n = 0) :
    execDivQueueConfig n q isBase v s = .next (((s.storeDivConfig n q isBase v).restartDiv n q).checkDivEn n q) :=
  if_pos ⟨hlive, hn, hq, hidle⟩

theorem State.storeDivConfig_base (s : State) (n q : Nat) (v : W64) :
    s.storeDivConfig n q true v = s.setFld (F.CAP_S_DIV_BASE_ADDR n q) (v.toNat / 4096) := if_pos rfl

theorem State.storeDivConfig_cfg (s : State) (n q : Nat) (v : W64) :
    s.storeDivConfig n q false v =
      (s.setFld (F.CAP_S_DIV_CFG_SLOT n q) (v.toNat / 256)).setFld (F.CAP_S_DIV_CFG_ENTRIES_LOG2 n q) v.toNat := if_neg Bool.false_ne_true

/-- A base that is written is stored, and nothing else changes. -/
theorem State.storeDivBase (s : State) (n q : Nat) (v : W64) :
    (s.storeDivConfig n q true v).fld (F.CAP_S_DIV_BASE_ADDR n q) = v.toNat / 4096 ∧
    OnlyFields s (s.storeDivConfig n q true v) [F.CAP_S_DIV_BASE_ADDR n q] := by
  have hword : (F.CAP_S_DIV_BASE_ADDR n q).lo + (F.CAP_S_DIV_BASE_ADDR n q).len ≤ 64 := by simp [F.CAP_S_DIV_BASE_ADDR]
  have hfits : v.toNat / 4096 < 2 ^ (F.CAP_S_DIV_BASE_ADDR n q).len := by
    have := v.isLt
    simp only [F.CAP_S_DIV_BASE_ADDR]
    omega
  rw [State.storeDivConfig_base, State.fld_setFld _ _ hword, Nat.mod_eq_of_lt hfits]
  exact ⟨rfl, s.onlyFields_setFld _ hword⟩

/-- A size and a slot size that are written are stored, and nothing else changes. -/
theorem State.storeDivCfg (s : State) (n q : Nat) (v : W64) :
    (s.storeDivConfig n q false v).fld (F.CAP_S_DIV_CFG_ENTRIES_LOG2 n q) = v.toNat % 32 ∧
    (s.storeDivConfig n q false v).fld (F.CAP_S_DIV_CFG_SLOT n q) = v.toNat / 256 % 4 ∧
    OnlyFields s (s.storeDivConfig n q false v) [F.CAP_S_DIV_CFG_SLOT n q, F.CAP_S_DIV_CFG_ENTRIES_LOG2 n q] := by
  have hlog : (F.CAP_S_DIV_CFG_ENTRIES_LOG2 n q).lo + (F.CAP_S_DIV_CFG_ENTRIES_LOG2 n q).len ≤ 64 := by simp [F.CAP_S_DIV_CFG_ENTRIES_LOG2]
  have hslot : (F.CAP_S_DIV_CFG_SLOT n q).lo + (F.CAP_S_DIV_CFG_SLOT n q).len ≤ 64 := by simp [F.CAP_S_DIV_CFG_SLOT]
  have hbelow : (F.CAP_S_DIV_CFG_ENTRIES_LOG2 n q).lo + (F.CAP_S_DIV_CFG_ENTRIES_LOG2 n q).len ≤ (F.CAP_S_DIV_CFG_SLOT n q).lo := by
    simp [F.CAP_S_DIV_CFG_ENTRIES_LOG2, F.CAP_S_DIV_CFG_SLOT]
  rw [State.storeDivConfig_cfg, State.fld_setFld _ _ hlog, State.fld_setFld_disjoint _ _ hlog hslot (.inr hbelow), State.fld_setFld _ _ hslot]
  exact ⟨rfl, rfl, onlyFields_trans (s.onlyFields_setFld _ hslot) (State.onlyFields_setFld _ _ hlog)⟩

/-- TAIL and HEAD set to 0 read 0, and nothing else changes. -/
theorem State.zeroDiv_effect (s : State) (n q : Nat) :
    (s.zeroDiv n q).fld (F.CAP_S_DIV_TAIL_TAIL n q) = 0 ∧ (s.zeroDiv n q).fld (F.CAP_S_DIV_HEAD_HEAD n q) = 0 ∧
    OnlyFields s (s.zeroDiv n q) [F.CAP_S_DIV_TAIL_TAIL n q, F.CAP_S_DIV_HEAD_HEAD n q] := by
  have htail : (F.CAP_S_DIV_TAIL_TAIL n q).lo + (F.CAP_S_DIV_TAIL_TAIL n q).len ≤ 64 := by simp [F.CAP_S_DIV_TAIL_TAIL]
  have hhead : (F.CAP_S_DIV_HEAD_HEAD n q).lo + (F.CAP_S_DIV_HEAD_HEAD n q).len ≤ 64 := by simp [F.CAP_S_DIV_HEAD_HEAD]
  obtain ⟨-, -, -, -, -, hne⟩ := divRegs_ne n q
  unfold State.zeroDiv
  refine ⟨?_, ?_, onlyFields_trans (s.onlyFields_setFld 0 htail) (State.onlyFields_setFld _ 0 hhead)⟩
  · rw [State.fld_setFld_ne _ 0 hhead htail hne, State.fld_setFld _ _ htail, Nat.zero_mod]
  · rw [State.fld_setFld _ _ hhead, Nat.zero_mod]

@[simp] theorem State.restartDiv_regs (s : State) (n q : Nat) : (s.restartDiv n q).regs = (s.zeroDiv n q).regs := State.setStr_regs _ _ _

/-- Of the registers a restart changes TAIL and HEAD. -/
theorem State.fieldsStand_restartDiv (s : State) (n q : Nat) :
    FieldsStand s (s.restartDiv n q) [F.CAP_S_DIV_TAIL_TAIL n q, F.CAP_S_DIV_HEAD_HEAD n q] := by
  obtain ⟨-, -, hzero, -⟩ := s.zeroDiv_effect n q
  exact fun f hf => (State.fld_congr (s.restartDiv_regs n q) f).trans (hzero f hf)

/-- A restart changes the queue's stream and registers alone. -/
theorem State.onlyStream_restartDiv (s : State) (n q : Nat) : OnlyStream s (s.restartDiv n q) n := by
  obtain ⟨-, -, hzero⟩ := s.zeroDiv_effect n q
  exact onlyStream_after_fields hzero (State.onlyStream_setStr _ _ _)

/-- A queue that restarts and whose enable bit is then checked reads 0 in TAIL, in HEAD and in the reservation count. -/
theorem State.restartDiv_zero (s : State) (n : Nat) {q : Nat} (hq : q < 4) :
    ((s.restartDiv n q).checkDivEn n q).fld (F.CAP_S_DIV_TAIL_TAIL n q) = 0 ∧
    ((s.restartDiv n q).checkDivEn n q).fld (F.CAP_S_DIV_HEAD_HEAD n q) = 0 ∧
    (((s.restartDiv n q).checkDivEn n q).str n).divRes.get 0 q = 0 := by
  obtain ⟨htail, hhead, -⟩ := s.zeroDiv_effect n q
  obtain ⟨-, -, htailOff, hheadOff⟩ := divEnBit_off_ne n q hq
  have hcap := cap_of_onlyFields ((s.restartDiv n q).onlyFields_checkDivEn n hq)
  refine ⟨?_, ?_, ?_⟩
  · rw [State.fld_checkDivEn _ hq (by simp [F.CAP_S_DIV_TAIL_TAIL]) htailOff.symm, State.fld_congr (s.restartDiv_regs n q), htail]
  · rw [State.fld_checkDivEn _ hq (by simp [F.CAP_S_DIV_HEAD_HEAD]) hheadOff.symm, State.fld_congr (s.restartDiv_regs n q), hhead]
  · rw [State.str_congr hcap]
    simp [State.restartDiv]

/-- The enable bit stands where a base or a size was stored in the fields `fs` and the queue restarted, before the check. -/
theorem divEn_restartDiv {s t : State} {n q : Nat} {fs : List Field} (hq : q < 4) (hstored : FieldsStand s t fs)
    (hoff : ∀ g ∈ fs, (divEnBit n q).off ≠ g.off) : (t.restartDiv n q).fld (divEnBit n q) = s.fld (divEnBit n q) := by
  obtain ⟨-, -, htail, hhead⟩ := divEnBit_off_ne n q hq
  have hword := divEnBit_in_word (n := n) hq
  rw [t.fieldsStand_restartDiv n q _ (apart_of_off_ne hword (by simpa using ⟨htail, hhead⟩)), hstored _ (apart_of_off_ne hword hoff)]

/-- What a restart and the check of the enable bit make of a queue whose base or size was stored in the fields `fs`. -/
theorem divConfigured {s t : State} {n q : Nat} {fs : List Field} (hq : q < 4) (hstored : OnlyFields s t fs)
    (hoff : ∀ g ∈ fs, (divEnBit n q).off ≠ g.off) {u : State} (hu : u = (t.restartDiv n q).checkDivEn n q) :
    FieldsStand s u (fs ++ [F.CAP_S_DIV_TAIL_TAIL n q, F.CAP_S_DIV_HEAD_HEAD n q, divEnBit n q]) ∧
    FieldsStand t u [F.CAP_S_DIV_TAIL_TAIL n q, F.CAP_S_DIV_HEAD_HEAD n q, divEnBit n q] ∧
    (if u.fld (F.CAP_S_DIV_BASE_ADDR n q) ≠ 0 ∧ 4 ≤ u.fld (F.CAP_S_DIV_CFG_ENTRIES_LOG2 n q) ∧ u.fld (F.CAP_S_DIV_CFG_ENTRIES_LOG2 n q) ≤ 16
      then u.fld (divEnBit n q) = s.fld (divEnBit n q) else u.fld (divEnBit n q) = 0) ∧
    u.fld (F.CAP_S_DIV_TAIL_TAIL n q) = 0 ∧ u.fld (F.CAP_S_DIV_HEAD_HEAD n q) = 0 ∧ (u.str n).divRes.get 0 q = 0 ∧ OnlyStream s u n := by
  subst hu
  have hcheck := (t.restartDiv n q).onlyFields_checkDivEn n hq
  have hafter := fieldsStand_trans (t.fieldsStand_restartDiv n q) hcheck.1
  have hrule := (t.restartDiv n q).divEn_checkDivEn n hq
  rw [divEn_restartDiv hq hstored.1 hoff] at hrule
  obtain ⟨htail, hhead, hres⟩ := t.restartDiv_zero n hq
  exact ⟨fieldsStand_trans hstored.1 hafter, hafter, hrule, htail, hhead, hres,
    onlyStream_then_fields (onlyStream_after_fields hstored (t.onlyStream_restartDiv n q)) hcheck⟩

end Sys2Proof.Machine

namespace Sys2Proof.Proofs

/-- Settles O29: a write of the enable bit is one field write under `State.divValid_iff`, a write of the base or the size is stored by
`State.storeDivBase` or `State.storeDivCfg`, and the rest is `divConfigured`. -/
theorem divertEnableRule : Obligations.DivertEnableRule := by
  refine ⟨?_, ?_⟩
  · intro s n q on hlive hn hq
    have hword := divEnBit_in_word (n := n) hq
    refine ⟨_, if_pos ⟨hlive, hn, hq⟩, s.onlyFields_setFld _ hword, ?_, ?_⟩
    · rintro rfl
      rw [State.fld_setFld _ _ hword]
      rfl
    · rintro rfl hmaster
      rw [State.fld_setFld _ _ hword, hmaster]
      by_cases hvalid : s.divValid n q = true
      · rw [if_pos ((s.divValid_iff n q).mp hvalid), hvalid]
        rfl
      · rw [if_neg (fun h => hvalid ((s.divValid_iff n q).mpr h)), Bool.eq_false_of_not_eq_true hvalid]
        intro _
        rfl
  · intro s n q isBase v hlive hn hq hidle
    refine ⟨_, execDivQueueConfig_idle isBase v hlive hn hq hidle, ?_⟩
    obtain ⟨hbaseEn, hcfgEn, -⟩ := divEnBit_off_ne n q hq
    obtain ⟨-, hbaseTail, hbaseHead, hcfgTail, hcfgHead, -⟩ := divRegs_ne n q
    cases isBase with
    | true =>
      obtain ⟨hval, hstored⟩ := s.storeDivBase n q v
      obtain ⟨hstand, hkeep, hrest⟩ := divConfigured hq hstored (List.forall_mem_singleton.mpr hbaseEn) rfl
      have hread := hkeep _ (apart_restart (f := F.CAP_S_DIV_BASE_ADDR n q) (by simp [F.CAP_S_DIV_BASE_ADDR]) hbaseTail hbaseHead hbaseEn.symm)
      exact ⟨fun _ => ⟨hread.trans hval, hstand⟩, fun h => absurd h (by decide), hrest⟩
    | false =>
      obtain ⟨hlog, hslot, hstored⟩ := s.storeDivCfg n q v
      obtain ⟨hstand, hkeep, hrest⟩ := divConfigured hq hstored (List.forall_mem_cons.mpr ⟨hcfgEn, List.forall_mem_singleton.mpr hcfgEn⟩) rfl
      have hread {f : Field} (hword : f.lo + f.len ≤ 64) (hoff : f.off = R.CAP_S_DIV_CFG n q) :=
        hkeep f (apart_restart hword (hoff ▸ hcfgTail) (hoff ▸ hcfgHead) (hoff ▸ hcfgEn.symm))
      exact ⟨fun h => absurd h (by decide), fun _ => ⟨(hread (by simp [F.CAP_S_DIV_CFG_ENTRIES_LOG2]) rfl).trans hlog,
        (hread (by simp [F.CAP_S_DIV_CFG_SLOT]) rfl).trans hslot, fieldsStand_perm hstand (.swap _ _ _)⟩, hrest⟩

end Sys2Proof.Proofs
end

section
/-! SUPPORT. Datagrams of an Idle stream (R66): how a frame admitted is marked, and what becomes of a marked datagram; and the statement about
them. -/

open Sys2Proof Sys2Proof.Machine Sys2Proof.Claim

namespace Sys2Proof.Machine

@[simp] theorem State.takeRecv_ur (s : State) (p j n : Nat) : (s.takeRecv p j n).ur = s.ur := State.pauseCheck_ur _ _ _

/-- The datagram of a frame that filter entry `i` assigns to its stream, marked where the stream is not Running (R65, R66). -/
def State.admittedDgram (s : State) (p j i : Nat) (f : Machine.Frame) (k : Pkt) : Dgram :=
  { stream := s.fld (F.CAP_FLT_STREAM i)
    filt := i
    port := p
    sub := j
    time := BitVec.ofNat 64 s.time.ftc
    macsec := f.secTag
    ipv6 := k.v6
    payload := k.payload
    cells := k.cells
    dead := decide (s.strState (s.fld (F.CAP_FLT_STREAM i)) ≠ 1) }

/-- Of the cluster a frame admitted changes its port's ring, which gets the datagram at its end. -/
theorem State.admitFrame_ur (s : State) (p j i : Nat) (f : Machine.Frame) (k : Pkt) :
    (s.admitFrame p j i f k).ur = { s.ur with rings := s.ur.rings.set [] p (s.ur.rings.get [] p ++ [s.admittedDgram p j i f k]) } := by
  simp [State.admitFrame, State.setRing, State.admittedDgram]

/-- A marked datagram that reaches the cluster is counted, and its cells are freed (R66). -/
theorem exec_datagramArrival_dead {s : State} {p : Nat} {g : Dgram} {rest : List Dgram} (hring : s.ur.rings.get [] p = g :: rest)
    (hdead : g.dead = true) :
    exec (.datagramArrival p) s = .next (((s.setRing p rest).count (R.CAP_S_IDLE_DROP g.stream) 1).freeDgram g) := by
  change execDatagramArrival p s = _
  simp [execDatagramArrival, hring, hdead]

end Sys2Proof.Machine

namespace Sys2Proof.Proofs

/-- Settles O21: the mark is `State.admitFrame_ur`, the drop `exec_datagramArrival_dead`, and freeing its cells touches registers of the ports
only. -/
theorem idleStreamDropsDatagrams : Obligations.IdleStreamDropsDatagrams := by
  refine ⟨?_, ?_⟩
  · intro s p j i f k hidle
    exact ⟨s.admittedDgram p j i f k, s.admitFrame_ur p j i f k, rfl, rfl, by simp [State.admittedDgram, hidle]⟩
  · intro s p g rest hring hdead hn
    have hoff : R.CAP_S_IDLE_DROP g.stream < 0xC00000 := by
      unfold R.CAP_S_IDLE_DROP
      omega
    refine ⟨_, exec_datagramArrival_dead hring hdead, ?_, fun x hx hne => ?_, ?_, ?_⟩
    · rw [State.freeDgram_reg _ _ (.inl hoff), State.reg_count, State.setRing_reg]
      rfl
    · rw [State.freeDgram_reg _ _ (.inl (by omega)), State.reg_count_ne _ _ hne, State.setRing_reg]
    · rw [State.freeDgram_ur, State.count_ur]
      rfl
    · rw [State.freeDgram_cap, State.count_cap, State.setRing_cap]

end Sys2Proof.Proofs
end

section
/-! SUPPORT. A program detached (R68): what its removal leaves of the store and of the stream's registers; and the statement about it. -/

open Sys2Proof Sys2Proof.Machine Sys2Proof.Claim

namespace Sys2Proof.Machine

/-- A granule is free where no program of the store holds it. -/
theorem State.granFree_iff (s : State) (g : Nat) : s.granFree g = true ↔ ∀ p ∈ s.ur.progs, g < p.gran ∨ p.gran + p.grans ≤ g := by
  simp [State.granFree]

/-! ### The programs of the store replaced -/

/-- UEN.STORE brought up to date changes its two fields alone. -/
theorem State.onlyFields_updStore (s : State) : OnlyFields s s.updStore [F.UEN_STORE_FREE_GRAN, F.UEN_STORE_LARGEST_RUN] :=
  onlyFields_trans (s.onlyFields_setFld _ (by decide)) (State.onlyFields_setFld _ _ (by decide))

/-- The programs replaced bring UEN.STORE up to date. -/
theorem State.fieldsStand_setProgs (s : State) (l : List Prog) :
    FieldsStand s (s.setProgs l) [F.UEN_STORE_FREE_GRAN, F.UEN_STORE_LARGEST_RUN] :=
  fieldsStand_of_regs (s' := { s with ur := { s.ur with progs := l } }) rfl (State.onlyFields_updStore _).1

/-- Behind the registers only the list of programs is replaced. -/
theorem State.setProgs_rest (s : State) (l : List Prog) : { s.setProgs l with regs := s.regs } = { s with ur := { s.ur with progs := l } } :=
  (State.onlyFields_updStore { s with ur := { s.ur with progs := l } }).2

/-! ### The stream's registers of its program -/

/-- PROG_LOADED and the program's registers of stream `n` cleared. -/
def State.clearProg (s : State) (n : Nat) : State :=
  (s.setFld (F.CAP_S_STATUS_PROG_LOADED n) 0).setReg (R.CAP_S_PROG_INFO n) 0 |>.setReg (R.CAP_S_PROG_ID n) 0 |>.setReg (R.CAP_S_PROG_VER n) 0

/-- The four registers that tell of a program are four, and none is UEN.STORE. -/
theorem progRegs_ne (n : Nat) (hn : n < 64) :
    (R.CAP_S_STATUS n ≠ R.CAP_S_PROG_INFO n ∧ R.CAP_S_STATUS n ≠ R.CAP_S_PROG_ID n ∧ R.CAP_S_STATUS n ≠ R.CAP_S_PROG_VER n) ∧
    (R.CAP_S_PROG_INFO n ≠ R.CAP_S_PROG_ID n ∧ R.CAP_S_PROG_INFO n ≠ R.CAP_S_PROG_VER n ∧ R.CAP_S_PROG_ID n ≠ R.CAP_S_PROG_VER n) ∧
    R.CAP_S_STATUS n ≠ R.UEN_STORE ∧ R.CAP_S_PROG_INFO n ≠ R.UEN_STORE ∧ R.CAP_S_PROG_ID n ≠ R.UEN_STORE ∧
    R.CAP_S_PROG_VER n ≠ R.UEN_STORE := by
  unfold R.CAP_S_STATUS R.CAP_S_PROG_INFO R.CAP_S_PROG_ID R.CAP_S_PROG_VER R.UEN_STORE
  omega

/-- The registers cleared read 0. -/
theorem State.clearProg_reads (s : State) {n : Nat} (hn : n < 64) :
    (s.clearProg n).fld (F.CAP_S_STATUS_PROG_LOADED n) = 0 ∧ (s.clearProg n).reg (R.CAP_S_PROG_INFO n) = 0 ∧
    (s.clearProg n).reg (R.CAP_S_PROG_ID n) = 0 ∧ (s.clearProg n).reg (R.CAP_S_PROG_VER n) = 0 := by
  have hword : (F.CAP_S_STATUS_PROG_LOADED n).lo + (F.CAP_S_STATUS_PROG_LOADED n).len ≤ 64 := by simp [F.CAP_S_STATUS_PROG_LOADED]
  obtain ⟨⟨hinfo, hid, hver⟩, ⟨hinfoId, hinfoVer, hidVer⟩, -⟩ := progRegs_ne n hn
  unfold State.clearProg
  refine ⟨?_, ?_, ?_, State.reg_setReg _ _ _⟩
  · have hstand : ((((s.setFld (F.CAP_S_STATUS_PROG_LOADED n) 0).setReg (R.CAP_S_PROG_INFO n) 0).setReg (R.CAP_S_PROG_ID n) 0).setReg
        (R.CAP_S_PROG_VER n) 0).reg (R.CAP_S_STATUS n) = (s.setFld (F.CAP_S_STATUS_PROG_LOADED n) 0).reg (R.CAP_S_STATUS n) := by
      rw [State.reg_setReg_ne _ _ hver, State.reg_setReg_ne _ _ hid, State.reg_setReg_ne _ _ hinfo]
    rw [State.fld_of_reg hword hstand, State.fld_setFld _ _ hword, Nat.zero_mod]
  · rw [State.reg_setReg_ne _ _ hinfoVer, State.reg_setReg_ne _ _ hinfoId, State.reg_setReg]
  · rw [State.reg_setReg_ne _ _ hidVer, State.reg_setReg]

/-- Nothing else changes. -/
theorem State.onlyFields_clearProg (s : State) (n : Nat) :
    OnlyFields s (s.clearProg n) [F.CAP_S_STATUS_PROG_LOADED n, ⟨R.CAP_S_PROG_INFO n, 0, 64⟩, ⟨R.CAP_S_PROG_ID n, 0, 64⟩, ⟨R.CAP_S_PROG_VER n, 0, 64⟩] :=
  onlyFields_trans (onlyFields_trans (onlyFields_trans (s.onlyFields_setFld 0 (by simp [F.CAP_S_STATUS_PROG_LOADED]))
    (State.onlyFields_setReg _ _ 0)) (State.onlyFields_setReg _ _ 0)) (State.onlyFields_setReg _ _ 0)

/-! ### The command -/

theorem exec_detach_idle {s : State} {n : Nat} (hlive : s.live = true) (hn : n < 64) (hidle : s.strState n = 0) :
    exec (.detach n) s = .next ((s.clearProg n).setProgs (s.ur.progs.filter (fun p => p.stream ≠ some n))) := by
  have hothers : (fun p : Prog => decide (p.stream ≠ some n)) = fun p => p.stream != some n := by
    funext p
    simp [bne, beq_eq_decide]
  rw [hothers]
  change execDetach n s = _
  unfold execDetach
  rw [if_pos ⟨hlive, hn, hidle⟩]
  rfl

theorem exec_detach_busy {s : State} {n : Nat} (hbusy : s.strState n ≠ 0) : exec (.detach n) s = .next s := by
  change execDetach n s = _
  exact if_neg (fun h => hbusy h.2.2)

/-- The registers of the stream's program read 0 after a program is detached. -/
theorem State.detached_reads (s : State) (l : List Prog) {n : Nat} (hn : n < 64) :
    ((s.clearProg n).setProgs l).on (F.CAP_S_STATUS_PROG_LOADED n) = false ∧ ((s.clearProg n).setProgs l).reg (R.CAP_S_PROG_INFO n) = 0 ∧
    ((s.clearProg n).setProgs l).reg (R.CAP_S_PROG_ID n) = 0 ∧ ((s.clearProg n).setProgs l).reg (R.CAP_S_PROG_VER n) = 0 := by
  have hstand {x : Nat} (hx : x ≠ R.UEN_STORE) : ((s.clearProg n).setProgs l).reg x = (s.clearProg n).reg x :=
    reg_of_fieldsStand ((s.clearProg n).fieldsStand_setProgs l) (List.forall_mem_cons.mpr ⟨hx, List.forall_mem_singleton.mpr hx⟩)
  obtain ⟨-, -, hstatus, hinfo, hid, hver⟩ := progRegs_ne n hn
  obtain ⟨hloaded, hinfo0, hid0, hver0⟩ := s.clearProg_reads hn
  have hfld := (State.fld_of_reg (f := F.CAP_S_STATUS_PROG_LOADED n) (by simp [F.CAP_S_STATUS_PROG_LOADED]) (hstand hstatus)).trans hloaded
  exact ⟨by simp [State.on, hfld], (hstand hinfo).trans hinfo0, (hstand hid).trans hid0, (hstand hver).trans hver0⟩

/-- Where `c` differs from `s` in registers only and `u` from `c` in registers and in its list of programs, `u` differs from `s` in those. -/
theorem onlyProgs_of_steps {s c u : State} {l : List Prog} (hc : { c with regs := s.regs } = s)
    (hu : { u with regs := c.regs } = { c with ur := { c.ur with progs := l } }) :
    u.ur.progs = l ∧ { u with regs := s.regs, ur := { u.ur with progs := s.ur.progs } } = s :=
  ⟨(congrArg (fun v : State => v.ur.progs) hu :),
    (congrArg (fun v : State => { v with regs := s.regs, ur := { v.ur with progs := s.ur.progs } }) hu).trans
      (congrArg (fun v : State => { v with ur := { v.ur with progs := s.ur.progs } }) hc)⟩

/-- Behind the registers a detachment replaces the list of programs, and nothing else. -/
theorem State.detached_rest (s : State) (n : Nat) (l : List Prog) :
    ((s.clearProg n).setProgs l).ur.progs = l ∧
    { (s.clearProg n).setProgs l with regs := s.regs, ur := { ((s.clearProg n).setProgs l).ur with progs := s.ur.progs } } = s :=
  onlyProgs_of_steps (s.onlyFields_clearProg n).2 ((s.clearProg n).setProgs_rest l)

end Sys2Proof.Machine

namespace Sys2Proof.Proofs

/-- Settles O23: the registers are `State.detached_reads`, what lies behind them `State.detached_rest`. -/
theorem detachRemovesProgram : Obligations.DetachRemovesProgram := by
  refine ⟨?_, ?_⟩
  · intro s n hlive hn hidle
    obtain ⟨hloaded, hinfo, hid, hver⟩ := s.detached_reads (s.ur.progs.filter (fun p => p.stream ≠ some n)) hn
    obtain ⟨hprogs, hrest⟩ := s.detached_rest n (s.ur.progs.filter (fun p => p.stream ≠ some n))
    refine ⟨_, exec_detach_idle hlive hn hidle, hloaded, hinfo, hid, hver, hprogs, fun g hg => ?_, hrest,
      fieldsStand_trans (s.onlyFields_clearProg n).1 (State.fieldsStand_setProgs _ _)⟩
    rw [State.granFree_iff, hprogs]
    intro p hp
    obtain ⟨hmem, hother⟩ := List.mem_filter.mp hp
    exact hg p hmem (of_decide_eq_true hother)
  · intro s n hbusy
    exact exec_detach_busy hbusy

end Sys2Proof.Proofs
end

section
/-! SUPPORT. Outcomes that are accepted (R44, R77, R100): the hold, the drop reasons and the divert reservations; and the statement about them. -/

open Sys2Proof Sys2Proof.Machine Sys2Proof.Claim

namespace Sys2Proof.Machine

/-! ### The immediate, and the word that issues -/

/-- The immediate's low bits are those of the immediate as a number. -/
theorem Uw.imm_low (w : W64) {len : Nat} (h : len ≤ 32) : Uw.imm w 0 len = uimm w % 2 ^ len := by
  unfold Uw.imm bits uimm
  rw [Nat.pow_zero, Nat.div_one, Nat.mod_mod_of_dvd _ (Nat.pow_dvd_pow 2 h)]

/-- A word that issues and whose outcome is accepted: its thread waits for its side effects to be released. -/
theorem State.issue_accepted {s u : State} {t code cost : Nat} {th th' : Thread} {w : W64} {body : State → Thread → W64 → UOut}
    (h : Issues s t code cost th w) (hcost : Uw.cost w = cost) (hbody : body (s.count (R.UEN_ENG_SLOTS (t / 8)) cost) th w = .accept u th') :
    s.issue t code body = .next (u.setThread t (some { th' with accepted := true, slots := th.slots + cost })) := by
  obtain ⟨hth, rfl, hacc, hbad, hop, hfit⟩ := h
  rw [State.issue_ready hth hacc hbad hop (hcost ▸ hfit), hcost, hbody]
  rfl

/-- The slots counted at an issue leave the registers of the streams. -/
theorem State.countSlots_reg (s : State) (t cost : Nat) {x : Nat} (hx : x < 0x800000) : (s.count (R.UEN_ENG_SLOTS (t / 8)) cost).reg x = s.reg x :=
  State.reg_count_ne _ _ (by unfold R.UEN_ENG_SLOTS; omega)

/-- They leave the streams' fields too. -/
theorem State.countSlots_fld (s : State) (t cost : Nat) {f : Field} (hf : f.lo + f.len ≤ 64) (hoff : f.off < 0x800000) :
    (s.count (R.UEN_ENG_SLOTS (t / 8)) cost).fld f = s.fld f :=
  State.fld_of_reg hf (s.countSlots_reg t cost hoff)

@[simp] theorem State.str_count (s : State) (x k m : Nat) : (s.count x k).str m = s.str m := rfl

@[simp] theorem State.str_setThread (s : State) (t m : Nat) (v : Option Thread) : (s.setThread t v).str m = s.str m := rfl

/-! ### DROP -/

/-- A drop by the program of stream `n` with reason `r`, counted (R44). -/
def State.progDrop (s : State) (n r : Nat) : State :=
  (s.count (R.CAP_S_PROG_DROP n) 1).setStr n { (s.count (R.CAP_S_PROG_DROP n) 1).str n with
    drops := ((s.count (R.CAP_S_PROG_DROP n) 1).str n).drops.set 0 r ((((s.count (R.CAP_S_PROG_DROP n) 1).str n).drops.get 0 r + 1) % 2 ^ 64) }

/-- A drop counts in PROG_DROP and under its reason, and nowhere else. -/
theorem State.progDrop_effect (s : State) (n r : Nat) :
    (s.progDrop n r).reg (R.CAP_S_PROG_DROP n) = s.reg (R.CAP_S_PROG_DROP n) + 1 ∧
    ((s.progDrop n r).str n).drops.get 0 r = ((s.str n).drops.get 0 r + 1) % 2 ^ 64 ∧
    (∀ i, i ≠ r → ((s.progDrop n r).str n).drops.get 0 i = (s.str n).drops.get 0 i) ∧ ∀ m, m ≠ n → (s.progDrop n r).str m = s.str m := by
  unfold State.progDrop
  refine ⟨?_, ?_, fun i hi => ?_, fun m hm => ?_⟩
  · rw [State.setStr_reg, State.reg_count]
    rfl
  · rw [State.str_setStr, Tbl.get_set_self, State.str_count]
  · rw [State.str_setStr, Tbl.get_set_ne _ _ _ _ hi, State.str_count]
  · rw [State.str_setStr_ne _ _ _ hm, State.str_count]

theorem exec_uDrop_accepted {s : State} {t : Nat} {th : Thread} {w : W64} (h : Issues s t 0x79 1 th w) :
    exec (.uDrop t) s = .next (((s.count (R.UEN_ENG_SLOTS (t / 8)) 1).progDrop th.dgram.stream (uimm w % 256)).setThread t
      (some { th with accepted := true, slots := th.slots + 1 })) := by
  change execUDrop t s = _
  have hcost : Uw.cost w = 1 := by
    obtain ⟨-, -, -, -, hop, -⟩ := h
    simp [Uw.cost, hop]
  have hreason : Uw.imm w 0 8 = uimm w % 256 := Uw.imm_low w (by decide)
  refine State.issue_accepted (u := (s.count (R.UEN_ENG_SLOTS (t / 8)) 1).progDrop th.dgram.stream (uimm w % 256)) (th' := th) h hcost ?_
  rw [hreason]
  rfl

/-! ### DIVERT -/

/-- The entry that the next divert of stream `n` to queue `q` reserves (R100). -/
def State.nextDivEntry (s : State) (n q : Nat) (g : Dgram) (tag : W32) : DivEntry := { q := q, n := (s.str n).divRes.get 0 q, dgram := g, tag := tag }

/-- An entry of queue `q` of stream `n` reserved for a datagram, and counted (R100). -/
def State.reserveDiv (s : State) (n q : Nat) (g : Dgram) (tag : W32) : State :=
  (s.setStr n { s.str n with
    divRes := (s.str n).divRes.set 0 q (((s.str n).divRes.get 0 q + 1) % 2 ^ 32)
    divPend := (s.str n).divPend ++ [s.nextDivEntry n q g tag] }).count (R.CAP_S_DIVERTED n) 1

/-- A reservation takes the next number of its queue, waits to be written, and counts in DIVERTED. -/
theorem State.reserveDiv_effect (s : State) (n q : Nat) (g : Dgram) (tag : W32) :
    ((s.reserveDiv n q g tag).str n).divPend = (s.str n).divPend ++ [s.nextDivEntry n q g tag] ∧
    ((s.reserveDiv n q g tag).str n).divRes.get 0 q = ((s.str n).divRes.get 0 q + 1) % 2 ^ 32 ∧
    (s.reserveDiv n q g tag).reg (R.CAP_S_DIVERTED n) = s.reg (R.CAP_S_DIVERTED n) + 1 := by
  unfold State.reserveDiv
  refine ⟨?_, ?_, ?_⟩
  · rw [State.str_count, State.str_setStr]
  · rw [State.str_count, State.str_setStr, Tbl.get_set_self]
  · rw [State.reg_count, State.setStr_reg]
    rfl

theorem exec_uDivert_accepted {s : State} {t : Nat} {th : Thread} {w : W64} (h : Issues s t 0x7A 2 th w) (hn : th.dgram.stream < 64)
    (hen : bit (s.fld (F.CAP_S_CTRL_DIV_EN th.dgram.stream)) (uimm w % 4) = true) (hroom : s.divRoom th.dgram.stream (uimm w % 4) = true) :
    exec (.uDivert t) s = .next (((s.count (R.UEN_ENG_SLOTS (t / 8)) 2).reserveDiv th.dgram.stream (uimm w % 4) th.dgram
      ((th.u (Uw.a w)).setWidth 32)).setThread t (some { th with dgram := { th.dgram with cells := 0 }, accepted := true, slots := th.slots + 2 })) := by
  change execUDivert t s = _
  have hcost : Uw.cost w = 2 := by
    obtain ⟨-, -, -, -, hop, -⟩ := h
    simp [Uw.cost, hop]
  refine State.issue_accepted (th' := { th with dgram := { th.dgram with cells := 0 } }) h hcost ?_
  have hqueue : Uw.imm w 0 2 = uimm w % 4 := Uw.imm_low w (by decide)
  have hq : uimm w % 4 < 4 := Nat.mod_lt _ (by decide)
  have henSame : (s.count (R.UEN_ENG_SLOTS (t / 8)) 2).fld (F.CAP_S_CTRL_DIV_EN th.dgram.stream) = s.fld (F.CAP_S_CTRL_DIV_EN th.dgram.stream) :=
    s.countSlots_fld t 2 (by simp [F.CAP_S_CTRL_DIV_EN]) (by simp only [F.CAP_S_CTRL_DIV_EN, R.CAP_S_CTRL]; omega)
  have hroomSame : (s.count (R.UEN_ENG_SLOTS (t / 8)) 2).divRoom th.dgram.stream (uimm w % 4) = true := by
    have hhead := s.countSlots_fld t 2 (f := F.CAP_S_DIV_HEAD_HEAD th.dgram.stream (uimm w % 4)) (by simp [F.CAP_S_DIV_HEAD_HEAD])
      (by simp only [F.CAP_S_DIV_HEAD_HEAD, R.CAP_S_DIV_HEAD]; omega)
    have hlog := s.countSlots_fld t 2 (f := F.CAP_S_DIV_CFG_ENTRIES_LOG2 th.dgram.stream (uimm w % 4)) (by simp [F.CAP_S_DIV_CFG_ENTRIES_LOG2])
      (by simp only [F.CAP_S_DIV_CFG_ENTRIES_LOG2, R.CAP_S_DIV_CFG]; omega)
    rw [← hroom]
    unfold State.divRoom
    rw [hhead, hlog]
    rfl
  simp only [hqueue, henSame, hen, hroomSame, Bool.not_true, Bool.false_eq_true, if_false]
  rfl

/-! ### PLACE -/

/-- A pause check leaves the placement holds. -/
@[simp] theorem State.pauseCheck_holdUsed (s : State) (p j : Nat) : (s.pauseCheck p j).eth.holdUsed = s.eth.holdUsed := by
  unfold State.pauseCheck
  dsimp only
  split
  case isTrue => rfl
  case isFalse =>
    split <;> split
    · rfl
    · rfl
    · simp [State.sendXoff, State.sendPause, State.ethCause]
    · rfl

/-- Cells of a datagram's receive area move to the placement hold of its bank, and a placement of `len` bytes is numbered and counted (R77). -/
def State.stage (s : State) (g : Dgram) (cells len : Nat) : State :=
  ((({ s with ur := { s.ur with placeNo := s.ur.placeNo + 1 } }).takeHold (g.port / 2) cells).freeRecv g.port g.sub cells)
    |>.count (R.CAP_S_PLACED g.stream) 1 |>.count (R.CAP_S_PLACED_BYTES g.stream) len

/-- What staging leaves: the bank's hold has the cells, the stream's counters count, and the streams behind the registers stand. -/
theorem State.stage_effect (s : State) {g : Dgram} (cells len : Nat) (hn : g.stream < 64) :
    (s.stage g cells len).eth.holdUsed.get 0 (g.port / 2) = s.eth.holdUsed.get 0 (g.port / 2) + cells ∧
    (s.stage g cells len).reg (R.CAP_S_PLACED g.stream) = s.reg (R.CAP_S_PLACED g.stream) + 1 ∧
    (s.stage g cells len).reg (R.CAP_S_PLACED_BYTES g.stream) = s.reg (R.CAP_S_PLACED_BYTES g.stream) + BitVec.ofNat 64 len ∧
    (s.stage g cells len).cap = s.cap := by
  have hne : R.CAP_S_PLACED g.stream ≠ R.CAP_S_PLACED_BYTES g.stream := by
    unfold R.CAP_S_PLACED R.CAP_S_PLACED_BYTES
    omega
  have hplaced : OffPorts (R.CAP_S_PLACED g.stream) := .inl (by unfold R.CAP_S_PLACED; omega)
  have hbytes : OffPorts (R.CAP_S_PLACED_BYTES g.stream) := .inl (by unfold R.CAP_S_PLACED_BYTES; omega)
  unfold State.stage State.freeRecv
  refine ⟨?_, ?_, ?_, ?_⟩
  · simp [State.takeHold]
  · rw [State.reg_count_ne _ _ hne, State.reg_count, State.pauseCheck_reg _ _ _ hplaced]
    rfl
  · rw [State.reg_count, State.reg_count_ne _ _ hne.symm, State.pauseCheck_reg _ _ _ hbytes]
    rfl
  · simp

/-- The placement that PLACE makes of the `len` payload bytes of `g` from `skip` on (R77). -/
def State.newPlacement (s : State) (g : Dgram) (off len skip : Nat) : Placement :=
  { num := s.ur.placeNo, off := off, bytes := (g.payload.drop skip).take len, bank := g.port / 2, cells := cellSpan skip len, time := g.time }

/-- A placement accepted for an ordinary stream: staged, and at the end of the stream's hold. -/
def State.placeInHold (s : State) (g : Dgram) (off len skip : Nat) : State :=
  (s.stage g (cellSpan skip len) len).setStr g.stream { (s.stage g (cellSpan skip len) len).str g.stream with
    hold := ((s.stage g (cellSpan skip len) len).str g.stream).hold ++ [s.newPlacement g off len skip] }

/-- A placement accepted for an ordinary stream is the last of the stream's hold, has its cells in the bank's hold, and counts in PLACED and
PLACED_BYTES. -/
theorem State.placeInHold_effect (s : State) {g : Dgram} (off len skip : Nat) (hn : g.stream < 64) :
    ((s.placeInHold g off len skip).str g.stream).hold = (s.str g.stream).hold ++ [s.newPlacement g off len skip] ∧
    (s.placeInHold g off len skip).eth.holdUsed.get 0 (g.port / 2) = s.eth.holdUsed.get 0 (g.port / 2) + cellSpan skip len ∧
    (s.placeInHold g off len skip).reg (R.CAP_S_PLACED g.stream) = s.reg (R.CAP_S_PLACED g.stream) + 1 ∧
    (s.placeInHold g off len skip).reg (R.CAP_S_PLACED_BYTES g.stream) = s.reg (R.CAP_S_PLACED_BYTES g.stream) + BitVec.ofNat 64 len := by
  obtain ⟨hheld, hplaced, hbytes, hcap⟩ := s.stage_effect (cellSpan skip len) len hn
  unfold State.placeInHold
  rw [State.str_setStr, State.setStr_eth, State.setStr_reg, State.setStr_reg, State.str_congr hcap]
  exact ⟨rfl, hheld, hplaced, hbytes⟩

theorem exec_uPlace_ordinary {s : State} {t off len skip : Nat} {th : Thread} {w : W64} (h : Issues s t 0x78 2 th w) (hn : th.dgram.stream < 64)
    (hoff : off = (th.u (Uw.a w)).toNat) (hlen : len = (th.u (Uw.b w)).toNat) (hskip : skip = uimm w % 65536) (hpos : len ≠ 0)
    (hpayload : skip + len ≤ th.dgram.payload.length) (hwin : off + len ≤ s.fld (F.CAP_S_WIN_WIN_EXT th.dgram.stream) * 1048576)
    (hroom : s.eth.holdUsed.get 0 (th.dgram.port / 2) + cellSpan skip len ≤ 16384) (hprov : s.prov th.dgram.stream = 0) :
    exec (.uPlace t) s = .next (((s.count (R.UEN_ENG_SLOTS (t / 8)) 2).placeInHold th.dgram off len skip).setThread t
      (some { th with placeId := some s.ur.placeNo, dgram := { th.dgram with cells := th.dgram.cells - cellSpan skip len }, accepted := true,
                      slots := th.slots + 2 })) := by
  change execUPlace t s = _
  have hcost : Uw.cost w = 2 := by
    obtain ⟨-, -, -, -, hop, -⟩ := h
    simp [Uw.cost, hop]
  refine State.issue_accepted (th' := { th with
    placeId := some s.ur.placeNo
    dgram := { th.dgram with cells := th.dgram.cells - cellSpan skip len } }) h hcost ?_
  have himm : Uw.imm w 0 16 = skip := (Uw.imm_low w (by decide)).trans hskip.symm
  have hwinSame := s.countSlots_fld t 2 (f := F.CAP_S_WIN_WIN_EXT th.dgram.stream) (by simp [F.CAP_S_WIN_WIN_EXT])
    (by simp only [F.CAP_S_WIN_WIN_EXT, R.CAP_S_WIN]; omega)
  have hprovSame : (s.count (R.UEN_ENG_SLOTS (t / 8)) 2).prov th.dgram.stream = 0 :=
    (s.countSlots_fld t 2 (by simp [F.CAP_S_CTRL_PROV]) (by simp only [F.CAP_S_CTRL_PROV, R.CAP_S_CTRL]; omega)).trans hprov
  have hfit : ¬(len = 0 ∨ th.dgram.payload.length < skip + len) := by omega
  have hin : ¬s.fld (F.CAP_S_WIN_WIN_EXT th.dgram.stream) * extBytes < off + len := Nat.not_lt.mpr hwin
  have hcells : ¬holdCells < (s.count (R.UEN_ENG_SLOTS (t / 8)) 2).eth.holdUsed.get 0 (th.dgram.port / 2) + cellSpan skip len := Nat.not_lt.mpr hroom
  have hord : ¬((s.count (R.UEN_ENG_SLOTS (t / 8)) 2).prov th.dgram.stream ≠ 0 ∧ (s.count (R.UEN_ENG_SLOTS (t / 8)) 2).strState th.dgram.stream = 1) :=
    fun h => h.1 hprovSame
  simp only [himm, ← hoff, ← hlen, hwinSame]
  rw [if_neg hfit, if_neg hin, if_neg hcells, if_neg hord]
  rfl

end Sys2Proof.Machine

namespace Sys2Proof.Proofs

/-- Settles O18: the outcomes are `exec_uPlace_ordinary`, `exec_uDrop_accepted` and `exec_uDivert_accepted`, their effects `State.placeInHold_effect`,
`State.progDrop_effect` and `State.reserveDiv_effect`; the slots
counted at the issue lie in no register of a stream. -/
theorem uretteOutcomesAccepted : Obligations.UretteOutcomesAccepted := by
  refine ⟨?_, ?_, ?_⟩
  · rintro s t th w n off len skip bank cells h rfl hn hoff hlen hskip hpos hpayload hwin rfl rfl hroom hprov
    obtain ⟨hhold, hheld, hplaced, hbytes⟩ := (s.count (R.UEN_ENG_SLOTS (t / 8)) 2).placeInHold_effect off len skip hn
    rw [s.countSlots_reg t 2 (by unfold R.CAP_S_PLACED; omega)] at hplaced
    rw [s.countSlots_reg t 2 (by unfold R.CAP_S_PLACED_BYTES; omega)] at hbytes
    rw [State.str_count] at hhold
    rw [State.count_eth] at hheld
    refine ⟨_, _, (s.count (R.UEN_ENG_SLOTS (t / 8)) 2).newPlacement th.dgram off len skip,
      exec_uPlace_ordinary h hn hoff hlen hskip hpos hpayload hwin hroom hprov, State.thread_setThread _ _ _, rfl, rfl, rfl, ?_, rfl,
      rfl, rfl, rfl, ?_, ?_, ?_⟩
    · rw [State.str_setThread, hhold]
    · rw [State.setThread_eth, hheld]
      rfl
    · rw [State.setThread_reg, hplaced]
    · rw [State.setThread_reg, hbytes]
  · rintro s t th w n h rfl hn ht
    obtain ⟨hcount, hreason, hreasons, hstreams⟩ :=
      (s.count (R.UEN_ENG_SLOTS (t / 8)) 1).progDrop_effect th.dgram.stream (uimm w % 256)
    rw [s.countSlots_reg t 1 (by unfold R.CAP_S_PROG_DROP; omega)] at hcount
    rw [State.str_count] at hreason
    refine ⟨_, exec_uDrop_accepted h, State.thread_setThread _ _ _, ?_, ?_, fun r hr => ?_, fun m hm => ?_, ?_⟩
    · rw [State.setThread_reg, hcount]
    · rw [State.str_setThread, hreason]
    · rw [State.str_setThread, hreasons r hr, State.str_count]
    · rw [State.str_setThread, hstreams m hm, State.str_count]
    · simp [State.progDrop]
  · rintro s t th w n q h rfl hn ht rfl hen hroom
    obtain ⟨hpend, hres, hcount⟩ := (s.count (R.UEN_ENG_SLOTS (t / 8)) 2).reserveDiv_effect th.dgram.stream (uimm w % 4) th.dgram
      ((th.u (Uw.a w)).setWidth 32)
    rw [s.countSlots_reg t 2 (by unfold R.CAP_S_DIVERTED; omega)] at hcount
    rw [State.str_count] at hpend hres
    refine ⟨_, _, (s.count (R.UEN_ENG_SLOTS (t / 8)) 2).nextDivEntry th.dgram.stream (uimm w % 4) th.dgram ((th.u (Uw.a w)).setWidth 32),
      exec_uDivert_accepted h hn hen hroom, State.thread_setThread _ _ _, rfl, rfl, rfl, ?_, rfl, rfl, rfl, rfl, ?_, ?_⟩
    · rw [State.str_setThread, hpend]
    · rw [State.str_setThread, hres]
    · rw [State.setThread_reg, hcount]

end Sys2Proof.Proofs
end

section
/-! SUPPORT. TRIGGER of the current span (R44, R122): the entry it appends, and a state of the model in which counting the slots of the issue
changes what the current span is called; and the statement about side effects. -/

open Sys2Proof Sys2Proof.Machine Sys2Proof.Claim

namespace Sys2Proof.Machine

/-! ### The word that issues -/

/-- A word that issues and goes on: its thread takes the next word, with the slots counted. -/
theorem State.issue_goesOn {s u : State} {t code cost : Nat} {th th' : Thread} {w : W64} {body : State → Thread → W64 → UOut}
    (h : Issues s t code cost th w) (hcost : Uw.cost w = cost) (hbody : body (s.count (R.UEN_ENG_SLOTS (t / 8)) cost) th w = .go u th') :
    s.issue t code body = .next (u.setThread t (some { th'.goOn with slots := th.slots + cost })) := by
  obtain ⟨hth, rfl, hacc, hbad, hop, hfit⟩ := h
  rw [State.issue_ready hth hacc hbad hop (hcost ▸ hfit), hcost, hbody]
  rfl

/-- An entry joins a queue that holds fewer than 8. -/
theorem enqueue_room {s : State} {th : Thread} (e : SideEff) (h : th.queue.length < 8) :
    enqueue s th e = .go s { th with queue := th.queue ++ [e] } :=
  if_neg (Nat.not_le.mpr h)

/-- The entry of a TRIGGER that names the current span of stream `n`, as the word `w` makes it (R122). -/
def State.currentTrigger (s : State) (n : Nat) (w : W64) : SideEff := .trigger ((s.curSpan n).map s.spHandle) (Uw.m w == 0) true

/-- TRIGGER of a provisional stream's current span reads it in the state in which the slots of the issue are already counted. -/
theorem exec_uTrigger_current {s : State} {t : Nat} {th : Thread} {w : W64} (h : Issues s t 0x70 1 th w) (hroom : th.queue.length < 8)
    (hn : th.dgram.stream < 64) (hprov : s.prov th.dgram.stream ≠ 0) (hcur : Uw.f w 0 = false) :
    exec (.uTrigger t) s = .next ((s.count (R.UEN_ENG_SLOTS (t / 8)) 1).setThread t (some
      { ({ th with queue := th.queue ++ [(s.count (R.UEN_ENG_SLOTS (t / 8)) 1).currentTrigger th.dgram.stream w] } : Thread).goOn with
        slots := th.slots + 1 })) := by
  change execUTrigger t s = _
  have hcost : Uw.cost w = 1 := by
    obtain ⟨-, -, -, -, hop, -⟩ := h
    simp [Uw.cost, hop]
  refine State.issue_goesOn h hcost ?_
  have hprovSame : (s.count (R.UEN_ENG_SLOTS (t / 8)) 1).prov th.dgram.stream = s.prov th.dgram.stream :=
    s.countSlots_fld t 1 (by simp [F.CAP_S_CTRL_PROV]) (by simp only [F.CAP_S_CTRL_PROV, R.CAP_S_CTRL]; omega)
  simp only [hprovSame, hprov, hcur, if_false, Bool.false_eq_true]
  exact enqueue_room _ hroom

/-- Where every span lies in one of the 4,096 descriptors, the slots counted leave the entry as it was before the issue. -/
theorem State.currentTrigger_countSlots {s : State} (hspans : ∀ k ∈ s.spansUsed, k < 4096) (t cost n : Nat) (w : W64) :
    (s.count (R.UEN_ENG_SLOTS (t / 8)) cost).currentTrigger n w = s.currentTrigger n w := by
  have hfld {k lo len : Nat} (hk : k ∈ s.spansUsed) (hf : lo + len ≤ 64) :
      (s.count (R.UEN_ENG_SLOTS (t / 8)) cost).fld ⟨R.CAP_SP k + 56, lo, len⟩ = s.fld ⟨R.CAP_SP k + 56, lo, len⟩ := by
    have := hspans k hk
    exact s.countSlots_fld t cost hf (by simp only [R.CAP_SP]; omega)
  have hstr : (s.count (R.UEN_ENG_SLOTS (t / 8)) cost).strSpans n = s.strSpans n :=
    List.filter_congr fun k hk => congrArg (· == n) (hfld hk (by decide))
  have hcur : (s.count (R.UEN_ENG_SLOTS (t / 8)) cost).curSpan n = s.curSpan n := by
    unfold State.curSpan
    rw [hstr]
    exact List.find?_congr fun k hk => congrArg (· == 1) (hfld (List.mem_of_mem_filter hk) (by decide))
  unfold State.currentTrigger
  rw [hcur]
  refine congrArg (SideEff.trigger · (Uw.m w == 0) true) (Option.map_congr fun k hk => ?_)
  exact congrArg (· * 4096 + k) (hfld (List.mem_of_mem_filter (List.mem_of_find?_eq_some hk)) (by decide))

/-! ### A descriptor past the last of 4,096 -/

/-- TRIGGER with m = 1 and f[0] = 0. -/
def triggerWord : W64 := 0x7000001000000000#64

/-- A thread of stream 5 that stands at the first word of the program at granule 1. -/
def triggerThread : Thread where
  dgram := { stream := 5, filt := 2, port := 1, sub := 0, time := 7, macsec := false, ipv6 := false, payload := [0], cells := 1 }
  base := 64
  len := 4
  budget := 256

/-- Thread 56 stands at a TRIGGER of the provisional stream 5, whose current span is listed under the descriptor number 57,350. The registers of
such a descriptor would end in the slot counter of engine 7, 8001B8h, which reads Filling, stream 5 and generation 0, with the low bits full. -/
def strayDescriptor : State :=
  { State.reset with
    regs := [(R.CAP_S_CTRL 5, 0x10000000#64), (R.UEN_ENG_SLOTS 7, 0x1000005000000fff#64)]
    ur := { threads := [(56, some triggerThread)], store := [(64, triggerWord)] }
    cap := { spans := [(57350, some {})] } }

theorem strayDescriptor_issues : Issues strayDescriptor 56 0x70 1 triggerThread triggerWord := by decide

/-- Before the issue the current span has generation 0. -/
theorem strayDescriptor_handle : (strayDescriptor.curSpan 5).map strayDescriptor.spHandle = some 57350 := by decide

/-- One slot more carries into its generation. -/
theorem strayDescriptor_counted_handle :
    ((strayDescriptor.count (R.UEN_ENG_SLOTS 7) 1).curSpan 5).map (strayDescriptor.count (R.UEN_ENG_SLOTS 7) 1).spHandle = some 61446 := by
  decide

end Sys2Proof.Machine

namespace Sys2Proof.Proofs

/-- Refutes O17, in its clause on TRIGGER. The statement speaks of every state and does not bound the descriptors in use by 4,096: in
`strayDescriptor` the current span's descriptor lies on a slot counter, and the handle recorded is the one after the count
(`strayDescriptor_counted_handle`), not the one before (`strayDescriptor_handle`). Descriptors below 4,096 give no such counterexample
(`State.currentTrigger_countSlots`). -/
theorem not_uretteSideEffectsQueue : ¬ Obligations.UretteSideEffectsQueue := by
  unfold Obligations.UretteSideEffectsQueue
  rintro ⟨-, -, -, htrigger, -⟩
  have hcur : Uw.f triggerWord 0 = false := by decide
  have hprov : strayDescriptor.prov 5 ≠ 0 := by decide
  obtain ⟨u, hexec, -, hthread⟩ := htrigger strayDescriptor 56 triggerThread triggerWord strayDescriptor_issues (by decide) rfl hprov hcur (by decide)
  rw [exec_uTrigger_current strayDescriptor_issues (by decide) (by decide) hprov hcur] at hexec
  cases hexec
  rw [State.thread_setThread] at hthread
  have hhandle : ((strayDescriptor.count (R.UEN_ENG_SLOTS 7) 1).curSpan 5).map (strayDescriptor.count (R.UEN_ENG_SLOTS 7) 1).spHandle =
      (strayDescriptor.curSpan 5).map strayDescriptor.spHandle := by
    simpa [State.currentTrigger, beq_eq_decide, triggerThread] using congrArg (Option.map Thread.queue) hthread
  rw [strayDescriptor_counted_handle, strayDescriptor_handle] at hhandle
  exact absurd hhandle (by decide)

end Sys2Proof.Proofs
end

section
/-! SUPPORT. A span returned to Free (R113, R117): what its descriptor leaves, and when no placement waits for it; and the statement about it. -/

open Sys2Proof Sys2Proof.Machine Sys2Proof.Claim

namespace Sys2Proof.Machine

/-! ### What stands behind the registers when a span is replaced -/

/-- The spans depend on what lies behind the capture registers alone. -/
theorem State.span_congr {s u : State} (h : u.cap = s.cap) (j : Nat) : u.span j = s.span j := by
  unfold State.span
  rw [h]

/-- A span replaced changes no other span, and nothing else behind registers. -/
theorem State.onlySpan_setSpan (s : State) (k : Nat) (v : Option SpanX) : OnlySpan s (s.setSpan k v) k :=
  ⟨fun _ hj => s.span_setSpan_ne k v hj, rfl⟩

/-- Register fields changed after a span add nothing to what may have changed behind registers. -/
theorem onlySpan_then_fields {s u v : State} {fs : List Field} {k : Nat} (h : OnlySpan s u k) (hv : OnlyFields u v fs) : OnlySpan s v k := by
  have hcap := cap_of_onlyFields hv
  refine ⟨fun j hj => (State.span_congr hcap j).trans (h.1 j hj), ?_⟩
  rw [hcap]
  exact (congrArg (fun w : State => { w with regs := s.regs, cap := { u.cap with spans := s.cap.spans } }) hv.2).trans h.2

/-! ### The descriptor -/

/-- Descriptor `k` returned to Free and counted in FREE_DESC, before any placement opens a span with it. -/
def State.returnDesc (s : State) (k : Nat) : State :=
  ((s.setSpan k none).setFld (F.CAP_SP_STATE k) 0).addFld F.CAP_SPAN_FREE_FREE_DESC 1

theorem spState_in_word (k : Nat) : (F.CAP_SP_STATE k).lo + (F.CAP_SP_STATE k).len ≤ 64 := by
  change 60 + 4 ≤ 64
  decide

theorem freeDesc_in_word : F.CAP_SPAN_FREE_FREE_DESC.lo + F.CAP_SPAN_FREE_FREE_DESC.len ≤ 64 := by decide

/-- No descriptor's state lies in CAP.SPAN_FREE. -/
theorem spState_off_ne_freeDesc (k : Nat) : (F.CAP_SP_STATE k).off ≠ F.CAP_SPAN_FREE_FREE_DESC.off := by
  simp only [F.CAP_SP_STATE, F.CAP_SPAN_FREE_FREE_DESC, R.CAP_SP, R.CAP_SPAN_FREE]
  omega

/-- Of the registers a returned descriptor changes its state and the count of Free ones. -/
theorem State.onlyFields_returnDesc (s : State) (k : Nat) :
    OnlyFields (s.setSpan k none) (s.returnDesc k) [F.CAP_SP_STATE k, F.CAP_SPAN_FREE_FREE_DESC] :=
  onlyFields_trans (State.onlyFields_setFld _ 0 (spState_in_word k)) (State.onlyFields_setFld _ _ freeDesc_in_word)

/-- A returned descriptor reads Free, holds nothing, and is counted. -/
theorem State.returnDesc_effect (s : State) (k : Nat) :
    (s.returnDesc k).spState k = 0 ∧ (s.returnDesc k).span k = none ∧
    (s.returnDesc k).fld F.CAP_SPAN_FREE_FREE_DESC = (s.fld F.CAP_SPAN_FREE_FREE_DESC + 1) % 8192 := by
  have hne := spState_off_ne_freeDesc k
  unfold State.returnDesc State.addFld
  refine ⟨?_, ?_, ?_⟩
  · change State.fld _ _ = 0
    rw [State.fld_setFld_ne _ _ freeDesc_in_word (spState_in_word k) hne, State.fld_setFld _ _ (spState_in_word k), Nat.zero_mod]
  · rw [State.span_congr (State.setFld_cap _ _ _), State.span_congr (State.setFld_cap _ _ _), State.span_setSpan]
  · rw [State.fld_setFld _ _ freeDesc_in_word, State.fld_setFld_ne _ _ (spState_in_word k) freeDesc_in_word hne.symm]
    rfl

/-- Nothing but the span and those two fields changes. -/
theorem State.returnDesc_frame (s : State) (k : Nat) :
    FieldsStand s (s.returnDesc k) [F.CAP_SP_STATE k, F.CAP_SPAN_FREE_FREE_DESC] ∧ OnlySpan s (s.returnDesc k) k :=
  ⟨fieldsStand_of_regs (State.setSpan_regs s k none) (s.onlyFields_returnDesc k).1,
    onlySpan_then_fields (s.onlySpan_setSpan k none) (s.onlyFields_returnDesc k)⟩

/-! ### Placements that wait (R113) -/

/-- Where no placement in any hold waits for a descriptor, no stream does. -/
theorem State.waitingStreams_eq_nil {s : State} (h : ∀ e ∈ s.cap.streams, ∀ p ∈ e.2.hold, p.waited = false) : s.waitingStreams = [] := by
  have hnone : s.cap.streams.filterMap (fun e => (e.2.hold.find? (fun p => p.waited)).map (fun p => (p.num, e.1))) = [] := by
    refine List.filterMap_eq_nil_iff.mpr fun e he => ?_
    rw [List.find?_eq_none.mpr fun p hp => by simp [h e he p hp], Option.map_none]
  unfold State.waitingStreams
  rw [hnone]
  rfl

@[simp] theorem State.waitingStreams_returnDesc (s : State) (k : Nat) : (s.returnDesc k).waitingStreams = s.waitingStreams := by
  simp [State.waitingStreams, State.returnDesc, State.setSpan]

/-! ### The command -/

theorem exec_spanFree_decided {s : State} {k : Nat} (hlive : s.live = true) (hk : k < 4096) (hst : s.spState k = 5 ∨ s.spState k = 7) :
    exec (.spanFree k) s = .next ((s.returnDesc k).over (s.returnDesc k).waitingStreams State.retryWaits) := by
  change execSpanFree k s = _
  exact if_pos ⟨hlive, hk, hst⟩

theorem exec_spanFree_other {s : State} {k : Nat} (h5 : s.spState k ≠ 5) (h7 : s.spState k ≠ 7) : exec (.spanFree k) s = .next s := by
  change execSpanFree k s = _
  exact if_neg fun ⟨_, _, hst⟩ => hst.elim h5 h7

end Sys2Proof.Machine

namespace Sys2Proof.Proofs

/-- Settles O33: the descriptor returned is `State.returnDesc_effect` and `State.returnDesc_frame`, and with no placement waiting the streams
that open spans next are none (`State.waitingStreams_eq_nil`). -/
theorem spanFreeRule : Obligations.SpanFreeRule := by
  refine ⟨?_, ?_⟩
  · intro s k hlive hk hst
    have hexec := exec_spanFree_decided hlive hk hst
    obtain ⟨hstate, hspan, hcount⟩ := s.returnDesc_effect k
    obtain ⟨hfields, honly⟩ := s.returnDesc_frame k
    refine ⟨s.returnDesc k, hexec, hstate, hspan, hcount, hfields, honly, fun hwaits => ?_⟩
    rw [hexec, State.waitingStreams_returnDesc, State.waitingStreams_eq_nil hwaits]
    rfl
  · intro s k h5 h7
    exact exec_spanFree_other h5 h7

end Sys2Proof.Proofs
end
